-- ==== Sys2Proof/Word.lean ====
section
/-!
DEFINITION. The word types of the OX1600 (R8): bit 0 is the least significant bit of every value. Nothing here
computes; helpers that a test could show wrong stand in `Sys2Proof/Decode.lean` and `Sys2Proof/Machine/`.
-/

namespace Sys2Proof

/-- A byte of memory (R8). -/
abbrev Byte := BitVec 8

/-- One g-register (R148). -/
abbrev Word := BitVec 32

/-- An instruction word (R56), a register pair read as one value (R83), a device address. -/
abbrev DWord := BitVec 64

/-- A capability (R212) or a barrier object (R199). -/
abbrev QWord := BitVec 128

end Sys2Proof
end

