-- ==== Sys2Proof/Syntax.lean ====
section
/-!
DEFINITION. The syntax of the OX1600's steps: the format records of R57 to R66, the names of threads, parcels and
launches that the device's own steps carry, and `Instr`, one constructor per row of spec/opcode_table.json. The first
177 constructors are the Gitric instructions; `unassignedOpcode` is the word R78 check 1 refuses; the rest are the
device's own steps (the file 95_what_each_step_holds of the spec), which have no encoding.
-/

namespace Sys2Proof

/-- The guard of an instruction (R38, R57). -/
inductive Guard where
  | always
  | onTrue (p : BitVec 4)
  | onFalse (p : BitVec 4)
  deriving DecidableEq, Repr

/-- The sixteen type codes of R68. -/
inductive TypeCode where
  | i8 | i16 | i32 | i64 | n8 | n16 | n32 | n64
  | f64 | f32 | f16 | bf16 | e4m3 | e5m2 | mx4 | qn4
  deriving DecidableEq, Repr

/-- Format R (R58). -/
structure RWord where
  guard : Guard
  d : BitVec 9
  a : BitVec 9
  b : BitVec 9
  c : BitVec 9
  retain : BitVec 2
  za : Bool
  zb : Bool
  zc : Bool
  ty : TypeCode
  v : BitVec 3
  deriving DecidableEq, Repr

/-- Format I, one-word form (R61). -/
structure IWord where
  guard : Guard
  d : BitVec 9
  a : BitVec 9
  imm21 : BitVec 21
  ty : TypeCode
  v : BitVec 3
  deriving DecidableEq, Repr

/-- Format I, L form (R62): the second word stands in `imm64`. -/
structure LWord where
  guard : Guard
  d : BitVec 9
  a : BitVec 9
  ty : TypeCode
  v : BitVec 3
  imm64 : BitVec 64
  deriving DecidableEq, Repr

/-- Format M (R63). -/
structure MWord where
  guard : Guard
  d : BitVec 9
  base : BitVec 9
  s : BitVec 9
  off16 : BitVec 16
  order : BitVec 2
  width : BitVec 3
  deriving DecidableEq, Repr

/-- Format B (R64). -/
structure BWord where
  guard : Guard
  off32 : BitVec 32
  hint : BitVec 2
  deriving DecidableEq, Repr

/-- Format E (R65). -/
structure EWord where
  guard : Guard
  p : BitVec 9
  x : BitVec 9
  y : BitVec 9
  bar : BitVec 9
  q : BitVec 4
  f : Bool
  mod : BitVec 7
  deriving DecidableEq, Repr

/-- Format S, layout S1 (R66). -/
structure SWord where
  guard : Guard
  d : BitVec 9
  a : BitVec 9
  n12 : BitVec 12
  za : Bool
  mod : BitVec 7
  deriving DecidableEq, Repr

/-- Format S, layout S-count of WAITCNT (R66). -/
structure CWord where
  guard : Guard
  loads : BitVec 6
  stores : BitVec 6
  copies : BitVec 6
  matrix : BitVec 6
  sets : BitVec 6
  circle : BitVec 6
  deriving DecidableEq, Repr

/-- The name of a launch: its context and its launch id in that context (R383). -/
structure LKey where
  ctx : Nat
  launch : Nat
  deriving DecidableEq, Repr

/-- The name of a parcel: its launch and `%pix` (R415). -/
structure PKey where
  ctx : Nat
  launch : Nat
  pix : Nat
  deriving DecidableEq, Repr

/-- The name of a thread: LAUNCH, PIX, TIX (R415), with the context. -/
structure TRef where
  ctx : Nat
  launch : Nat
  pix : Nat
  tix : Nat
  deriving DecidableEq, Repr

/-- The name of an object: its context and its object id (R217). -/
structure OKey where
  ctx : Nat
  obj : Nat
  deriving DecidableEq, Repr

/-- The four places an extent can lie in (R217 TIER). -/
inductive Tier where
  | hbm | lp | weight | link
  deriving DecidableEq, Repr

/-- What a system-software write by Thefezil changes (R372, R374, R406, R429): fields with no behaviour of their own. -/
inductive RegTarget where
  | ctxDescriptor (ctx : Nat)
  | faultRingRidx (ctx : Nat)
  | msixEntry (ctx vector : Nat)
  | deviceWord (addr : Nat)
  deriving DecidableEq, Repr

/-- The result a self-test gives (R426): the row or lane passed, or it failed and a spare row is left or is not. -/
inductive TestResult where
  | passed | failedSpared | failedCounted
  deriving DecidableEq, Repr

/-- The unit that an integrity event concerns, by the UNIT codes 0 to 5 of R426. -/
inductive UnitKind where
  | hbmRow | lpRow | weightStore | hostLane | peerLane | stationMaster
  deriving DecidableEq, Repr

/-- The steps of the OX1600. -/
inductive Instr where
  -- block 0x0: integer (R155)
  | add (x : RWord) | addImm (x : IWord) | addLong (x : LWord)
  | sub (x : RWord) | subImm (x : IWord) | subLong (x : LWord)
  | mul (x : RWord) | mulImm (x : IWord) | mulhi (x : RWord) | mad (x : RWord)
  | div (x : RWord) | rem (x : RWord) | neg (x : RWord) | abs (x : RWord)
  | min (x : RWord) | minImm (x : IWord) | max (x : RWord) | maxImm (x : IWord)
  | clamp (x : RWord) | addc (x : RWord) | subb (x : RWord) | sad (x : RWord)
  -- block 0x1: logic and bit (R159)
  | and (x : RWord) | andImm (x : IWord) | andLong (x : LWord)
  | or (x : RWord) | orImm (x : IWord) | orLong (x : LWord)
  | xor (x : RWord) | xorImm (x : IWord) | xorLong (x : LWord)
  | not (x : RWord) | andn (x : RWord) | andnImm (x : IWord)
  | shl (x : RWord) | shlImm (x : IWord) | shr (x : RWord) | shrImm (x : IWord)
  | sar (x : RWord) | sarImm (x : IWord) | rot (x : RWord) | rotImm (x : IWord)
  | bfx (x : RWord) | bfi (x : RWord) | popc (x : RWord) | clz (x : RWord) | ctz (x : RWord)
  | brev (x : RWord) | perm (x : RWord) | lut3 (x : RWord)
  -- block 0x2: floating point (R165)
  | fadd (x : RWord) | fsub (x : RWord) | fmul (x : RWord) | ffma (x : RWord)
  | fmin (x : RWord) | fmax (x : RWord) | fdiv (x : RWord) | fsqrt (x : RWord)
  | frcp (x : RWord) | frsq (x : RWord) | fexp2 (x : RWord) | flog2 (x : RWord)
  | fsin (x : RWord) | fcos (x : RWord) | fclass (x : RWord) | fscale (x : RWord)
  -- block 0x3: conversion and move (R170)
  | cvt (x : RWord) | pack (x : RWord) | unpack (x : RWord) | frnd (x : RWord)
  | mov (x : RWord) | sel (x : RWord) | movi (x : IWord) | moviLong (x : LWord)
  -- block 0x4: compare and predicate (R176)
  | cmp (x : RWord) | cmpImm (x : IWord) | cmpLong (x : LWord)
  | fcmp (x : RWord) | plop (x : RWord) | pmov (x : RWord)
  -- block 0x5: control and overlay (R130)
  | bra (x : BWord) | bru (x : BWord) | brx (x : RWord) | call (x : BWord) | callx (x : RWord)
  | ret (x : RWord) | exit (x : RWord) | yield (x : RWord) | nop (x : RWord) | ovld (x : EWord)
  -- block 0x6: scratchpad and atomics (R193, R197)
  | lds (x : MWord) | sts (x : MWord)
  | atomsAdd (x : MWord) | atomsMin (x : MWord) | atomsMax (x : MWord) | atomsAnd (x : MWord)
  | atomsOr (x : MWord) | atomsXor (x : MWord) | atomsSwap (x : MWord) | atomsCas (x : MWord)
  -- block 0x7: barriers, waits and fences (R203, R207, R208)
  | binit (x : MWord) | arrive (x : MWord) | expect (x : MWord) | waitph (x : MWord) | testph (x : MWord)
  | waitcnt (x : CWord) | fence (x : SWord)
  -- block 0x8: consists and collectives (R141)
  | cnew (x : RWord) | cfree (x : RWord) | join (x : RWord) | leave (x : RWord) | elect (x : RWord)
  | cbar (x : RWord) | cshfl (x : RWord) | creduce (x : RWord) | cscan (x : RWord) | cvote (x : RWord)
  -- block 0x9: copy and index engines (R234, R241)
  | cpin (x : EWord) | cpout (x : EWord) | cpxg (x : EWord) | cpxs (x : EWord) | cpmc (x : EWord)
  | cptx (x : EWord) | tlread (x : RWord) | tlwatch (x : EWord) | engq (x : EWord) | engres (x : EWord)
  -- block 0xA: capabilities (R215)
  | kld (x : MWord) | kst (x : MWord) | kderive (x : RWord) | krights (x : RWord) | kinfo (x : RWord)
  | kchk (x : RWord)
  -- block 0xB: operand buffer and matrix (R248, R255)
  | obres (x : RWord) | obfree (x : RWord) | obinfo (x : RWord) | mshape (x : EWord) | mma (x : EWord)
  | mmas (x : EWord) | mcommit (x : RWord) | mdrop (x : RWord)
  -- block 0xC: accumulator and Terminus (R271, R276)
  | azero (x : RWord) | amov (x : RWord) | aser (x : RWord) | achk (x : RWord) | term (x : EWord)
  | adrain (x : EWord) | ainfo (x : RWord) | aflag (x : RWord)
  -- block 0xD: sets (R317)
  | snew (x : RWord) | sfree (x : RWord) | sins (x : RWord) | sdel (x : RWord) | shas (x : RWord)
  | scard (x : RWord) | suni (x : RWord) | sint (x : RWord) | sdif (x : RWord) | scpy (x : RWord)
  | sldl (x : RWord) | sstl (x : RWord) | snext (x : RWord) | srep (x : RWord) | shint (x : RWord)
  | scost (x : RWord)
  -- block 0xE: Circle regions (R340)
  | crupd (x : EWord) | crrd (x : EWord) | crsnap (x : EWord) | crlap (x : EWord) | crinfo (x : EWord)
  -- block 0xF: system and trap (R410)
  | trap (x : SWord) | eret (x : SWord) | mfsr (x : SWord) | mtsr (x : SWord) | bkpt (x : SWord)
  | clkrd (x : SWord) | perfrd (x : SWord)
  -- the device's own steps inside a core
  | activeSetSwap (core : Nat)
  | scratchpadPass (core : Nat)
  | loadDeliver (t : TRef)
  | storePerform (t : TRef)
  | engineLanding (p : PKey) (k : Nat)
  | engineByteCount (p : PKey) (k : Nat)
  | engineResultWrite (t : TRef) (k : Nat)
  | yieldWake (core : Nat) (l : LKey)
  | overlayResident (core uid : Nat)
  | copyUnit (core uid : Nat)
  | copyComplete (core uid : Nat)
  | indexElement (core : Nat)
  | watchFire (core k : Nat)
  | routeWalk (die : Nat) (o : OKey) (unit : Nat)
  | invalidateAck (o : OKey) (agent : Nat)
  | migrationPromote (o : OKey) (unit newLoc : Nat)
  | matrixRequestStart (core : Nat)
  | matrixGroupStep (core : Nat)
  | matrixRequestComplete (core : Nat)
  | subnormalAssist (core : Nat)
  | assistTimeout (core : Nat)
  | drainComplete (core k : Nat)
  | setRequestExecute (core : Nat)
  | setBuildDone (l : LKey) (index : Nat)
  | indexBlockSupply (core : Nat) (l : LKey)
  -- Circle regions
  | circleAdmit (req : Nat)
  | admissionDecision (req : Nat)
  | spanAdmit (req : Nat)
  | spanPartAck (req slice : Nat)
  | circleRowPass (o : OKey) (slice : Nat)
  | lapEndReport (o : OKey) (slice : Nat)
  | lapDeclare (o : OKey)
  | lapStart (o : OKey) (slice : Nat)
  | circleReplyLand (k : Nat)
  -- queues, nodes, launches, parcels
  | nodeDispatch (ctx queue : Nat)
  | nodeLaunch (node : Nat)
  | nodeTransform (node : Nat)
  | nodeWeightFill (node : Nat)
  | nodeWait (node : Nat)
  | nodeWaitSatisfied (node : Nat)
  | nodeSignal (node : Nat)
  | nodeComplete (node : Nat)
  | parcelPlace (die : Nat)
  | scratchpadPrepare (p : PKey)
  | threadsStart (p : PKey)
  | stealRequest (die : Nat) (l : LKey)
  | stealReply (die : Nat) (l : LKey)
  | parcelFree (p : PKey)
  | launchEnd (l : LKey)
  | sliceExpiry (ctx : Nat)
  | deadlineMiss (l : LKey)
  | preempt (ctx : Nat)
  | haltComplete (ctx : Nat)
  | saveComplete (ctx : Nat) (written : Bool)
  | parcelRestore (die : Nat) (p : PKey)
  -- integrity and start-up
  | pcSample (ctx : Nat)
  | layerMapOut (stack layer : Nat)
  | heartbeat (die master : Nat)
  | masterTakeover (die : Nat)
  | fallbackRefresh (die : Nat)
  | coldStart (fails : Option (BitVec 8 × BitVec 8))
  | warmStart (fails : Option (BitVec 8 × BitVec 8))
  | unassignedOpcode (w : BitVec 64)
  | arithmeticResultWrite (t : TRef)
  | stationMasterRefresh (die : Nat)
  -- steps whose particulars stand in the command page (R371, R429) or that have none
  | contextEnable
  | contextReset
  | queueEnable
  | doorbell
  | queueStateClear
  | objectTableWrite
  | objectInvalidate
  | objectDelete
  | leaseFaultBack
  | leaseFaultRefuse
  | migrationDemote
  | hostLinkWrite
  | peerPortWrite
  | peerPortRead
  | linkDown
  | linkUp
  | linkLaneError
  | debugControlBlock
  | dump
  | registerWrite
  | selfTest
  | scrubRead
  | attestationSign
  | counterLatch
  | budgetWindow
  | wsRefreshWindow
  deriving DecidableEq, Repr

end Sys2Proof
end

