-- ==== Sys2Proof/Config.lean ====
section
/-!
DEFINITION. What the spec leaves open (R441, R249, R430), as constants with no body: nothing can be proved of their values.
The free values are applied to the counter `State.choice`, or to the name of what they stand for.
-/

namespace Sys2Proof

/-- What the outside last wrote: the Thefezil command page of a function (R371, R429), or what arrives over a link or
from the part (R224, R425, R426). A step of system software, host or link reads its particulars here. -/
structure Command where
  ctx : Nat := 0
  queue : Nat := 0
  obj : Nat := 0
  unit : Nat := 0
  tier : Tier := .hbm
  loc : Nat := 0
  off : Nat := 0
  len : Nat := 0
  link : Nat := 0
  lane : Nat := 0
  reg : Nat := 0
  launch : Nat := 0
  pix : Nat := 0
  on : Bool := false
  tail : Word := 0
  word : BitVec 512 := 0
  leaves : List (BitVec 128) := []
  bytes : List Byte := []
  good : Bool := false
  target : RegTarget := .deviceWord 0
  part : UnitKind := .hbmRow
  place : Nat := 0
  sub : Nat := 0
  row : Nat := 0
  result : TestResult := .passed
  deriving DecidableEq, Repr

/-- One thing the device or its surroundings may do next. The spec leaves the times of its steps open (R441), so which
of them comes next is data: `State.schedule`, and where that list is empty the free value `Config.nextMove`. -/
inductive Move where
  /-- The core's issue stage issues from its arithmetic (`true`) or its other class (R118). -/
  | issue (core : Nat) (arith : Bool)
  /-- A step of the device (a constructor of `Instr` from `activeSetSwap` on). -/
  | event (i : Instr)
  /-- The outside writes the command page (R429) or puts something on a link: `State.command` becomes this. -/
  | command (c : Command)
  /-- Time passes: ticks of `%tb` and cycles of every core's `%clk` (R2). -/
  | time (ticks cycles : Nat)
  /-- The reading of the word at an address, for the entries of a core that stand there, takes some cycles (R418, R419): the
  spec gives fetching no time. -/
  | fetchWait (core : Nat) (pc : Word) (cycles : Nat)
  /-- A memory read error (R424, R425): `kind` 0 corrected by ECC, 1 uncorrectable, 2 a check mismatch that the retry
  clears, 3 a check mismatch that the retry does not clear. `unit` numbers the tier's checked units: of 64 bytes in the weight store,
  which meets no mismatch, of 256 bytes elsewhere (R423). -/
  | memoryError (tier : Tier) (unit : Nat) (kind : Nat)
  /-- The device meets an uncorrectable error in a context's object table, lease table or journal, at a device address
  (R405). -/
  | tableError (ctx addr : Nat)
  /-- The host or a peer chip changes its own memory (R224). -/
  | remoteWrite (addr : Nat) (bytes : List Byte)
  /-- A die's power monitor attributes energy tokens to a context (R384). -/
  | energy (ctx tokens : Nat)
  /-- A firmware image of a type, 0 for stage 1, 1 for base dies, 2 for signal boxes, is put where a start finds it (R430). -/
  | flash (image : Nat) (bytes : List Byte)
  /-- The device is made: the public key that its images come with, the SHA-256 that its fuses hold, and the fuse counter of each
  image type (R430). -/
  | fuse (key hash : List Byte) (versions : List (Nat × Nat))
  /-- Nothing happens. -/
  | idle
  deriving DecidableEq, Repr, Inhabited

/-- DESIGN CHOICE (log entry 1): the move that comes next where the schedule is empty. -/
opaque Config.nextMove : Nat → Move

/-- A byte of an operand-buffer reservation that nothing has written since its OBRES (R249: undefined until written):
a free value for each reservation (its serial number) and offset (log entry 3). -/
opaque Config.undefinedByte : Nat → Nat → Byte

/-- A byte of a record of the ordered journal, whose layout the spec does not give (R291, R372): a free value for each record (its
serial number) and offset (log entry 56). -/
opaque Config.journalByte : Nat → Nat → Byte

/-- A byte of the image of a core in a save area, whose layout the spec does not give (R396): a free value for each save (its serial
number), core and offset (log entry 12). -/
opaque Config.imageByte : Nat → Nat → Nat → Byte

/-- The 48 bytes of the device's identity key (R7, R430, R431 step 12: the manual does not say how the key is derived): its secret
seed, its PRF key and its public seed, as a free value (log entry 4). -/
opaque Config.identityByte : Nat → Byte

/-- The 16 random bytes of a signer that the scheme of R7 takes for each signature: free values (log entry 4). -/
opaque Config.signatureRandom : Nat → Nat → Byte

/-- VALUE of the reply record of a Circle request that failed (R337, R347 give it no value): a free value for each request
(its serial number; log entry 27). -/
opaque Config.failedReplyValue : Nat → BitVec 64

/-- LAP of the reply record of a Circle request that no slice admitted (R337, R339): a free value for each request (log
entry 27). -/
opaque Config.failedReplyLap : Nat → BitVec 48

/-- What CRLAP and CRINFO write for an object that is no Circle region, and CRINFO.max before the first end-of-lap report
(R346): a free value for each instruction executed (log entry 27). -/
opaque Config.circleQuery : Nat → BitVec 64

/-- A field of an error record that the manual leaves without a value for its event (R426: SUB and ROW of a station master,
VERDICT where both station masters of a die have failed, CLASS of a lane error): a free value for each record (its number)
and field (log entry 28). -/
opaque Config.errorField : Nat → Nat → Nat

/-- The cause that the boot status word holds for a start that stops at a firmware image (R431 gives the causes no numbers): a
free value for each step (log entry 29). -/
opaque Config.bootCause : Nat → BitVec 8

/-- The boot status word of a device that is ready (R431 names no value; log entry 29). -/
opaque Config.readyStatus : BitVec 16

end Sys2Proof
end

