-- ==== Sys2Proof/Decode.lean ====
section
/-!
DEFINITION. Decoding of Gitric words (R56 to R80), total on any bits and refusing by the check of R78 that fails; for
every instruction the registers its fields name and how it uses them (R58 to R72 and the forms tables of the chapters);
and the encoder, written from the same formats. The steps of the device have no encoding.
-/

namespace Sys2Proof

/-! ### Type codes (R68) -/

/-- The type whose code is `b` (R68). -/
def TypeCode.ofBits (b : BitVec 4) : TypeCode :=
  match b.toNat with
  | 0 => .i8 | 1 => .i16 | 2 => .i32 | 3 => .i64 | 4 => .n8 | 5 => .n16 | 6 => .n32 | 7 => .n64
  | 8 => .f64 | 9 => .f32 | 10 => .f16 | 11 => .bf16 | 12 => .e4m3 | 13 => .e5m2 | 14 => .mx4 | _ => .qn4

/-- The code of a type (R68). -/
def TypeCode.code : TypeCode → BitVec 4
  | .i8 => 0 | .i16 => 1 | .i32 => 2 | .i64 => 3 | .n8 => 4 | .n16 => 5 | .n32 => 6 | .n64 => 7
  | .f64 => 8 | .f32 => 9 | .f16 => 10 | .bf16 => 11 | .e4m3 => 12 | .e5m2 => 13 | .mx4 => 14 | .qn4 => 15

/-- The width of a type in bits (R68). -/
def TypeCode.bits : TypeCode → Nat
  | .i8 | .n8 | .e4m3 | .e5m2 => 8
  | .i16 | .n16 | .f16 | .bf16 => 16
  | .i32 | .n32 | .f32 => 32
  | .i64 | .n64 | .f64 => 64
  | .mx4 | .qn4 => 4

/-- Codes 0000 to 0111 (R68). -/
def TypeCode.isInt : TypeCode → Bool
  | .i8 | .i16 | .i32 | .i64 | .n8 | .n16 | .n32 | .n64 => true
  | _ => false

/-- The signed integer types (R39). -/
def TypeCode.signed : TypeCode → Bool
  | .i8 | .i16 | .i32 | .i64 => true
  | _ => false

/-- The types of the LOG and CARRY classes (R70). -/
def TypeCode.isLog : TypeCode → Bool
  | .i32 | .i64 | .n32 | .n64 => true
  | _ => false

/-- The types of the FP classes (R70). -/
def TypeCode.isFp : TypeCode → Bool
  | .f64 | .f32 | .f16 | .bf16 => true
  | _ => false

/-- The types of the MV class (R70). -/
def TypeCode.isMv : TypeCode → Bool
  | .i32 | .i64 | .n32 | .n64 | .f64 | .f32 => true
  | _ => false

/-- The g-registers an operand of a type names: a pair at 64 bits (R68, R150). -/
def TypeCode.regs (t : TypeCode) : Nat := if t.bits = 64 then 2 else 1

/-- The integer type of a format M width code (R63). -/
def widthType (width : BitVec 3) : TypeCode := TypeCode.ofBits (width.setWidth 4)

/-- The source type a CV instruction holds in c[15:12] (R70). -/
def RWord.srcType (x : RWord) : TypeCode := TypeCode.ofBits (x.c.extractLsb' 0 4)

/-! ### The use of fields -/

/-- What a field holds (R67, R68, R150): nothing; the first of `n` g-registers; a predicate, a capability register, an
accumulator slot or `n` slots; or a code in the bits of a mask. -/
inductive Kind where
  | unused
  | reg (n : Nat)
  | pred
  | cap
  | slot (n : Nat)
  | code (mask : BitVec 9)
  deriving DecidableEq, Repr

/-- How an instruction uses a field: it reads it, writes it, or both. -/
inductive Acc where
  | r | w | rw
  deriving DecidableEq, Repr

/-- Whether a use reads the field. -/
def Acc.reads : Acc → Bool
  | .w => false
  | _ => true

/-- Whether a use writes the field. -/
def Acc.writes : Acc → Bool
  | .r => false
  | _ => true

/-- A field of a word: its value, what it holds, how it is used, and its literal-zero flag (R60). -/
structure FieldUse where
  val : BitVec 9
  kind : Kind
  acc : Acc
  flag : Bool
  deriving DecidableEq, Repr

/-- Check 3 of R78 for a field (R67). -/
def FieldUse.clean (f : FieldUse) : Bool :=
  match f.kind with
  | .unused => f.val == 0
  | .reg _ => true
  | .pred => f.val &&& 0x1F0#9 == 0
  | .cap => f.val &&& 0x1F8#9 == 0
  | .slot _ => f.val &&& 0x1C0#9 == 0
  | .code mask => f.val &&& ~~~mask == 0

/-- Check 5 of R78 for a field (R60). -/
def FieldUse.zeroOk (f : FieldUse) : Bool :=
  !f.flag || (match f.kind with
    | .reg _ => f.acc.reads && f.val == 0
    | _ => false)

/-- Check 7 of R78 for a field (R68, R270, R340). -/
def FieldUse.aligned (f : FieldUse) : Bool :=
  match f.kind with
  | .reg n | .slot n => n ≤ 1 || f.val.toNat % n == 0
  | _ => true

/-- Check 8 of R78 for a field (R21, R148, R270). -/
def FieldUse.within (f : FieldUse) (budget slots : Nat) : Bool :=
  match f.kind with
  | .reg n => f.flag || f.val.toNat + n ≤ budget
  | .slot n => f.val.toNat + n ≤ slots
  | _ => true

/-- A name a thread's instruction reads or writes (R151): a g-register, a predicate, a capability register. -/
inductive Dest where
  | g (n : Nat) | p (n : Nat) | c (n : Nat)
  deriving DecidableEq, Repr

/-- The names a field stands for. -/
def FieldUse.dests (f : FieldUse) : List Dest :=
  match f.kind with
  | .reg n => if f.flag then [] else (List.range n).map (fun i => .g (f.val.toNat + i))
  | .pred => [.p (f.val.toNat % 16)]
  | .cap => [.c (f.val.toNat % 8)]
  | _ => []

/-- What the decoder and the scoreboard need of an instruction: its guard, its fields, further registers it reads and
writes, whether its other reserved bits are 0 (check 3), whether its codes are accepted (check 4). -/
structure Sig where
  guard : Guard
  fields : List FieldUse
  reads : List Dest := []
  writes : List Dest := []
  reservedOk : Bool := true
  codesOk : Bool := true

/-- The predicate a guard reads (R38, R151). -/
def Guard.dests : Guard → List Dest
  | .always => []
  | .onTrue p => [.p p.toNat]
  | .onFalse p => [.p p.toNat]

/-- The signature of a format R word from the kinds of its fields. -/
def sigR (x : RWord) (d : Kind) (dAcc : Acc) (a b c : Kind) (codesOk : Bool) : Sig where
  guard := x.guard
  fields := [⟨x.d, d, dAcc, false⟩, ⟨x.a, a, .r, x.za⟩, ⟨x.b, b, .r, x.zb⟩, ⟨x.c, c, .r, x.zc⟩]
  codesOk := codesOk

/-- The signature of a format R word that accepts only T = 0000 and V = 000 (R130 and the other DESC instructions). -/
def sigD (x : RWord) (d a b c : Kind) : Sig := sigR x d .w a b c (x.ty == .i8 && x.v == 0)

/-- As `sigD`, with V below `n` (R70 class DESC). -/
def sigDv (x : RWord) (n : Nat) (d a b c : Kind) : Sig := sigR x d .w a b c (x.ty == .i8 && x.v.toNat < n)

/-- The signature of a format I word (R61). -/
def sigI (g : Guard) (dv av : BitVec 9) (d a : Kind) (codesOk : Bool) : Sig where
  guard := g
  fields := [⟨dv, d, .w, false⟩, ⟨av, a, .r, false⟩]
  codesOk := codesOk

/-- The signature of a format M word: `base` is always a g-register (R67). -/
def sigM (x : MWord) (d : Kind) (dAcc : Acc) (s : Kind) (reservedOk codesOk : Bool) : Sig where
  guard := x.guard
  fields := [⟨x.d, d, dAcc, false⟩, ⟨x.base, .reg 1, .r, false⟩, ⟨x.s, s, .r, false⟩]
  reservedOk := reservedOk
  codesOk := codesOk

/-- Order and width reserved (R63, R75). -/
def MWord.plain (x : MWord) : Bool := x.order == 0 && x.width == 0

/-- The signature of a format E word; `q` is given as a kind of its four bits (R67). -/
def sigE (x : EWord) (p : Kind) (pAcc : Acc) (xk y bar q : Kind) (qAcc : Acc) (reservedOk codesOk : Bool) : Sig where
  guard := x.guard
  fields := [⟨x.p, p, pAcc, false⟩, ⟨x.x, xk, .r, false⟩, ⟨x.y, y, .r, false⟩, ⟨x.bar, bar, .r, false⟩,
    ⟨x.q.setWidth 9, q, qAcc, false⟩]
  reservedOk := reservedOk
  codesOk := codesOk

/-- The signature of a layout S1 word (R66). `n12` tells whether the instruction uses n12. -/
def sigS (x : SWord) (d a : Kind) (n12 : Bool) (reservedOk codesOk : Bool) : Sig where
  guard := x.guard
  fields := [⟨x.d, d, .w, false⟩, ⟨x.a, a, .r, match a with | .unused => false | _ => x.za⟩]
  reservedOk := reservedOk && (n12 || x.n12 == 0) && (match a with | .unused => !x.za | _ => true)
  codesOk := codesOk

/-- The special registers (R409): the g-registers that hold one, and whether MTSR may write it. -/
def specialRegs (n : Nat) : Option (Nat × Bool) :=
  if n ≤ 0x008 then some (1, false)
  else match n with
    | 0x010 | 0x011 | 0x013 => some (2, false)
    | 0x012 | 0x025 => some (1, false)
    | 0x014 | 0x020 | 0x022 | 0x023 | 0x024 => some (1, true)
    | 0x021 => some (2, true)
    | _ => none

/-- The counter numbers of R413. -/
def isCounter (n : Nat) : Bool := n ≤ 1 || (0x010 ≤ n && n ≤ 0x01C)

/-- The kind of a CRUPD's operand y (R340). -/
def crupdY (mod : BitVec 7) : Kind :=
  let op := (mod.extractLsb' 3 4).toNat
  let wide := mod.extractLsb' 0 3 == 2 || mod.extractLsb' 0 3 == 3
  if op = 8 || op = 9 then .reg 1
  else if op = 7 then .reg (if wide then 4 else 2)
  else .reg (if wide then 2 else 1)

/-- The operation and type codes that CRUPD accepts (R340). -/
def crupdOk (mod : BitVec 7) : Bool :=
  let op := (mod.extractLsb' 3 4).toNat
  let ty := (mod.extractLsb' 0 3).toNat
  ty ≤ 4 && op ≤ 9 && (op ≤ 2 || ty ≤ 3)

/-- A non-blocking Circle request carries a positive guard (R340). -/
def EWord.guarded (x : EWord) : Bool :=
  x.f || (match x.guard with | .onTrue _ => true | _ => false)

/-- The guard predicate that the decision on a non-blocking Circle request may clear (R334, R340). -/
def EWord.decides (x : EWord) : List Dest := if x.f then [] else x.guard.dests

/-- The types CREDUCE and CSCAN accept with an operation (R144). -/
def foldOk (ty : TypeCode) (v : BitVec 3) : Bool :=
  if v.toNat ≤ 2 then ty.code.toNat ≤ 9 else v.toNat ≤ 5 && ty.isLog

/-- The rounding codes that CVT and PACK accept (R70, R170). -/
def roundOk (dt st : TypeCode) (v : BitVec 3) : Bool :=
  v.toNat ≤ 3 || (v.toNat == 4 && dt.bits ≤ 16 && !st.isInt)

/-- The 8-bit and 16-bit element types of PACK and UNPACK (R172, R173). -/
def TypeCode.isElement : TypeCode → Bool
  | .i8 | .n8 | .i16 | .n16 | .f16 | .bf16 | .e4m3 | .e5m2 => true
  | _ => false

/-- The source types of PACK (R172). -/
def TypeCode.isPackSource : TypeCode → Bool
  | .i32 | .n32 | .f32 | .f16 | .bf16 => true
  | _ => false

/-- The signature of an integer instruction with sources at the width of T: `b` and `c` tell which it reads. -/
def sigInt (x : RWord) (sat b c : Bool) : Sig :=
  let k := Kind.reg x.ty.regs
  sigR x k .w k (if b then k else .unused) (if c then k else .unused)
    (x.ty.isInt && (x.v == 0 || (sat && x.v == 1)))

/-- The signature of ADDC and SUBB: the carry predicate is read and written (R158). -/
def sigCarry (x : RWord) : Sig :=
  let k := Kind.reg x.ty.regs
  let p := Dest.p (x.c.extractLsb' 0 4).toNat
  { sigR x k .w k k (.code 0x00F) (x.ty.isLog && x.v == 0) with reads := [p], writes := [p] }

/-- The signature of a logic instruction with kinds for d, b and c (R159). -/
def sigLog (x : RWord) (d b c : Kind) : Sig := sigR x d .w (.reg x.ty.regs) b c (x.ty.isLog && x.v == 0)

/-- The signature of a floating-point instruction (R165). -/
def sigFp (x : RWord) (rounds : Bool) (d b c : Kind) : Sig :=
  sigR x d .w (.reg x.ty.regs) b c (x.ty.isFp && (if rounds then x.v.toNat ≤ 3 else x.v == 0))

/-- The signature of a format I instruction of an integer or logic class. -/
def sigImm (x : IWord) (d : Kind) (codesOk : Bool) : Sig := sigI x.guard x.d x.a d (.reg x.ty.regs) codesOk

/-- The signature of an L form: the registers of its first word. -/
def sigLong (x : LWord) (d : Kind) (codesOk : Bool) : Sig := sigI x.guard x.d x.a d (.reg x.ty.regs) codesOk

/-- The signature of an ATOMS form: `.cas` also reads d (R197). -/
def sigAtoms (x : MWord) (cas : Bool) : Sig :=
  let t := widthType x.width
  sigM x (.reg t.regs) (if cas then .rw else .w) (.reg t.regs) true (x.order != 0 && t.isLog)

/-- The signature of a copy instruction with a record (R234). -/
def sigCopy (x : EWord) : Sig :=
  sigE x (.reg 1) .r (.reg 2) (.reg 2) (.reg 1) (.code 0x00F) .r (!x.f && x.mod == 0) (x.q.toNat ≤ 3)

/-- The signature of an index-engine instruction (R234). -/
def sigIndex (x : EWord) : Sig :=
  sigE x (.reg 1) .r (.reg 1) (.reg 1) (.reg 1) (.code 0x00F) .r (!x.f && x.mod == 0) (x.q == 4)

/-- The signature of MMA, TERM and ADRAIN: a block and, without `.nb`, a barrier (R255, R276). -/
def sigBlock (x : EWord) (q : Kind) (fUsed : Bool) : Sig :=
  sigE x (.reg 1) .r .unused .unused (if x.mod.getLsbD 0 then .unused else .reg 1) q .r
    ((fUsed || !x.f) && x.mod &&& 0x7E#7 == 0) true

/-- The registers of every instruction, from the forms tables of the chapters (R130, R141, R155, R159, R165, R170, R176,
R193, R197, R203, R206 to R208, R215, R234, R241, R248, R255, R271, R276, R317, R340, R410). Where a description only says that
modifier bits are 0, check 3 refuses them in MMA, TERM, OVLD, the copies, CLKRD and ENGRES, and check 4 in CRRD; where V is
reserved and the field kinds depend on V (PMOV, CVOTE, AFLAG, AINFO, TLREAD), check 3 judges the kinds that the last arm below
gives (DESIGN CHOICE, log entry 54). -/
def Instr.sig (i : Instr) : Sig :=
  let g1 := Kind.reg 1
  let g2 := Kind.reg 2
  match i with
  | .add x | .sub x | .mul x => sigInt x true true false
  | .mad x => sigInt x true true true
  | .mulhi x | .div x | .rem x | .min x | .max x => sigInt x false true false
  | .clamp x | .sad x => sigInt x false true true
  | .neg x | .abs x => sigInt x true false false
  | .addc x | .subb x => sigCarry x
  | .addImm x | .subImm x | .mulImm x => sigImm x (.reg x.ty.regs) (x.ty.isInt && (x.v == 0 || x.v == 1))
  | .minImm x | .maxImm x => sigImm x (.reg x.ty.regs) (x.ty.isInt && x.v == 0)
  | .addLong x | .subLong x => sigLong x (.reg x.ty.regs) (x.ty.isInt && (x.v == 0 || x.v == 1))
  | .and x | .or x | .xor x | .andn x => sigLog x (.reg x.ty.regs) (.reg x.ty.regs) .unused
  | .not x | .brev x => sigLog x (.reg x.ty.regs) .unused .unused
  | .shl x | .shr x | .sar x | .rot x | .bfx x => sigLog x (.reg x.ty.regs) g1 .unused
  | .bfi x => sigLog x (.reg x.ty.regs) (.reg x.ty.regs) g1
  | .popc x | .clz x | .ctz x => sigLog x g1 .unused .unused
  | .perm x => sigR x g1 .w g1 g1 g1 (x.ty == .n32 && x.v == 0)
  | .lut3 x => sigR x (.reg x.ty.regs) .rw (.reg x.ty.regs) (.reg x.ty.regs) (.code 0x0FF)
      ((x.ty == .n32 || x.ty == .n64) && x.v == 0)
  | .andImm x | .orImm x | .xorImm x | .andnImm x | .shlImm x | .shrImm x | .sarImm x | .rotImm x =>
      sigImm x (.reg x.ty.regs) (x.ty.isLog && x.v == 0)
  | .andLong x | .orLong x | .xorLong x => sigLong x (.reg x.ty.regs) (x.ty.isLog && x.v == 0)
  | .fadd x | .fsub x | .fmul x | .fdiv x => sigFp x true (.reg x.ty.regs) (.reg x.ty.regs) .unused
  | .ffma x => sigFp x true (.reg x.ty.regs) (.reg x.ty.regs) (.reg x.ty.regs)
  | .fmin x | .fmax x => sigFp x false (.reg x.ty.regs) (.reg x.ty.regs) .unused
  | .fsqrt x | .frcp x | .frsq x | .fexp2 x | .flog2 x | .fsin x | .fcos x | .frnd x =>
      sigFp x true (.reg x.ty.regs) .unused .unused
  | .fclass x => sigFp x false g1 .unused .unused
  | .fscale x => sigFp x true (.reg x.ty.regs) g1 .unused
  | .cvt x => sigR x (.reg x.ty.regs) .w (.reg x.srcType.regs) .unused (.code 0x00F)
      (x.ty.code.toNat ≤ 13 && x.srcType.code.toNat ≤ 13 && roundOk x.ty x.srcType x.v)
  | .pack x => sigR x g1 (if x.ty.bits = 8 then .rw else .w) (.reg x.srcType.regs) (.reg x.srcType.regs) (.code 0x00F)
      (x.ty.isElement && x.srcType.isPackSource && roundOk x.ty x.srcType x.v)
  | .unpack x => sigR x g2 .w g1 (if x.srcType.bits = 16 then .unused else g1) (.code 0x00F)
      (x.srcType.isElement && (if x.srcType.isInt then x.ty == .i32 || x.ty == .n32 else x.ty == .f32) && x.v.toNat ≤ 3)
  | .mov x => sigR x (.reg x.ty.regs) .w (.reg x.ty.regs) .unused .unused (x.ty.isMv && x.v == 0)
  | .sel x => { sigR x (.reg x.ty.regs) .w (.reg x.ty.regs) (.reg x.ty.regs) (.code 0x00F) (x.ty.isMv && x.v == 0) with
      reads := [.p (x.c.extractLsb' 0 4).toNat] }
  | .movi x => sigI x.guard x.d x.a (.reg x.ty.regs) .unused (x.ty.isMv && x.v == 0)
  | .moviLong x => sigI x.guard x.d x.a (.reg x.ty.regs) .unused (x.ty.isMv && x.v == 0)
  | .cmp x => sigR x .pred .w (.reg x.ty.regs) (.reg x.ty.regs) .unused (x.ty.isInt && x.v.toNat ≤ 5)
  | .cmpImm x => sigImm x .pred (x.ty.isInt && x.v.toNat ≤ 5)
  | .cmpLong x => sigLong x .pred (x.ty.isInt && x.v.toNat ≤ 5)
  | .fcmp x => sigR x .pred .w (.reg x.ty.regs) (.reg x.ty.regs) .unused x.ty.isFp
  | .plop x => sigR x .pred .w .pred .pred .unused (x.ty == .i8)
  | .pmov x => if x.v == 1 then sigDv x 2 .pred g1 .unused .unused else sigDv x 2 g1 .pred .unused .unused
  | .bra x | .bru x => { guard := x.guard, fields := [] }
  | .call x => { guard := x.guard, fields := [], writes := [.g 1] }
  | .brx x | .ret x => sigD x .unused g1 .unused .unused
  | .callx x => sigD x g1 g1 .unused .unused
  | .exit x | .yield x | .nop x => sigD x .unused .unused .unused .unused
  | .ovld x => sigE x g1 .r (if x.f then g2 else .unused) .unused g1 (if x.f then .cap else .unused) .r
      (x.mod &&& 0x7C#7 == 0) true
  | .lds x => sigM x (.reg (widthType x.width).regs) .w .unused true true
  | .sts x => sigM x (.reg (widthType x.width).regs) .r .unused true true
  | .atomsAdd x | .atomsMin x | .atomsMax x | .atomsAnd x | .atomsOr x | .atomsXor x | .atomsSwap x => sigAtoms x false
  | .atomsCas x => sigAtoms x true
  | .binit x | .waitph x => sigM x .unused .w g1 x.plain true
  | .arrive x => sigM x g1 .w .unused x.plain true
  | .expect x => sigM x g1 .w g1 x.plain true
  | .testph x => sigM x .pred .w g1 x.plain true
  | .waitcnt x => { guard := x.guard, fields := [] }
  | .fence x => sigS x .unused .unused false (x.mod &&& 0x60#7 == 0) (x.mod &&& 0x18#7 != 0x18#7)
  | .cnew x => sigDv x 3 g1 .unused .unused .unused
  | .cfree x | .join x | .leave x | .cbar x => sigD x .unused g1 .unused .unused
  | .elect x => sigD x .pred g1 .unused .unused
  | .cshfl x => sigR x (.reg x.ty.regs) .w (.reg x.ty.regs) g1 g1 ((x.ty == .n32 || x.ty == .n64) && x.v.toNat ≤ 3)
  | .creduce x => sigR x (.reg x.ty.regs) .w (.reg x.ty.regs) g1 .unused (foldOk x.ty x.v)
  | .cscan x => { sigR x (.reg x.ty.regs) .w (.reg x.ty.regs) g1 (.code 0x03F) (foldOk x.ty x.v) with
      reads := if x.c.getLsbD 5 then [.p (x.c.extractLsb' 0 4).toNat] else [] }
  | .cvote x => sigDv x 4 (if x.v == 3 then g1 else .pred) .pred g1 .unused
  | .cpin x | .cpout x | .cptx x => sigCopy x
  | .cpxg x | .cpxs x => sigIndex x
  | .cpmc x => sigE x g1 .r .unused .unused g1 (.code 0x00F) .r (!x.f && x.mod == 0) (x.q.toNat ≤ 3)
  | .tlread x => sigR x (if x.v.toNat ≤ 3 then g2 else g1) .w (.code 0x00F) .unused .unused
      (x.ty == .i8 && x.v.toNat ≤ 5 && (x.a.extractLsb' 0 4).toNat ≤ 6)
  | .tlwatch x => sigE x .unused .r .unused g2 g1 (.code 0x00F) .r (!x.f && x.mod == 0) (x.q.toNat ≤ 6)
  | .engq x => sigE x g2 .w .unused g2 .unused (.code 0x00F) .r (!x.f && x.mod == 0) (x.q.toNat ≤ 6)
  | .engres x => sigE x .unused .r .unused g2 .unused (.code 0x00F) .r (!x.f && x.mod &&& 0x7C#7 == 0)
      (x.q == 4 && x.mod &&& 0x03#7 != 0x03#7)
  | .kld x => sigM x .cap .w .unused x.plain true
  | .kst x => sigM x .cap .r .unused x.plain true
  | .kderive x => sigD x .cap .cap g2 g2
  | .krights x => sigD x .cap .cap g1 .unused
  | .kinfo x => sigDv x 4 (if x.v.toNat ≤ 1 then g1 else g2) .cap .unused .unused
  | .kchk x => sigD x g1 .cap g2 g2
  | .obres x | .obfree x => sigD x g1 g1 .unused .unused
  | .obinfo x => sigDv x 3 g1 (if x.v == 0 then g1 else .unused) .unused .unused
  | .mshape x => { sigE x g1 .r .unused .unused .unused .pred .w (!x.f && x.mod == 0) true with
      fields := [⟨x.p, g1, .r, false⟩, ⟨x.x, g2, .w, false⟩, ⟨x.y, .unused, .r, false⟩, ⟨x.bar, .unused, .r, false⟩,
        ⟨x.q.setWidth 9, .pred, .w, false⟩] }
  | .mma x => sigBlock x .unused false
  | .mmas x => sigBlock x (.code 0x00F) true
  | .mcommit x => { sigD x .unused (.slot 1) .unused .unused with reads := (List.range 16).map .p }
  | .mdrop x => sigD x .unused (.slot 1) .unused .unused
  | .azero x => sigDv x 2 (.slot (if x.v == 1 then 2 else 1)) .unused .unused .unused
  | .amov x => sigDv x 2 (.slot (if x.v == 1 then 2 else 1)) (.slot (if x.v == 1 then 2 else 1)) .unused .unused
  | .aser x => sigD x g1 (.slot 1) (.slot 1) g1
  | .achk x => sigD x .unused (.slot 1) .unused .unused
  | .term x | .adrain x => sigBlock x .unused false
  | .ainfo x => sigDv x 3 (if x.v == 0 then g2 else g1) (if x.v == 2 then .unused else .slot 1) .unused .unused
  | .aflag x => sigDv x 7 (if x.v == 0 then g1 else .pred) (.slot 1) .unused .unused
  | .snew x => sigD x g1 .unused .unused .unused
  | .sfree x => sigD x .unused g1 .unused .unused
  | .sins x | .sdel x => sigD x .unused g1 g1 .unused
  | .shas x => sigD x .pred g1 g1 .unused
  | .scard x => sigD x g2 g1 .unused .unused
  | .suni x | .sint x | .sdif x | .sldl x | .shint x => sigD x g1 g1 g1 .unused
  | .scpy x => sigD x g1 g1 .unused .unused
  | .sstl x => sigR x g1 .rw g1 g1 g1 (x.ty == .i8 && x.v == 0)
  | .snext x => sigD x g2 g1 g1 .unused
  | .srep x => sigDv x 2 (if x.v == 1 then g2 else g1) g1 .unused .unused
  | .scost x => sigDv x 3 g2 g1 g1 .unused
  | .crupd x => { sigE x g1 .r g2 (crupdY x.mod) g1 .cap .r true (crupdOk x.mod && x.guarded) with writes := x.decides }
  | .crrd x => { sigE x g1 .r g2 .unused g1 .cap .r true ((x.mod == 1 || x.mod == 3) && x.guarded) with
      writes := x.decides }
  | .crsnap x => { sigE x g1 .r g2 g1 g1 .cap .r (x.mod == 0) x.guarded with writes := x.decides }
  | .crlap x => sigE x g2 .w .unused .unused .unused .cap .r (!x.f && x.mod == 0) true
  | .crinfo x => sigE x g2 .w (if x.mod == 1 then .unused else g2) .unused .unused .cap .r (!x.f) (x.mod.toNat ≤ 1)
  | .trap x | .bkpt x => sigS x .unused .unused true (x.mod == 0) true
  | .eret x => sigS x .unused .unused false (x.mod == 0) true
  | .mfsr x => sigS x (.reg ((specialRegs x.n12.toNat).getD (1, false)).1) .unused true (x.mod == 0)
      (specialRegs x.n12.toNat).isSome
  | .mtsr x => sigS x .unused (.reg ((specialRegs x.n12.toNat).getD (1, false)).1) true (x.mod == 0)
      (match specialRegs x.n12.toNat with | some (_, w) => w | none => false)
  | .clkrd x => sigS x g2 .unused false (x.mod &&& 0x7C#7 == 0) true
  | .perfrd x => sigS x g2 .unused true (x.mod == 0) (isCounter x.n12.toNat)
  | _ => { guard := .always, fields := [] }

/-- Check 3 of R78: reserved bits and unused fields are 0. -/
def Sig.check3 (s : Sig) : Bool := s.reservedOk && s.fields.all FieldUse.clean

/-- Check 5 of R78: the literal-zero flags obey R60. -/
def Sig.check5 (s : Sig) : Bool := s.fields.all FieldUse.zeroOk

/-- Check 7 of R78: pairs and wider operands are aligned. -/
def Sig.check7 (s : Sig) : Bool := s.fields.all FieldUse.aligned

/-- Check 8 of R78 for a thread with `budget` g-registers of a parcel with `slots` accumulator slots. CALL's link g1 lies
in every budget (R131). -/
def Sig.check8 (s : Sig) (budget slots : Nat) : Bool := s.fields.all (fun f => f.within budget slots)

/-- The first of the checks 3, 4, 5 of R78 that fails. -/
def Sig.early (s : Sig) : Option Nat :=
  if !s.check3 then some 3 else if !s.codesOk then some 4 else if !s.check5 then some 5 else none

/-- What an instruction reads besides its guard (R151). -/
def Sig.sources (s : Sig) : List Dest :=
  s.reads ++ (s.fields.filter (fun f => f.acc.reads)).flatMap FieldUse.dests

/-- What an instruction writes (R151). -/
def Sig.targets (s : Sig) : List Dest :=
  s.writes ++ (s.fields.filter (fun f => f.acc.writes)).flatMap FieldUse.dests

/-! ### The opcode map (R75) -/

/-- The format of an opcode and the instruction it names; a format I opcode also names its L form, if it has one. -/
inductive Shape where
  | r (f : RWord → Instr)
  | i (f : IWord → Instr) (long : Option (LWord → Instr))
  | m (f : MWord → Instr)
  | b (f : BWord → Instr)
  | e (f : EWord → Instr)
  | s (f : SWord → Instr)
  | c (f : CWord → Instr)

/-- The assigned opcodes of block 0x0 (R75). -/
def opcodes0 : List (Nat × Shape) := [
  (0x001, .r .add),
  (0x002, .r .sub),
  (0x003, .r .mul),
  (0x004, .r .mulhi),
  (0x005, .r .mad),
  (0x006, .r .div),
  (0x007, .r .rem),
  (0x008, .r .neg),
  (0x009, .r .abs),
  (0x00A, .r .min),
  (0x00B, .r .max),
  (0x00C, .r .clamp),
  (0x00D, .r .addc),
  (0x00E, .r .subb),
  (0x00F, .r .sad),
  (0x021, .i .addImm (some .addLong)),
  (0x022, .i .subImm (some .subLong)),
  (0x023, .i .mulImm none),
  (0x02A, .i .minImm none),
  (0x02B, .i .maxImm none)]
/-- The assigned opcodes of block 0x1 (R75). -/
def opcodes1 : List (Nat × Shape) := [
  (0x040, .r .and),
  (0x041, .r .or),
  (0x042, .r .xor),
  (0x043, .r .not),
  (0x044, .r .andn),
  (0x045, .r .shl),
  (0x046, .r .shr),
  (0x047, .r .sar),
  (0x048, .r .rot),
  (0x049, .r .bfx),
  (0x04A, .r .bfi),
  (0x04B, .r .popc),
  (0x04C, .r .clz),
  (0x04D, .r .ctz),
  (0x04E, .r .brev),
  (0x04F, .r .perm),
  (0x050, .r .lut3),
  (0x060, .i .andImm (some .andLong)),
  (0x061, .i .orImm (some .orLong)),
  (0x062, .i .xorImm (some .xorLong)),
  (0x064, .i .andnImm none),
  (0x065, .i .shlImm none),
  (0x066, .i .shrImm none),
  (0x067, .i .sarImm none),
  (0x068, .i .rotImm none)]
/-- The assigned opcodes of block 0x2 (R75). -/
def opcodes2 : List (Nat × Shape) := [
  (0x080, .r .fadd),
  (0x081, .r .fsub),
  (0x082, .r .fmul),
  (0x083, .r .ffma),
  (0x084, .r .fmin),
  (0x085, .r .fmax),
  (0x086, .r .fdiv),
  (0x087, .r .fsqrt),
  (0x088, .r .frcp),
  (0x089, .r .frsq),
  (0x08A, .r .fexp2),
  (0x08B, .r .flog2),
  (0x08C, .r .fsin),
  (0x08D, .r .fcos),
  (0x08E, .r .fclass),
  (0x08F, .r .fscale)]
/-- The assigned opcodes of block 0x3 (R75). -/
def opcodes3 : List (Nat × Shape) := [
  (0x0C0, .r .cvt),
  (0x0C1, .r .pack),
  (0x0C2, .r .unpack),
  (0x0C3, .r .frnd),
  (0x0C4, .r .mov),
  (0x0C5, .r .sel),
  (0x0E4, .i .movi (some .moviLong))]
/-- The assigned opcodes of block 0x4 (R75). -/
def opcodes4 : List (Nat × Shape) := [
  (0x100, .r .cmp),
  (0x101, .r .fcmp),
  (0x102, .r .plop),
  (0x103, .r .pmov),
  (0x120, .i .cmpImm (some .cmpLong))]
/-- The assigned opcodes of block 0x5 (R75). -/
def opcodes5 : List (Nat × Shape) := [
  (0x140, .b .bra),
  (0x141, .b .bru),
  (0x142, .r .brx),
  (0x143, .b .call),
  (0x144, .r .callx),
  (0x145, .r .ret),
  (0x146, .r .exit),
  (0x147, .r .yield),
  (0x148, .r .nop),
  (0x149, .e .ovld)]
/-- The assigned opcodes of block 0x6 (R75). -/
def opcodes6 : List (Nat × Shape) := [
  (0x180, .m .lds),
  (0x181, .m .sts),
  (0x188, .m .atomsAdd),
  (0x189, .m .atomsMin),
  (0x18A, .m .atomsMax),
  (0x18B, .m .atomsAnd),
  (0x18C, .m .atomsOr),
  (0x18D, .m .atomsXor),
  (0x18E, .m .atomsSwap),
  (0x18F, .m .atomsCas)]
/-- The assigned opcodes of block 0x7 (R75). -/
def opcodes7 : List (Nat × Shape) := [
  (0x1C0, .m .binit),
  (0x1C1, .m .arrive),
  (0x1C2, .m .expect),
  (0x1C3, .m .waitph),
  (0x1C4, .m .testph),
  (0x1C5, .c .waitcnt),
  (0x1C6, .s .fence)]
/-- The assigned opcodes of block 0x8 (R75). -/
def opcodes8 : List (Nat × Shape) := [
  (0x200, .r .cnew),
  (0x201, .r .cfree),
  (0x202, .r .join),
  (0x203, .r .leave),
  (0x204, .r .elect),
  (0x205, .r .cbar),
  (0x206, .r .cshfl),
  (0x207, .r .creduce),
  (0x208, .r .cscan),
  (0x209, .r .cvote)]
/-- The assigned opcodes of block 0x9 (R75). -/
def opcodes9 : List (Nat × Shape) := [
  (0x240, .e .cpin),
  (0x241, .e .cpout),
  (0x242, .e .cpxg),
  (0x243, .e .cpxs),
  (0x244, .e .cpmc),
  (0x245, .e .cptx),
  (0x246, .r .tlread),
  (0x247, .e .tlwatch),
  (0x248, .e .engq),
  (0x249, .e .engres)]
/-- The assigned opcodes of block 0xA (R75). -/
def opcodesA : List (Nat × Shape) := [
  (0x280, .m .kld),
  (0x281, .m .kst),
  (0x282, .r .kderive),
  (0x283, .r .krights),
  (0x284, .r .kinfo),
  (0x285, .r .kchk)]
/-- The assigned opcodes of block 0xB (R75). -/
def opcodesB : List (Nat × Shape) := [
  (0x2C0, .r .obres),
  (0x2C1, .r .obfree),
  (0x2C2, .r .obinfo),
  (0x2C3, .e .mshape),
  (0x2C4, .e .mma),
  (0x2C5, .e .mmas),
  (0x2C6, .r .mcommit),
  (0x2C7, .r .mdrop)]
/-- The assigned opcodes of block 0xC (R75). -/
def opcodesC : List (Nat × Shape) := [
  (0x300, .r .azero),
  (0x301, .r .amov),
  (0x302, .r .aser),
  (0x303, .r .achk),
  (0x304, .e .term),
  (0x305, .e .adrain),
  (0x306, .r .ainfo),
  (0x307, .r .aflag)]
/-- The assigned opcodes of block 0xD (R75). -/
def opcodesD : List (Nat × Shape) := [
  (0x340, .r .snew),
  (0x341, .r .sfree),
  (0x342, .r .sins),
  (0x343, .r .sdel),
  (0x344, .r .shas),
  (0x345, .r .scard),
  (0x346, .r .suni),
  (0x347, .r .sint),
  (0x348, .r .sdif),
  (0x349, .r .scpy),
  (0x34A, .r .sldl),
  (0x34B, .r .sstl),
  (0x34C, .r .snext),
  (0x34D, .r .srep),
  (0x34E, .r .shint),
  (0x34F, .r .scost)]
/-- The assigned opcodes of block 0xE (R75). -/
def opcodesE : List (Nat × Shape) := [
  (0x380, .e .crupd),
  (0x381, .e .crrd),
  (0x382, .e .crsnap),
  (0x383, .e .crlap),
  (0x384, .e .crinfo)]
/-- The assigned opcodes of block 0xF (R75). -/
def opcodesF : List (Nat × Shape) := [
  (0x3C0, .s .trap),
  (0x3C1, .s .eret),
  (0x3C2, .s .mfsr),
  (0x3C3, .s .mtsr),
  (0x3C4, .s .bkpt),
  (0x3C5, .s .clkrd),
  (0x3C6, .s .perfrd)]

/-- Every assigned opcode and the instruction it names (R75). -/
def opcodes : List (Nat × Shape) :=
  opcodes0 ++ opcodes1 ++ opcodes2 ++ opcodes3 ++ opcodes4 ++ opcodes5 ++ opcodes6 ++ opcodes7 ++ opcodes8 ++ opcodes9 ++ opcodesA ++ opcodesB ++ opcodesC ++ opcodesD ++ opcodesE ++ opcodesF


/-- The row of an opcode, if it is assigned (check 1 of R78). -/
def findShape (op : Nat) : List (Nat × Shape) → Option Shape
  | [] => none
  | (k, s) :: rest => if op == k then some s else findShape op rest

/-- The row of an opcode. The table is searched block by block (R74). -/
def shapeOf (op : Nat) : Option Shape :=
  match op / 64 with
  | 0 => findShape op opcodes0 | 1 => findShape op opcodes1 | 2 => findShape op opcodes2 | 3 => findShape op opcodes3
  | 4 => findShape op opcodes4 | 5 => findShape op opcodes5 | 6 => findShape op opcodes6 | 7 => findShape op opcodes7
  | 8 => findShape op opcodes8 | 9 => findShape op opcodes9 | 10 => findShape op opcodesA | 11 => findShape op opcodesB
  | 12 => findShape op opcodesC | 13 => findShape op opcodesD | 14 => findShape op opcodesE | _ => findShape op opcodesF

/-! ### Words to fields -/

/-- The guard of a word (R38, R57); `none` where check 2 of R78 fails. -/
def guardOf (w : DWord) : Option Guard :=
  match w.getLsbD 53, w.getLsbD 52 with
  | true, false => some (.onTrue (w.extractLsb' 48 4))
  | true, true => some (.onFalse (w.extractLsb' 48 4))
  | false, false => if w.extractLsb' 48 4 == 0#4 then some .always else none
  | false, true => none

/-- The fields of format R (R58). -/
def rFields (g : Guard) (w : DWord) : RWord where
  guard := g
  d := w.extractLsb' 39 9
  a := w.extractLsb' 30 9
  b := w.extractLsb' 21 9
  c := w.extractLsb' 12 9
  retain := w.extractLsb' 10 2
  za := w.getLsbD 9
  zb := w.getLsbD 8
  zc := w.getLsbD 7
  ty := TypeCode.ofBits (w.extractLsb' 3 4)
  v := w.extractLsb' 0 3

/-- The fields of format I (R61). -/
def iFields (g : Guard) (w : DWord) : IWord where
  guard := g
  d := w.extractLsb' 39 9
  a := w.extractLsb' 30 9
  imm21 := w.extractLsb' 9 21
  ty := TypeCode.ofBits (w.extractLsb' 3 4)
  v := w.extractLsb' 0 3

/-- The fields of the L form (R62), with its second word. -/
def lFields (g : Guard) (w second : DWord) : LWord where
  guard := g
  d := w.extractLsb' 39 9
  a := w.extractLsb' 30 9
  ty := TypeCode.ofBits (w.extractLsb' 3 4)
  v := w.extractLsb' 0 3
  imm64 := second

/-- The fields of format M (R63). -/
def mFields (g : Guard) (w : DWord) : MWord where
  guard := g
  d := w.extractLsb' 39 9
  base := w.extractLsb' 30 9
  s := w.extractLsb' 21 9
  off16 := w.extractLsb' 5 16
  order := w.extractLsb' 3 2
  width := w.extractLsb' 0 3

/-- The fields of format B (R64). -/
def bFields (g : Guard) (w : DWord) : BWord where
  guard := g
  off32 := w.extractLsb' 16 32
  hint := w.extractLsb' 5 2

/-- The fields of format E (R65). -/
def eFields (g : Guard) (w : DWord) : EWord where
  guard := g
  p := w.extractLsb' 39 9
  x := w.extractLsb' 30 9
  y := w.extractLsb' 21 9
  bar := w.extractLsb' 12 9
  q := w.extractLsb' 8 4
  f := w.getLsbD 7
  mod := w.extractLsb' 0 7

/-- The fields of layout S1 (R66). -/
def sFields (g : Guard) (w : DWord) : SWord where
  guard := g
  d := w.extractLsb' 39 9
  a := w.extractLsb' 30 9
  n12 := w.extractLsb' 18 12
  za := w.getLsbD 9
  mod := w.extractLsb' 0 7

/-- The fields of layout S-count (R66). -/
def cFields (g : Guard) (w : DWord) : CWord where
  guard := g
  loads := w.extractLsb' 42 6
  stores := w.extractLsb' 36 6
  copies := w.extractLsb' 30 6
  matrix := w.extractLsb' 24 6
  sets := w.extractLsb' 18 6
  circle := w.extractLsb' 12 6

/-! ### Decoding -/

/-- Checks 3, 4, 5 and 7 of R78 of a one-word instruction whose other reserved bits are `clean`. -/
def finishDecode (clean : Bool) (i : Instr) : Except Nat Instr :=
  if !clean then .error 3
  else match i.sig.early with
    | some n => .error n
    | none => if i.sig.check7 then .ok i else .error 7

/-- The width rule of R62 and R76: an L form exists at 32 and 64 bits, and bits above the width are 0. -/
def longOk (ty : TypeCode) (imm64 : DWord) : Bool :=
  (ty.bits == 64) || (ty.bits == 32 && imm64 >>> 32 == 0)

/-- Decoding of a format I opcode (R61, R62). `second` is the word after the first, where there is one that the L form
may use (R62: in the same overlay segment, or in the resident image). -/
def decodeI (f : IWord → Instr) (long : Option (LWord → Instr)) (g : Guard) (w : DWord) (second : Option DWord) :
    Except Nat Instr :=
  let i := f (iFields g w)
  if w.getLsbD 7 then .error 3
  else match i.sig.early with
    | some n => .error n
    | none =>
      if !w.getLsbD 8 then (if i.sig.check7 then .ok i else .error 7)
      else match long, second with
        | some l, some w2 =>
          if w.extractLsb' 9 21 == 0#21 && longOk (iFields g w).ty w2 then
            (if i.sig.check7 then .ok (l (lFields g w w2)) else .error 7)
          else .error 6
        | _, _ => .error 6

/-- The instruction of a first word (R56 to R80), or the number of the first check of R78 from 2 to 7 that fails. A word
whose opcode is not assigned decodes to `unassignedOpcode`, which raises check 1. -/
def decode (w : DWord) (second : Option DWord) : Except Nat Instr :=
  match shapeOf (w.extractLsb' 54 10).toNat with
  | none => .ok (.unassignedOpcode w)
  | some shape =>
    match guardOf w with
    | none => .error 2
    | some g =>
      match shape with
      | .r f => finishDecode true (f (rFields g w))
      | .i f long => decodeI f long g w second
      | .m f => finishDecode true (f (mFields g w))
      | .b f => finishDecode (w.extractLsb' 7 9 == 0#9 && w.extractLsb' 0 5 == 0#5) (f (bFields g w))
      | .e f => finishDecode true (f (eFields g w))
      | .s f => finishDecode (w.extractLsb' 10 8 == 0#8 && w.extractLsb' 7 2 == 0#2) (f (sFields g w))
      | .c f => finishDecode (w.extractLsb' 0 12 == 0#12) (f (cFields g w))

/-- The address of the next instruction is this many bytes on (R56). -/
def Instr.size : Instr → Nat
  | .addLong _ | .subLong _ | .andLong _ | .orLong _ | .xorLong _ | .moviLong _ | .cmpLong _ => 16
  | _ => 8

/-- The arithmetic class is blocks 0x0 to 0x4 (R118). -/
def isArithOpcode (op : Nat) : Bool := op < 0x140

/-- The instruction that the decoder reads from `nbits` bits `w`, numbered as spec/opcode_table.json numbers them: bit 0
is the least significant bit of the first word, and the second word stands in bits 127 to 64. -/
def decodeTableWord (nbits w : Nat) : Option Instr :=
  let v := w % 2 ^ nbits
  match decode (BitVec.ofNat 64 v) (some (BitVec.ofNat 64 (v / 2 ^ 64))) with
  | .ok i => some i
  | .error _ => none

/-! ### Encoding -/

/-- The six guard bits (R38). -/
def encodeGuard : Guard → BitVec 6
  | .always => 0
  | .onTrue p => (0b10#2 ++ p : BitVec 6)
  | .onFalse p => (0b11#2 ++ p : BitVec 6)

/-- A flag bit. -/
def flagBit (b : Bool) : BitVec 1 := BitVec.ofBool b

/-- A format R word (R57, R58). -/
def encodeR (op : BitVec 10) (x : RWord) : DWord :=
  (op ++ encodeGuard x.guard ++ x.d ++ x.a ++ x.b ++ x.c ++ x.retain ++ flagBit x.za ++ flagBit x.zb ++ flagBit x.zc
    ++ x.ty.code ++ x.v : BitVec 64)

/-- A one-word format I word (R61). -/
def encodeI (op : BitVec 10) (x : IWord) : DWord :=
  (op ++ encodeGuard x.guard ++ x.d ++ x.a ++ x.imm21 ++ 0#2 ++ x.ty.code ++ x.v : BitVec 64)

/-- The two words of an L form (R62). -/
def encodeL (op : BitVec 10) (x : LWord) : List DWord :=
  [(op ++ encodeGuard x.guard ++ x.d ++ x.a ++ 0#21 ++ 1#1 ++ 0#1 ++ x.ty.code ++ x.v : BitVec 64), x.imm64]

/-- A format M word (R63). -/
def encodeM (op : BitVec 10) (x : MWord) : DWord :=
  (op ++ encodeGuard x.guard ++ x.d ++ x.base ++ x.s ++ x.off16 ++ x.order ++ x.width : BitVec 64)

/-- A format B word (R64). -/
def encodeB (op : BitVec 10) (x : BWord) : DWord :=
  (op ++ encodeGuard x.guard ++ x.off32 ++ 0#9 ++ x.hint ++ 0#5 : BitVec 64)

/-- A format E word (R65). -/
def encodeE (op : BitVec 10) (x : EWord) : DWord :=
  (op ++ encodeGuard x.guard ++ x.p ++ x.x ++ x.y ++ x.bar ++ x.q ++ flagBit x.f ++ x.mod : BitVec 64)

/-- A layout S1 word (R66). -/
def encodeS (op : BitVec 10) (x : SWord) : DWord :=
  (op ++ encodeGuard x.guard ++ x.d ++ x.a ++ x.n12 ++ 0#8 ++ flagBit x.za ++ 0#2 ++ x.mod : BitVec 64)

/-- A layout S-count word (R66). -/
def encodeC (op : BitVec 10) (x : CWord) : DWord :=
  (op ++ encodeGuard x.guard ++ x.loads ++ x.stores ++ x.copies ++ x.matrix ++ x.sets ++ x.circle ++ 0#12 : BitVec 64)

/-- The words of an instruction (R57 to R66, R75); a step of the device has none. -/
def encode (i : Instr) : List DWord :=
  match i with
  | .add x => [encodeR 0x001 x]
  | .sub x => [encodeR 0x002 x]
  | .mul x => [encodeR 0x003 x]
  | .mulhi x => [encodeR 0x004 x]
  | .mad x => [encodeR 0x005 x]
  | .div x => [encodeR 0x006 x]
  | .rem x => [encodeR 0x007 x]
  | .neg x => [encodeR 0x008 x]
  | .abs x => [encodeR 0x009 x]
  | .min x => [encodeR 0x00A x]
  | .max x => [encodeR 0x00B x]
  | .clamp x => [encodeR 0x00C x]
  | .addc x => [encodeR 0x00D x]
  | .subb x => [encodeR 0x00E x]
  | .sad x => [encodeR 0x00F x]
  | .addImm x => [encodeI 0x021 x]
  | .addLong x => encodeL 0x021 x
  | .subImm x => [encodeI 0x022 x]
  | .subLong x => encodeL 0x022 x
  | .mulImm x => [encodeI 0x023 x]
  | .minImm x => [encodeI 0x02A x]
  | .maxImm x => [encodeI 0x02B x]
  | .and x => [encodeR 0x040 x]
  | .or x => [encodeR 0x041 x]
  | .xor x => [encodeR 0x042 x]
  | .not x => [encodeR 0x043 x]
  | .andn x => [encodeR 0x044 x]
  | .shl x => [encodeR 0x045 x]
  | .shr x => [encodeR 0x046 x]
  | .sar x => [encodeR 0x047 x]
  | .rot x => [encodeR 0x048 x]
  | .bfx x => [encodeR 0x049 x]
  | .bfi x => [encodeR 0x04A x]
  | .popc x => [encodeR 0x04B x]
  | .clz x => [encodeR 0x04C x]
  | .ctz x => [encodeR 0x04D x]
  | .brev x => [encodeR 0x04E x]
  | .perm x => [encodeR 0x04F x]
  | .lut3 x => [encodeR 0x050 x]
  | .andImm x => [encodeI 0x060 x]
  | .andLong x => encodeL 0x060 x
  | .orImm x => [encodeI 0x061 x]
  | .orLong x => encodeL 0x061 x
  | .xorImm x => [encodeI 0x062 x]
  | .xorLong x => encodeL 0x062 x
  | .andnImm x => [encodeI 0x064 x]
  | .shlImm x => [encodeI 0x065 x]
  | .shrImm x => [encodeI 0x066 x]
  | .sarImm x => [encodeI 0x067 x]
  | .rotImm x => [encodeI 0x068 x]
  | .fadd x => [encodeR 0x080 x]
  | .fsub x => [encodeR 0x081 x]
  | .fmul x => [encodeR 0x082 x]
  | .ffma x => [encodeR 0x083 x]
  | .fmin x => [encodeR 0x084 x]
  | .fmax x => [encodeR 0x085 x]
  | .fdiv x => [encodeR 0x086 x]
  | .fsqrt x => [encodeR 0x087 x]
  | .frcp x => [encodeR 0x088 x]
  | .frsq x => [encodeR 0x089 x]
  | .fexp2 x => [encodeR 0x08A x]
  | .flog2 x => [encodeR 0x08B x]
  | .fsin x => [encodeR 0x08C x]
  | .fcos x => [encodeR 0x08D x]
  | .fclass x => [encodeR 0x08E x]
  | .fscale x => [encodeR 0x08F x]
  | .cvt x => [encodeR 0x0C0 x]
  | .pack x => [encodeR 0x0C1 x]
  | .unpack x => [encodeR 0x0C2 x]
  | .frnd x => [encodeR 0x0C3 x]
  | .mov x => [encodeR 0x0C4 x]
  | .sel x => [encodeR 0x0C5 x]
  | .movi x => [encodeI 0x0E4 x]
  | .moviLong x => encodeL 0x0E4 x
  | .cmp x => [encodeR 0x100 x]
  | .fcmp x => [encodeR 0x101 x]
  | .plop x => [encodeR 0x102 x]
  | .pmov x => [encodeR 0x103 x]
  | .cmpImm x => [encodeI 0x120 x]
  | .cmpLong x => encodeL 0x120 x
  | .bra x => [encodeB 0x140 x]
  | .bru x => [encodeB 0x141 x]
  | .brx x => [encodeR 0x142 x]
  | .call x => [encodeB 0x143 x]
  | .callx x => [encodeR 0x144 x]
  | .ret x => [encodeR 0x145 x]
  | .exit x => [encodeR 0x146 x]
  | .yield x => [encodeR 0x147 x]
  | .nop x => [encodeR 0x148 x]
  | .ovld x => [encodeE 0x149 x]
  | .lds x => [encodeM 0x180 x]
  | .sts x => [encodeM 0x181 x]
  | .atomsAdd x => [encodeM 0x188 x]
  | .atomsMin x => [encodeM 0x189 x]
  | .atomsMax x => [encodeM 0x18A x]
  | .atomsAnd x => [encodeM 0x18B x]
  | .atomsOr x => [encodeM 0x18C x]
  | .atomsXor x => [encodeM 0x18D x]
  | .atomsSwap x => [encodeM 0x18E x]
  | .atomsCas x => [encodeM 0x18F x]
  | .binit x => [encodeM 0x1C0 x]
  | .arrive x => [encodeM 0x1C1 x]
  | .expect x => [encodeM 0x1C2 x]
  | .waitph x => [encodeM 0x1C3 x]
  | .testph x => [encodeM 0x1C4 x]
  | .waitcnt x => [encodeC 0x1C5 x]
  | .fence x => [encodeS 0x1C6 x]
  | .cnew x => [encodeR 0x200 x]
  | .cfree x => [encodeR 0x201 x]
  | .join x => [encodeR 0x202 x]
  | .leave x => [encodeR 0x203 x]
  | .elect x => [encodeR 0x204 x]
  | .cbar x => [encodeR 0x205 x]
  | .cshfl x => [encodeR 0x206 x]
  | .creduce x => [encodeR 0x207 x]
  | .cscan x => [encodeR 0x208 x]
  | .cvote x => [encodeR 0x209 x]
  | .cpin x => [encodeE 0x240 x]
  | .cpout x => [encodeE 0x241 x]
  | .cpxg x => [encodeE 0x242 x]
  | .cpxs x => [encodeE 0x243 x]
  | .cpmc x => [encodeE 0x244 x]
  | .cptx x => [encodeE 0x245 x]
  | .tlread x => [encodeR 0x246 x]
  | .tlwatch x => [encodeE 0x247 x]
  | .engq x => [encodeE 0x248 x]
  | .engres x => [encodeE 0x249 x]
  | .kld x => [encodeM 0x280 x]
  | .kst x => [encodeM 0x281 x]
  | .kderive x => [encodeR 0x282 x]
  | .krights x => [encodeR 0x283 x]
  | .kinfo x => [encodeR 0x284 x]
  | .kchk x => [encodeR 0x285 x]
  | .obres x => [encodeR 0x2C0 x]
  | .obfree x => [encodeR 0x2C1 x]
  | .obinfo x => [encodeR 0x2C2 x]
  | .mshape x => [encodeE 0x2C3 x]
  | .mma x => [encodeE 0x2C4 x]
  | .mmas x => [encodeE 0x2C5 x]
  | .mcommit x => [encodeR 0x2C6 x]
  | .mdrop x => [encodeR 0x2C7 x]
  | .azero x => [encodeR 0x300 x]
  | .amov x => [encodeR 0x301 x]
  | .aser x => [encodeR 0x302 x]
  | .achk x => [encodeR 0x303 x]
  | .term x => [encodeE 0x304 x]
  | .adrain x => [encodeE 0x305 x]
  | .ainfo x => [encodeR 0x306 x]
  | .aflag x => [encodeR 0x307 x]
  | .snew x => [encodeR 0x340 x]
  | .sfree x => [encodeR 0x341 x]
  | .sins x => [encodeR 0x342 x]
  | .sdel x => [encodeR 0x343 x]
  | .shas x => [encodeR 0x344 x]
  | .scard x => [encodeR 0x345 x]
  | .suni x => [encodeR 0x346 x]
  | .sint x => [encodeR 0x347 x]
  | .sdif x => [encodeR 0x348 x]
  | .scpy x => [encodeR 0x349 x]
  | .sldl x => [encodeR 0x34A x]
  | .sstl x => [encodeR 0x34B x]
  | .snext x => [encodeR 0x34C x]
  | .srep x => [encodeR 0x34D x]
  | .shint x => [encodeR 0x34E x]
  | .scost x => [encodeR 0x34F x]
  | .crupd x => [encodeE 0x380 x]
  | .crrd x => [encodeE 0x381 x]
  | .crsnap x => [encodeE 0x382 x]
  | .crlap x => [encodeE 0x383 x]
  | .crinfo x => [encodeE 0x384 x]
  | .trap x => [encodeS 0x3C0 x]
  | .eret x => [encodeS 0x3C1 x]
  | .mfsr x => [encodeS 0x3C2 x]
  | .mtsr x => [encodeS 0x3C3 x]
  | .bkpt x => [encodeS 0x3C4 x]
  | .clkrd x => [encodeS 0x3C5 x]
  | .perfrd x => [encodeS 0x3C6 x]
  | .unassignedOpcode w => [w]
  | _ => []

/-- A step of the device: a constructor that no word encodes. -/
def Instr.isStep (i : Instr) : Bool := (encode i).isEmpty

end Sys2Proof
end

