-- ==== Sys2Proof/Machine/State.lean ====
section
/-!
DEFINITION. The state of the OX1600: everything the spec gives the device, from the register of a thread to the error
ring of the physical function, as plain data. Tables that the spec leaves empty at reset are lists that hold an entry for
every place that differs from its reset value (`Tbl`, `Mem`), in rising order of their keys.
-/

namespace Sys2Proof.Machine

/-- A sparse table: keys strictly rising, and no entry that equals the value an unlisted key reads as. -/
abbrev Tbl (α : Type) := List (Nat × α)

/-- Bytes of a memory, by address: a `Tbl` whose unlisted bytes read 0 (R178, R268, R431 step 7). -/
abbrev Mem := List Host.Cell

/-! ### Threads -/


/-- One register write: the destination and its bits (32 for g, 1 for p, 128 for c). -/
structure Write where
  dest : Dest
  val : QWord
  deriving DecidableEq, Repr

/-- A scoreboarded result (R151): its serial number, its destinations, and its values once they are known. -/
structure Pend where
  uid : Nat
  dests : List Dest
  vals : Option (List Write)
  deriving DecidableEq, Repr

/-- A scratchpad load or barrier result that its pass has produced and that is not yet written (R185). `load` is 1 where
it counts in the loads class (R206). -/
structure Deliv where
  writes : List Write
  load : Bool
  deriving DecidableEq, Repr

/-- A queued scratchpad store (R195): its place, its bytes, whether it is strong and whether it is a KST, and the
release count its record takes (R364). -/
structure QStore where
  off : Nat
  bytes : List Byte
  strong : Bool
  kst : Bool
  wrel : BitVec 4
  deriving DecidableEq, Repr

/-- The six outstanding-operation counters (R206), or six limits of WAITCNT (R207). -/
structure Counts where
  loads : Nat
  stores : Nat
  copies : Nat
  matrix : Nat
  sets : Nat
  circle : Nat
  deriving DecidableEq, Repr

/-- The six classes of R206. -/
inductive CntClass where
  | loads | stores | copies | matrix | sets | circle
  deriving DecidableEq, Repr

/-- What a phase entry of the detection state names (R363): a barrier offset, or a consist handle. -/
inductive PhaseObj where
  | barrier (off : Nat)
  | consist (handle : Word)
  deriving DecidableEq, Repr

/-- The race-detection state of a thread (R363); lists run from oldest to newest. -/
structure Detect where
  rc : BitVec 4
  acq : List (Nat × BitVec 4)
  ph : List (PhaseObj × Word)
  ring : List (PhaseObj × Word × BitVec 4)
  evf : BitVec 64
  pev : Bool
  deriving DecidableEq, Repr

/-- What a thread in engine wait waits for (R113, R26, R206, R209, R216, R240, R320, R334, R412). -/
inductive Wait where
  | dests (ds : List Dest)
  | counts (limits : Counts)
  | countRoom (cls : CntClass)
  | storesDone
  | storeRoom
  | granule (off : Nat)
  | loadsDone
  | numbering
  | contextRoom (k : Nat)
  | watchRoom
  | setIndex (since : Nat)
  | circle (req : Nat)
  | sync
  deriving DecidableEq, Repr

/-- The state of a thread (R113). `port` is a thread whose scratchpad or barrier instruction has issued and waits for its
passes (R183): it is runnable and in no entry of the PC table. `yielded` names the cycle in which the YIELD retired (R436). -/
inductive Status where
  | ready
  | short (ds : List Dest)
  | port
  | engine (w : Wait)
  | phase (off : Nat) (k : Word)
  | collective (handle : Word)
  | yielded (since : Nat)
  | membership (handle : Word)
  | exited
  deriving DecidableEq, Repr

/-- A thread (R109 to R113, R148, R149, R195, R206, R209, R363, R400 to R403, R409). `slot` is its thread slot (R111,
R417). -/
structure Thread where
  tix : Nat
  slot : Nat
  role : Nat
  pc : Word
  status : Status
  g : Tbl Word
  p : BitVec 16
  c : Tbl QWord
  srseed : Word
  tcause : Word
  taddr : DWord
  tpc : Word
  tsav0 : Word
  tsav1 : Word
  tstate : Word
  due : List (List Dest)
  pend : List Pend
  deliver : List Deliv
  storeQ : List QStore
  counts : Counts
  own : Tbl DWord
  detect : Detect
  fenceRelease : Bool
  fenceAcquire : Bool
  fenceNumber : Bool
  retired : Nat
  reuse : Option (Nat × Nat × List Nat)
  farLaps : List (Word × Nat)
  deriving DecidableEq, Repr

/-! ### What an instruction of a thread leaves to the units of its core -/

/-- One thread's access of a scratchpad instruction in the port (R183): its bytes and the operands it read at issue. -/
structure PAcc where
  tix : Nat
  off : Nat
  size : Nat
  x : QWord
  y : QWord
  deriving DecidableEq, Repr

/-- A store instruction of a group whose stores stand in their threads' queues (R183, R195): the stores not yet performed, by
thread, and the passes made. -/
structure StoreItem where
  key : PKey
  accs : List PAcc
  passes : Nat
  deriving DecidableEq, Repr

/-- A landing of engine bytes that waits for its service (R185, R237, R247, R338): the pieces (first byte, bytes) that fall
in one 64-byte chunk of the scratchpad or, with `res`, of the reservation with that serial number. Once it is served, its
count, if it has one, stands in the parcel's count list. `req` names the request (its serial number) it belongs to. -/
structure Landing where
  res : Option Nat
  pieces : List (Nat × List Byte)
  bar : Option Nat
  count : Nat
  req : Nat
  deriving DecidableEq, Repr

/-- A byte count that waits for its service at a barrier (R201). `err` is the code of a failed operation, 0 otherwise.
`reply` is the thread whose circle counter drops when the count is applied (R338). -/
structure Count where
  bar : Nat
  n : Nat
  err : Word
  req : Nat
  reply : Option Nat
  deriving DecidableEq, Repr

/-- A scratchpad or barrier instruction of one group in the core's port (R183, R186): the accesses not yet served, the
threads whose access is served and that go on when the last pass is done, and the passes made. -/
structure PortItem where
  key : PKey
  pc : Word
  instr : Instr
  accs : List PAcc
  served : List Nat
  passes : Nat
  deriving DecidableEq, Repr

/-- An operand source of a copy, captured at issue: the capability a record names. -/
inductive CopyKind where
  | cpin (box : BitVec 512) (o01 o2 : DWord) (cap : QWord)
  | cpout (box : BitVec 512) (o01 o2 : DWord) (cap : QWord)
  | cptx (src dst : BitVec 512) (os od : DWord) (capS capD : QWord)
  | cpmc (blk : BitVec 256) (capS capD : QWord)
  | ovldList (addr : Nat) (dev : DWord)
  | ovldObject (addr : Nat) (obj off reg : Nat)
  deriving DecidableEq, Repr

/-- What a copy holds between two of its units, so that a 64-byte unit of an object or of a reservation, or a word of a scratchpad,
which two of its units share is read once and written once (R228, R247, R361, R370): the bytes of elements and of scales still to be
written, and source bytes read that a later unit needs. -/
structure Carry where
  elems : List (Nat × List Byte)
  rest : List (Nat × List Byte)
  got : List (Nat × List Byte)
  deriving DecidableEq, Repr

/-- A request of a copy context (R227, R234, R136, R243). `restored`: it has been restored with its parcel and stands behind
no running number of its core's timeline. `done` counts its 4 KiB units moved, `counted` the bytes it has handed to the count list.
`evicts` is the order of the overlay segment that gives way when the copy begins (R136). -/
structure CopyReq where
  uid : Nat
  ctx : Nat
  num : Nat
  restored : Bool
  key : PKey
  tix : Nat
  pc : Word
  kind : CopyKind
  bar : Option Nat
  nominal : Nat
  units : Nat
  done : Nat
  counted : Nat
  seg : Option Nat
  evicts : Option Nat
  carry : Carry
  deriving DecidableEq, Repr

/-- An index job (R238 to R240). `suspended` is 0 while it runs, 3 or 4 while it is suspended (R242); `code` is not 0 where its block has
failed its validation and its status record waits for earlier jobs (R356). -/
structure IndexJob where
  uid : Nat
  num : Nat
  restored : Bool
  key : PKey
  tix : Nat
  pc : Word
  scatter : Bool
  blk : BitVec 256
  cap : QWord
  rows : Nat
  statusAt : Nat
  bar : Nat
  cursor : Nat
  suspended : Nat
  code : Word
  deriving DecidableEq, Repr

/-- A watch on a timeline (R242). -/
structure Watch where
  key : PKey
  tix : Nat
  ctx : Nat
  value : DWord
  bar : Nat
  rc : BitVec 4
  deriving DecidableEq, Repr

/-- What a request or query of the matrix context does (R255, R269). `pendUid` is the scoreboarded result of a query. -/
inductive MatrixOp where
  | mma (blk : BitVec 512) (capA capB : QWord)
  | mmas (blk : BitVec 512) (capA capB : QWord) (pred : BitVec 4) (neg : Bool)
  | mcommit (slot : Nat) (preds : BitVec 16)
  | mdrop (slot : Nat)
  | azero (slot : Nat) (pair : Bool)
  | amov (dst src : Nat) (pair : Bool)
  | achk (slot : Nat)
  | term (blk : BitVec 256)
  | adrain (blk : BitVec 256) (cap : QWord)
  | aser (slot ring : Nat) (control : Word) (pendUid d : Nat)
  | ainfo (what slot : Nat) (pendUid d : Nat)
  | aflag (what slot : Nat) (pendUid d : Nat)
  deriving DecidableEq, Repr

/-- A place in matrix order (R257, R269). `failed` is the code of a check made at issue, 0 if it passed. `step` is the
request's next step (R265), `chunks` the 64-byte chunks it has read (R264: operand A 0 or B 1, the chunk, its bytes). -/
structure MatrixReq where
  uid : Nat
  num : Nat
  restored : Bool
  key : PKey
  tix : Nat
  pc : Word
  op : MatrixOp
  bar : Option Nat
  failed : Word
  step : Nat
  chunks : List (Nat × Nat × List Byte)
  deriving DecidableEq, Repr

/-- The first request of the matrix context executes (R256): whether its step waits for the signal box (R106, R108), and
the cycle in which it reached its step (R259). -/
structure MatrixRun where
  assist : Bool
  clk : Nat
  deriving DecidableEq, Repr

/-- How far a drain has come: not yet judged, waiting for the signal box (R106), completed by it, or written with its count
handed over (R292). -/
inductive DrainStage where
  | unjudged | waiting | given | written
  deriving DecidableEq, Repr

/-- A drain that has read its slot and writes its destination (R289, R294): the patterns of its window, and whether it goes to the
ordered journal (R291). -/
structure Drain where
  req : MatrixReq
  win : List Nat
  stage : DrainStage
  journal : Bool
  deriving DecidableEq, Repr

/-- A core's read of a kind 1 operand for a group step (R259): the core read, the reservation, OFF, the step, the cycle in which the
request reached the step, the chunks, and those of them that are multicast. -/
structure OpdRead where
  place : Nat × Nat × Nat
  step : Nat
  clk : Nat
  chunks : List Nat
  sent : List Nat
  deriving DecidableEq, Repr

/-- What a set request does (R317). -/
inductive SetOp where
  | snew | suni | sint | sdif | scpy
  | sldl (off count : Nat)
  | sfree | sins (x : Word) | sdel (x : Word) | shas (x : Word) | scard
  | sstl (off cap : Nat)
  | snext (x : Word) | srep | slap | shint (code : Word) | scost (op : Nat)
  deriving DecidableEq, Repr

/-- A request of the set context (R298, R307). `batch` names the issue whose mutations of one handle make a batch; `result` is the
handle a set-producing request was given at issue; `d` names the registers of its result, pending under `pendUid`. -/
structure SetReq where
  uid : Nat
  core : Nat
  num : Nat
  restored : Bool
  key : PKey
  tix : Nat
  pc : Word
  op : SetOp
  a : Word
  b : Word
  result : Word
  bar : Option Nat
  batch : Nat
  pendUid : Nat
  d : Nat
  deriving DecidableEq, Repr

/-! ### Parcels -/

/-- What a collective of a consist computes (R139: its kind is the opcode, T, V and, for CSCAN, c[5:4]). -/
inductive CollKind where
  | cbar
  | cshfl (ty : TypeCode) (v : BitVec 3)
  | creduce (ty : TypeCode) (v : BitVec 3)
  | cscan (ty : TypeCode) (v : BitVec 3) (excl seg : Bool)
  | cvote (v : BitVec 3)
  deriving DecidableEq, Repr

/-- One arrival at an open instance (R139): the member, its destination field, the values it supplied. -/
structure Arrival where
  tix : Nat
  d : Nat
  val : DWord
  aux : Word
  seg : Bool
  deriving DecidableEq, Repr

/-- An open collective instance (R139). `rsum` is its replay sum so far (R420). -/
structure Instance where
  kind : CollKind
  arrivals : List Arrival
  rsum : Nat
  deriving DecidableEq, Repr

/-- A consist (R137): a set of `%tix` values, its open instance and the number of instances completed (R355). -/
structure Consist where
  handle : Word
  members : BitVec 1024
  open? : Option Instance
  completed : Word
  deriving DecidableEq, Repr

/-- An operand-buffer reservation (R245): its record, its written bytes (an unlisted byte is undefined, R249), its serial
number, and whether an OBFREE of it is deferred (R250). -/
structure Reservation where
  num : Nat
  word : BitVec 256
  freed : Bool
  serial : Nat
  bytes : List Host.Cell
  deriving DecidableEq, Repr

/-- Where a parcel stands between the taking of its leases and its end (R54, R112, R220, R243, R394, R396): its scratchpad is being
prepared, or is prepared, while it waits in its deque; it stands on a core with its threads not started, running, or just restored;
or it is saved. -/
inductive ParcelPhase where
  | preparing | prepared | starting | running | saved | restoring
  deriving DecidableEq, Repr

/-- A segment of the instruction store (R126, R136, R146): the launch, its code address, the load order, its source (for
an OVLD of a capability: object, offset, register), and whether all its bytes have landed (R127). -/
structure Segment where
  launch : LKey
  addr : Nat
  order : Nat
  source : Option (Nat × Nat × Nat)
  resident : Bool
  bytes : List Host.Cell
  deriving DecidableEq, Repr

/-- A parcel (R109, R178, R22, R189, R268, R273, R261, R137, R245), with everything that follows it to another core. The
`saved` lists are filled while it is switched out (R243, R265, R328), and `before` is then the phase it was in; `savedBy` is the serial
number of the save, which the parcels that it took off their cores share (R266). A parcel that waits in its deque stands on no core
(core number 320). -/
structure Parcel where
  key : PKey
  core : Nat
  place : Nat
  phase : ParcelPhase
  before : ParcelPhase
  spBase : Nat
  spSize : Nat
  slotBase : Nat
  slots : Nat
  xhash : DWord
  spad : Mem
  recs : Tbl (BitVec 64)
  acc : Mem
  names : Tbl Nat
  series : Tbl (BitVec 64)
  flags : Tbl Word
  shadows : Tbl Word
  resv : List Reservation
  consists : List Consist
  threads : List Thread
  landings : List Landing
  counts : List Count
  phaseSums : Tbl Nat
  retired : Nat
  savedCopies : List CopyReq
  savedJobs : List IndexJob
  savedMatrix : List MatrixReq
  savedSets : List SetReq
  savedWatches : List Watch
  savedSegs : List Segment
  savedIssued : List DWord
  prep : Nat
  savedBy : Nat
  deriving DecidableEq, Repr

/-! ### Sets -/

/-- A conversion in progress (R310): its target, the runs the build starts from, the delta log (1 inserts), whether a
batch has followed the one that started it, and whether the background build has finished. -/
structure Conv where
  target : Nat
  base : List (Nat × Nat)
  log : List (Bool × Nat)
  later : Bool
  built : Bool
  deriving DecidableEq, Repr

/-- A bucket of a hash set (R303, R304): its sixteen slots and its OVF bit. -/
structure Bucket where
  slots : List (Option Nat)
  ovf : Bool
  deriving DecidableEq, Repr

/-- A hash table: 2^b buckets, of which those never written are empty (R303). -/
structure Hash where
  b : Nat
  buckets : Tbl Bucket
  deriving DecidableEq, Repr

/-- A set of a launch (R296 to R312, R320). Its members stand as maximal runs (start, length) in rising order; `rep` is
REP; `winBase` and `winLen` are a bitmap's window; `hash` a hash's buckets. `home` is the home core of a near set, `owner`
the `%pix` of the parcel whose thread created it; `pending` is a set whose request has not executed (R320). -/
structure SetRec where
  index : Nat
  gen : Nat
  home : Nat
  owner : Nat
  far : Bool
  failed : Bool
  pending : Bool
  runs : List (Nat × Nat)
  rep : Nat
  winBase : Nat
  winLen : Nat
  hash : Hash
  miss : Nat
  tgt : Nat
  pin : Option Nat
  conv : Option Conv
  deriving DecidableEq, Repr

/-! ### Cores -/

/-- One entry of the PC table (R114, R118): the residency place, the address, the threads in the order in which they joined,
the age, whether the entry is in the active set, and the cycle from which its word has been read (R418, R419 FETCH). -/
structure Entry where
  place : Nat
  pc : Word
  tixs : List Nat
  age : Nat
  active : Bool
  fetched : Nat
  deriving DecidableEq, Repr

/-- The timeline of an engine context (R227). `running` lists the numbers neither complete nor failed. -/
structure Timeline where
  issued : Nat
  running : List Nat
  failN : Nat
  failC : Word
  nFail : Word
  recent : List Nat
  deriving DecidableEq, Repr

/-- The interval counts of the counter series (R419). -/
structure CoreCounts where
  issA : Nat
  issO : Nat
  engw : Nat
  phw : Nat
  spp : Nat
  fetch : Nat
  mxb : Nat
  cpb : Nat
  setb : Nat
  crq : Nat
  deriving DecidableEq, Repr

/-- A wake event that has reached a core (R133, R436): the launch, the thread that made it, and its cycle. -/
structure Wake where
  launch : LKey
  actor : TRef
  clk : Nat
  deriving DecidableEq, Repr

/-- What was freed on a core in a cycle, which is allotted again from the next cycle on (R27): a parcel's residency place, its ranges of
scratchpad and of slots, reservations, threads' slots with the registers they held, segments, near sets and consists, of a context. -/
structure Freed where
  clk : Nat
  ctx : Nat
  place : Option Nat
  spad : Nat × Nat
  slots : Nat × Nat
  resv : List Reservation
  threads : List (Nat × Nat)
  segments : Nat
  sets : List SetRec
  consists : Nat
  deriving DecidableEq, Repr

/-- A core (R4, R19, R114, R118, R126, R186, R227). `jobCursors` holds CURSOR of the index jobs that have ended, by number
(R242); an unlisted number is 0xFFFFFFFF. `arithFree` and `otherFree` are the cycles from
which its two issue slots accept an instruction (R118, R152), and `turn` is the first cycle after its latest swaps (R120).
`stores` holds the store instructions whose stores are queued, oldest first (R195). `freed` holds what was freed of late (R27), and
`recentExit` the threads that exited in slots not allotted since, with their PC and their `%tstate` (R417, R418). -/
structure Core where
  arithFree : Nat
  otherFree : Nat
  turn : Nat
  entries : List Entry
  segments : List Segment
  port : List PortItem
  stores : List StoreItem
  timelines : Tbl Timeline
  copies : List CopyReq
  index : List IndexJob
  jobCursors : Tbl Nat
  matrix : List MatrixReq
  run : Option MatrixRun
  drains : List Drain
  opdReads : List OpdRead
  sets : List SetReq
  watches : List Watch
  wakes : List Wake
  halting : Bool
  counts : CoreCounts
  recentExit : List (Nat × TRef × Word × Word)
  freed : List Freed
  deriving DecidableEq, Repr

/-! ### Launches -/

/-- A mutation batch whose last request has not been applied (R307): the issue and the handle, whether it inserts, the set before the
batch, the elements applied, and the set as they leave it. -/
structure OpenBatch where
  batch : Nat
  a : Word
  ins : Bool
  base : SetRec
  elems : List Nat
  seen : SetRec
  deriving DecidableEq, Repr

/-- The set indices of a launch (R296): the number of blocks each die has handed out, the blocks with the core that holds
each, the generation of an index (an unlisted one is at 1), and the indices whose near set has gone with the last parcel
of its core (R329). -/
structure IndexPool where
  next : Tbl Nat
  blocks : List (Nat × Nat)
  gens : Tbl Nat
  spent : List Nat
  deriving DecidableEq, Repr

/-- The fields of a region entry (R381). -/
structure RegionEntry where
  off0 : Nat
  ostep : Int
  len0 : Nat
  lstep : Int
  stage : Nat
  staged : Bool
  rights : Nat
  cap : Nat
  reserved : Nat
  deriving DecidableEq, Repr

/-- A launch (R380, R383, R385, R387, R388, R390). `regions` is its region list, read when it is dispatched (R383). `deques` holds each
die's parcels, front first; `empties` the victims that have answered "empty" to a die. -/
structure Launch where
  key : LKey
  packet : BitVec 2048
  regions : List RegionEntry
  queue : Nat
  node : Nat
  nodeIndex : Nat
  deadline : Nat
  prio : Nat
  dl : Bool
  dispatched : Nat
  deques : Tbl (List Nat)
  empties : Tbl (List Nat)
  unfreed : Nat
  missed : Bool
  sets : List SetRec
  batches : List OpenBatch
  pool : IndexPool
  segOrder : Nat
  deriving DecidableEq, Repr

/-! ### Contexts, objects, memory -/

/-- An entry of an object table (R217) with the leaf descriptors of its extent tree (R218), which the spec names by
ROOT and DEPTH and whose node format it does not give (log entry 6); with DEPTH 0 the leaves are those of INLINE. -/
structure ObjEntry where
  obj : Nat
  word : BitVec 512
  leaves : List (BitVec 128)
  invalidating : List Nat
  deriving DecidableEq, Repr

/-- A record of the ordered journal (R291): the launch, the parcel, the order of execution, the target and the window. -/
structure JournalRec where
  launch : Nat
  pix : Nat
  blk : BitVec 256
  cap : QWord
  win : List Nat
  deriving DecidableEq, Repr

/-- How far a pre-emption of a context has come (R393 to R396). -/
inductive HaltPhase where
  | none | halting | halted
  deriving DecidableEq, Repr

/-- A context (R371 to R373, R384, R392, R413, R416). `debugAt` is the device address of its debug control block, once it has
one. -/
structure Ctx where
  desc : BitVec 512
  objects : List ObjEntry
  leases : List (BitVec 256)
  journal : List JournalRec
  counters : Tbl Nat
  debugAt : Option Nat
  halt : HaltPhase
  dumping : Bool
  sliceEnd : Nat
  lastRestored : Nat
  hbmBytes : Nat
  energy : Nat
  lastLaunch : Nat
  sampledAt : Nat
  mismatched : List PKey
  deriving DecidableEq, Repr

/-- A dispatched node that has not completed (R375 to R377). `started` is 1 once its effect has begun, `satisfied` once it is
done; `copy` is the copy of a transform or fill, `copied` the 4 KiB units it has moved, `carry` what it holds between two of them;
`at'` is the cycle of its dispatch. -/
structure Node where
  id : Nat
  at' : Nat
  ctx : Nat
  queue : Nat
  index : Nat
  word : BitVec 512
  started : Bool
  satisfied : Bool
  copy : Option CopyKind
  copied : Nat
  launch : Option LKey
  carry : Carry
  deriving DecidableEq, Repr

/-- A memory read error that the next read of a checked unit meets, of 256 bytes or, in the weight store, of 64 (R423 to R426): kinds as
in `Move.memoryError`. -/
structure MemFault where
  tier : Tier
  unit : Nat
  kind : Nat
  deriving DecidableEq, Repr

/-- A migration in progress (R223): the object, its unit, the unit's new place and its old one, and whether the descriptor names the
new one; it then lasts until the invalidation is complete, since requests resolved before may use the old one (R219). -/
structure Migration where
  obj : OKey
  unit : Nat
  tier : Tier
  loc : Nat
  oldTier : Tier
  oldLoc : Nat
  switched : Bool
  deriving DecidableEq, Repr

/-- A tested row or lane (R426, R427). -/
structure TestReq where
  unit : UnitKind
  cls : Nat
  place : Nat
  sub : Nat
  row : Nat
  addr : Nat
  deriving DecidableEq, Repr

/-! ### Circle regions -/

/-- A Circle region's slice (R332): its current lap, the row its cursor passes next, whether the lap has ended there,
whether that has been reported to the master, the occupancy of its queue then, and the latest occupancy reported (R346). -/
structure RegionSlice where
  lap : Nat
  cursor : Nat
  reported : Bool
  occ : Nat
  shown : Option Nat
  deriving DecidableEq, Repr

/-- A Circle region (R330, R333, R335). `lap` is the latest lap declared and `declaredAt` its tick. `spanWait` lists the
blocking spanning requests that wait at the master, oldest first. -/
structure Region where
  obj : OKey
  lap : Nat
  declaredAt : Nat
  slices : Tbl RegionSlice
  spanWait : List Nat
  deriving DecidableEq, Repr

/-- What a Circle request does (R340, R349, R339). -/
inductive CircleOp where
  | update (op ty : Nat) (cmp v : DWord)
  | read (wide : Bool)
  | snap (len : Nat)
  | host (bytes : List Byte)
  | far (uids : List Nat) (mutates : Bool)
  deriving DecidableEq, Repr

/-- How far a Circle request has come (R334, R335): on its way, in a slice's wait list, admitted, refused, or waiting at the
master of its region. -/
inductive CircleStage where
  | sent | waiting | admitted | refused | spanning
  deriving DecidableEq, Repr

/-- A Circle request (R334 to R338). `off` is its first byte in the object; `guard` the predicate a refusal clears;
`parts` the region slices whose part is not yet acknowledged; `left` the 1,024-byte chunks not yet answered. -/
structure CircleReq where
  id : Nat
  obj : OKey
  key : PKey
  tix : Nat
  pc : Word
  core : Nat
  op : CircleOp
  off : Nat
  reply : Nat
  bar : Nat
  blocking : Bool
  guard : Nat
  pendUid : Nat
  stage : CircleStage
  decided : Bool
  ticket : Nat
  parts : List Nat
  left : List Nat
  status : Nat
  drop : Bool
  deriving DecidableEq, Repr

/-- One entry of a slice's admission queue (R334). `rows` are the rows it still waits for (a CRSNAP part has several). -/
structure SliceEntry where
  req : Nat
  obj : OKey
  rows : List Nat
  ticket : Nat
  deriving DecidableEq, Repr

/-- A memory slice (R334): its admission queue and its wait list, each in order of arrival, and the cycle, the core and the lane of
the last request that reached it. -/
structure Slice where
  queue : List SliceEntry
  waiters : List Nat
  arrived : Nat × Nat × Nat
  deriving DecidableEq, Repr

/-- A Circle reply on its way to its scratchpad (R337, R338), from the slice that applied or answered its request, if one did. -/
structure Reply where
  req : Nat
  slice : Option Nat
  key : PKey
  tix : Nat
  off : Nat
  bytes : List Byte
  bar : Nat
  count : Nat
  err : Word
  final : Bool
  deriving DecidableEq, Repr

/-! ### Dies, links, the device -/

/-- A compute die's route cache entry (R219): the object, the unit, its descriptor, the die. -/
structure Route where
  die : Nat
  obj : OKey
  unit : Nat
  desc : BitVec 128
  deriving DecidableEq, Repr

/-- A base die (R427, R428): which station masters respond, their last heartbeats, which one has taken over, whether the
fallback sequencer refreshes, the capacity register, and the rows counted towards a map-out, each once with its layer. -/
structure Base where
  alive0 : Bool
  alive1 : Bool
  beat0 : Nat
  beat1 : Nat
  master : Nat
  fallback : Bool
  refreshed : Nat
  capacity : BitVec 32
  counted : List (Nat × Nat)
  deriving DecidableEq, Repr

/-- A steal request on its way (R388): the thief's die, the launch and the victim. -/
structure Steal where
  die : Nat
  launch : LKey
  victim : Nat
  deriving DecidableEq, Repr

/-- The start-up of the device (R430, R431). -/
inductive Boot where
  | off | stopped | ready
  deriving DecidableEq, Repr

/-- What system software finds of a command when it ends: its error code (R232, R339), or that the deletion of an object is
deferred (R219). -/
inductive Report where
  | failed (code : Word)
  | deferred (obj : OKey)
  deriving DecidableEq, Repr

/-- A hot-remove event (R427): the layer of a stack, and the objects with extents in it. -/
structure HotRemove where
  stack : Nat
  layer : Nat
  objects : List OKey
  deriving DecidableEq, Repr

/-- The image of a core in the save area of a context (R396, R415). `left` holds the parcels that have been restored from it, as
it holds them; a parcel not yet restored stands among the parcels, in phase `saved`. -/
structure Image where
  ctx : Nat
  core : Nat
  left : List Parcel
  deriving DecidableEq, Repr

/-- The issue group whose instruction `exec` executes (R114, R116). -/
structure Group where
  core : Nat
  key : PKey
  tixs : List Nat
  pc : Word
  size : Nat
  deriving DecidableEq, Repr

/-- The state of the device. `schedule`, `choice`, `nextUid` and `group` are the model's own. `clk` is `%clk`, one count
of the arithmetic clock for every core (R10, R409). `chips` holds the chip number that each peer port reports, by link (R429);
`msixTable` the entry of vector v of function f, at 256 f + v (R429); `touched` how often requests have touched each unit of the
LP tier (R223). `firmware` holds the images by type, `vendorKey` the public key they come with, `fuseKey` and `fuseVersions` what
the fuses hold (R430); `signatures` the signatures made on request. -/
structure State where
  schedule : List Move
  choice : Nat
  nextUid : Nat
  group : Option Group
  command : Command
  tb : Nat
  clk : Nat
  boot : Boot
  bootStatus : BitVec 16
  firmware : Tbl (List Byte)
  vendorKey : List Byte
  fuseKey : List Byte
  fuseVersions : Tbl Nat
  measurements : List (List Byte)
  signatures : List (List Byte)
  hbm : Mem
  lp : Mem
  weight : Mem
  link : Mem
  memFaults : List MemFault
  poison : List (Tier × Nat)
  parcels : List Parcel
  launches : List Launch
  ctxs : Tbl Ctx
  cores : Tbl Core
  regions : List Region
  slices : Tbl Slice
  circle : List CircleReq
  replies : List Reply
  nodes : List Node
  routes : List Route
  migrations : List Migration
  bases : Tbl Base
  steals : List Steal
  linksDown : List Nat
  chips : Tbl Nat
  msixTable : Tbl (BitVec 128)
  touched : Tbl Nat
  images : List Image
  lanesDown : List (Nat × Nat)
  tests : List TestReq
  errorRing : List (BitVec 256)
  hotRemove : List HotRemove
  msix : List (Nat × Nat)
  reports : List Report
  latched : Nat
  latchedClk : Nat
  window : Nat
  deriving DecidableEq, Repr

/-- The machine never stops with a fault, so this type has no constructor: every fault the spec describes is a trap that is
taken, a request that fails or a launch that ends, and the device goes on (R398, R232, R405). -/
inductive Fault where
  deriving DecidableEq, Repr

/-- Why an instruction or a step of the device has no effect now. -/
inductive Refusal where
  /-- Raised by the arms of `exec` that have no meaning yet. Safe. -/
  | notModelled (mnemonic : String)
  /-- Raised by a step of the device whose condition does not hold in this state (nothing to deliver, no such request):
  the step does not happen. Safe: `step` goes on with the next move. -/
  | notEnabled (mnemonic : String)
  /-- Raised by an instruction that is executed with no issuing group. `step` never does so. Safe. -/
  | noGroup
  deriving DecidableEq, Repr

/-- The device before its start (R431): nothing has started, no link is trained, every table is empty, every memory byte is 0. The
boot status 0 and the counts are the values the spec gives or that log entry 2 names. -/
def State.reset : State where
  schedule := []
  choice := 0
  nextUid := 1
  group := none
  command := {}
  tb := 0
  clk := 0
  boot := .off
  bootStatus := 0
  firmware := []
  vendorKey := []
  fuseKey := []
  fuseVersions := []
  measurements := []
  signatures := []
  hbm := []
  lp := []
  weight := []
  link := []
  memFaults := []
  poison := []
  parcels := []
  launches := []
  ctxs := []
  cores := []
  regions := []
  slices := []
  circle := []
  replies := []
  nodes := []
  routes := []
  migrations := []
  bases := []
  steals := []
  linksDown := [0, 1, 2, 3, 4, 5, 6, 7, 8, 9]
  chips := []
  msixTable := []
  touched := []
  images := []
  lanesDown := []
  tests := []
  errorRing := []
  hotRemove := []
  msix := []
  reports := []
  latched := 0
  latchedClk := 0
  window := 0

end Sys2Proof.Machine
end

