-- ==== Sys2Proof/Machine/Tables.lean ====
section
/-!
DEFINITION. Reading and writing of sparse tables and memories in their canonical form, and the byte order of values (R8).
-/

namespace Sys2Proof.Machine

/-! ### Sparse tables -/

/-- The value at a key; `d` is what an unlisted key reads as. -/
def Tbl.get {α : Type} (d : α) : Tbl α → Nat → α
  | [], _ => d
  | (k, v) :: rest, i => if k = i then v else Tbl.get d rest i

/-- Put `v` at key `i`, in rising order of keys. -/
def Tbl.ins {α : Type} (i : Nat) (v : α) : Tbl α → Tbl α
  | [] => [(i, v)]
  | (k, w) :: rest => if i < k then (i, v) :: (k, w) :: rest else if i = k then (i, v) :: rest else (k, w) :: Tbl.ins i v rest

/-- Unlist key `i`. -/
def Tbl.del {α : Type} (i : Nat) : Tbl α → Tbl α
  | [] => []
  | (k, w) :: rest => if k = i then Tbl.del i rest else (k, w) :: Tbl.del i rest

/-- Write `v` at key `i`: an entry that would equal what an unlisted key reads as is unlisted. -/
def Tbl.put {α : Type} [DecidableEq α] (d : α) (t : Tbl α) (i : Nat) (v : α) : Tbl α :=
  if v = d then Tbl.del i t else Tbl.ins i v t

/-- The canonical form: keys strictly rise and no entry equals the default. -/
def Tbl.wf {α : Type} [DecidableEq α] (d : α) : Tbl α → Bool
  | [] => true
  | [(_, v)] => decide (v ≠ d)
  | (k, v) :: (k', v') :: rest => decide (k < k') && decide (v ≠ d) && Tbl.wf d ((k', v') :: rest)

/-! ### Memories -/

/-- What a byte that nothing has written reads as (R178, R268, R431). -/
def Mem.unlisted : Byte := 0

/-- The byte at an address. -/
def Mem.byte (m : Mem) (a : Nat) : Byte := Tbl.get Mem.unlisted m a

/-- Write one byte. -/
def Mem.setByte (m : Mem) (a : Nat) (b : Byte) : Mem := Tbl.put Mem.unlisted m a b

/-- The `n` bytes from an address on. -/
def Mem.read (m : Mem) (a n : Nat) : List Byte := (List.range n).map (fun i => Mem.byte m (a + i))

/-- Write bytes from an address on. -/
def Mem.write (m : Mem) (a : Nat) : List Byte → Mem
  | [] => m
  | b :: bs => Mem.write (Mem.setByte m a b) (a + 1) bs

/-- The canonical form of a memory. -/
def Mem.wf (m : Mem) : Bool := Tbl.wf Mem.unlisted m

/-! ### Values and bytes (R8) -/

/-- The number that bytes hold, least significant byte first. -/
def leNat : List Byte → Nat
  | [] => 0
  | b :: bs => b.toNat + 256 * leNat bs

/-- The `n` bytes of a number, least significant first. -/
def leBytes : Nat → Nat → List Byte
  | 0, _ => []
  | n + 1, v => BitVec.ofNat 8 v :: leBytes n (v / 256)

/-- The `n`-byte number at an address. -/
def Mem.nat (m : Mem) (a n : Nat) : Nat := leNat (Mem.read m a n)

/-- Write the `n`-byte number `v` at an address. -/
def Mem.setNat (m : Mem) (a n v : Nat) : Mem := Mem.write m a (leBytes n v)

/-- Bits [hi:lo] of a number (R15). -/
def bitsOf (x hi lo : Nat) : Nat := (x >>> lo) % 2 ^ (hi + 1 - lo)

/-- `x` with bits [hi:lo] replaced by `v`. -/
def setBits (x hi lo v : Nat) : Nat :=
  x - (bitsOf x hi lo) * 2 ^ lo + (v % 2 ^ (hi + 1 - lo)) * 2 ^ lo

/-- A flag as a number. -/
def bit (b : Bool) : Nat := if b then 1 else 0

/-- The smallest multiple of `m` at or above `n`. -/
def roundUp (n m : Nat) : Nat := (n + m - 1) / m * m

/-- ⌈a / b⌉. -/
def ceilDiv (a b : Nat) : Nat := (a + b - 1) / b

/-- The number below 2^w with this value modulo 2^w. -/
def wrapInt (e : Int) (w : Nat) : Nat := (e % (2 ^ w : Nat)).toNat

/-- The signed reading of a w-bit number. -/
def signedOf (x w : Nat) : Int := if x < 2 ^ (w - 1) then x else (x : Int) - (2 ^ w : Nat)

/-- The list without its `i`-th element. -/
def dropAt {α : Type} (l : List α) (i : Nat) : List α := l.take i ++ l.drop (i + 1)

/-- Sort by a key, keeping the order of equal keys. -/
def insertBy {α : Type} (le : α → α → Bool) (x : α) : List α → List α
  | [] => [x]
  | y :: ys => if le y x then y :: insertBy le x ys else x :: y :: ys

/-- Stable insertion sort. -/
def sortBy {α : Type} (le : α → α → Bool) (l : List α) : List α := l.foldl (fun acc x => insertBy le x acc) []

end Sys2Proof.Machine
end

