-- ==== Sys2Proof/Machine/Num.lean ====
section
/-!
DEFINITION. Numbers and formats (R14, R15, R81 to R108): exact extended values, `Value`, `Round` and `Sat`, and the exact
functions of R166. Values are exact fractions; the functions with irrational results are bracketed by exact fractions
until both ends of the bracket round alike.
-/

namespace Sys2Proof.Machine

/-- An exact value (R14, R86): NaN, an infinity, or ±n/d with d > 0, so that −0 differs from +0. -/
inductive Val where
  | nan
  | inf (neg : Bool)
  | fin (neg : Bool) (n d : Nat)
  deriving DecidableEq, Repr

/-- A floating-point format of R84. `noInf` are E4M3 and E2M1; `top` is the pattern of the largest finite magnitude. -/
structure Fmt where
  expBits : Nat
  fracBits : Nat
  bias : Nat
  noInf : Bool
  top : Nat
  nan : Nat
  deriving DecidableEq, Repr

/-- binary64 (R84, R87). -/
def Fmt.f64 : Fmt := ⟨11, 52, 1023, false, 0x7FEFFFFFFFFFFFFF, 0x7FF8000000000000⟩
/-- binary32 (R84, R87). -/
def Fmt.f32 : Fmt := ⟨8, 23, 127, false, 0x7F7FFFFF, 0x7FC00000⟩
/-- binary16 (R84, R87). -/
def Fmt.f16 : Fmt := ⟨5, 10, 15, false, 0x7BFF, 0x7E00⟩
/-- BF16 (R84, R87). -/
def Fmt.bf16 : Fmt := ⟨8, 7, 127, false, 0x7F7F, 0x7FC0⟩
/-- E5M2 (R84, R87). -/
def Fmt.e5m2 : Fmt := ⟨5, 2, 15, false, 0x7B, 0x7E⟩
/-- E4M3: exponent field 15 holds finite values but for fraction 7 (R84, R85, R87). -/
def Fmt.e4m3 : Fmt := ⟨4, 3, 7, true, 0x7E, 0x7F⟩
/-- E2M1, the MXFP4 element: NaN rounds to +0 (R84, R92). -/
def Fmt.e2m1 : Fmt := ⟨2, 1, 1, true, 7, 0⟩
/-- xf32 (R84, R87, R91). -/
def Fmt.xf32 : Fmt := ⟨10, 23, 511, false, 0x1FF7FFFFF, 0x1FFC00000⟩

/-- The rounding modes (R15); `sr` carries the step u of the generator (R94, R95). -/
inductive RMode where
  | rne | rz | rp | rm
  | sr (u : Nat)
  deriving DecidableEq, Repr

/-- The mode a rounding code names (R69); the code of sr is not among them. -/
def RMode.ofCode (v : Nat) : RMode :=
  match v with
  | 0 => .rne | 1 => .rz | 2 => .rp | _ => .rm

/-- +0. -/
def Val.zero : Val := .fin false 0 1
/-- 1. -/
def Val.one : Val := .fin false 1 1
/-- An integer as a value. -/
def Val.ofInt (i : Int) : Val := .fin (decide (i < 0)) i.natAbs 1

/-- n × 2^e with a sign. -/
def Val.scaled (neg : Bool) (n : Nat) (e : Int) : Val :=
  if e < 0 then .fin neg n (2 ^ e.natAbs) else .fin neg (n * 2 ^ e.toNat) 1

/-- Value(b, fmt) for a floating-point format (R85). -/
def Fmt.value (f : Fmt) (b : Nat) : Val :=
  let s := b.testBit (f.expBits + f.fracBits)
  let e := bitsOf b (f.expBits + f.fracBits - 1) f.fracBits
  let m := b % 2 ^ f.fracBits
  if f.noInf && f.nan != 0 && e == 2 ^ f.expBits - 1 && m == 2 ^ f.fracBits - 1 then .nan
  else if !f.noInf && e == 2 ^ f.expBits - 1 then (if m = 0 then .inf s else .nan)
  else if e = 0 then .scaled s m (1 - (f.bias : Int) - f.fracBits)
  else .scaled s (2 ^ f.fracBits + m) ((e : Int) - f.bias - f.fracBits)

/-- The sign bit of a format. -/
def Fmt.sign (f : Fmt) (neg : Bool) : Nat := if neg then 2 ^ (f.expBits + f.fracBits) else 0

/-- ⌊log2 (n/d)⌋ for n, d > 0. -/
def log2Frac (n d : Nat) : Int :=
  let e : Int := (Nat.log2 n : Int) - Nat.log2 d
  let ge : Bool := if e < 0 then d ≤ n * 2 ^ e.natAbs else d * 2 ^ e.toNat ≤ n
  if ge then e else e - 1

/-- The exponent of the unit in the last place of a magnitude n/d in a format, subnormals included (R92). -/
def Fmt.quantum (f : Fmt) (n d : Nat) : Int := max (log2Frac n d) (1 - (f.bias : Int)) - f.fracBits

/-- n/d divided by 2^q, as a fraction. -/
def overTwo (n d : Nat) (q : Int) : Nat × Nat := if q < 0 then (n * 2 ^ q.natAbs, d) else (n, d * 2 ^ q.toNat)

/-- Whether a magnitude with integer part `k` and remainder `r` of `d` rounds up (R92, R95). -/
def RMode.up (mode : RMode) (neg : Bool) (k r d : Nat) : Bool :=
  match mode with
  | .rne => decide (d < 2 * r) || (d == 2 * r && k % 2 == 1)
  | .rz => false
  | .rp => !neg && r != 0
  | .rm => neg && r != 0
  | .sr u => decide (u * d < r * 2 ^ 32)

/-- The result beyond the largest finite magnitude (R92). -/
def Fmt.overflow (f : Fmt) (neg : Bool) (mode : RMode) : Nat :=
  let infinite := match mode with
    | .rne | .sr _ => true
    | .rz => false
    | .rp => !neg
    | .rm => neg
  f.sign neg + (if infinite && !f.noInf then f.top + 1 else f.top)

/-- The pattern of a magnitude n/d > 0 rounded to the format with the exponent unbounded above, before the sign (R92). -/
def Fmt.magnitude (f : Fmt) (neg : Bool) (n d : Nat) (mode : RMode) : Nat :=
  let q := f.quantum n d
  let (a, b) := overTwo n d q
  let k := a / b
  let k' := if mode.up neg k (a % b) b then k + 1 else k
  (q + f.fracBits + f.bias - 1).toNat * 2 ^ f.fracBits + k'

/-- Round(x, fmt, mode) for a floating-point format (R86, R87, R92, R95). -/
def Fmt.round (f : Fmt) (mode : RMode) : Val → Nat
  | .nan => f.nan
  | .inf neg => f.sign neg + (if f.noInf then f.top else f.top + 1)
  | .fin neg n d =>
    if n = 0 then f.sign neg
    else
      let mode' := match mode with
        | .sr _ => if f.top < f.magnitude false n d .rp then .rne else mode
        | _ => mode
      let m := f.magnitude neg n d mode'
      if f.top < m then f.overflow neg mode' else f.sign neg + m

/-! ### Exact arithmetic (R14, R86, R166, R167) -/

/-- −x. -/
def Val.neg : Val → Val
  | .nan => .nan
  | .inf s => .inf (!s)
  | .fin s n d => .fin (!s) n d

/-- |x|. -/
def Val.abs : Val → Val
  | .nan => .nan
  | .inf _ => .inf false
  | .fin _ n d => .fin false n d

/-- The sign of a value; NaN has none. -/
def Val.isNeg : Val → Bool
  | .nan => false
  | .inf s => s
  | .fin s _ _ => s

/-- Whether a value is ±0. -/
def Val.isZero : Val → Bool
  | .fin _ n _ => n == 0
  | _ => false

/-- The numerator with its sign. -/
def sgnNat (neg : Bool) (n : Nat) : Int := if neg then -(n : Int) else n

/-- x + y. An exact zero from a cancellation is −0 under rm and +0 otherwise (R86); ∞ − ∞ is NaN (R167). -/
def Val.add (down : Bool) : Val → Val → Val
  | .nan, _ => .nan
  | _, .nan => .nan
  | .inf s, .inf t => if s = t then .inf s else .nan
  | .inf s, _ => .inf s
  | _, .inf t => .inf t
  | .fin s n d, .fin t m e =>
    let a := sgnNat s n * e + sgnNat t m * d
    if a = 0 then (if s = t then .fin s 0 1 else .fin down 0 1)
    else .fin (decide (a < 0)) a.natAbs (d * e)

/-- x × y; 0 × ∞ is NaN (R167). -/
def Val.mul : Val → Val → Val
  | .nan, _ => .nan
  | _, .nan => .nan
  | .inf s, y => if y.isZero then .nan else .inf (s != y.isNeg)
  | x, .inf t => if x.isZero then .nan else .inf (x.isNeg != t)
  | .fin s n d, .fin t m e => .fin (s != t) (n * m) (d * e)

/-- x / y; 0/0 and ∞/∞ are NaN, and a non-zero x over 0 is infinite (R167). -/
def Val.div : Val → Val → Val
  | .nan, _ => .nan
  | _, .nan => .nan
  | .inf s, y => match y with
    | .inf _ => .nan
    | _ => .inf (s != y.isNeg)
  | .fin s _ _, .inf t => .fin (s != t) 0 1
  | .fin s n d, .fin t m e =>
    if m = 0 then (if n = 0 then .nan else .inf (s != t)) else .fin (s != t) (n * e) (d * m)

/-- x × 2^n; the exponent is cut where every format has overflowed or underflowed alike. -/
def Val.scale (k : Int) : Val → Val
  | .fin s n d =>
    let k := max (-6000) (min 6000 k)
    if k < 0 then .fin s n (d * 2 ^ k.natAbs) else .fin s (n * 2 ^ k.toNat) d
  | x => x

/-- x < y as numbers: −0 equals +0, and NaN compares false (R86). -/
def Val.lt : Val → Val → Bool
  | .nan, _ => false
  | _, .nan => false
  | .inf s, .inf t => s && !t
  | .inf s, _ => s
  | _, .inf t => !t
  | .fin s n d, .fin t m e => decide (sgnNat s n * e < sgnNat t m * d)

/-- x = y as numbers. -/
def Val.eq : Val → Val → Bool
  | .nan, _ => false
  | _, .nan => false
  | .inf s, .inf t => s == t
  | .fin s n d, .fin t m e => decide (sgnNat s n * e = sgnNat t m * d)
  | _, _ => false

/-- x ≤ y as numbers; false for NaN. -/
def Val.le (x y : Val) : Bool := x.lt y || x.eq y

/-- The larger value, the first where they are equal. -/
def Val.max (x y : Val) : Val := if x.lt y then y else x

/-- An integer part and remainder rounded under a mode, as an unsigned magnitude (R93). -/
def RMode.toNat (mode : RMode) (neg : Bool) (n d : Nat) : Nat :=
  if mode.up neg (n / d) (n % d) d then n / d + 1 else n / d

/-- The least and greatest value of an integer type of width w (R82). -/
def intRange (signed : Bool) (w : Nat) : Int × Int :=
  if signed then (-(2 ^ (w - 1) : Nat), (2 ^ (w - 1) : Nat) - 1) else (0, (2 ^ w : Nat) - 1)

/-- Sat of an integer (R15). -/
def satInt (signed : Bool) (w : Nat) (e : Int) : Int :=
  let (lo, hi) := intRange signed w
  max lo (min hi e)

/-- Round into an integer format: to an integer under the mode, then Sat; NaN gives 0 (R93). -/
def roundInt (signed : Bool) (w : Nat) (mode : RMode) : Val → Int
  | .nan => 0
  | .inf s => if s then (intRange signed w).1 else (intRange signed w).2
  | .fin s n d => satInt signed w (sgnNat s (mode.toNat s n d))

/-- Rounding to an integral value with the sign kept (R174). -/
def Val.integral (mode : RMode) : Val → Val
  | .fin s n d => .fin s (mode.toNat s n d) 1
  | x => x

/-! ### Functions with irrational results (R166, R167) -/

/-- A positive value just beside the fraction r/s: the exact r/s where `exact`, else a value inside (r/s, (r+1)/s). -/
def beside (exact : Bool) (r s : Nat) : Val := if exact then .fin false r s else .fin false (2 * r + 1) (2 * s)

/-- √x for x ≥ 0, as a value that rounds as √x does: the square root to 700 further bits, and whether it was exact. -/
def Val.sqrt : Val → Val
  | .nan => .nan
  | .inf s => if s then .nan else .inf false
  | .fin s n d =>
    if n = 0 then .fin s 0 1
    else if s then .nan
    else
      let v := n * d * 4 ^ 700
      let r := Nat.sqrt v
      beside (r * r == v) r (d * 2 ^ 700)

/-- 1/√x, likewise. -/
def Val.rsqrt : Val → Val
  | .nan => .nan
  | .inf s => if s then .nan else .fin false 0 1
  | .fin s n d =>
    if n = 0 then .inf s
    else if s then .nan
    else
      let r := Nat.sqrt (d * 4 ^ 1300 / n)
      beside (r * r * n == d * 4 ^ 1300) r (2 ^ 1300)

/-- Σ over k of (±) y^(2k+1)/(2k+1) in fixed point with P bits: `alt` for arctan, else artanh. `t` is the running power. -/
def atanSum (alt : Bool) (p : Nat) (y2 : Int) : Nat → Nat → Int → Int
  | 0, _, _ => 0
  | fuel + 1, k, t =>
    let term := t / (2 * k + 1)
    (if alt && k % 2 == 1 then -term else term) + atanSum alt p y2 fuel (k + 1) (t * y2 / 2 ^ p)

/-- artanh(a/b) or arctan(a/b) in fixed point with P bits. -/
def atanFix (alt : Bool) (p a b : Nat) : Int :=
  let y : Int := a * 2 ^ p / b
  atanSum alt p (y * y / 2 ^ p) (p + 8) 0 y

/-- ln 2 in fixed point. -/
def ln2Fix (p : Nat) : Int := 2 * atanFix false p 1 3

/-- π in fixed point (Machin). -/
def piFix (p : Nat) : Int := 16 * atanFix true p 1 5 - 4 * atanFix true p 1 239

/-- Σ of y^k/k! from the k-th term on, every `step`-th term with alternating signs if `alt`. -/
def powSum (alt : Bool) (step p : Nat) (y : Int) : Nat → Nat → Int → Int
  | 0, _, _ => 0
  | fuel + 1, k, t =>
    let next := (List.range step).foldl (fun (a : Int) (i : Nat) => a * y / 2 ^ p / ((k + i + 1 : Nat) : Int)) t
    t + powSum alt step p y fuel (k + step) (if alt then -next else next)

/-- A bracket (lo, hi, exponent of the unit) of a positive value in fixed point. -/
structure Bracket where
  lo : Int
  hi : Int
  p : Nat

/-- A fixed-point value with the error its computation can have made. -/
def bracket (p : Nat) (a : Int) : Bracket := ⟨a - (1024 + 64 * p), a + (1024 + 64 * p), p⟩

/-- A fixed-point number as a value. -/
def fixNum (neg : Bool) (a : Int) (p : Nat) (e : Int) : Val := (Val.fin (decide (a < 0) != neg) a.natAbs (2 ^ p)).scale e

/-- Round a bracketed value times 2^e: where both ends give the same pattern that is the result; otherwise try the next
precision. The last precision of the list decides for every operand of the four formats. -/
def decideRound (f : Fmt) (mode : RMode) (neg : Bool) (e : Int) (at' : Nat → Bracket) : List Nat → Nat
  | [] => f.nan
  | p :: ps =>
    let b := at' p
    let lo := f.round mode (fixNum neg b.lo b.p e)
    if lo = f.round mode (fixNum neg b.hi b.p e) || ps.isEmpty then lo else decideRound f mode neg e at' ps

/-- The precisions tried. -/
def precisions : List Nat := [160, 320, 1300, 2600]

/-- The integer part (floor) and the fraction in fixed point of ±n/d. -/
def floorFix (s : Bool) (n d p : Nat) : Int × Int :=
  let a := sgnNat s n
  (a / d, a % d * 2 ^ p / d)

/-- 2^x rounded (R166, R167). -/
def roundExp2 (f : Fmt) (mode : RMode) : Val → Nat
  | .nan => f.nan
  | .inf s => if s then f.round mode .zero else f.round mode (.inf false)
  | .fin s n d =>
    if n = 0 then f.round mode .one
    else if 4000 * d < n then f.round mode (Val.one.scale (if s then -4000 else 4000))
    else if n * 2 ^ 80 < d then f.round mode (.fin false (if s then 2 ^ 100 - 1 else 2 ^ 100 + 1) (2 ^ 100))
    else if n % d = 0 then f.round mode (Val.one.scale (sgnNat s (n / d)))
    else decideRound f mode false (floorFix s n d 0).1
      (fun p => bracket p (powSum false 1 p ((floorFix s n d p).2 * ln2Fix p / 2 ^ p) (p + 8) 0 (2 ^ p))) precisions

/-- log2 x rounded (R166, R167). -/
def roundLog2 (f : Fmt) (mode : RMode) : Val → Nat
  | .nan => f.nan
  | .inf s => if s then f.nan else f.round mode (.inf false)
  | .fin s n d =>
    if n = 0 then f.round mode (.inf true)
    else if s then f.nan
    else
      let e := log2Frac n d
      let (a, b) := overTwo n d e
      if a = b then f.round mode (.ofInt e)
      else
        let ofFix (p : Nat) : Int := e * 2 ^ p + 2 * atanFix false p (a - b) (a + b) * 2 ^ p / ln2Fix p
        if e < 0 then decideRound f mode true 0 (fun p => bracket p (-(ofFix p))) precisions
        else decideRound f mode false 0 (fun p => bracket p (ofFix p)) precisions

/-- sin(π t) or cos(π t) for 0 ≤ t ≤ 1/4 in fixed point with `p` bits; `t` in the same fixed point. -/
def sinPiFix (p : Nat) (t : Int) : Int :=
  let y := t * piFix p / 2 ^ p
  powSum true 2 p y (p + 8) 1 y

/-- cos(π t), likewise. -/
def cosPiFix (p : Nat) (t : Int) : Int := powSum true 2 p (t * piFix p / 2 ^ p) (p + 8) 0 (2 ^ p)

/-- sin(π x) (`quarter` 0) or cos(π x) (`quarter` 1) rounded (R166, R167). A magnitude is brought into a quarter turn
with the fraction t/d of it, 0 ≤ t/d ≤ 1/4, from the nearer end. -/
def roundSinCos (quarter : Nat) (f : Fmt) (mode : RMode) : Val → Nat
  | .nan => f.nan
  | .inf _ => f.nan
  | .fin s n d =>
    if n = 0 then (if quarter = 0 then f.sign s else f.round mode .one)
    else
      -- x in half turns: q = nearest multiple of 1/2, t = |x| − q/2
      let m := n % (2 * d)
      let q := (4 * m + d) / (2 * d)
      let below := decide (4 * m < 2 * q * d)
      let t := if below then (2 * q * d - 4 * m) else (4 * m - 2 * q * d)
      let den := 4 * d
      -- sin(π|x|) is sin of the q-th quarter; cos is one quarter further
      let k := (q + quarter) % 4
      let negS := quarter == 0 && s
      if k % 2 = 0 then
        -- ± sin(π t), with the sign of the side
        let neg := (k == 2) != below
        if t = 0 then
          (if quarter = 0 then f.sign s else f.sign false)
        else
          let extra := (Nat.log2 den - Nat.log2 t) + 4
          decideRound f mode (neg != negS) 0
            (fun p => bracket (p + extra) (sinPiFix (p + extra) ((t * 2 ^ (p + extra) / den : Nat) : Int))) precisions
      else
        let neg := k == 3
        if t = 0 then f.round mode (.fin (neg != negS) 1 1)
        else if t * 2 ^ 60 < den then f.round mode (.fin (neg != negS) (2 ^ 100 - 1) (2 ^ 100))
        else decideRound f mode (neg != negS) 0
          (fun p => bracket p (cosPiFix p ((t * 2 ^ p / den : Nat) : Int))) precisions

end Sys2Proof.Machine
end

