-- ==== Sys2Proof/Machine/Operands.lean ====
section
/-!
DEFINITION. A thread's registers and every operand form of the spec: register fields at a width (R83, R150), literal zero
(R60), immediates (R61, R62), the writing of results, predicates, capabilities, scratchpad addresses (R42).
-/

namespace Sys2Proof
open Machine

/-! ### The values and patterns of a type -/

/-- Value(b, t) of an integer type (R82). -/
def TypeCode.intValue (ty : TypeCode) (b : Nat) : Int := if ty.signed then signedOf b ty.bits else b

/-- The floating-point format of a type (R84). -/
def TypeCode.fmt : TypeCode → Fmt
  | .f64 => .f64
  | .f16 => .f16
  | .bf16 => .bf16
  | .e4m3 => .e4m3
  | .e5m2 => .e5m2
  | _ => .f32

/-- Value(b, t) of any type a register holds (R15). -/
def TypeCode.value (ty : TypeCode) (b : Nat) : Val :=
  if ty.isInt then .ofInt (ty.intValue b) else ty.fmt.value b

/-- The register bits of a pattern of a type narrower than 64 bits: sign copies for .i, zeros otherwise (R83). -/
def TypeCode.extend (ty : TypeCode) (b : Nat) : Word :=
  if ty.signed then BitVec.ofInt 32 (signedOf (b % 2 ^ ty.bits) ty.bits) else BitVec.ofNat 32 (b % 2 ^ ty.bits)

/-- The predicate number in c[15:12] (R70). -/
def RWord.predC (x : RWord) : Nat := (x.c.extractLsb' 0 4).toNat

end Sys2Proof

namespace Sys2Proof.Machine

/-! ### Registers of a thread -/

/-- T.g[n] (R148). -/
def Thread.reg (t : Thread) (n : Nat) : Word := Tbl.get 0 t.g n

/-- T.g[n] ← v. -/
def Thread.setReg (t : Thread) (n : Nat) (v : Word) : Thread := { t with g := Tbl.put 0 t.g n v }

/-- T.p[n] (R149). -/
def Thread.pred (t : Thread) (n : Nat) : Bool := t.p.getLsbD n

/-- T.p[n] ← b. -/
def Thread.setPred (t : Thread) (n : Nat) (b : Bool) : Thread :=
  { t with p := (t.p &&& ~~~(1#16 <<< n)) ||| (if b then 1#16 <<< n else 0) }

/-- T.c[n] (R149, R212). -/
def Thread.cap (t : Thread) (n : Nat) : QWord := Tbl.get 0 t.c n

/-- T.c[n] ← k. -/
def Thread.setCap (t : Thread) (n : Nat) (k : QWord) : Thread := { t with c := Tbl.put 0 t.c n k }

/-- The pair gN, gN+1 read as one value, gN least significant (R36, R83). -/
def Thread.pair (t : Thread) (n : Nat) : DWord := (t.reg (n + 1)) ++ (t.reg n)

/-- The pair gN, gN+1 written. -/
def Thread.setPair (t : Thread) (n : Nat) (v : DWord) : Thread :=
  (t.setReg n (v.extractLsb' 0 32)).setReg (n + 1) (v.extractLsb' 32 32)

/-- One write to a destination. -/
def Thread.write (t : Thread) (w : Write) : Thread :=
  match w.dest with
  | .g n => t.setReg n (w.val.setWidth 32)
  | .p n => t.setPred n (w.val.getLsbD 0)
  | .c n => t.setCap n w.val

/-- Several writes in order. -/
def Thread.writeAll (t : Thread) (ws : List Write) : Thread := ws.foldl Thread.write t

/-! ### Operand forms (R83, R150) -/

/-- The 32-bit operand in a field read as unsigned (R150): 0 if its literal-zero flag is set. -/
def Thread.u (t : Thread) (f : BitVec 9) (zero : Bool) : Nat := if zero then 0 else (t.reg f.toNat).toNat

/-- The bits of a field at the width of a type (R83): the low bits of its register, or its pair. -/
def Thread.bits (t : Thread) (f : BitVec 9) (zero : Bool) (ty : TypeCode) : Nat :=
  if zero then 0
  else if ty.bits = 64 then (t.pair f.toNat).toNat
  else (t.reg f.toNat).toNat % 2 ^ ty.bits

/-- The 64-bit operand in a field. -/
def Thread.d64 (t : Thread) (f : BitVec 9) (zero : Bool) : Nat := if zero then 0 else (t.pair f.toNat).toNat

/-- In(f, t) for an integer type (R150). -/
def Thread.int (t : Thread) (f : BitVec 9) (zero : Bool) (ty : TypeCode) : Int := ty.intValue (t.bits f zero ty)

/-- In(f, t) for a floating-point type (R150). -/
def Thread.num (t : Thread) (f : BitVec 9) (zero : Bool) (ty : TypeCode) : Val := ty.value (t.bits f zero ty)

/-- imm21 sign-extended to 64 bits (R61). -/
def imm21Bits (i : BitVec 21) : Nat := (i.signExtend 64).toNat

/-- Imm(t) in format I, as a pattern (R150). -/
def immBits (i : BitVec 21) (ty : TypeCode) : Nat := imm21Bits i % 2 ^ ty.bits

/-- Imm(t) in the L form, as a pattern (R62, R150). -/
def longBits (i : DWord) (ty : TypeCode) : Nat := i.toNat % 2 ^ ty.bits

/-- Out(d, x, t) (R83, R150): the pattern `b` of type `ty` written to field `d`. -/
def Thread.out (t : Thread) (d : BitVec 9) (ty : TypeCode) (b : Nat) : Thread :=
  if ty.bits = 64 then t.setPair d.toNat (BitVec.ofNat 64 b) else t.setReg d.toNat (ty.extend b)

/-- A result of 32 bits. -/
def Thread.out32 (t : Thread) (d : BitVec 9) (b : Nat) : Thread := t.setReg d.toNat (BitVec.ofNat 32 b)

/-- A result of 64 bits in a pair. -/
def Thread.out64 (t : Thread) (d : BitVec 9) (b : Nat) : Thread := t.setPair d.toNat (BitVec.ofNat 64 b)

/-- A predicate result in d[3:0] (R67). -/
def Thread.outPred (t : Thread) (d : BitVec 9) (b : Bool) : Thread := t.setPred (d.toNat % 16) b

/-- The predicate a field names (R67). -/
def Thread.predField (t : Thread) (f : BitVec 9) : Bool := t.pred (f.toNat % 16)

/-- The effective address of a scratchpad operand (R42). -/
def Thread.address (t : Thread) (x : MWord) : Int := ((t.reg x.base.toNat).toNat : Int) + x.off16.toInt

/-- The writes of a result of a type: one register, or the pair. -/
def writesOf (ty : TypeCode) (d : Nat) (b : Nat) : List Write :=
  if ty.bits = 64 then [⟨.g d, BitVec.ofNat 128 (b % 2 ^ 32)⟩, ⟨.g (d + 1), BitVec.ofNat 128 (b / 2 ^ 32 % 2 ^ 32)⟩]
  else [⟨.g d, (ty.extend b).setWidth 128⟩]

/-- The writes of a pair. -/
def writesPair (d : Nat) (b : Nat) : List Write := writesOf .n64 d b

/-- The write of a 32-bit result. -/
def writes32 (d : Nat) (b : Nat) : List Write := writesOf .n32 d b

/-- The write of a predicate. -/
def writesPred (d : Nat) (b : Bool) : List Write := [⟨.p (d % 16), if b then 1 else 0⟩]

/-! ### Capabilities (R212) -/

/-- The object id of a capability. -/
def capObj (k : QWord) : Nat := (k.extractLsb' 104 24).toNat
/-- The eight rights bits, in the bit order of [103:96]. -/
def capRights (k : QWord) : Nat := (k.extractLsb' 96 8).toNat
/-- BASE. -/
def capBase (k : QWord) : Nat := (k.extractLsb' 48 48).toNat
/-- LEN. -/
def capLen (k : QWord) : Nat := (k.extractLsb' 0 48).toNat

/-- A capability from its fields. -/
def capOf (obj rights base len : Nat) : QWord :=
  (BitVec.ofNat 24 obj ++ BitVec.ofNat 8 rights ++ BitVec.ofNat 48 base ++ BitVec.ofNat 48 len : BitVec 128)

/-- The rights, by their bit in [103:96] (R212). -/
inductive Right where
  | r | w | x | m | d | a | c | q
  deriving DecidableEq, Repr

/-- The bit of a right. -/
def Right.bit : Right → Nat
  | .r => 0 | .w => 1 | .x => 2 | .m => 3 | .d => 4 | .a => 5 | .c => 6 | .q => 7

/-- The checks of R213 on offsets o to o + n − 1 with one of some rights: the detail of the first that fails. -/
def capCheck (k : QWord) (rights : List Right) (o n : Nat) : Option Nat :=
  if capObj k = 0 then some 1
  else if !(rights.any (fun g => (capRights k).testBit g.bit)) then some 2
  else if capLen k < o + n then some 3
  else none

end Sys2Proof.Machine
end

