-- ==== Sys2Proof/Machine/Flags.lean ====
section
/-!
DEFINITION. Every predicate the per-thread arithmetic computes (R71, R158, R169, R176, R177), and the step of the
stochastic-rounding state (R94).
-/

namespace Sys2Proof.Machine

/-- The conditions of CMP (R71). -/
def intCond (v : BitVec 3) (x y : Int) : Bool :=
  match v.toNat with
  | 0 => x == y
  | 1 => x != y
  | 2 => decide (x < y)
  | 3 => decide (x ≤ y)
  | 4 => decide (y < x)
  | _ => decide (y ≤ x)

/-- The conditions of FCMP: an unordered pair satisfies only .ne and .un (R71, R177). -/
def numCond (v : BitVec 3) (x y : Val) : Bool :=
  let un := x == .nan || y == .nan
  match v.toNat with
  | 0 => x.eq y
  | 1 => un || !(x.eq y)
  | 2 => x.lt y
  | 3 => x.le y
  | 4 => y.lt x
  | 5 => y.le x
  | 6 => un
  | _ => !un

/-- The functions of PLOP (R71). -/
def predFn (v : BitVec 3) (a b : Bool) : Bool :=
  match v.toNat with
  | 0 => a && b
  | 1 => a || b
  | 2 => a != b
  | 3 => a && !b
  | 4 => a || !b
  | 5 => !(a && b)
  | 6 => !(a || b)
  | _ => a == b

/-- The carry, borrow or signed overflow of ADDC and SUBB (R158). -/
def carryOut (ty : TypeCode) (e : Int) : Bool :=
  if ty.signed then decide (e < -(2 ^ (ty.bits - 1) : Nat)) || decide ((2 ^ (ty.bits - 1) : Nat) ≤ e)
  else decide (e < 0) || decide ((2 ^ ty.bits : Nat) ≤ e)

/-- The class of FCLASS (R169). -/
def classOf (f : Fmt) (b : Nat) : Nat :=
  match f.value b with
  | .nan => 8
  | .inf s => if s then 0 else 7
  | .fin s n _ =>
    let sub := bitsOf b (f.expBits + f.fracBits - 1) f.fracBits == 0
    if n = 0 then (if s then 3 else 4)
    else if sub then (if s then 2 else 5)
    else (if s then 1 else 6)

/-- One step of the generator (R94): the next state, which is also u. -/
def srStep (x : Word) : Word :=
  let x := x ^^^ (x <<< 13)
  let x := x ^^^ (x >>> 17)
  x ^^^ (x <<< 5)

/-- The state a thread is created with (R94). -/
def srInit (tid : Word) : Word := if tid ^^^ 0xA5A5A5A5 = 0 then 1 else tid ^^^ 0xA5A5A5A5

/-- MTSR to %srseed (R94). -/
def srStore (v : Word) : Word := if v = 0 then 1 else v

end Sys2Proof.Machine
end

