-- ==== Sys2Proof/Machine/Access.lean ====
section
/-!
DEFINITION. Names for the parts of the state: cores, parcels, threads, launches, contexts; the fields of launch packets,
context and queue descriptors (R372, R374, R380, R381); counters (R413); timelines (R227).
-/

namespace Sys2Proof

/-- The launch a parcel belongs to. -/
def PKey.launchKey (k : PKey) : LKey := ⟨k.ctx, k.launch⟩

/-- The parcel a thread belongs to. -/
def TRef.parcelKey (t : TRef) : PKey := ⟨t.ctx, t.launch, t.pix⟩

/-- A thread of a parcel. -/
def PKey.thread (k : PKey) (tix : Nat) : TRef := ⟨k.ctx, k.launch, k.pix, tix⟩

end Sys2Proof

namespace Sys2Proof.Machine

/-! ### Initial values -/

/-- The six counters at 0 (R206). -/
def Counts.zero : Counts := ⟨0, 0, 0, 0, 0, 0⟩

/-- The interval counts at 0 (R419). -/
def CoreCounts.zero : CoreCounts := ⟨0, 0, 0, 0, 0, 0, 0, 0, 0, 0⟩

/-- A timeline at context reset (R227). -/
def Timeline.zero : Timeline := ⟨0, [], 0, 0, 0, []⟩

/-- A core that holds nothing. -/
def Core.initial : Core where
  arithFree := 0
  otherFree := 0
  turn := 0
  entries := []
  segments := []
  port := []
  stores := []
  timelines := []
  copies := []
  index := []
  jobCursors := []
  matrix := []
  run := none
  drains := []
  opdReads := []
  sets := []
  watches := []
  wakes := []
  halting := false
  counts := CoreCounts.zero
  recentExit := []
  freed := []

/-- A context as it is before system software writes its descriptor (R372). -/
def Ctx.initial : Ctx where
  desc := 0
  objects := []
  leases := []
  journal := []
  counters := []
  debugAt := none
  halt := .none
  dumping := false
  sliceEnd := 0
  lastRestored := 0
  hbmBytes := 0
  energy := 0
  lastLaunch := 0
  sampledAt := 0
  mismatched := []

/-- A memory slice with nothing queued (R334). -/
def Slice.empty : Slice := ⟨[], [], (0, 0, 0)⟩

/-- A base die with both station masters (R427: NLAY 16, every layer in service). -/
def Base.initial : Base where
  alive0 := true
  alive1 := true
  beat0 := 0
  beat1 := 0
  master := 0
  fallback := false
  refreshed := 0
  capacity := 0x0010FFFF
  counted := []

/-- The detection state of a new thread (R363). -/
def Detect.empty : Detect := ⟨0, [], [], [], 0, false⟩

/-- A thread as it is created, before R112, R51 and R94 set its registers. -/
def Thread.initial : Thread where
  tix := 0
  slot := 0
  role := 0
  pc := 0
  status := .ready
  g := []
  p := 0
  c := []
  srseed := 1
  tcause := 0
  taddr := 0
  tpc := 0
  tsav0 := 0
  tsav1 := 0
  tstate := 0
  due := []
  pend := []
  deliver := []
  storeQ := []
  counts := Counts.zero
  own := []
  detect := Detect.empty
  fenceRelease := false
  fenceAcquire := false
  fenceNumber := false
  retired := 0
  reuse := none
  farLaps := []

/-- A parcel before its placement fills it. -/
def Parcel.initial (k : PKey) : Parcel where
  key := k
  core := 0
  place := 0
  phase := .preparing
  before := .preparing
  spBase := 0
  spSize := 0
  slotBase := 0
  slots := 0
  xhash := 0
  spad := []
  recs := []
  acc := []
  names := []
  series := []
  flags := []
  shadows := []
  resv := []
  consists := []
  threads := []
  landings := []
  counts := []
  phaseSums := []
  retired := 0
  savedCopies := []
  savedJobs := []
  savedMatrix := []
  savedSets := []
  savedWatches := []
  savedSegs := []
  savedIssued := []
  prep := 0
  savedBy := 0

/-! ### Parts of the state -/

/-- The number of cores (R2). -/
def coreCount : Nat := 320

/-- The core of a parcel that waits in its deque, and of the near sets that follow a saved one: none. -/
def noCore : Nat := 320

/-- The die of a core (R409 %core). -/
def dieOf (core : Nat) : Nat := core / 20

/-- The cluster of a core, numbered over the package. -/
def clusterOf (core : Nat) : Nat := core / 4

/-- A core. -/
def State.core (s : State) (c : Nat) : Core := Tbl.get Core.initial s.cores c

/-- Replace a core. -/
def State.setCore (s : State) (c : Nat) (v : Core) : State := { s with cores := Tbl.put Core.initial s.cores c v }

/-- Change a core. -/
def State.modCore (s : State) (c : Nat) (f : Core → Core) : State := s.setCore c (f (s.core c))

/-- A parcel that has been placed and not freed. -/
def State.parcel? (s : State) (k : PKey) : Option Parcel := s.parcels.find? (fun p => p.key == k)

/-- A parcel, or one that holds nothing. -/
def State.parcel (s : State) (k : PKey) : Parcel := (s.parcel? k).getD (Parcel.initial k)

/-- The core a parcel is on. -/
def State.coreOf (s : State) (k : PKey) : Nat := match s.parcel? k with
  | some p => p.core
  | none => 0

/-- Change a parcel. -/
def State.modParcel (s : State) (k : PKey) (f : Parcel → Parcel) : State :=
  { s with parcels := s.parcels.map (fun p => if p.key = k then f p else p) }

/-- A thread of a parcel. -/
def Parcel.thread? (p : Parcel) (tix : Nat) : Option Thread := p.threads.find? (fun t => t.tix == tix)

/-- Change a thread of a parcel. -/
def Parcel.modThread (p : Parcel) (tix : Nat) (f : Thread → Thread) : Parcel :=
  { p with threads := p.threads.map (fun t => if t.tix = tix then f t else t) }

/-- A thread. -/
def State.thread? (s : State) (k : PKey) (tix : Nat) : Option Thread :=
  match s.parcel? k with
  | some p => p.thread? tix
  | none => none

/-- Change a thread. -/
def State.modThread (s : State) (k : PKey) (tix : Nat) (f : Thread → Thread) : State :=
  s.modParcel k (fun p => p.modThread tix f)

/-- A launch that has been dispatched and has not ended. -/
def State.launch? (s : State) (l : LKey) : Option Launch := s.launches.find? (fun x => x.key == l)

/-- Change a launch. -/
def State.modLaunch (s : State) (l : LKey) (f : Launch → Launch) : State :=
  { s with launches := s.launches.map (fun x => if x.key = l then f x else x) }

/-- A context. -/
def State.ctx (s : State) (c : Nat) : Ctx := Tbl.get Ctx.initial s.ctxs c

/-- Change a context. -/
def State.modCtx (s : State) (c : Nat) (f : Ctx → Ctx) : State :=
  { s with ctxs := Tbl.put Ctx.initial s.ctxs c (f (s.ctx c)) }

/-- A base die. -/
def State.base (s : State) (d : Nat) : Base := Tbl.get Base.initial s.bases d

/-- Change a base die. -/
def State.modBase (s : State) (d : Nat) (f : Base → Base) : State :=
  { s with bases := Tbl.put Base.initial s.bases d (f (s.base d)) }

/-- A memory slice. -/
def State.slice (s : State) (n : Nat) : Slice := Tbl.get Slice.empty s.slices n

/-- Change a memory slice. -/
def State.modSlice (s : State) (n : Nat) (f : Slice → Slice) : State :=
  { s with slices := Tbl.put Slice.empty s.slices n (f (s.slice n)) }

/-- A serial number that nothing else bears. -/
def State.fresh (s : State) : Nat × State := (s.nextUid, { s with nextUid := s.nextUid + 1 })

/-! ### Launch packets (R380, R381) -/

/-- Bits [hi:lo] of a launch packet. -/
def Launch.field (l : Launch) (hi lo : Nat) : Nat := (l.packet.extractLsb' lo (hi + 1 - lo)).toNat

/-- N, the threads of the launch. -/
def Launch.n (l : Launch) : Nat := l.field 351 320 + 1
/-- P, the threads of a parcel. -/
def Launch.p (l : Launch) : Nat := l.field 393 384 + 1
/-- The chunk size c. -/
def Launch.chunk (l : Launch) : Nat := l.field 383 352 + 1
/-- The number of parcels ⌈N / P⌉ (R109). -/
def Launch.parcels (l : Launch) : Nat := ceilDiv l.n l.p
/-- The number of roles. -/
def Launch.roles (l : Launch) : Nat := l.field 395 394 + 1
/-- ENTRY of role k. -/
def Launch.roleEntry (l : Launch) (k : Nat) : Nat := (l.packet.extractLsb' (576 + 64 * k) 32).toNat
/-- The thread count of role k. -/
def Launch.roleCount (l : Launch) (k : Nat) : Nat := (l.packet.extractLsb' (608 + 64 * k) 10).toNat + 1
/-- The g-register budget of role k. -/
def Launch.roleRegs (l : Launch) (k : Nat) : Nat := 16 * ((l.packet.extractLsb' (618 + 64 * k) 5).toNat + 1)
/-- The reserved bits of role k's descriptor. -/
def Launch.roleReserved (l : Launch) (k : Nat) : Nat := (l.packet.extractLsb' (623 + 64 * k) 17).toNat
/-- Declared scratchpad bytes. -/
def Launch.scratch (l : Launch) : Nat := l.field 427 407
/-- Declared accumulator slots. -/
def Launch.slotCount (l : Launch) : Nat := l.field 406 400
/-- Region entries. -/
def Launch.nreg (l : Launch) : Nat := l.field 432 428
/-- The handler address, if the launch has a handler. -/
def Launch.handler (l : Launch) : Option Word :=
  if l.field 398 398 = 1 then some (l.packet.extractLsb' 448 32) else none
/-- The loader address, if the launch has a loader. -/
def Launch.loader (l : Launch) : Option Word :=
  if l.field 399 399 = 1 then some (l.packet.extractLsb' 480 32) else none
/-- `nonunif=`. -/
def Launch.nonunif (l : Launch) : Bool := l.field 397 397 == 1
/-- `ordered=`. -/
def Launch.ordered (l : Launch) : Bool := l.field 396 396 == 1
/-- The hash matrix X. -/
def Launch.xhash (l : Launch) : DWord := l.packet.extractLsb' 512 64
/-- CODELEN. -/
def Launch.codeLen (l : Launch) : Nat := l.field 319 288
/-- SDLEN. -/
def Launch.sdLen (l : Launch) : Nat := l.field 287 256
/-- SDATA. -/
def Launch.sdata (l : Launch) : Nat := l.field 255 192
/-- REGL. -/
def Launch.regl (l : Launch) : Nat := l.field 191 128
/-- OVL. -/
def Launch.ovl (l : Launch) : Nat := l.field 127 64
/-- NOVL. -/
def Launch.novl (l : Launch) : Nat := l.field 847 832
/-- CODE. -/
def Launch.codeAt (l : Launch) : Nat := l.field 63 0
/-- Initial capability k. -/
def Launch.cap (l : Launch) (k : Nat) : QWord := l.packet.extractLsb' (1024 + 128 * k) 128

/-- The role of a `%tix` from role k on, where `base` is the first `%tix` of role k (R48). -/
def Launch.roleFrom (l : Launch) (tix : Nat) : Nat → Nat → Nat → Nat
  | 0, k, _ => k
  | fuel + 1, k, base => if tix < base + l.roleCount k then k else l.roleFrom tix fuel (k + 1) (base + l.roleCount k)

/-- `%role` of a thread (R48, R110). -/
def Launch.roleOf (l : Launch) (tix : Nat) : Nat := l.roleFrom tix (l.roles - 1) 0 0

/-- The threads created in parcel `pix` (R109, R51). -/
def Launch.threadsOf (l : Launch) (pix : Nat) : Nat := min l.p (l.n - pix * l.p)

/-- The parcel's allotment A (R178). -/
def Launch.allotment (l : Launch) : Nat := roundUp l.scratch 1024

/-- The segments of the resident image (R126). -/
def Launch.imageSegments (l : Launch) : Nat := ceilDiv l.codeLen 16384

/-- A region entry read from its 32 bytes (R381). -/
def RegionEntry.ofNat (e : Nat) : RegionEntry where
  off0 := bitsOf e 255 208
  ostep := signedOf (bitsOf e 207 160) 48
  len0 := bitsOf e 159 112
  lstep := signedOf (bitsOf e 111 64) 48
  stage := bitsOf e 42 22
  staged := bitsOf e 21 21 == 1
  rights := bitsOf e 10 3
  cap := bitsOf e 2 0
  reserved := bitsOf e 63 43 + bitsOf e 20 11

/-- Region entry k of a launch (R381). -/
def Launch.region (l : Launch) (k : Nat) : RegionEntry := (l.regions[k]?).getD (RegionEntry.ofNat 0)

/-- The offset of a region for a parcel (R381). -/
def RegionEntry.offAt (e : RegionEntry) (pix : Nat) : Int := (e.off0 : Int) + e.ostep * pix

/-- The length of a region for a parcel (R381). -/
def RegionEntry.lenAt (e : RegionEntry) (pix : Nat) : Int := (e.len0 : Int) + e.lstep * pix

/-! ### Context descriptors (R372) -/

/-- Bits [hi:lo] of a context descriptor. -/
def Ctx.field (c : Ctx) (hi lo : Nat) : Nat := (c.desc.extractLsb' lo (hi + 1 - lo)).toNat

/-- QTAB. -/
def Ctx.qtab (c : Ctx) : Nat := c.field 511 448
/-- FRING. -/
def Ctx.fring (c : Ctx) : Nat := c.field 319 256
/-- JSIZE. -/
def Ctx.jsize (c : Ctx) : Nat := c.field 255 224
/-- FSOBJ. -/
def Ctx.fsobj (c : Ctx) : Nat := c.field 223 200
/-- HBMB. -/
def Ctx.hbmBudget (c : Ctx) : Nat := c.field 191 160
/-- ENERGY. -/
def Ctx.energyBudget (c : Ctx) : Nat := c.field 159 128
/-- SLICE in µs; a value below 10 reads as 10. -/
def Ctx.sliceLen (c : Ctx) : Nat := max 10 (c.field 127 112)
/-- PSLOTS. -/
def Ctx.pslots (c : Ctx) : Nat := c.field 111 100
/-- ENABLE. -/
def Ctx.enabled (c : Ctx) : Bool := c.field 0 0 == 1

/-- An object of a context's table. -/
def Ctx.object? (c : Ctx) (o : Nat) : Option ObjEntry := c.objects.find? (fun e => e.obj == o)

/-- An object. -/
def State.object? (s : State) (o : OKey) : Option ObjEntry := (s.ctx o.ctx).object? o.obj

/-- Change an object's entry. -/
def State.modObject (s : State) (o : OKey) (f : ObjEntry → ObjEntry) : State :=
  s.modCtx o.ctx (fun c => { c with objects := c.objects.map (fun e => if e.obj = o.obj then f e else e) })

/-- Bits [hi:lo] of an object-table entry (R217). -/
def ObjEntry.field (e : ObjEntry) (hi lo : Nat) : Nat := (e.word.extractLsb' lo (hi + 1 - lo)).toNat

/-- CLASS (R217): 0 free, 1 ordinary, 2 Circle, 3 weight, 4 far-set, 5 host, 6 peer. -/
def ObjEntry.cls (e : ObjEntry) : Nat := e.field 479 476
/-- SIZE. -/
def ObjEntry.size (e : ObjEntry) : Nat := e.field 447 400
/-- STRIPE. -/
def ObjEntry.stripe (e : ObjEntry) : Nat := e.field 465 462
/-- HOME. -/
def ObjEntry.home (e : ObjEntry) : Nat := e.field 461 458
/-- PIN. -/
def ObjEntry.pinned (e : ObjEntry) : Bool := e.field 473 473 == 1
/-- DEL. -/
def ObjEntry.deleting (e : ObjEntry) : Bool := e.field 472 472 == 1
/-- ACC. -/
def ObjEntry.acc (e : ObjEntry) : Nat := e.field 511 480

/-- Whether a lease of the context, not yet released, covers an object (R219, R221: STATE 1 to 3, OBJ). -/
def Ctx.leasesObject (c : Ctx) (obj : Nat) : Bool :=
  c.leases.any (fun l => (l.extractLsb' 152 24).toNat == obj && decide (1 ≤ (l.extractLsb' 184 4).toNat)
    && decide ((l.extractLsb' 184 4).toNat ≤ 3))

/-- The class of an object; 0 where the table has no entry, and where a deletion is no longer deferred (R217, R219). -/
def State.classOf (s : State) (o : OKey) : Nat := match s.object? o with
  | some e => if e.deleting && !(s.ctx o.ctx).leasesObject o.obj then 0 else e.cls
  | none => 0

/-! ### Counters and timelines -/

/-- One more in a counter of 64 bits, which saturates (R413). -/
def bump (n : Nat) : Nat := min (2 ^ 64 - 1) (n + 1)

/-- Add to a counter of R413; it saturates at 2^64 − 1. -/
def State.count (s : State) (ctx n k : Nat) : State :=
  if k = 0 then s
  else s.modCtx ctx (fun c => { c with counters := Tbl.put 0 c.counters n (min (2 ^ 64 - 1) (Tbl.get 0 c.counters n + k)) })

/-- The timeline of an engine context of a core (R227). -/
def Core.timeline (c : Core) (k : Nat) : Timeline := Tbl.get Timeline.zero c.timelines k

/-- Change a timeline. -/
def Core.modTimeline (c : Core) (k : Nat) (f : Timeline → Timeline) : Core :=
  { c with timelines := Tbl.put Timeline.zero c.timelines k (f (c.timeline k)) }

/-- DONE (R227): numbers given to no request count as complete. -/
def Timeline.done (t : Timeline) : Nat := t.running.foldl (fun d n => min d (n - 1)) t.issued

/-- The next number, given to a request that runs (R227). -/
def Timeline.issue (t : Timeline) : Timeline := { t with issued := t.issued + 1, running := t.running ++ [t.issued + 1] }

/-- Request `n` has completed. A restored request stands behind no running number (R243). -/
def Timeline.complete (t : Timeline) (n : Nat) (restored : Bool) : Timeline :=
  if restored then t else { t with running := t.running.filter (· != n) }

/-- Request `n` has failed with a code (R227, R232). -/
def Timeline.fail (t : Timeline) (n : Nat) (restored : Bool) (code : Word) : Timeline :=
  { t.complete n restored with
    failN := n, failC := code, nFail := if t.nFail = 0xFFFFFFFF then t.nFail else t.nFail + 1,
    recent := (t.recent ++ [n]).drop (t.recent.length + 1 - 64) }

/-- Whether a place in matrix order is a query, which is numbered by no timeline (R269). -/
def MatrixOp.isQuery : MatrixOp → Bool
  | .aser .. | .ainfo .. | .aflag .. => true
  | _ => false

/-- The requests of an engine context under way on a core (R19: room for 64). -/
def Core.load (c : Core) (k : Nat) : Nat :=
  match k with
  | 4 => c.index.length
  | 5 => (c.matrix.filter (fun r => !r.op.isQuery)).length + c.drains.length
  | 6 => c.sets.length
  | _ => (c.copies.filter (fun r => r.ctx == k)).length

/-- Whether an engine context has room for one more request (R26). -/
def Core.room (c : Core) (k : Nat) : Bool := c.load k < 64

/-- A counter of R206. -/
def Counts.get (c : Counts) : CntClass → Nat
  | .loads => c.loads
  | .stores => c.stores
  | .copies => c.copies
  | .matrix => c.matrix
  | .sets => c.sets
  | .circle => c.circle

/-- Change a counter of R206. -/
def Counts.upd (c : Counts) (k : CntClass) (f : Nat → Nat) : Counts :=
  match k with
  | .loads => { c with loads := f c.loads }
  | .stores => { c with stores := f c.stores }
  | .copies => { c with copies := f c.copies }
  | .matrix => { c with matrix := f c.matrix }
  | .sets => { c with sets := f c.sets }
  | .circle => { c with circle := f c.circle }

/-- One more operation of a class is outstanding. -/
def Thread.inc (t : Thread) (k : CntClass) : Thread := { t with counts := t.counts.upd k (· + 1) }

/-- One operation of a class is no longer outstanding. -/
def Thread.dec (t : Thread) (k : CntClass) : Thread := { t with counts := t.counts.upd k (· - 1) }

/-- Whether a status is runnable (R113). -/
def Status.runnable : Status → Bool
  | .ready | .short _ | .port | .engine _ => true
  | _ => false

/-- Whether a thread has exited. -/
def Thread.exited (t : Thread) : Bool := t.status == .exited

/-- Whether a parcel stands on a core: it is neither saved nor still in its deque. -/
def Parcel.placed (p : Parcel) : Bool :=
  match p.phase with
  | .preparing | .prepared | .saved => false
  | .starting | .running | .restoring => true

/-- The parcels on a core, in order of their residency places. -/
def State.residents (s : State) (c : Nat) : List Parcel :=
  sortBy (fun a b => decide (a.place ≤ b.place)) (s.parcels.filter (fun p => p.core == c && p.placed))

/-- What was freed on a core in this cycle, and is not allotted again in it (R27). -/
def State.late (s : State) (c : Nat) : List Freed := (s.core c).freed.filter (fun f => f.clk == s.clk)

/-- Something is freed on a core. -/
def State.noteFreed (s : State) (c : Nat) (f : Freed) : State :=
  s.modCore c (fun x => { x with freed := x.freed.filter (fun g => g.clk == s.clk) ++ [f] })

/-- Nothing of a context, to which what is freed is added. -/
def State.nothingFreed (s : State) (ctx : Nat) : Freed := ⟨s.clk, ctx, none, (0, 0), (0, 0), [], [], 0, [], 0⟩

/-- The slots that the threads of a parcel hold, with their registers (R27 step 1: EXIT frees them). -/
def State.slotsHeld (s : State) (p : Parcel) : List (Nat × Nat) :=
  (p.threads.filter (fun t => !t.exited)).map (fun t => (t.slot, match s.launch? p.key.launchKey with
    | some l => l.roleRegs t.role
    | none => 0))

/-- What a parcel holds on its core (R27 steps 1 and 2). -/
def State.holding (s : State) (p : Parcel) : Freed :=
  { s.nothingFreed p.key.ctx with
    place := some p.place, spad := (p.spBase, p.spSize), slots := (p.slotBase, p.slots), resv := p.resv, threads := s.slotsHeld p,
    consists := p.consists.length }

/-- What a launch holds on a core beside its parcels (R27 step 3). -/
def State.launchHolding (s : State) (l : LKey) (c : Nat) : Freed :=
  { s.nothingFreed l.ctx with
    segments := ((s.core c).segments.filter (fun g => g.launch == l)).length,
    sets := match s.launch? l with
      | some x => x.sets.filter (fun r => r.home == c && !r.far && !r.pending)
      | none => [] }

/-- Some parcels of a launch leave their cores, with all that the launch holds there. -/
def State.noteGone (s : State) (l : LKey) (ps : List Parcel) : State :=
  ps.foldl (fun s p => s.noteFreed p.core (s.holding p))
    (((ps.map (fun p => p.core)).dedup).foldl (fun s n => s.noteFreed n (s.launchHolding l n)) s)

/-- The identity `%tid` (R110). -/
def Launch.tid (l : Launch) (pix tix : Nat) : Word := BitVec.ofNat 32 (pix * l.p + tix)

end Sys2Proof.Machine
end

