-- ==== Sys2Proof/Machine/Memory.lean ====
section
/-!
DEFINITION. Device memory: the tiers, check values and poison (R423, R424), objects and their extents (R217 to R219,
R223), and the fault ring (R406 to R408, R422). A device address is a byte address of HBM (log entry 7).
-/

namespace Sys2Proof.Machine

/-- The memory of a tier. -/
def State.tier (s : State) : Tier → Mem
  | .hbm => s.hbm
  | .lp => s.lp
  | .weight => s.weight
  | .link => s.link

/-- Replace the memory of a tier. -/
def State.setTier (s : State) (t : Tier) (m : Mem) : State :=
  match t with
  | .hbm => { s with hbm := m }
  | .lp => { s with lp := m }
  | .weight => { s with weight := m }
  | .link => { s with link := m }

/-- A number in device memory. -/
def State.dev (s : State) (a n : Nat) : Nat := Mem.nat s.hbm a n

/-- Write a number into device memory. A device address at or beyond the 1 TiB of R2 names a further byte of the same store
(DESIGN CHOICE, log entry 7). -/
def State.setDev (s : State) (a n v : Nat) : State := { s with hbm := Mem.setNat s.hbm a n v }

/-! ### Fault records (R406 to R408, R422) -/

/-- The fields of a fault record (R407). -/
structure FaultRec where
  addr : Nat := 0
  len : Nat := 0
  launch : Nat := 0
  pix : Nat := 0
  obj : Nat := 0
  tix : Nat := 0
  queue : Nat := 0
  pc : Nat := 0
  code : Nat := 0
  code2 : Nat := 0
  kind : Nat := 0
  node : Nat := 0

/-- A record as a 512-bit number (R407). -/
def FaultRec.bits (r : FaultRec) (time ctx seq : Nat) : Nat :=
  (time % 2 ^ 64) <<< 448 ||| (r.addr % 2 ^ 64) <<< 384 ||| (r.len % 2 ^ 64) <<< 320 ||| (r.launch % 2 ^ 32) <<< 288
  ||| (r.pix % 2 ^ 32) <<< 256 ||| (r.obj % 2 ^ 24) <<< 232 ||| (r.tix % 2 ^ 10) <<< 222 ||| (r.queue % 16) <<< 218
  ||| (r.pc % 2 ^ 32) <<< 184 ||| (r.code % 2 ^ 32) <<< 152 ||| (r.code2 % 2 ^ 32) <<< 120 ||| (r.kind % 256) <<< 112
  ||| (ctx % 64) <<< 106 ||| (r.node % 2 ^ 32) <<< 64 ||| (seq % 2 ^ 32) <<< 32

/-- A record enters a fault ring whose words are good (R406): it is written whole, WIDX advances and MSI-X vector 0 is raised; or it is
counted in LOST. -/
def State.putRecord (s : State) (ctx : Nat) (r : FaultRec) : State :=
  let ring := (s.ctx ctx).fring
  let widx := s.dev ring 4
  let ridx := s.dev (ring + 4) 4
  let sz := s.dev (ring + 8) 1 % 32
  let lost := s.dev (ring + 12) 4
  if 4 ≤ sz && sz ≤ 16 && (widx + 2 ^ 32 - ridx) % 2 ^ 32 < 2 ^ sz then
    let s := s.setDev (ring + 64 + 64 * (widx % 2 ^ sz)) 64 (r.bits s.tb ctx widx)
    let s := s.setDev ring 4 ((widx + 1) % 2 ^ 32)
    { s with msix := s.msix ++ [(ctx, 0)] }
  else s.setDev (ring + 12) 4 (if lost = 2 ^ 32 - 1 then lost else lost + 1)

/-! ### Errors and check values (R424 to R426) -/

/-- Whether a 256-byte unit is poisoned (R424). -/
def State.poisoned (s : State) (t : Tier) (u : Nat) : Bool := s.poison.contains (t, u)

/-- Poison a unit. -/
def State.setPoison (s : State) (t : Tier) (u : Nat) : State :=
  if s.poisoned t u then s else { s with poison := (t, u) :: s.poison }

/-- The bytes that a check value or an ECC covers (R423): 256, and 64 in the weight store. -/
def checkBytes : Tier → Nat
  | .weight => 64
  | _ => 256

/-- The links of the device (R5), numbered as log entry 49 has it: 0 and 1 are PCI Express, 2 to 9 the peer ports. -/
def linkCount : Nat := 10

/-- Whether a link is a peer port (R5). -/
def isPeerPort (n : Nat) : Bool := decide (2 ≤ n) && decide (n < linkCount)

/-- The unit an error of a tier is recorded under (R426), its place, its layer, and its row of 1,024 bytes there: the device numbers
64 GiB of HBM per stack in 16 layers, 128 GiB of the LP tier per partition and 128 MiB of the weight store per die. -/
def errorPlace (t : Tier) (u : Nat) : UnitKind × Nat × Nat × Nat :=
  match t with
  | .hbm => (.hbmRow, u / 2 ^ 28, u / 2 ^ 24 % 16, u / 4 % 2 ^ 22)
  | .lp => (.lpRow, u / 2 ^ 29, 0, u / 4 % 2 ^ 27)
  | .weight => (.weightStore, u / 2 ^ 21, 0, u / 16 % 2 ^ 17)
  | .link => (if isPeerPort (u / 2 ^ 60) then .peerLane else .hostLane, u / 2 ^ 60, 0, 0)

/-- An error starts a targeted self-test, whose record is written when it ends (R426). -/
def State.startTest (s : State) (t : Tier) (u cls : Nat) : State :=
  let (unit, place, sub, row) := errorPlace t u
  { s with tests := s.tests ++ [⟨unit, cls, place, sub, row, match t with | .hbm => u * 256 | _ => 0⟩] }

/-- Verify one unit before its bytes are used (R233, R424): the error code, 0 where the bytes are good. A unit with a
pending error meets it here: kind 0 is corrected, kind 1 uncorrectable, kind 2 a mismatch that the retry clears, kind 3
one that it does not. -/
def State.verify (s : State) (t : Tier) (u : Nat) : State × Nat :=
  if s.poisoned t u then (s, 0x21)
  else
    match s.memFaults.find? (fun f => f.tier == t && f.unit == u) with
    | none => (s, 0)
    | some f =>
      let s := { s with memFaults := s.memFaults.filter (fun g => !(g.tier == t && g.unit == u)) }
      match f.kind with
      | 0 => (s.startTest t u 0, 0)
      | 1 => ((s.setPoison t u).startTest t u 1, 0x20)
      | 2 => (s.startTest t u 2, 0)
      | _ => ((s.setPoison t u).startTest t u 2, 0x21)

/-- Verify the units that bytes a to a + n − 1 of a tier touch; the first code that is not 0. -/
def State.verifyAll (s : State) (t : Tier) (a n : Nat) : State × Nat :=
  if n = 0 then (s, 0)
  else (List.range ((a + n - 1) / checkBytes t - a / checkBytes t + 1)).foldl
    (fun (r : State × Nat) i => if r.2 != 0 then r else r.1.verify t (a / checkBytes t + i)) (s, 0)

/-- FAULT_RECORD_WRITE (R406). The words of the ring are verified as they are read (R423): where their bytes are bad no record can be
written, and the device error ring alone has the event (DESIGN CHOICE, log entry 63). -/
def State.faultRecord (s : State) (ctx : Nat) (r : FaultRec) : State :=
  match s.verifyAll .hbm (s.ctx ctx).fring 16 with
  | (s, 0) => s.putRecord ctx r
  | (s, _) => s

/-- Who a request was issued by, for the records that name it (R415), and the core it is served from. -/
structure Issuer where
  key : PKey
  tix : Nat
  pc : Word
  core : Nat

/-- The counts of the present budget window, ⌊%tb / 10,000⌋ (R384): those of an earlier one are over. -/
def State.rolled (s : State) : State :=
  if s.window = s.tb / 10000 then s
  else { s with
    window := s.tb / 10000,
    ctxs := (s.ctxs.map (fun e => (e.1, { e.2 with hbmBytes := 0, energy := 0 }))).filter (fun e => e.2 != Ctx.initial) }

/-- Count the 64-byte units of an access at an HBM port against its context's budget window (R384). -/
def State.charge (s : State) (ctx : Nat) (t : Tier) (a n : Nat) : State :=
  match t with
  | .hbm => if n = 0 then s
    else s.rolled.modCtx ctx (fun c => { c with hbmBytes := c.hbmBytes + 64 * ((a + n - 1) / 64 - a / 64 + 1) })
  | _ => s

/-- The state with the HBM count of a context as it was before: traffic that is charged to no context (R384). -/
def State.unbilled (t s : State) (ctx : Nat) : State :=
  t.rolled.modCtx ctx (fun c => { c with hbmBytes := (s.rolled.ctx ctx).hbmBytes })

/-- The hot-extent tracker counts the 64 KiB units of the LP tier that a request touches (R223). -/
def State.touch (s : State) (t : Tier) (a n : Nat) : State :=
  match t with
  | .lp => if n = 0 then s else { s with touched := (List.range ((a + n - 1) / 65536 - a / 65536 + 1)).foldl (fun l i =>
      Tbl.put 0 l (a / 65536 + i) (Tbl.get 0 l (a / 65536 + i) + 1)) s.touched }
  | _ => s

/-- Bytes of a tier, verified (R424). Remote memory of a link has its own checks (R423). -/
def State.readTier (s : State) (ctx : Nat) (t : Tier) (a n : Nat) : State × Except Nat (List Byte) :=
  let (s, e) := s.verifyAll t a n
  let s := (s.charge ctx t a n).touch t a n
  if e != 0 then (s, .error e) else (s, .ok (Mem.read (s.tier t) a n))

/-- Write bytes of a tier: a unit written in part is verified first, a unit written whole takes a fresh check value, or ECC in the weight
store, and loses its poison (R233, R423, R424). -/
def State.writeTier (s : State) (ctx : Nat) (t : Tier) (a : Nat) (bs : List Byte) : State × Nat :=
  let n := bs.length
  if n = 0 then (s, 0)
  else
    let s := (s.charge ctx t a n).touch t a n
    let c := checkBytes t
    let first := a / c
    let last := (a + n - 1) / c
    let (s, e) := if a % c != 0 then s.verify t first else (s, 0)
    let (s, e) := if e == 0 && (a + n) % c != 0 && (last != first || a % c == 0) then s.verify t last else (s, e)
    if e != 0 then (s, e)
    else
      let whole (u : Nat) : Bool := decide (a ≤ u * c) && decide (u * c + c ≤ a + n)
      let s := { s with
        poison := s.poison.filter (fun p => !(p.1 == t && decide (first ≤ p.2) && decide (p.2 ≤ last) && whole p.2)),
        memFaults := s.memFaults.filter (fun f => !(f.tier == t && decide (first ≤ f.unit) && decide (f.unit ≤ last) && whole f.unit)) }
      (s.setTier t (Mem.write (s.tier t) a bs), 0)

/-! ### Extents (R218, R219) -/

/-- A tier by its code (R217). -/
def tierOf (code : Nat) : Tier :=
  match code with
  | 0 => .hbm | 1 => .lp | 2 => .weight | _ => .link

/-- The code of a tier (R217). -/
def tierCode : Tier → Nat
  | .hbm => 0 | .lp => 1 | .weight => 2 | .link => 3

/-- Bits [hi:lo] of an extent descriptor (R218). -/
def extField (d : BitVec 128) (hi lo : Nat) : Nat := (d.extractLsb' lo (hi + 1 - lo)).toNat

/-- An extent descriptor from its fields (R218). -/
def extOf (first count tier : Nat) (p mv : Bool) (loc : Nat) : BitVec 128 :=
  (BitVec.ofNat 32 first ++ BitVec.ofNat 32 count ++ BitVec.ofNat 2 tier ++ BitVec.ofBool p ++ BitVec.ofBool mv ++ 0#4
    ++ BitVec.ofNat 56 loc : BitVec 128)

/-- The 64 KiB units a tier holds; a link's remote units are not bounded (R2, R20, R218). -/
def tierUnits : Tier → Nat
  | .hbm => 2 ^ 24
  | .lp => 2 ^ 25
  | .weight => 2 ^ 15
  | .link => 2 ^ 56

/-- Whether a descriptor covers a unit. -/
def extCovers (u : Nat) (d : BitVec 128) : Bool :=
  decide (extField d 127 96 ≤ u) && decide (u < extField d 127 96 + extField d 95 64)

/-- The descriptor that backs a unit of an object (R218). -/
def ObjEntry.extent? (e : ObjEntry) (u : Nat) : Option (BitVec 128) := e.leaves.find? (extCovers u)

/-- Where a descriptor puts a unit: its tier and its byte address there. -/
def extPlace (d : BitVec 128) (u : Nat) : Tier × Nat :=
  (tierOf (extField d 63 62), (extField d 55 0 + (u - extField d 127 96)) * 65536)

/-- The routing of a unit for a die (R219): its cached descriptor, else the walk of the table, which sets the die's ACC
bit and fills the cache. -/
def State.route (s : State) (die : Nat) (o : OKey) (u : Nat) : State × Option (BitVec 128) :=
  match s.routes.find? (fun r => r.die == die && r.obj == o && extCovers u r.desc) with
  | some r => (s, some r.desc)
  | none =>
    match s.object? o with
    | none => (s, none)
    | some e =>
      match e.extent? u with
      | none => (s, none)
      | some d =>
        let s := s.modObject o (fun e => { e with word := e.word ||| ((1#512) <<< (480 + die)) })
        ({ s with routes := s.routes ++ [⟨die, o, u, d⟩] }, some d)

/-- The die of a link (R5, R17): PCI Express on dies 0 and 8, two peer ports on each of dies 3, 7, 11 and 15. -/
def linkDie (n : Nat) : Nat :=
  match n with
  | 0 => 0
  | 1 => 8
  | k => 4 * ((k - 2) / 2) + 3

/-- Whether an extent's link is down, or is no link of the device (R429). -/
def State.linkDown (s : State) (d : BitVec 128) : Bool :=
  tierOf (extField d 63 62) == .link && (s.linksDown.contains (extField d 55 52) || decide (linkCount ≤ extField d 55 52))

/-- The pieces of bytes a to a + n − 1 that lie in one 64 KiB unit each: first byte and length. -/
def unitPieces (a n : Nat) : List (Nat × Nat) :=
  if n = 0 then []
  else (List.range ((a + n - 1) / 65536 - a / 65536 + 1)).map (fun i =>
    let u := a / 65536 + i
    let lo := max a (u * 65536)
    (lo, min (a + n) (u * 65536 + 65536) - lo))

/-- Read object bytes through the object table (R18, R219, R424): the error code of R232, or the bytes. The bytes of a
freed object, or of a unit that nothing backs, are code 0x22. -/
def State.readObject (s : State) (die : Nat) (o : OKey) (a n : Nat) : State × Except Nat (List Byte) :=
  if s.classOf o = 0 then (s, .error 0x22)
  else (unitPieces a n).foldl (fun (r : State × Except Nat (List Byte)) piece =>
    match r with
    | (s, .error e) => (s, .error e)
    | (s, .ok bs) =>
      let (s, d?) := s.route die o (piece.1 / 65536)
      match d? with
      | none => (s, .error 0x22)
      | some d =>
        if s.linkDown d then (s, .error 0x26)
        else
          let (t, base) := extPlace d (piece.1 / 65536)
          match s.readTier o.ctx t (base + piece.1 % 65536) piece.2 with
          | (s, .error e) => (s, .error e)
          | (s, .ok more) => (s, .ok (bs ++ more))) (s, .ok [])

/-- The two places of a migrating unit. -/
def Migration.places (m : Migration) : List (Tier × Nat) := [(m.oldTier, m.oldLoc), (m.tier, m.loc)]

/-- The other copy of a unit that is migrating, beside the one at a place that has been written (R223): writes go to it too, and until
the invalidation is complete also to the old copy, which a stale route still reads (R219, R358). -/
def State.mirror (s : State) (o : OKey) (u : Nat) (written : Tier × Nat) (off : Nat) (bs : List Byte) : State :=
  match s.migrations.find? (fun m => m.obj == o && m.unit == u) with
  | none => s
  | some m => (m.places.filter (fun x => x != written)).foldl (fun s x => (s.writeTier o.ctx x.1 (x.2 * 65536 + off) bs).1) s

/-- Write object bytes through the object table (R18, R219, R223, R233): the error code of R232, or 0. -/
def State.writeObject (s : State) (die : Nat) (o : OKey) (a : Nat) (bs : List Byte) : State × Nat :=
  if s.classOf o = 0 then (s, 0x22)
  else (unitPieces a bs.length).foldl (fun (r : State × Nat) piece =>
    if r.2 != 0 then r
    else
      let (s, d?) := r.1.route die o (piece.1 / 65536)
      match d? with
      | none => (s, 0x22)
      | some d =>
        if s.linkDown d then (s, 0x26)
        else
          let (t, base) := extPlace d (piece.1 / 65536)
          let part := (bs.drop (piece.1 - a)).take piece.2
          let (s, e) := s.writeTier o.ctx t (base + piece.1 % 65536) part
          (s.mirror o (piece.1 / 65536) (t, base / 65536) (piece.1 % 65536) part, e)) (s, 0)

/-- Whether a code is that of uncorrectable data or of a check mismatch (R232, R424). -/
def badData (code : Nat) : Bool := code == 0x20 || code == 0x21

/-- A request met uncorrectable data or a check mismatch: the record of kind 0x0D (R422, R424). -/
def State.dataError (s : State) (w : Issuer) (ctxCode obj a n code : Nat) : State :=
  if badData code then
    s.faultRecord w.key.ctx
      { kind := 0x0D, code := code, code2 := ctxCode, addr := a, len := n, obj := obj,
        launch := w.key.launch, pix := w.key.pix, tix := w.tix, pc := w.pc.toNat }
  else s

/-- The same record where no thread issued the request, so that CODE2 has no engine context to name (R422, log entry 28). -/
def State.plainError (s : State) (ctx obj a n code : Nat) (key : PKey) : State :=
  if badData code then
    let (id, s) := s.fresh
    s.faultRecord ctx
      { kind := 0x0D, code := code, code2 := Config.errorField id 5 % 16, addr := a, len := n, obj := obj,
        launch := key.launch, pix := key.pix }
  else s

/-- What the device reads at a device address for a context, a launch or a parcel, verified (R423, R424): the code of the error,
which is recorded, or 0. -/
def State.devCheck (s : State) (key : PKey) (a n : Nat) : State × Nat :=
  let (s, code) := s.verifyAll .hbm a n
  (s.plainError key.ctx 0 a n code key, code)

end Sys2Proof.Machine
end

