-- ==== Sys2Proof/Machine/Scratchpad.lean ====
section
/-!
DEFINITION. The scratchpad of a parcel: access records (R189, R190), race detection (R363 to R367), stores of a thread's
queue (R195), barrier objects (R199 to R202) and their phase completions (R200, R420, R421).
-/

namespace Sys2Proof.Machine

/-! ### Access records (R189) -/

/-- The fields of an access record. -/
structure Rec where
  tag : Bool
  strong : Bool
  wvalid : Bool
  wrel : BitVec 4
  wtix : Nat
  rst : Nat
  rrel : BitVec 4
  rtix : Nat
  deriving DecidableEq, Repr

/-- A record read from its 64 bits. -/
def Rec.ofBits (b : BitVec 64) : Rec where
  tag := b.getLsbD 39
  strong := b.getLsbD 38
  wvalid := b.getLsbD 37
  wrel := b.extractLsb' 33 4
  wtix := (b.extractLsb' 23 10).toNat
  rst := (b.extractLsb' 21 2).toNat
  rrel := b.extractLsb' 17 4
  rtix := (b.extractLsb' 7 10).toNat

/-- The 64 bits of a record. -/
def Rec.toBits (r : Rec) : BitVec 64 :=
  (0#24 ++ BitVec.ofBool r.tag ++ BitVec.ofBool r.strong ++ BitVec.ofBool r.wvalid ++ r.wrel ++ BitVec.ofNat 10 r.wtix
    ++ BitVec.ofNat 2 r.rst ++ r.rrel ++ BitVec.ofNat 10 r.rtix ++ 0#7 : BitVec 64)

/-- The record of the granule that holds a byte. -/
def Parcel.record (p : Parcel) (off : Nat) : Rec := Rec.ofBits (Tbl.get 0 p.recs (off / 16))

/-- Replace the record of a granule. -/
def Parcel.setRecord (p : Parcel) (off : Nat) (r : Rec) : Parcel :=
  { p with recs := Tbl.put 0 p.recs (off / 16) r.toBits }

/-- A thread's write to a granule (R190): the fields of the reader but RST keep their values. -/
def Parcel.noteWrite (p : Parcel) (off tix : Nat) (wrel : BitVec 4) (strong tag : Bool) : Parcel :=
  p.setRecord off { p.record off with tag := tag, strong := strong, wvalid := true, wrel := wrel, wtix := tix, rst := 0 }

/-- A thread's load served from a granule (R190). -/
def Parcel.noteRead (p : Parcel) (off tix : Nat) (rrel : BitVec 4) : Parcel :=
  let r := p.record off
  match r.rst with
  | 0 => p.setRecord off { r with rst := 1, rtix := tix, rrel := rrel }
  | 1 => if r.rtix = tix then p.setRecord off { r with rrel := rrel } else p.setRecord off { r with rst := 2 }
  | _ => p

/-- A record after an engine's write (R190): TAG, WVALID, STRONG and RST are 0, and the other fields keep their values. -/
def Rec.engine (r : Rec) : Rec := { r with tag := false, strong := false, wvalid := false, rst := 0 }

/-- An engine's write on any byte of each granule of a range (R190). -/
def Parcel.noteEngine (p : Parcel) (off n : Nat) : Parcel :=
  if n = 0 then p
  else (List.range ((off + n - 1) / 16 - off / 16 + 1)).foldl (fun p i =>
    p.setRecord (16 * (off / 16 + i)) (p.record (16 * (off / 16 + i))).engine) p

/-! ### Detection state (R363 to R367) -/

/-- InsAcq(t, c) (R364). -/
def Detect.insAcq (d : Detect) (t : Nat) (c : BitVec 4) : Detect :=
  if d.acq.any (fun e => e.1 == t) then { d with acq := d.acq.filter (fun e => e.1 != t) ++ [(t, c)] }
  else if d.acq.length = 8 then
    match d.acq with
    | [] => d
    | (u, _) :: rest => { d with acq := rest ++ [(t, c)], evf := d.evf ||| (1#64 <<< (u % 64)) }
  else { d with acq := d.acq ++ [(t, c)] }

/-- Insert into Ring (R364). -/
def Detect.insRing (d : Detect) (b : PhaseObj) (k : Word) (c : BitVec 4) : Detect :=
  { d with ring := (d.ring ++ [(b, k, c)]).drop (d.ring.length + 1 - 4) }

/-- A release event: the count its write's record takes, and the state after it (R364). -/
def Detect.release (d : Detect) : BitVec 4 × Detect := (d.rc, { d with rc := d.rc + 1 })

/-- (a − b) mod 2^32 < 2^31: phase a is at or beyond phase b. -/
def phaseAtOrAfter (a b : Word) : Bool := decide ((a - b).toNat < 2 ^ 31)

/-- A phase acquire (R364). -/
def Detect.phaseAcquire (d : Detect) (b : PhaseObj) (k : Word) : Detect :=
  match d.ph.find? (fun e => e.1 == b) with
  | some (_, k2) =>
    { d with ph := d.ph.filter (fun e => e.1 != b) ++ [(b, if phaseAtOrAfter k k2 then k else k2)] }
  | none =>
    if d.ph.length = 4 then { d with ph := d.ph.drop 1 ++ [(b, k)], pev := true }
    else { d with ph := d.ph ++ [(b, k)] }

/-- Ord(t, v) for an access of `d`'s thread `me`; `ring` is the other thread's (R365). -/
def Detect.ord (d : Detect) (me t : Nat) (v : BitVec 4) (ring : List (PhaseObj × Word × BitVec 4)) : Bool :=
  t == me || d.acq.any (fun e => e.1 == t && e.2 != v) ||
    ring.any (fun e => e.2.2 != v && d.ph.any (fun h => h.1 == e.1 && phaseAtOrAfter h.2 e.2.1))

/-- Cause(t, x) (R366). -/
def Detect.cause (d : Detect) (t x : Nat) : Nat := if d.evf.getLsbD (t % 64) || d.pev then 0x04 else x

/-- Ring of a thread of the parcel. -/
def Parcel.ringOf (p : Parcel) (tix : Nat) : List (PhaseObj × Word × BitVec 4) :=
  match p.thread? tix with
  | some t => t.detect.ring
  | none => []

/-- The check of a load (R366): the cause and the other thread, if it fails. -/
def Parcel.checkLoad (p : Parcel) (t : Thread) (off : Nat) (strong : Bool) : Option (Nat × Nat) :=
  let r := p.record off
  if r.wvalid && r.wtix != t.tix && !(r.strong && strong) && !(t.detect.ord t.tix r.wtix r.wrel (p.ringOf r.wtix)) then
    some (t.detect.cause r.wtix 0x01, r.wtix)
  else none

/-- The check of a write (R366). -/
def Parcel.checkWrite (p : Parcel) (t : Thread) (off : Nat) (strong : Bool) : Option (Nat × Nat) :=
  let r := p.record off
  if r.wvalid && r.wtix != t.tix && !(r.strong && strong) && !(t.detect.ord t.tix r.wtix r.wrel (p.ringOf r.wtix)) then
    some (t.detect.cause r.wtix 0x02, r.wtix)
  else if !strong && r.rst == 1 && r.rtix != t.tix && !(t.detect.ord t.tix r.rtix r.rrel (p.ringOf r.rtix)) then
    some (t.detect.cause r.rtix 0x03, r.rtix)
  else none

/-- An acquire read of a granule by thread `me` (R364): the writer's release and its whole table are merged. -/
def Parcel.acquire (p : Parcel) (me off : Nat) : Parcel :=
  let r := p.record off
  if r.wvalid && r.strong && r.wtix != me then
    let table : List (Nat × BitVec 4) := match p.thread? r.wtix with
      | some t => t.detect.acq.filter (fun e => e.1 != me)
      | none => []
    p.modThread me (fun t =>
      let d := table.foldl (fun d e => d.insAcq e.1 e.2) (t.detect.insAcq r.wtix (r.wrel + 1))
      { t with detect := d })
  else p

/-! ### Stores (R195, R196) -/

/-- Perform one queued store of a thread. A release fence is satisfied when the stores older than it are performed
(R209). -/
def Parcel.perform (p : Parcel) (tix : Nat) (q : QStore) : Parcel :=
  let p := p.modThread tix (fun t => { t.dec .stores with
    storeQ := t.storeQ.drop 1, fenceRelease := t.fenceRelease && decide (1 < t.storeQ.length) })
  let p := { p with spad := Mem.write p.spad q.off q.bytes }
  p.noteWrite q.off tix q.wrel q.strong q.kst

/-- The byte a weak load of a thread receives: from its youngest queued store of that byte, else from the scratchpad
(R195). -/
def Parcel.loadByte (p : Parcel) (t : Thread) (a : Nat) : Byte :=
  match (t.storeQ.reverse.find? (fun q => decide (q.off ≤ a) && decide (a < q.off + q.bytes.length))) with
  | some q => (q.bytes[a - q.off]?).getD 0
  | none => Mem.byte p.spad a

/-- Whether a thread's queued stores hold every byte of a range. -/
def Thread.forwards (t : Thread) (a n : Nat) : Bool :=
  (List.range n).all (fun i => t.storeQ.any (fun q => decide (q.off ≤ a + i) && decide (a + i < q.off + q.bytes.length)))

/-- Whether a thread has a queued store in the granule of a byte. -/
def Thread.storesIn (t : Thread) (a : Nat) : Bool := t.storeQ.any (fun q => q.off / 16 == a / 16)

/-! ### Passes (R181, R183, R184) -/

/-- H of R181. -/
def hashLine (x : DWord) (v : Nat) : Nat :=
  (List.range 5).foldl (fun n i =>
    n + 2 ^ i * (((List.range 12).filter (fun b => v.testBit b && x.getLsbD (12 * i + b))).length % 2)) 0

/-- The bank of the word at an offset (R181). -/
def bankOf (x : DWord) (o : Nat) : Nat := bitsOf o 6 2 ^^^ hashLine x (bitsOf o 18 7)

/-- The words of an access. -/
def PAcc.words (a : PAcc) : List Nat := (List.range ((a.size + 3) / 4)).map (fun i => a.off / 4 + i)

/-- The word that each bank serves in the next pass: the lowest lane's. -/
def passWords (x : DWord) (accs : List PAcc) : List (Nat × Nat) :=
  (sortBy (fun (a b : PAcc) => decide (a.tix % 32 ≤ b.tix % 32)) accs).foldl (fun chosen a =>
    a.words.foldl (fun chosen w =>
      let b := bankOf x (4 * w)
      if chosen.any (fun e => e.1 == b) then chosen else chosen ++ [(b, w)]) chosen) []

/-- Whether a pass serves an access: all its words are served. The words of an access lie in aligned banks, so that no
pass serves some of them only. -/
def PAcc.inPass (a : PAcc) (chosen : List (Nat × Nat)) : Bool := a.words.all (fun w => chosen.any (fun e => e.2 == w))

/-- The accesses that the next pass serves, in ascending lane order (R183, R186). -/
def passOf (x : DWord) (accs : List PAcc) : List PAcc :=
  sortBy (fun (a b : PAcc) => decide (a.tix % 32 ≤ b.tix % 32)) (accs.filter (fun a => a.inPass (passWords x accs)))

/-- The accesses that the next pass leaves. -/
def passLeft (x : DWord) (accs : List PAcc) : List PAcc := accs.filter (fun a => !a.inPass (passWords x accs))

/-! ### Barrier objects (R199 to R202) -/

/-- The fields of a barrier object (R199). -/
structure Barrier where
  err : Word
  bytes : Int
  phase : Word
  pend : Nat
  init : Nat
  deriving DecidableEq, Repr

/-- The barrier object at an offset. -/
def Parcel.barrier (p : Parcel) (off : Nat) : Barrier :=
  let v := Mem.nat p.spad off 16
  { err := BitVec.ofNat 32 (bitsOf v 127 96), bytes := signedOf (bitsOf v 95 64) 32,
    phase := BitVec.ofNat 32 (bitsOf v 63 32), pend := bitsOf v 31 21, init := bitsOf v 20 10 }

/-- Write a barrier object; its reserved bits keep their value except under BINIT. -/
def Parcel.setBarrier (p : Parcel) (off : Nat) (b : Barrier) : Parcel :=
  let low := Mem.nat p.spad off 2 % 1024
  let v := b.err.toNat <<< 96 ||| (wrapInt b.bytes 32) <<< 64 ||| b.phase.toNat <<< 32 ||| (b.pend % 2048) <<< 21
    ||| (b.init % 2048) <<< 10 ||| low
  { p with spad := Mem.setNat p.spad off 16 v }

/-- The completion test of R200: the object after it, and whether the phase completed. -/
def Barrier.test (b : Barrier) : Barrier × Bool :=
  if 1 ≤ b.init && b.pend == 0 && b.bytes == 0 then ({ b with phase := b.phase + 1, pend := b.init }, true) else (b, false)

/-- Done(k) (R204). -/
def Barrier.done (b : Barrier) (k : Word) : Bool :=
  let d := (b.phase - k).toNat
  decide (1 ≤ d) && decide (d ≤ 2 ^ 31)

/-! ### Replay entries (R420, R421) -/

/-- The debug control block of a context: 64 bytes of device memory; all 0, with every function off, before it has one (R416). -/
def State.debugBlock (s : State) (ctx : Nat) : BitVec 512 :=
  match (s.ctx ctx).debugAt with
  | some a => BitVec.ofNat 512 (s.dev a 64)
  | none => 0

/-- Bits [hi:lo] of a debug control block (R416). -/
def dbgField (b : BitVec 512) (hi lo : Nat) : Nat := (BitVec.extractLsb' lo (hi + 1 - lo) b).toNat

/-- A debug control block whose reserved fields are 0 (R416: otherwise its functions are disabled). -/
def dbgOk (b : BitVec 512) : Bool := dbgField b 328 256 == 0 && dbgField b 191 0 == 0

/-- The debug control block of a context as the device reads it, verified: one whose bytes are bad has every function off (R416, R423,
R424; log entry 63). -/
def State.debugRead (s : State) (ctx : Nat) : State × BitVec 512 :=
  match (s.ctx ctx).debugAt with
  | none => (s, 0)
  | some a => match s.devCheck ⟨ctx, 0, 0⟩ a 64 with
    | (s, 0) => (s, s.debugBlock ctx)
    | (s, _) => (s, 0)

/-- An entry is written into a context's replay log, or checked against it, in a mode of its block `c` (R420, R421). -/
def State.replayLog (s : State) (c : BitVec 512) (k : PKey) (obj phase rsum : Nat) (con : Bool) : State :=
  let mode := dbgField c 341 340
  let rbuf := dbgField c 447 384
  let i := s.dev rbuf 4
  let v := (k.launch % 2 ^ 32) <<< 224 ||| (k.pix % 2 ^ 32) <<< 192 ||| (obj % 2 ^ 32) <<< 160 ||| (phase % 2 ^ 32) <<< 128
    ||| (rsum % 2 ^ 64) <<< 64 ||| bit con
  if mode = 1 then
    if i < dbgField c 383 352 then (s.setDev (rbuf + 64 + 32 * i) 32 v).setDev rbuf 4 (i + 1)
    else s.setDev (rbuf + 4) 4 ((s.dev (rbuf + 4) 4 + 1) % 2 ^ 32)
  else if mode = 2 then
    let same (e : Nat) : Bool := bitsOf e 223 128 == bitsOf v 223 128 && bitsOf e 0 0 == bitsOf v 0 0
    let hit := ((List.range i).map (fun j => s.dev (rbuf + 64 + 32 * j) 32)).find? same
    let good := match hit with
      | some e => bitsOf e 127 64 == rsum % 2 ^ 64
      | none => false
    if good || (s.ctx k.ctx).mismatched.contains k then s
    else
      (s.modCtx k.ctx (fun c => { c with mismatched := c.mismatched ++ [k] })).faultRecord k.ctx
        { kind := 0x0E, code := phase, code2 := rsum % 2 ^ 32, addr := obj, launch := k.launch, pix := k.pix }
  else s

/-- The bytes of a replay log that an entry reads: its two counts, and in mode 2 its entries. -/
def State.replayReads (s : State) (c : BitVec 512) : Nat :=
  if dbgField c 341 340 = 2 then 64 + 32 * s.dev (dbgField c 447 384) 4 else 8

/-- REPLAY_ENTRY: one entry for a completed phase or instance (R420): recorded in mode 1, checked in mode 2 (R421), where the log's
bytes are good (R423). -/
def State.replayEntry (s : State) (k : PKey) (obj phase rsum : Nat) (con : Bool) : State :=
  match s.debugRead k.ctx with
  | (s, c) =>
    let mode := if dbgOk c then dbgField c 341 340 else 0
    let rbuf := dbgField c 447 384
    if rbuf % 64 != 0 || !(mode == 1 || mode == 2) then s
    else match s.devCheck k rbuf (s.replayReads c) with
      | (s, 0) => s.replayLog c k obj phase rsum con
      | (s, _) => s

/-- PHASE_COMPLETE: write a barrier object, test it, and form the replay entry of a phase that completed (R200, R420). -/
def State.putBarrier (s : State) (k : PKey) (off : Nat) (b : Barrier) : State :=
  let (b', completed) := b.test
  let sum := match s.parcel? k with
    | some p => Tbl.get 0 p.phaseSums off
    | none => 0
  let s := s.modParcel k (fun p =>
    let p := p.setBarrier off b'
    if completed then { p with phaseSums := Tbl.put 0 p.phaseSums off 0 } else p)
  if completed then s.replayEntry k off b.phase.toNat sum false else s

/-- Whether some thread of the parcel is in phase wait on the object (R202). -/
def Parcel.hasWaiter (p : Parcel) (off : Nat) : Bool :=
  p.threads.any (fun t => match t.status with
    | .phase o _ => o == off
    | _ => false)

/-- A byte count served at a barrier (R201): `n` bytes of an operation that has not failed, or the single access of a
failed one with its code `err`. The record of the granule is that of an engine store (R190). -/
def State.countBytes (s : State) (k : PKey) (off n : Nat) (err : Word) : State :=
  match s.parcel? k with
  | none => s
  | some p =>
    let b := p.barrier off
    let low : Int := -(2 ^ 31 : Nat)
    let b' :=
      if err != 0 then { b with bytes := max low (b.bytes - n), err := if b.err = 0 then err else b.err }
      else if b.bytes - n < low then { b with bytes := low, err := if b.err = 0 then 0x100 else b.err }
      else { b with bytes := b.bytes - n }
    (s.modParcel k (fun p => p.noteEngine off 16)).putBarrier k off b'

end Sys2Proof.Machine
end

