-- ==== Sys2Proof/Machine/Ops.lean ====
section
/-!
DEFINITION. The operations every instruction shares: queue descriptors and failing nodes (R374, R379), the end of a launch
by a launch-fatal event (R391, R405), TAKING A TRAP (R398 to R402), wake events (R133), the states of threads and the
PC table (R113 to R115), and the issue of one instruction by a group (R38, R78, R116, R151).
-/

namespace Sys2Proof.Machine

/-! ### Queue descriptors (R374) and nodes (R379) -/

/-- The address of a queue descriptor. -/
def State.queueAt (s : State) (ctx q : Nat) : Nat := (s.ctx ctx).qtab + 32 * q

/-- Bits [hi:lo] of a queue descriptor. -/
def State.queueField (s : State) (ctx q hi lo : Nat) : Nat := bitsOf (s.dev (s.queueAt ctx q) 32) hi lo

/-- Replace bits [hi:lo] of a queue descriptor. -/
def State.setQueueField (s : State) (ctx q hi lo v : Nat) : State :=
  s.setDev (s.queueAt ctx q) 32 (setBits (s.dev (s.queueAt ctx q) 32) hi lo v)

/-- A node that is under way. -/
def State.node? (s : State) (n : Nat) : Option Node := s.nodes.find? (fun x => x.id == n)

/-- The launch id a record of a node carries (R407). -/
def Node.launchId (n : Node) : Nat := match n.launch with
  | some l => l.launch
  | none => 0

/-- NODE_FAIL: the record of kind 0x07 with an error code, and the queue is faulted (R379). -/
def State.nodeFail (s : State) (n : Node) (code : Nat) : State :=
  let s := s.faultRecord n.ctx { kind := 0x07, code := code, queue := n.queue, node := n.index, launch := n.launchId }
  let s := s.setQueueField n.ctx n.queue 119 116 2
  { s with nodes := s.nodes.filter (fun x => x.id != n.id) }

/-! ### The end of a launch (R390, R391, R27) -/

/-- Change every core that is not as it was at the start. -/
def State.mapCores (s : State) (f : Nat → Core → Core) : State :=
  { s with cores := (s.cores.map (fun e => (e.1, f e.1 e.2))).filter (fun e => e.2 != Core.initial) }

/-- Whether a drain is past the point where the end of its launch cuts it: it has read its slot, and what it writes in an object
outlives the launch (R290, R294, R391). The journal is discarded with the launch. -/
def Drain.lasts (d : Drain) : Bool :=
  d.stage != .written && !d.journal && (match d.req.op with
    | .adrain b _ => (b.extractLsb' 13 2).toNat == 2
    | _ => false)

/-- The numbers of some set requests, each on the timeline of the core that issued it (R327), count as given to no request (R227). -/
def State.dropSetNumbers (s : State) (gone : SetReq → Bool) : State :=
  let all := s.cores.flatMap (fun e => e.2.sets) ++ s.parcels.flatMap (fun p => p.savedSets)
  (all.filter gone).foldl (fun s r => s.modCore r.core (fun c => c.modTimeline 6 (fun t => t.complete r.num r.restored))) s

/-- Remove the engine requests, watches and scratchpad passes of some parcels from a core; their numbers, but for those of set
requests, count as given to no request (R227, R391). -/
def Core.dropRequests (c : Core) (gone : PKey → Bool) : Core :=
  let running : List (Nat × Nat × Bool) :=
    (c.copies.filter (fun r => gone r.key)).map (fun r => (r.ctx, r.num, r.restored))
      ++ (c.index.filter (fun r => gone r.key)).map (fun r => (4, r.num, r.restored))
      ++ (c.matrix.filter (fun r => gone r.key)).map (fun r => (5, r.num, r.restored))
      ++ (c.drains.filter (fun r => gone r.req.key && !r.lasts)).map (fun r => (5, r.req.num, r.req.restored))
  let c := running.foldl (fun c r => c.modTimeline r.1 (fun t => t.complete r.2.1 r.2.2)) c
  let headGone := match c.matrix with
    | [] => true
    | r :: _ => gone r.key
  { c with
    port := c.port.filter (fun i => !gone i.key),
    stores := c.stores.filter (fun i => !gone i.key),
    copies := c.copies.filter (fun r => !gone r.key),
    index := c.index.filter (fun r => !gone r.key),
    run := if headGone then none else c.run,
    matrix := c.matrix.filter (fun r => !gone r.key),
    drains := c.drains.filter (fun r => !gone r.req.key || r.lasts),
    sets := c.sets.filter (fun r => !gone r.key),
    watches := c.watches.filter (fun w => !gone w.key) }

/-- Withdraw the Circle requests of some parcels that are not admitted; admitted ones are applied and their replies
discarded (R391, R373). -/
def State.dropCircle (s : State) (gone : PKey → Bool) : State :=
  let keep (r : CircleReq) : Bool := !gone r.key || r.stage == .admitted
  let left := (s.circle.filter (fun r => !keep r)).map (fun r => r.id)
  { s with
    circle := (s.circle.filter keep).map (fun r => if gone r.key then { r with drop := true } else r),
    slices := (s.slices.map (fun e => (e.1, { e.2 with waiters := e.2.waiters.filter (fun n => !left.contains n) }))).filter
      (fun e => e.2 != Slice.empty),
    regions := s.regions.map (fun r => { r with spanWait := r.spanWait.filter (fun n => !left.contains n) }),
    replies := s.replies.filter (fun r => !gone r.key) }

/-- Bits [hi:lo] of a lease (R221). -/
def leaseField (l : BitVec 256) (hi lo : Nat) : Nat := (l.extractLsb' lo (hi + 1 - lo)).toNat

/-- Remove a launch and everything it holds: parcels, requests, segments, sets, leases, images (R27, R390, R391). -/
def State.dropLaunch (s : State) (l : LKey) : State :=
  let gone (k : PKey) : Bool := k.launchKey == l
  let placed := s.parcels.filter (fun p => gone p.key && p.placed)
  let places (c : Nat) : List Nat := (placed.filter (fun p => p.core == c)).map (fun p => p.place)
  let s := ((s.noteGone l placed).dropSetNumbers (fun r => gone r.key)).mapCores (fun n c =>
    { c.dropRequests gone with
      entries := c.entries.filter (fun e => !(places n).contains e.place),
      segments := c.segments.filter (fun g => g.launch != l),
      wakes := c.wakes.filter (fun w => w.launch != l) })
  let s := s.dropCircle gone
  { (s.modCtx l.ctx (fun c => { c with
      leases := c.leases.filter (fun e => leaseField e 255 224 != l.launch),
      journal := c.journal.filter (fun r => r.launch != l.launch) })) with
    parcels := s.parcels.filter (fun p => !gone p.key),
    images := (s.images.map (fun i => { i with left := i.left.filter (fun p => !gone p.key) })),
    launches := s.launches.filter (fun x => x.key != l),
    steals := s.steals.filter (fun x => x.launch != l) }

/-- Whether a deadline-class launch has passed its deadline with a parcel not freed, and is not yet counted (R385). -/
def Launch.late (x : Launch) (tb : Nat) : Bool :=
  x.dl && x.deadline != 0 && decide (x.deadline ≤ tb) && !x.missed && x.unfreed != 0

/-- A launch-fatal event (R391, R405): its record, the record of a discarded journal (R291), everything of the launch is
discarded, and its node fails. A deadline that has passed is counted (R385). -/
def State.launchFatal (s : State) (l : LKey) (r : FaultRec) : State :=
  match s.launch? l with
  | none => s
  | some x =>
    let s := s.faultRecord l.ctx { r with launch := l.launch }
    let held := ((s.ctx l.ctx).journal.filter (fun j => j.launch == l.launch)).length
    let s := if held = 0 then s else s.faultRecord l.ctx { kind := 0x0B, code := held, launch := l.launch }
    let s := (s.count l.ctx 0x01B (bit (x.late s.tb))).dropLaunch l
    match s.node? x.node with
    | some n => s.nodeFail n 0
    | none => s

/-! ### Wake events (R133) -/

/-- A wake event of a thread reaches every core that holds a parcel of its launch (R133); of several events of one thread the
latest stands for all, since it wakes every thread that an earlier one would. -/
def State.wake (s : State) (by' : TRef) : State :=
  let l := by'.parcelKey.launchKey
  ((s.parcels.filter (fun p => p.key.launchKey == l && p.phase == .running)).map (fun p => p.core)).foldl (fun s n =>
    s.modCore n (fun c => { c with wakes := c.wakes.filter (fun w => w.actor != by') ++ [⟨l, by', s.clk⟩] })) s

/-! ### Queued stores (R183, R195) -/

/-- The oldest queued store of a thread is performed; a strong store is a wake event (R133). -/
def State.performStore (s : State) (k : PKey) (tix : Nat) : State :=
  match s.thread? k tix with
  | none => s
  | some t => match t.storeQ with
    | [] => s
    | q :: _ =>
      let s := s.modParcel k (fun p => p.perform tix q)
      if q.strong then s.wake (k.thread tix) else s

/-- One pass of the first store instruction of a core (R183, R184, R186): the stores it serves are performed in ascending
lane order. -/
def State.storePass (s : State) (core : Nat) : State :=
  match (s.core core).stores with
  | [] => s
  | i :: rest =>
    let x := (s.parcel i.key).xhash
    let left := passLeft x i.accs
    let s := (s.count i.key.ctx 0x012 (bit (i.passes != 0))).modCore core (fun c => { c with
      stores := if left.isEmpty then rest else { i with accs := left, passes := i.passes + 1 } :: rest,
      counts := { c.counts with spp := min (2 ^ 32 - 1) (c.counts.spp + 1) } })
    (passOf x i.accs).foldl (fun s a => s.performStore i.key a.tix) s

/-- Passes until a thread has no queued store, at most `fuel` of them. -/
def State.passUntil (s : State) (core : Nat) (k : PKey) (tix : Nat) : Nat → State
  | 0 => s
  | fuel + 1 =>
    match s.thread? k tix with
    | some t => if t.storeQ.isEmpty then s else (s.storePass core).passUntil core k tix fuel
    | none => s

/-- Every queued store of a thread is performed, each in its pass (R196): a pass serves at least one store. -/
def State.flush (s : State) (k : PKey) (tix : Nat) : State :=
  let core := s.coreOf k
  s.passUntil core k tix (((s.core core).stores.map (fun i => i.accs.length)).foldl (· + ·) 0)

/-! ### Traps (R398 to R402) -/

/-- A thread trap: its kind (R398), %tcause.SUB and OTIX (R400), %taddr, and whether the instruction completes first, so
that %tpc is the next instruction (TRAP and BKPT). -/
structure Trap where
  kind : Nat
  sub : Nat := 0
  other : Option Nat := none
  addr : Int := 0
  completes : Bool := false
  deriving DecidableEq, Repr

/-- ILLEGAL with the number of a failed check (R78). The address is the thread's PC. -/
def Trap.illegal (check : Nat) (pc : Word) : Trap := { kind := 0x01, sub := check, addr := pc.toNat }

/-- CAPV with a detail of R213 and an offset. -/
def Trap.capv (detail : Nat) (off : Int) : Trap := { kind := 0x02, sub := detail, addr := off }

/-- MMX with a cause code of R400. -/
def Trap.mmx (cause : Nat) (addr : Int) (other : Option Nat := none) : Trap :=
  { kind := 0x03, sub := cause, addr := addr, other := other }

/-- UNALIGNED. -/
def Trap.unaligned (addr : Int) : Trap := { kind := 0x06, addr := addr }

/-- OVLMISS at an address. -/
def Trap.ovlmiss (addr : Word) : Trap := { kind := 0x04, addr := addr.toNat }

/-- The value of %tcause (R400). -/
def Trap.cause (r : Trap) : Word :=
  let ov : Nat := match r.other with
    | some t => 2 ^ 26 + (t % 1024) * 65536
    | none => 0
  BitVec.ofNat 32 (ov + (r.sub % 256) * 256 + r.kind % 256)

/-- The thread has retired one instruction and goes on at an address (R413). -/
def Thread.retire (t : Thread) (pc : Word) : Thread := { t with pc := pc, retired := bump t.retired }

/-- A thread of a parcel retires one instruction and goes on at an address. -/
def Parcel.retire (p : Parcel) (tix : Nat) (pc : Word) : Parcel :=
  { p.modThread tix (fun t => t.retire pc) with retired := bump p.retired }

/-- Write the results of a thread's older loads (R401 step 1). -/
def Thread.landLoads (t : Thread) : Thread :=
  (t.deliver.filter (fun v => v.load)).foldl (fun t v => (t.writeAll v.writes).dec .loads)
    { t with deliver := t.deliver.filter (fun v => !v.load) }

/-- TRAP_ENTRY (R401), DOUBLE_FAULT and handler absent (R402): the one operation by which an instruction traps. -/
def State.trap (s : State) (k : PKey) (tix : Nat) (r : Trap) : State :=
  match s.thread? k tix, s.launch? k.launchKey with
  | some t, some l =>
    let taddr : DWord := BitVec.ofInt 64 r.addr
    let tpc : Word := if r.completes then t.pc + 8 else t.pc
    let s := if r.completes then s.modParcel k (fun p => p.retire tix t.pc) else s
    let record : FaultRec := { code := r.cause.toNat, addr := taddr.toNat, pix := k.pix, tix := tix, pc := t.pc.toNat }
    if t.tstate.getLsbD 0 then
      s.launchFatal k.launchKey { record with kind := 0x03, code2 := t.tcause.toNat }
    else
      match (if r.kind = 0x04 then l.loader else l.handler) with
      | none => s.launchFatal k.launchKey { record with kind := 0x02 }
      | some routine =>
        let s := (s.flush k tix).modThread k tix (fun t =>
          { t.landLoads with
            tcause := r.cause, taddr := taddr, tpc := tpc,
            tstate := if r.kind = 0x04 then 3 else 1,
            reuse := none, pc := routine, status := .ready })
        s.count k.ctx 0x01C 1
  | _, _ => s

/-! ### Code addresses (R125 to R128) -/

/-- The first overlay address (R125). -/
def overlayBase : Nat := 262144

/-- The latest loaded resident segment of a launch on a core that holds an address. -/
def Core.segment? (c : Core) (l : LKey) (a : Nat) : Option Segment :=
  (c.segments.filter (fun g => g.launch == l && g.resident && decide (g.addr ≤ a) && decide (a < g.addr + 16384))).getLast?

/-- Whether an instruction can be fetched at an address: the resident range always can (beyond the image it reads zeros,
R126), an overlay address if its segment is resident (R127, R128). -/
def Core.fetchable (c : Core) (l : LKey) (a : Word) : Bool :=
  decide (a.toNat < overlayBase) || (c.segment? l a.toNat).isSome

/-- The word at a code address (R126). -/
def Core.codeWord (c : Core) (l : LKey) (a : Nat) : DWord :=
  match c.segment? l a with
  | some g => BitVec.ofNat 64 (Mem.nat g.bytes (a - g.addr) 8)
  | none => 0

/-- The second word of an L form, where it lies in the same overlay segment or in the resident image (R62, R126). -/
def Core.secondWord (c : Core) (l : Launch) (a : Nat) : Option DWord :=
  if a < overlayBase then
    if a + 16 ≤ l.codeLen then some (c.codeWord l.key (a + 8)) else none
  else if (a + 8) / 16384 = a / 16384 then some (c.codeWord l.key (a + 8)) else none

/-- The faults of a branch to a target (R131, R403). -/
def Core.branchFault (c : Core) (l : LKey) (a : Word) : Option Trap :=
  if a.toNat % 8 != 0 then some (.unaligned a.toNat)
  else if !c.fetchable l a then some (.ovlmiss a)
  else none

/-- The instruction at a code address, or the trap that fetching or decoding it raises (R78, R126, R128). -/
def Core.fetch (c : Core) (l : Launch) (pc : Word) : Except Trap Instr :=
  if !c.fetchable l.key pc then .error (.ovlmiss pc)
  else match decode (c.codeWord l.key pc.toNat) (c.secondWord l pc.toNat) with
    | .error n => .error (.illegal n pc)
    | .ok i => .ok i

/-! ### Waits (R113) -/

/-- The Circle requests of a thread that are neither admitted nor refused (R412, R209). -/
def State.undecided (s : State) (k : PKey) (tix : Nat) : Bool :=
  s.circle.any (fun r => r.key == k && r.tix == tix &&
    (match r.stage with
      | .sent | .waiting | .spanning => true
      | _ => false))

/-- The destinations among `ds` that an arithmetic or scratchpad result is due for (R113 short wait). -/
def Thread.dueOn (t : Thread) (ds : List Dest) : List Dest :=
  ds.filter (fun d => t.due.any (fun l => l.contains d) || t.deliver.any (fun v => v.writes.any (fun w => w.dest == d)))

/-- The destinations among `ds` that an engine result is pending for (R151). -/
def Thread.pendOn (t : Thread) (ds : List Dest) : List Dest := ds.filter (fun d => t.pend.any (fun e => e.dests.contains d))

/-- A limit of WAITCNT: 63 waits for nothing (R207). -/
def within (limit n : Nat) : Bool := limit == 63 || decide (n ≤ limit)

/-- Whether every counter is within its limit (R207). -/
def Counts.meets (c l : Counts) : Bool :=
  within l.loads c.loads && within l.stores c.stores && within l.copies c.copies && within l.matrix c.matrix
    && within l.sets c.sets && within l.circle c.circle

/-- Whether an index of a launch names a set or a consist (R137, R296). -/
def State.indexTaken (s : State) (l : LKey) (i : Nat) : Bool :=
  (match s.launch? l with
    | some x => x.sets.any (fun r => r.index == i) || x.pool.spent.contains i
    | none => false)
    || s.parcels.any (fun p => p.key.launchKey == l && p.consists.any (fun c => c.handle.toNat % 2 ^ 20 == i))

/-- The lowest free index among the blocks a core holds; never index 0 (R296). -/
def State.freeIndex (s : State) (l : LKey) (core : Nat) : Option Nat :=
  match s.launch? l with
  | none => none
  | some x => ((x.pool.blocks.filter (fun b => b.2 == core)).flatMap (fun b => (List.range 64).map (fun i => 64 * b.1 + i))).find?
      (fun i => i != 0 && !s.indexTaken l i)

/-- Whether a die has handed out every block of a launch (R296: 1,024 blocks of 64 indices). -/
def Launch.dieSpent (x : Launch) (die : Nat) : Bool := decide (1024 ≤ Tbl.get 0 x.pool.next die)

/-- Whether a thread that needs an index of a launch need not wait for its die's supply (R296, R320). -/
def State.indexLeft (s : State) (l : LKey) (core : Nat) : Bool :=
  (s.freeIndex l core).isSome || (match s.launch? l with
    | some x => x.dieSpent (dieOf core)
    | none => true)

/-- Whether what a thread waits for in engine wait has come about. -/
def State.waitOver (s : State) (core : Nat) (k : PKey) (t : Thread) : Wait → Bool
  | .dests ds => (t.pendOn ds).isEmpty
  | .counts limits => t.counts.meets limits
  | .countRoom cls => decide (t.counts.get cls < 62)
  | .storesDone => t.storeQ.isEmpty
  | .storeRoom => decide (t.storeQ.length < 62)
  | .granule off => !t.storesIn off
  | .loadsDone => t.counts.loads == 0
  | .numbering => !s.undecided k t.tix
  | .contextRoom n => (s.core core).room n
  | .watchRoom => decide ((s.core core).watches.length < 64)
  | .setIndex _ => s.indexLeft k.launchKey core
  | .circle _ => false
  | .sync => t.due.isEmpty && t.deliver.isEmpty && t.storeQ.isEmpty && !s.undecided k t.tix

/-- How a thread stands to the instruction its group is about to issue. -/
inductive Readiness where
  | illegal | short (ds : List Dest) | pending (ds : List Dest) | skip | go
  deriving DecidableEq, Repr

/-- Whether the guard holds (R38). -/
def Thread.guard (t : Thread) : Guard → Bool
  | .always => true
  | .onTrue p => t.pred p.toNat
  | .onFalse p => !t.pred p.toNat

/-- Check 8 of R78, then the guard's register, the guard, and the operands and destinations (R38, R79, R151). -/
def Thread.readiness (t : Thread) (l : Launch) (sig : Sig) : Readiness :=
  if !sig.check8 (l.roleRegs t.role) l.slotCount then .illegal
  else if t.pendOn sig.guard.dests != [] then .pending sig.guard.dests
  else if t.dueOn sig.guard.dests != [] then .short sig.guard.dests
  else if !t.guard sig.guard then .skip
  else if t.pendOn (sig.sources ++ sig.targets) != [] then .pending (sig.sources ++ sig.targets)
  else if t.dueOn (sig.sources ++ sig.targets) != [] then .short (sig.sources ++ sig.targets)
  else .go

/-- The state of a thread that has nothing to wait for but the operands of its next instruction: ready, in short wait, or in
engine wait (R113). -/
def State.standing (s : State) (core : Nat) (l : Launch) (t : Thread) : Status :=
  match (s.core core).fetch l t.pc with
  | .error _ => .ready
  | .ok i => match t.readiness l i.sig with
    | .short ds => .short ds
    | .pending ds => .engine (.dests ds)
    | _ => .ready

/-- The state that a thread's next instruction gives it once its short wait is over (R113). -/
def State.nextStatus (s : State) (core : Nat) (p : Parcel) (t : Thread) : Status :=
  match s.launch? p.key.launchKey with
  | some l => s.standing core l t
  | none => .ready

/-- What becomes of a thread's state when everything else stands as it does (R113, R133, R204). A WAITPH whose phase is
done returns here, with its phase acquire (R364). -/
def State.settleThread (s : State) (core : Nat) (p : Parcel) (t : Thread) : Thread :=
  match t.status with
  | .short ds => if (t.dueOn ds).isEmpty then { t with status := s.nextStatus core p t } else t
  | .engine w => if s.waitOver core p.key t w then { t with status := .ready } else t
  | .phase off ph =>
    if (p.barrier off).done ph then
      { t.retire (t.pc + 8) with status := .ready, detect := t.detect.phaseAcquire (.barrier off) ph }
    else t
  | .yielded _ =>
    if p.threads.all (fun u => u.tix == t.tix || !u.status.runnable) then { t with status := .ready } else t
  | _ => t

/-- Re-evaluate the waits of every thread of a parcel. -/
def State.settleParcel (s : State) (core : Nat) (p : Parcel) : Parcel :=
  let threads := p.threads.map (s.settleThread core p)
  let done := (p.threads.filter (fun t => match t.status with
    | .phase off ph => (p.barrier off).done ph
    | _ => false)).length
  { p with threads := threads, retired := min (2 ^ 64 - 1) (p.retired + done) }

/-- Whether the threads of a parcel run on a core. -/
def Parcel.runsOn (p : Parcel) (core : Nat) : Bool := p.core == core && p.phase == .running

/-- Re-evaluate the waits on a core (R113). -/
def State.settle (s : State) (core : Nat) : State :=
  if (s.core core).halting then s
  else { s with parcels := s.parcels.map (fun p => if p.runsOn core then s.settleParcel core p else p) }

/-! ### The PC table (R114, R115) -/

/-- Whether a thread may stand in an entry: it is ready or in short wait (R114). -/
def Status.grouped : Status → Bool
  | .ready | .short _ => true
  | _ => false

/-- Whether a thread stays in an entry: it is ready or in short wait at the entry's address (R114, R115 step 1). -/
def Entry.keeps (e : Entry) (p : Parcel) (tix : Nat) : Bool :=
  p.place == e.place && (match p.thread? tix with
    | some t => t.status.grouped && t.pc == e.pc
    | none => false)

/-- Step 2 of R115 for one thread: the first entry for its parcel and PC in which its lane is free, or a new one. -/
def joinEntry (place : Nat) (pc : Word) (tix clk : Nat) : List Entry → List Entry
  | [] => [⟨place, pc, [tix], clk, false, 0⟩]
  | e :: rest =>
    if e.place = place && e.pc == pc && e.tixs.all (fun t => t % 32 != tix % 32) then { e with tixs := e.tixs ++ [tix] } :: rest
    else e :: joinEntry place pc tix clk rest

/-- Step 1 of R115 on a core, and the leaving of step 5: a thread whose PC has changed, or that waits, leaves its entry, and
an entry left empty is removed. -/
def State.leave (s : State) (core : Nat) : State :=
  let ps := (s.residents core).filter (fun p => p.phase == .running)
  s.modCore core (fun c => { c with
    entries := (c.entries.map (fun e => { e with tixs := e.tixs.filter (fun t => ps.any (fun p => e.keeps p t)) })).filter
      (fun e => !e.tixs.isEmpty) })

/-- What a core does after anything that may change its threads: waits that are over end, and threads leave their entries.
They join anew at the end of the cycle (`State.endCycle`). -/
def State.refresh (s : State) (core : Nat) : State := (s.settle core).leave core

/-- The threads of a parcel that stand in no entry and must take step 2 of R115, in ascending `%tix` order. -/
def Parcel.joiners (p : Parcel) (kept : List Entry) : List (Nat × Word × Nat) :=
  let out := p.threads.filter (fun t => t.status.grouped && !kept.any (fun e => e.place == p.place && e.tixs.contains t.tix))
  (sortBy (fun a b => decide (a.tix ≤ b.tix)) out).map (fun t => (p.place, t.pc, t.tix))

/-- Steps 2 to 4 of R115 on a core at the end of a cycle: every thread that must join does, in ascending `%tix` order. -/
def State.join (s : State) (core : Nat) : State :=
  let ps := (s.residents core).filter (fun p => p.phase == .running)
  s.modCore core (fun c => { c with
    entries := (ps.flatMap (fun p => p.joiners c.entries)).foldl (fun es j => joinEntry j.1 j.2.1 j.2.2 s.clk es) c.entries })

/-! ### Issue (R38, R78, R116, R151) -/

/-- What executing an instruction does in one thread. -/
inductive Effect where
  /-- It retires, and the thread goes on at the next instruction. -/
  | next (s : State)
  /-- It retires, and the thread goes on at an address. -/
  | jump (s : State) (pc : Word)
  /-- It has set the thread's state itself. -/
  | stay (s : State)
  /-- It traps with nothing done. -/
  | trap (r : Trap)
  /-- It cannot issue yet. -/
  | wait (w : Wait)
  /-- It ends the launch (R222, R391). -/
  | fatal (r : FaultRec)

/-- The meaning of an instruction in one thread. -/
abbrev Body := State → PKey → Thread → Effect

/-- How a thread of the issuing group stands. -/
def State.readiness (s : State) (g : Group) (sig : Sig) (tix : Nat) : Readiness :=
  match s.thread? g.key tix, s.launch? g.key.launchKey with
  | some t, some l => t.readiness l sig
  | _, _ => .skip

/-- The threads of the group that execute the instruction. -/
def State.executing (s : State) (g : Group) (sig : Sig) : List Nat := g.tixs.filter (fun t => s.readiness g sig t == .go)

/-- The destinations a thread of the group is in short wait for, if any. -/
def State.shortOf (s : State) (g : Group) (sig : Sig) (tix : Nat) : List Dest :=
  match s.readiness g sig tix with
  | .short ds => ds
  | _ => []

/-- Whether a thread of the group waits for a result due within a fixed latency: the group then does not issue (R118). -/
def State.held (s : State) (g : Group) (sig : Sig) : Bool := g.tixs.any (fun t => s.shortOf g sig t != [])

/-- The group waits (R118): its threads whose operands are due are in short wait. -/
def State.hold (s : State) (g : Group) (sig : Sig) : State :=
  g.tixs.foldl (fun s t =>
    match s.shortOf g sig t with
    | [] => s
    | ds => s.modThread g.key t (fun th => { th with status := .short ds })) s

/-- The field a retain hint names (R59), where the instruction reads that field as a g-register with no literal zero. -/
def retained (i : Instr) (retain : Nat) : Option FieldUse :=
  if retain = 0 then none
  else match i.sig.fields[retain]? with
    | some f => match f.kind with
      | .reg _ => if f.flag || !f.acc.reads then none else some f
      | _ => none
    | none => none

/-- The retain bits of a format R word (R58). -/
def retainOf (i : Instr) : Nat :=
  match encode i with
  | [w] => if (match shapeOf (w.extractLsb' 54 10).toNat with
      | some (.r _) => true
      | _ => false) then (w.extractLsb' 10 2).toNat else 0
  | _ => 0

/-- Whether the value retained by the thread's last instruction is served to this one, which must read the same register
number in the same field (R59). A field is counted by its place among the register fields of its format, and a regrouping
is a change of the issuing group's threads (DESIGN CHOICE, log entry 46). -/
def Thread.reuses (t : Thread) (i : Instr) (tixs : List Nat) : Bool :=
  match t.reuse with
  | none => false
  | some (f, r, group) => group == tixs && (match i.sig.fields[f]? with
    | some u => (match u.kind with
      | .reg _ => u.acc.reads && !u.flag && u.val.toNat == r
      | _ => false)
    | none => false)

/-- The reuse buffer after an instruction: what it retains, unless it writes the register or, for a pair, either register
(R59; log entry 46). -/
def nextReuse (i : Instr) (tixs : List Nat) : Option (Nat × Nat × List Nat) :=
  match retained i (retainOf i) with
  | some f => if f.dests.any (fun d => i.sig.targets.contains d) then none else some (retainOf i, f.val.toNat, tixs)
  | none => none

/-- What the reuse buffer of a thread holds (R59). -/
def Thread.withReuse (t : Thread) (r : Option (Nat × Nat × List Nat)) : Thread := { t with reuse := r }

/-- A thread of the group retires the instruction and goes on at an address; what it retains, and whether it was served from
the reuse buffer (R59), are noted. -/
def State.goOn (s : State) (g : Group) (i : Instr) (t : Thread) (pc : Word) : State :=
  ((s.modParcel g.key (fun p => p.retire t.tix pc)).modThread g.key t.tix (fun t => t.withReuse (nextReuse i g.tixs))).count
    g.key.ctx 0x010 (bit (t.reuses i g.tixs))

/-- What becomes of the device by what an instruction has done in a thread `t` that stood in state `s`. -/
def State.carry (s : State) (g : Group) (i : Instr) (t : Thread) : Effect → State
  | .next u => u.goOn g i t (t.pc + BitVec.ofNat 32 g.size)
  | .jump u pc => u.goOn g i t pc
  | .stay u => (u.modThread g.key t.tix (fun t => t.withReuse (nextReuse i g.tixs))).count g.key.ctx 0x010
      (bit (t.reuses i g.tixs))
  | .trap r => s.trap g.key t.tix r
  | .wait w => s.modThread g.key t.tix (fun t => { t with status := .engine w, reuse := none })
  | .fatal r => s.launchFatal g.key.launchKey { r with pix := g.key.pix, tix := t.tix, pc := t.pc.toNat }

/-- A thread whose guard is false retires the instruction (R38). -/
def State.passOver (s : State) (g : Group) (t : Thread) : State :=
  s.modParcel g.key (fun p => (p.retire t.tix (t.pc + BitVec.ofNat 32 g.size)).modThread t.tix (fun t => t.withReuse none))

/-- The instruction of one thread of the group (R116). -/
def issueThread (g : Group) (i : Instr) (body : Body) (s : State) (tix : Nat) : State :=
  match s.thread? g.key tix with
  | none => s
  | some t =>
    match s.readiness g i.sig tix with
    | .illegal => s.trap g.key tix (.illegal 8 t.pc)
    | .short _ => s
    | .pending ds => s.modThread g.key tix (fun t => { t with status := .engine (.dests ds), reuse := none })
    | .skip => s.passOver g t
    | .go => s.carry g i t (body s g.key t)

/-- A group issues an instruction (R116): `pre` is done once for the group with the threads that execute, `body` once for
each thread in ascending `%tix` order of the group's lanes, `post` once after them. -/
def issueWith {α : Type} (i : Instr) (pre : Group → List Nat → State → State × α) (body : α → Body) (post : Group → State → State)
    (s : State) : Host.Outcome State Fault Refusal :=
  match s.group with
  | none => .refused .noGroup
  | some g =>
    let s := { s with group := none }
    if s.held g i.sig then .next ((s.hold g i.sig).refresh g.core)
    else
      let r := pre g (s.executing g i.sig) s
      let s := (sortBy (fun a b => decide (a % 32 ≤ b % 32)) g.tixs).foldl (issueThread g i (body r.2)) r.1
      .next ((post g s).refresh g.core)

/-- A group issues an instruction whose threads do not interact. -/
def issue (i : Instr) (body : Body) (s : State) : Host.Outcome State Fault Refusal :=
  issueWith i (fun _ _ s => (s, ())) (fun _ => body) (fun _ s => s) s

/-- Mark an instruction's destinations as due (R113, R152): the values are written, and a reader waits for the mark. -/
def Thread.mark (t : Thread) (sig : Sig) : Thread := { t with due := t.due ++ [sig.targets] }

/-- Per-thread arithmetic (R153): it reads and writes only the thread, and may trap before it writes anything. -/
def arithBody (sig : Sig) (f : Thread → Except Trap Thread) : Body := fun s k t =>
  match f t with
  | .error r => .trap r
  | .ok t' => .next (s.modThread k t.tix (fun _ => t'.mark sig))

/-- Issue of a per-thread arithmetic instruction that never traps. -/
def issueArith (i : Instr) (f : Thread → Thread) (s : State) : Host.Outcome State Fault Refusal :=
  issue i (arithBody i.sig (fun t => .ok (f t))) s

end Sys2Proof.Machine
end

