-- ==== Sys2Proof/Machine/Engine.lean ====
section
/-!
DEFINITION. What every engine request shares: the checks of scratchpad operands (R179, R234), capabilities and leases
(R213, R222), the waits before a request issues (R26, R206, R209), its number (R227), its completion and its failure
(R228, R232), and scoreboarded results (R151).
-/

namespace Sys2Proof.Machine

/-! ### Checks made at issue -/

/-- The checks of R179 for an access of `size` bytes at `o`, aligned to `align`. -/
def Parcel.bound (p : Parcel) (o : Int) (size align : Nat) : Option Trap :=
  if o < 0 ∨ (p.spSize : Int) < o + size then some (.capv 4 o)
  else if o.toNat % align ≠ 0 then some (.unaligned o)
  else none

/-- A parameter block of `n` bytes: each of its 16-byte parts is an access under R179, so that the block lies wholly in the
allotment (R234, R249, R256, R276; DEDUCED, log entry 60). -/
def Parcel.block (p : Parcel) (o n : Nat) : Option Trap := (List.range (n / 16)).findSome? (fun i => p.bound (o + 16 * i) 16 16)

/-- The first trap of a list of checks, in order (R399). -/
def firstTrap (l : List (Option Trap)) : Option Trap := (l.filterMap id).head?

/-- R213 for a request with one right. -/
def capTrap (k : QWord) (g : Right) (o n : Nat) : Option Trap := (capCheck k [g] o n).map (fun d => .capv d o)

/-- Whether some held lease of the parcel covers object bytes a to a + n − 1 with a right (R222). -/
def State.leased (s : State) (k : PKey) (obj : Nat) (g : Right) (a n : Nat) : Bool :=
  (s.ctx k.ctx).leases.any (fun e =>
    leaseField e 255 224 == k.launch && leaseField e 223 192 == k.pix && leaseField e 187 184 == 2
      && (leaseField e 183 176).testBit g.bit && leaseField e 175 152 == obj
      && decide (leaseField e 151 104 ≤ a) && decide (a + n ≤ leaseField e 151 104 + leaseField e 103 56))

/-- The lease violation of a request on a capability's offsets (R222, R408 kind 0x01), if it is one. -/
def State.leaseFault (s : State) (k : PKey) (cap : QWord) (g : Right) (o n : Nat) : Option FaultRec :=
  if s.leased k (capObj cap) g (capBase cap + o) n then none
  else some { kind := 0x01, code := 2 ^ g.bit, obj := capObj cap, addr := capBase cap + o, len := n }

/-! ### Waits before a request issues -/

/-- What keeps a thread from issuing a request of a class: a fence (R209), the counter (R206). -/
def State.gate (s : State) (k : PKey) (t : Thread) (cls : CntClass) : Option Wait :=
  if t.fenceRelease && !t.storeQ.isEmpty then some .storesDone
  else if t.fenceNumber && s.undecided k t.tix then some .numbering
  else if 62 ≤ t.counts.get cls then some (.countRoom cls)
  else none

/-- As `gate`, for a request that an engine or a slice serves: it issues once every older queued store of its thread is
performed (R251, R360, R361; DEDUCED, log entry 48). -/
def State.requestGate (s : State) (k : PKey) (t : Thread) (cls : CntClass) : Option Wait :=
  if t.storeQ.isEmpty then s.gate k t cls else some .storesDone

/-- As `requestGate`, with room in an engine context (R26). -/
def State.engineGate (s : State) (k : PKey) (t : Thread) (cls : CntClass) (ctx : Nat) : Option Wait :=
  match s.requestGate k t cls with
  | some w => some w
  | none => if (s.core (s.coreOf k)).room ctx then none else some (.contextRoom ctx)

/-- The fences that a request or store has passed are satisfied (R209). -/
def Thread.passFence (t : Thread) : Thread := { t with fenceRelease := false, fenceNumber := false }

/-! ### Numbers, completion, failure -/

/-- A request is numbered on the timeline of its context: its serial number and its number (R227). -/
def State.number (s : State) (k : PKey) (tix ctx : Nat) (cls : CntClass) : State × Nat × Nat :=
  let core := s.coreOf k
  let n := ((s.core core).timeline ctx).issued + 1
  let (uid, s) := s.fresh
  let s := s.modCore core (fun c => c.modTimeline ctx Timeline.issue)
  (s.modThread k tix (fun t => { (t.inc cls).passFence with own := Tbl.put 0 t.own ctx (BitVec.ofNat 64 n) }), uid, n)

/-- A request has completed on its timeline, on a core, and in its thread's counter (R206, R228). -/
def State.completeOn (s : State) (core : Nat) (k : PKey) (tix ctx : Nat) (cls : CntClass) (num : Nat) (restored : Bool) : State :=
  (s.modCore core (fun c => c.modTimeline ctx (fun t => t.complete num restored))).modThread k tix (fun t => t.dec cls)

/-- A request has completed on the core of its parcel. -/
def State.complete (s : State) (k : PKey) (tix ctx : Nat) (cls : CntClass) (num : Nat) (restored : Bool) : State :=
  s.completeOn (s.coreOf k) k tix ctx cls num restored

/-- REQUEST_FAIL (R232), on a core: the bytes not yet counted, with the code, on its barrier if it has one; then FAILN, FAILC, NFAIL
and the recent list; it counts as complete. -/
def State.failOn (s : State) (core : Nat) (k : PKey) (tix ctx : Nat) (cls : CntClass) (num : Nat) (restored : Bool) (bar : Option Nat)
    (n : Nat) (code : Word) : State :=
  let s := match bar with
    | some b => s.countBytes k b n code
    | none => s
  (s.modCore core (fun c => c.modTimeline ctx (fun t => t.fail num restored code))).modThread k tix (fun t => t.dec cls)

/-- A request fails on the core of its parcel. -/
def State.fail (s : State) (k : PKey) (tix ctx : Nat) (cls : CntClass) (num : Nat) (restored : Bool) (bar : Option Nat) (n : Nat)
    (code : Word) : State :=
  s.failOn (s.coreOf k) k tix ctx cls num restored bar n code

/-- A request that is numbered and completed at once as failed (R231). -/
def State.failAtIssue (s : State) (k : PKey) (tix ctx : Nat) (cls : CntClass) (bar : Option Nat) (n : Nat) (code : Word) : State :=
  let r := s.number k tix ctx cls
  r.1.fail k tix ctx cls r.2.2 false bar n code

/-! ### Scoreboarded results (R151) -/

/-- A result is pending for some destinations, with its values if they are known. -/
def Thread.expect (t : Thread) (uid : Nat) (dests : List Dest) (vals : Option (List Write)) : Thread :=
  { t with pend := t.pend ++ [⟨uid, dests, vals⟩] }

/-- A pending result is written and its marks are cleared; an exited thread has discarded it (R132). -/
def State.resolve (s : State) (k : PKey) (tix uid : Nat) (ws : List Write) : State :=
  s.modThread k tix (fun t =>
    if t.pend.any (fun e => e.uid == uid) then { t.writeAll ws with pend := t.pend.filter (fun e => e.uid != uid) } else t)

/-- A pending result's values become known; ENGINE_RESULT_WRITE writes them. -/
def State.supply (s : State) (k : PKey) (tix uid : Nat) (ws : List Write) : State :=
  s.modThread k tix (fun t => { t with pend := t.pend.map (fun e => if e.uid = uid then { e with vals := some ws } else e) })

/-- A scoreboarded result whose values are known at issue. -/
def State.result (s : State) (k : PKey) (tix : Nat) (ws : List Write) : State :=
  let (uid, s) := s.fresh
  s.modThread k tix (fun t => t.expect uid (ws.map (fun w => w.dest)) (some ws))

/-- The destinations of a pair. -/
def pairDests (d : Nat) : List Dest := [.g d, .g (d + 1)]

/-! ### Engine stores in a scratchpad (R190) -/

/-- An engine writes bytes into a parcel's scratchpad. -/
def Parcel.engineStore (p : Parcel) (off : Nat) (bs : List Byte) : Parcel :=
  { p with spad := Mem.write p.spad off bs }.noteEngine off bs.length

/-- The parts of bytes at an offset that lie in one 64-byte chunk each. -/
def chunkParts (a : Nat) (bs : List Byte) : List (Nat × List Byte) :=
  if bs.isEmpty then []
  else (List.range ((a + bs.length - 1) / 64 - a / 64 + 1)).map (fun i =>
    let lo := max a ((a / 64 + i) * 64)
    (lo, (bs.drop (lo - a)).take (min (a + bs.length) ((a / 64 + i + 1) * 64) - lo)))

/-- Put a part with the parts of its chunk. -/
def addPart (x : Nat × List Byte) : List (List (Nat × List Byte)) → List (List (Nat × List Byte))
  | [] => [[x]]
  | g :: rest => if (g.headD (0, [])).1 / 64 = x.1 / 64 then (g ++ [x]) :: rest else g :: addPart x rest

/-- The landings of one unit of a request, one for each 64-byte chunk; the last one carries the unit's count (R201). -/
def landingsOf (res : Option Nat) (pieces : List (Nat × List Byte)) (bar : Option Nat) (count req : Nat) : List Landing :=
  let groups := (pieces.flatMap (fun p => chunkParts p.1 p.2)).foldl (fun gs x => addPart x gs) []
  (groups.zip (List.range groups.length)).map (fun g =>
    ⟨res, g.1, bar, if g.2 + 1 = groups.length then count else 0, req⟩)

/-! ### Bytes of operand-buffer reservations (R245, R249) -/

/-- A byte of a reservation; one that nothing has written since its OBRES is a free value (log entry 3). -/
def Reservation.byte (r : Reservation) (off : Nat) : Byte :=
  match r.bytes.find? (fun c => c.1 == off) with
  | some c => c.2
  | none => Config.undefinedByte r.serial off

/-- Write bytes of a reservation. -/
def Reservation.write (r : Reservation) (off : Nat) (bs : List Byte) : Reservation :=
  { r with bytes := (bs.zip (List.range bs.length)).foldl (fun m b => Tbl.ins (off + b.2) b.1 m) r.bytes }

/-- Change the reservation with a serial number. -/
def Parcel.modResv (p : Parcel) (serial : Nat) (f : Reservation → Reservation) : Parcel :=
  { p with resv := p.resv.map (fun r => if r.serial = serial then f r else r) }

/-- A landing is served: its pieces are written (R185, R190, R247). -/
def Parcel.land (p : Parcel) (l : Landing) : Parcel :=
  match l.res with
  | some serial => l.pieces.foldl (fun p x => p.modResv serial (fun r => r.write x.1 x.2)) p
  | none => l.pieces.foldl (fun p x => p.engineStore x.1 x.2) p

/-- Bytes are handed to a barrier, to be counted in a later service (R201). -/
def State.handCount (s : State) (k : PKey) (bar : Option Nat) (n req : Nat) : State :=
  match bar with
  | some b => if n = 0 then s else s.modParcel k (fun (p : Parcel) => { p with counts := p.counts ++ [(⟨b, n, 0, req, none⟩ : Count)] })
  | none => s

/-- What an object answers to a write of a running launch: a weight object (R226), a Circle object (R339). -/
def State.writeRefused (s : State) (o : OKey) : Nat :=
  match s.classOf o with
  | 3 => 0x24
  | 2 => 0x91
  | _ => 0

/-- A number in a parcel's scratchpad. -/
def Parcel.nat (p : Parcel) (off n : Nat) : Nat := Mem.nat p.spad off n

/-- Serve every landing and count of a request at once. -/
def State.drainReq (s : State) (k : PKey) (req : Nat) : State :=
  let ls := (s.parcel k).landings.filter (fun l => l.req == req)
  let s := s.modParcel k (fun p => ls.foldl (fun p l => p.land l) { p with landings := p.landings.filter (fun l => l.req != req) })
  let cs := (s.parcel k).counts.filter (fun c => c.req == req)
  let s := s.modParcel k (fun p => { p with counts := p.counts.filter (fun c => c.req != req) })
  let s := ls.foldl (fun s l => match l.bar with
    | some b => if l.count = 0 then s else s.countBytes k b l.count 0
    | none => s) s
  cs.foldl (fun s c => s.countBytes k c.bar c.n c.err) s

end Sys2Proof.Machine
end

