-- ==== Sys2Proof/Machine/OperandBuffer.lean ====
section
/-!
DEFINITION. The operand buffer (R244 to R250): reservation records and their layout, which requests name a reservation,
and OBRES, OBFREE and OBINFO.
-/

namespace Sys2Proof.Machine

/-! ### Element formats (R81) -/

/-- The width in bits of an element format; 0 for a reserved code. -/
def fmtBits (f : Nat) : Nat :=
  match f with
  | 0 | 4 | 12 | 13 => 8
  | 1 | 5 | 10 | 11 => 16
  | 2 | 6 | 9 => 32
  | 3 | 7 | 8 => 64
  | 14 | 15 | 16 => 4
  | _ => 0

/-- Whether a format is a matrix operand format. -/
def fmtMatrix (f : Nat) : Bool := [0, 4, 8, 10, 11, 12, 13, 14, 15, 16].contains f

/-- Whether a format is a block format: .mx4 or .qn4. -/
def fmtBlock (f : Nat) : Bool := f == 14 || f == 15

/-- The block length a format's record holds (R245). -/
def fmtBlen (f : Nat) : Nat :=
  match f with
  | 14 => 32
  | 15 => 64
  | _ => 0

/-! ### Reservation records (R245) -/

/-- Bits [hi:lo] of a record. -/
def rsvField (w : BitVec 256) (hi lo : Nat) : Nat := (w.extractLsb' lo (hi + 1 - lo)).toNat

/-- FIRST. -/
def rsvFirst (w : BitVec 256) : Nat := rsvField w 234 226
/-- COUNT. -/
def rsvCount (w : BitVec 256) : Nat := rsvField w 221 212
/-- FMT. -/
def rsvFmt (w : BitVec 256) : Nat := rsvField w 211 207
/-- BLEN. -/
def rsvBlen (w : BitVec 256) : Nat := rsvField w 206 199
/-- DIR. -/
def rsvDir (w : BitVec 256) : Bool := w.getLsbD 198
/-- FLUSH. -/
def rsvFlush (w : BitVec 256) : Bool := w.getLsbD 197
/-- SHARE. -/
def rsvShare (w : BitVec 256) : Bool := w.getLsbD 196
/-- PITCH. -/
def rsvPitch (w : BitVec 256) : Nat := rsvField w 191 171
/-- SOFF. -/
def rsvSoff (w : BitVec 256) : Nat := rsvField w 170 150
/-- SPITCH. -/
def rsvSpitch (w : BitVec 256) : Nat := rsvField w 149 129
/-- GOFF. -/
def rsvGoff (w : BitVec 256) : Nat := rsvField w 128 108
/-- GPITCH. -/
def rsvGpitch (w : BitVec 256) : Nat := rsvField w 107 87
/-- The bytes of a reservation. -/
def rsvBytes (w : BitVec 256) : Nat := rsvCount w * 4096

/-- The byte of element (x, k) of an operand at offset `o` (R246). -/
def rsvAt (w : BitVec 256) (o x k : Nat) : Nat :=
  if rsvDir w then o + k * rsvPitch w + x * (fmtBits (rsvFmt w) / 8) else o + x * rsvPitch w + k * fmtBits (rsvFmt w) / 8

/-- The byte that holds the block scale of the element at byte `b` (R246). -/
def rsvScaleAt (w : BitVec 256) (b : Nat) : Nat :=
  rsvSoff w + b / rsvPitch w * rsvSpitch w + b % rsvPitch w / (rsvBlen w / 2)

/-- The first byte of the group scale of the element at byte `b` (R246). -/
def rsvGroupAt (w : BitVec 256) (b : Nat) : Nat :=
  rsvGoff w + b / rsvPitch w * rsvGpitch w + 4 * (b % rsvPitch w / 8192)

/-- The parts of bytes b0 to b1 in one row of the pitch each: first and last byte. -/
def pitchRows (w : BitVec 256) (b0 b1 : Nat) : List (Nat × Nat) :=
  (List.range (b1 / rsvPitch w - b0 / rsvPitch w + 1)).map (fun i =>
    let r := b0 / rsvPitch w + i
    (max b0 (r * rsvPitch w), min b1 (r * rsvPitch w + rsvPitch w - 1)))

/-- The ranges of the block scales of elements at bytes b0 to b1. -/
def rsvScales (w : BitVec 256) (b0 b1 : Nat) : List (Nat × Nat) :=
  if fmtBlock (rsvFmt w) then (pitchRows w b0 b1).map (fun r => (rsvScaleAt w r.1, rsvScaleAt w r.2 - rsvScaleAt w r.1 + 1)) else []

/-- The ranges of the group scales of elements at bytes b0 to b1. -/
def rsvGroups (w : BitVec 256) (b0 b1 : Nat) : List (Nat × Nat) :=
  if rsvFmt w = 15 then (pitchRows w b0 b1).map (fun r => (rsvGroupAt w r.1, rsvGroupAt w r.2 - rsvGroupAt w r.1 + 4)) else []

/-- The range from the first to the last byte of some ranges. -/
def hull (l : List (Nat × Nat)) : List (Nat × Nat) :=
  match l with
  | [] => []
  | (a, n) :: rest =>
    let r := rest.foldl (fun (r : Nat × Nat) p => (min r.1 p.1, max r.2 (p.1 + p.2))) (a, a + n)
    [(r.1, r.2 - r.1)]

/-- The footprint of an operand at offset `o`: elements (x, k) for x below `nx` and k below `nk`, then their block scales,
then their group scales (R254). -/
def rsvRanges (w : BitVec 256) (o nx nk : Nat) : List (Nat × Nat) :=
  let rows := (List.range nx).map (fun x => (rsvAt w o x 0, rsvAt w o x (nk - 1)))
  [(o, rsvAt w o (nx - 1) (nk - 1) + max 1 (fmtBits (rsvFmt w) / 8) - o)]
    ++ hull (rows.flatMap (fun r => rsvScales w r.1 r.2)) ++ hull (rows.flatMap (fun r => rsvGroups w r.1 r.2))

/-- The end of a footprint. -/
def rsvFootprint (w : BitVec 256) (o nx nk : Nat) : Nat := (rsvRanges w o nx nk).foldl (fun e r => max e (r.1 + r.2)) 0

/-- Whether a descriptor is valid for OBRES (R249). -/
def rsvValid (w : BitVec 256) : Bool :=
  let rows := rsvBytes w / rsvPitch w
  rsvField w 255 222 == 0 && rsvField w 195 192 == 0 && rsvField w 86 0 == 0
    && decide (1 ≤ rsvCount w) && decide (rsvCount w ≤ 512) && fmtMatrix (rsvFmt w) && rsvBlen w == fmtBlen (rsvFmt w)
    && !(rsvDir w && fmtBits (rsvFmt w) == 4)
    && rsvPitch w != 0 && rsvPitch w % 64 == 0 && decide (rsvPitch w ≤ rsvBytes w)
    && (fmtBlock (rsvFmt w) || (rsvSoff w == 0 && rsvSpitch w == 0))
    && (rsvFmt w == 15 || (rsvGoff w == 0 && rsvGpitch w == 0))
    && rsvGoff w % 4 == 0 && rsvGpitch w % 4 == 0
    && (!fmtBlock (rsvFmt w) || decide (rsvSoff w + rows * rsvSpitch w ≤ rsvBytes w))
    && (rsvFmt w != 15 || decide (rsvGoff w + rows * rsvGpitch w ≤ rsvBytes w))

/-! ### The reservations of a core -/

/-- Every reservation on a core, deferred frees included (R250). -/
def State.reservations (s : State) (core : Nat) : List Reservation := (s.residents core).flatMap (fun p => p.resv)

/-- Every reservation whose record and granules cannot be allotted on a core now: those freed in this cycle too (R27). -/
def State.rsvsTaken (s : State) (core : Nat) : List Reservation := s.reservations core ++ (s.late core).flatMap (fun f => f.resv)

/-- Whether a granule of a core is allotted. -/
def granuleTaken (rs : List Reservation) (g : Nat) : Bool :=
  rs.any (fun r => decide (rsvFirst r.word ≤ g) && decide (g < rsvFirst r.word + rsvCount r.word))

/-- The lowest granule that starts a free run of `n` (R249). -/
def freeRun (rs : List Reservation) (n : Nat) : Option Nat :=
  (List.range (513 - n)).find? (fun f =>
    rs.all (fun r => decide (f + n ≤ rsvFirst r.word) || decide (rsvFirst r.word + rsvCount r.word ≤ f)))

/-- The longest run of free granules (R250). -/
def longestRun (rs : List Reservation) : Nat :=
  ((List.range 512).foldl (fun (r : Nat × Nat) g =>
    if granuleTaken rs g then (r.1, 0) else (max r.1 (r.2 + 1), r.2 + 1)) (0, 0)).1

/-- The lowest free record number (R249). -/
def freeRecord (rs : List Reservation) : Option Nat := (List.range 64).find? (fun n => rs.all (fun r => r.num != n))

/-- A reservation that the parcel holds and has not freed (R250, R254). -/
def Parcel.resv? (p : Parcel) (n : Nat) : Option Reservation := p.resv.find? (fun r => r.num == n && !r.freed)

/-! ### Requests that name a reservation (R250, R259) -/

/-- KIND of an operand descriptor (R252). -/
def opdKind (d : DWord) : Nat := (d.extractLsb' 62 2).toNat
/-- CORE of an operand descriptor. -/
def opdCore (d : DWord) : Nat := (d.extractLsb' 60 2).toNat
/-- RES of an operand descriptor. -/
def opdRes (d : DWord) : Nat := (d.extractLsb' 54 6).toNat
/-- CAP of an operand descriptor. -/
def opdCap (d : DWord) : Nat := (d.extractLsb' 51 3).toNat
/-- OFF of an operand descriptor. -/
def opdOff (d : DWord) : Nat := (d.extractLsb' 0 48).toNat

/-- ASRC of an MMA block (R251). -/
def mmaA (b : BitVec 512) : DWord := b.extractLsb' 0 64
/-- BSRC of an MMA block. -/
def mmaB (b : BitVec 512) : DWord := b.extractLsb' 64 64

/-- Bits [hi:lo] of an ADRAIN block (R287). -/
def drainField (b : BitVec 256) (hi lo : Nat) : Nat := (b.extractLsb' lo (hi + 1 - lo)).toNat

/-- The reservation a copy's record names (R229), if its local side lies in the operand buffer. -/
def CopyKind.resNum : CopyKind → Option Nat
  | .cpin box _ _ _ | .cpout box _ _ _ => if box.getLsbD 17 then some (box.extractLsb' 24 6).toNat else none
  | _ => none

/-- Whether an operand descriptor of a request on core `at'` of parcel `k` names reservation `n` of parcel `holder`. -/
def opdNames (d : DWord) (at' : Nat) (k holder : PKey) (core n : Nat) : Bool :=
  opdRes d == n && (if opdKind d = 1 then 4 * (at' / 4) + opdCore d == core else k == holder)

/-- Whether a matrix request on core `at'` names reservation `n` of a parcel on a core. -/
def MatrixReq.names (r : MatrixReq) (at' : Nat) (holder : PKey) (core n : Nat) : Bool :=
  match r.op with
  | .mma b _ _ | .mmas b _ _ _ _ => opdNames (mmaA b) at' r.key holder core n || opdNames (mmaB b) at' r.key holder core n
  | .adrain b _ => drainField b 14 13 == 1 && drainField b 55 50 == n && r.key == holder
  | _ => false

/-- Whether an issued request names a reservation (R250, R259). -/
def State.resBusy (s : State) (k : PKey) (n : Nat) : Bool :=
  let core := s.coreOf k
  (s.core core).copies.any (fun r => r.key == k && r.kind.resNum == some n)
    || (List.range 4).any (fun i =>
      let c := s.core (4 * (core / 4) + i)
      c.matrix.any (fun r => r.names (4 * (core / 4) + i) k core n)
        || c.drains.any (fun d => d.req.names (4 * (core / 4) + i) k core n))

/-- Deferred frees of a cluster take effect where the last request that named the reservation has completed (R250). -/
def State.reap (s : State) (core : Nat) : State :=
  let gone (p : Parcel) (r : Reservation) : Bool := p.core / 4 == core / 4 && p.placed && r.freed && !s.resBusy p.key r.num
  let t := (s.parcels.filter (fun p => p.resv.any (gone p))).foldl (fun t p =>
    t.noteFreed p.core { s.nothingFreed p.key.ctx with resv := p.resv.filter (gone p) }) s
  { t with parcels := s.parcels.map (fun p => { p with resv := p.resv.filter (fun r => !gone p r) }) }

/-! ### Instructions (R248 to R250) -/

/-- OBRES (R249). -/
def execObres (x : RWord) (s : State) : Host.Outcome State Fault Refusal :=
  issue (.obres x) (fun s k t =>
    if !t.storeQ.isEmpty then .wait .storesDone
    else
    let p := s.parcel k
    let a := t.u x.a x.za
    match p.block a 32 with
    | some r => .trap r
    | none =>
      let w : BitVec 256 := BitVec.ofNat 256 (p.nat a 32)
      let d := x.d.toNat
      if !rsvValid w then .next (s.result k t.tix (writes32 d 0xFFFFFFFE))
      else
        let rs := s.rsvsTaken p.core
        match freeRecord rs, freeRun rs (rsvCount w) with
        | some n, some f =>
          let r := s.fresh
          let w' := w ||| (BitVec.ofNat 256 f <<< 226) ||| (BitVec.ofNat 256 p.place <<< 223) ||| (1#256 <<< 222)
          let s := r.2.modParcel k (fun p => { p with resv := p.resv ++ [⟨n, w', false, r.1, []⟩] })
          .next (s.result k t.tix (writes32 d n))
        | _, _ => .next (s.result k t.tix (writes32 d 0xFFFFFFFF))) s

/-- OBFREE (R250). -/
def execObfree (x : RWord) (s : State) : Host.Outcome State Fault Refusal :=
  issue (.obfree x) (fun s k t =>
    let n := t.u x.a x.za
    let d := x.d.toNat
    match (s.parcel k).resv? n with
    | none => .next (s.result k t.tix (writes32 d 1))
    | some r =>
      let s := s.modParcel k (fun p => p.modResv r.serial (fun r => { r with freed := true }))
      .next ((s.reap (s.coreOf k)).result k t.tix (writes32 d 0))) s

/-- The word OBINFO .res writes for a reservation that is held (R250). -/
def obinfoWord (w : BitVec 256) (busy : Bool) : Nat :=
  2 ^ 31 + bit busy * 2 ^ 18 + bit (rsvShare w) * 2 ^ 17 + bit (rsvFlush w) * 2 ^ 16 + bit (rsvDir w) * 2 ^ 15
    + rsvFmt w * 1024 + rsvCount w

/-- OBINFO (R250). -/
def execObinfo (x : RWord) (s : State) : Host.Outcome State Fault Refusal :=
  issue (.obinfo x) (fun s k t =>
    let rs := s.reservations (s.coreOf k)
    let v := match x.v.toNat with
      | 0 => match (s.parcel k).resv? (t.u x.a x.za) with
        | some r => obinfoWord r.word (s.resBusy k r.num)
        | none => 0
      | 1 => longestRun rs
      | _ => 64 - rs.length
    .next (s.result k t.tix (writes32 x.d.toNat v))) s

end Sys2Proof.Machine
end

