-- ==== Sys2Proof/Machine/Copy.lean ====
section
/-!
DEFINITION. The copy engines (R229 to R237, R440, R247): tensor shape records and their validation, the block formats
(R88 to R90) and their quantisation (R96 to R98), CPIN, CPOUT, CPTX, CPMC and OVLD (R135, R136), and the steps
COPY_UNIT, COPY_COMPLETE and OVERLAY_RESIDENT.
-/

namespace Sys2Proof.Machine

/-! ### Tensor shape records (R229) -/

/-- Bits [hi:lo] of a record. -/
def recField (b : BitVec 512) (hi lo : Nat) : Nat := (b.extractLsb' lo (hi + 1 - lo)).toNat
/-- Box extent k. -/
def recB (b : BitVec 512) (k : Nat) : Nat := recField b (459 + 12 * k) (448 + 12 * k)
/-- Tensor extent k. -/
def recE (b : BitVec 512) (k : Nat) : Nat := recField b (159 + 32 * k) (128 + 32 * k)
/-- Stride k, 1 to 4; for .mx4 and .qn4 the 2nd is the scale-array offset and the 3rd the group-scale-array offset. -/
def recS (b : BitVec 512) (k : Nat) : Nat := recField b (287 + 40 * k) (248 + 40 * k)
/-- SEED. -/
def recSeed (b : BitVec 512) : Nat := recField b 127 112
/-- OFF. -/
def recOff (b : BitVec 512) : Nat := recField b 111 64
/-- LOFF. -/
def recLoff (b : BitVec 512) : Nat := recField b 63 32
/-- RES. -/
def recRes (b : BitVec 512) : Nat := recField b 29 24
/-- LKIND. -/
def recLkind (b : BitVec 512) : Bool := b.getLsbD 17
/-- SR. -/
def recSr (b : BitVec 512) : Bool := b.getLsbD 16
/-- CHK. -/
def recChk (b : BitVec 512) : Nat := recField b 15 14
/-- XF. -/
def recXf (b : BitVec 512) : Nat := recField b 13 11
/-- RANK. -/
def recRank (b : BitVec 512) : Nat := recField b 10 8
/-- FMT. -/
def recFmt (b : BitVec 512) : Nat := recField b 7 3
/-- CAP. -/
def recCap (b : BitVec 512) : Nat := recField b 2 0
/-- Whether a reserved bit is set. -/
def recReserved (b : BitVec 512) : Bool := recField b 511 508 != 0 || recField b 31 30 != 0 || recField b 23 18 != 0
/-- The elements of the box. -/
def recVolume (b : BitVec 512) : Nat := recB b 0 * recB b 1 * recB b 2 * recB b 3 * recB b 4

/-- Element `k` of a list of box indices or origins. -/
def dimOf (l : List Nat) (k : Nat) : Nat := l[k]?.getD 0

/-- The indices of the n-th element of the box, dim 0 fastest. -/
def boxIndex (b : BitVec 512) (n : Nat) : List Nat :=
  let p1 := recB b 0
  let p2 := p1 * recB b 1
  let p3 := p2 * recB b 2
  let p4 := p3 * recB b 3
  [n % p1, n / p1 % recB b 1, n / p2 % recB b 2, n / p3 % recB b 3, n / p4]

/-- The offset in the capability of a box element (R229). -/
def elemAt (b : BitVec 512) (org idx : List Nat) : Nat :=
  recOff b + (dimOf org 0 + dimOf idx 0) * fmtBits (recFmt b) / 8
    + ([1, 2, 3, 4].filter (fun k => decide (k < recRank b))).foldl (fun n k => n + (dimOf org k + dimOf idx k) * recS b k) 0

/-- The number of a box element in the tensor's element order, for block formats (R90; log entry 22). -/
def elemNo (b : BitVec 512) (org idx : List Nat) : Nat :=
  dimOf org 0 + dimOf idx 0 + recE b 0 * (dimOf org 1 + dimOf idx 1)

/-- The elements a block and a group hold (R88, R89). -/
def fmtGroup (f : Nat) : Nat := if f = 15 then 16384 else 32

/-- The origins of CPIN and CPOUT (R234). -/
def originsOf (o01 o2 : DWord) : List Nat :=
  [(o01.extractLsb' 0 32).toNat, (o01.extractLsb' 32 32).toNat, (o2.extractLsb' 0 32).toNat,
    (o2.extractLsb' 32 16).toNat, (o2.extractLsb' 48 16).toNat]

/-- The origins of a box of CPTX (R235). -/
def originsTx (o : DWord) : List Nat := [(o.extractLsb' 0 32).toNat, (o.extractLsb' 32 32).toNat, 0, 0, 0]

/-- The last indices of the box. -/
def lastIndex (b : BitVec 512) : List Nat := [0, 1, 2, 3, 4].map (fun k => recB b k - 1)

/-- The ranges of the capability a record touches: the footprint, the scale array, the group-scale array (R231). -/
def recRanges (b : BitVec 512) (org : List Nat) : List (Nat × Nat) :=
  let f := recFmt b
  let first := elemAt b org []
  let last := elemAt b org (lastIndex b) + max 1 (fmtBits f / 8)
  let e0 := elemNo b org []
  let e1 := elemNo b org (lastIndex b)
  [(first, last - first)]
    ++ (if fmtBlock f then [(recOff b + recS b 2 + e0 / fmtBlen f, e1 / fmtBlen f - e0 / fmtBlen f + 1)] else [])
    ++ (if f = 15 then [(recOff b + recS b 3 + 4 * (e0 / 16384), 4 * (e1 / 16384 - e0 / 16384 + 1))] else [])

/-- The bytes a number of elements of a format takes. -/
def elemBytes (n bits : Nat) : Nat := ceilDiv (n * bits) 8

/-! ### Validation (R230, R231) -/

/-- Which record of which instruction is validated. -/
inductive RecRole where
  | cpin | cpout
  | txSource
  | txDest (src : BitVec 512)
  deriving DecidableEq, Repr

/-- Whether the transform is defined for the format and the instruction, and for CPTX whether the boxes and formats pair
(R230, R235). -/
def xfOk (b : BitVec 512) (role : RecRole) : Bool :=
  let f := recFmt b
  let plain := fmtBits f ≥ 8 && recRank b ≥ 2
  let sameBox (src : BitVec 512) (swap : Bool) : Bool :=
    if swap then recB src 0 == recB b 1 && recB src 1 == recB b 0 else recB src 0 == recB b 0 && recB src 1 == recB b 1
  match role, recXf b with
  | .txSource, x => x == 0 || decide (5 ≤ x)
  | .txDest src, 1 => plain && recFmt src == f && sameBox src true
  | .txDest src, 2 => fmtBlock (recFmt src) && f == 11 && sameBox src false
  | .txDest src, 3 => recFmt src == 9 && fmtBlock f && sameBox src false
  | .txDest src, 4 => fmtBlock (recFmt src) && recRank src == 2 && f == 11 && sameBox src true
  | .txDest src, _ => recFmt src == f && sameBox src false
  | _, 1 => plain
  | .cpin, 2 => fmtBlock f
  | .cpin, 3 => false
  | .cpin, 4 => fmtBlock f && recRank b == 2
  | .cpout, 2 => false
  | .cpout, 3 => fmtBlock f
  | .cpout, 4 => false
  | _, _ => true

/-- Whether a quantised box fails to start and end on whole blocks, or groups, in element order (R231). -/
def quantBad (b : BitVec 512) (org : List Nat) : Bool :=
  let g := fmtGroup (recFmt b)
  let e := elemNo b org []
  e % g != 0 || (e + recB b 0 * recB b 1) % g != 0 || (1 < recB b 1 && recB b 0 != recE b 0)

/-- The bits of an element on the local side of CPIN or CPOUT (R230). -/
def localBits (b : BitVec 512) (role : RecRole) : Nat :=
  match role, recXf b with
  | .cpin, 2 | .cpin, 4 => 16
  | .cpout, 3 => 32
  | _, _ => fmtBits (recFmt b)

/-- The footprint of a box in a reservation (R247). -/
def boxFootprint (b : BitVec 512) (w : BitVec 256) : Nat :=
  if recXf b = 1 ∨ recXf b = 4 then rsvFootprint w (recLoff b) (recB b 0) (recB b 1)
  else rsvFootprint w (recLoff b) (recB b 1) (recB b 0)

/-- Whether the local side is out of bounds (R231 code 0x08). -/
def Parcel.localBad (p : Parcel) (b : BitVec 512) (role : RecRole) : Bool :=
  match role with
  | .txSource | .txDest _ => false
  | _ =>
    if recLkind b then match p.resv? (recRes b) with
      | none => true
      | some r => decide (rsvBytes r.word < boxFootprint b r.word)
    else decide (p.spSize < recLoff b + elemBytes (recVolume b) (localBits b role))

/-- The condition of R247 on a copy into or out of a reservation. -/
def Parcel.reservationBad (p : Parcel) (b : BitVec 512) : Bool :=
  recLkind b && (recB b 2 != 1 || recB b 3 != 1 || recB b 4 != 1 || (match p.resv? (recRes b) with
    | none => false
    | some r => match recXf b with
      | 2 | 4 => rsvFmt r.word != 11
      | 3 => true
      | _ => rsvFmt r.word != recFmt b))

/-- The code of a record, 0 if it is valid (R231, R235, R247). `cls` is the class of its object. -/
def Parcel.recCode (p : Parcel) (b : BitVec 512) (org : List Nat) (role : RecRole) (cls : Nat) : Nat :=
  let f := recFmt b
  let bits := fmtBits f
  let rank := recRank b
  let tx := match role with
    | .cpin | .cpout => false
    | _ => true
  let reads := match role with
    | .cpin | .txSource => true
    | _ => false
  if bits = 0 then 0x01
  else if rank = 0 || 5 < rank || (2 < rank && (fmtBlock f || tx)) then 0x02
  else if [0, 1, 2, 3, 4].any (fun k => if k < rank then recE b k == 0 || recB b k == 0 else recE b k != 1 || recB b k != 1) then 0x03
  else if 2 ≤ rank && recS b 1 * 8 < recE b 0 * bits then 0x04
  else if !fmtBlock f && [2, 3, 4].any (fun k => decide (k < rank) && decide (recS b k < recE b (k - 1) * recS b (k - 1))) then 0x04
  else if (8 ≤ bits && recOff b % (bits / 8) != 0) || (fmtBlock f && recOff b % 16 != 0) || (f == 15 && recS b 3 % 4 != 0)
      || recLoff b % 16 != 0 || (bits == 4 && (dimOf org 0 % 2 != 0 || recB b 0 % 2 != 0))
      || (recXf b == 3 && fmtBlock f && quantBad b org) then 0x05
  else if [0, 1, 2, 3, 4].any (fun k => decide (recE b k < dimOf org k + recB b k)) then 0x06
  else if !xfOk b role || ((cls == 5 || cls == 6) && recXf b != 0) then 0x07
  else if p.localBad b role then 0x08
  else if recReserved b || 5 ≤ recXf b || 2 ≤ recChk b || (reads && recChk b == 1)
      || (tx && (recLoff b != 0 || recLkind b || recRes b != 0)) then 0x09
  else if p.reservationBad b then 0x0A
  else 0

/-- The nominal count of CPIN and CPOUT (R440). -/
def nominalOf (b : BitVec 512) (role : RecRole) : Nat :=
  let bits := match role, recXf b with
    | .cpin, 2 | .cpin, 4 => 16
    | _, _ => fmtBits (recFmt b)
  elemBytes (recVolume b) bits

/-! ### Elements of the block formats (R88, R89) -/

/-- The levels of QN4. -/
def qnLevels : List Int := [-64, -44, -34, -25, -18, -12, -6, 0, 5, 10, 16, 22, 28, 36, 46, 64]

/-- The value of an MXFP4 element under a scale byte; a zero keeps the sign of its code (R88 gives none; DESIGN CHOICE, log entry 55). -/
def mxValue (code scale : Nat) : Val :=
  if scale = 255 then .nan else (Fmt.e2m1.value code).scale ((scale : Int) - 127)

/-- The value of a QN4 element under a scale code and the bits of a group scale; a zero has the product of the factors' signs (R89
gives none; DESIGN CHOICE, log entry 55). -/
def qnValue (code q group : Nat) : Val :=
  (((Val.ofInt (qnLevels[code]?.getD 0)).mul (.fin false (q + 1) (64 * 256))).mul (Fmt.f32.value group))

/-- The value of a block-format element, where the sign of a zero is the model's choice (log entry 55). -/
def blockValue (fmt code scale group : Nat) : Val := if fmt = 15 then qnValue code scale group else mxValue code scale

/-! ### Quantisation (R96 to R98) -/

/-- A source element as it is quantised (R96), and whether it was replaced. -/
def quantInput (bits : Nat) : Val × Bool :=
  match Fmt.f32.value bits with
  | .nan => (.zero, true)
  | .inf s => (.fin s ((2 ^ 24 - 1) * 2 ^ 104) 1, true)
  | v => (v, false)

/-- The largest magnitude of some values. -/
def largest (vs : List Val) : Val := vs.foldl (fun m v => m.max v.abs) .zero

/-- X of an MXFP4 block (R97); none where every element is 0. -/
def mxExponent (vs : List Val) : Option Int :=
  match largest vs with
  | .fin _ n d => if n = 0 then none else some (max (-127) (min 127 (log2Frac n d - 2)))
  | _ => none

/-- An MXFP4 block quantised: its scale byte and its codes. `modes` holds the rounding of each element. -/
def mxBlock (vs : List Val) (modes : List RMode) : Nat × List Nat :=
  match mxExponent vs with
  | none => (127, vs.map (fun _ => 0))
  | some x => ((x + 127).toNat, (vs.zip modes).map (fun e => Fmt.e2m1.round e.2 (e.1.scale (-x))))

/-- The bits of S of a QN4 group (R98). -/
def qnScale (vs : List Val) : Nat := Fmt.f32.round .rp (largest vs)

/-- q of a QN4 block under a group scale. -/
def qnBlockScale (vs : List Val) (group : Nat) : Nat :=
  match largest vs, Fmt.f32.value group with
  | .fin _ n d, .fin _ m e => if m = 0 then 0 else min 255 (ceilDiv (256 * n * e) (d * m) - 1)
  | _, _ => 0

/-- The code of an element: the nearest level of v / step, ties to the smaller magnitude; 7 where step is 0. -/
def qnCode (v : Val) (q group : Nat) : Nat :=
  match v, Fmt.f32.value group with
  | .fin s n d, .fin _ m e =>
    if m = 0 then 7
    else
      let a : Int := sgnNat s (n * e * 16384)
      let b : Int := (d * m * (q + 1) : Nat)
      let dist (c : Nat) : Nat := ((qnLevels[c]?.getD 0) * b - a).natAbs
      let size (c : Nat) : Nat := (qnLevels[c]?.getD 0).natAbs
      (List.range 16).foldl (fun best c =>
        if dist c < dist best || (dist c == dist best && decide (size c < size best)) then c else best) 0
  | _, _ => 7

/-- The generator after n steps (R95). -/
def srSteps (seed : Word) : Nat → Word
  | 0 => seed
  | n + 1 => srStep (srSteps seed n)

/-- The rounding modes of k elements from the n-th on (R230). The generator steps once for every element of the box, those of an
all-zero MXFP4 block, which R97 does not round, included (DESIGN CHOICE, log entry 55). -/
def quantModes (b : BitVec 512) (n k : Nat) : List RMode :=
  if recSr b then
    let seed : Word := if recSeed b = 0 then 1 else BitVec.ofNat 32 (recSeed b * 0x10001)
    ((List.range k).foldl (fun (r : Word × List RMode) _ =>
      let x := srStep r.1
      (x, r.2 ++ [.sr x.toNat])) (srSteps seed n, [])).2
  else List.replicate k .rne

/-- A list in parts of `n`. -/
def partsOf {α : Type} (n : Nat) : Nat → List α → List (List α)
  | 0, _ => []
  | fuel + 1, l => if l.isEmpty then [] else l.take n :: partsOf n fuel (l.drop n)

/-- What quantising elements n on gives: the codes, the scale byte of each block, the group scales' bits of each group. -/
structure Quantised where
  codes : List Nat
  scales : List Nat
  groups : List Nat

/-- Quantise whole blocks, or whole groups, of .f32 patterns whose first is element `n` of the box. -/
def quantise (b : BitVec 512) (n : Nat) (pats : List Nat) : Quantised :=
  let vs := pats.map (fun p => (quantInput p).1)
  if recFmt b = 15 then
    let gs := (partsOf 16384 vs.length vs).map (fun g =>
      let s := qnScale g
      let bs := (partsOf 64 g.length g).map (fun blk =>
        let q := qnBlockScale blk s
        (q, blk.map (fun v => qnCode v q s)))
      (s, bs))
    ⟨gs.flatMap (fun g => g.2.flatMap (fun x => x.2)), gs.flatMap (fun g => g.2.map (fun x => x.1)), gs.map (fun g => g.1)⟩
  else
    let bs := (partsOf 32 vs.length (vs.zip (quantModes b n vs.length))).map (fun blk =>
      mxBlock (blk.map (fun e => e.1)) (blk.map (fun e => e.2)))
    ⟨bs.flatMap (fun x => x.2), bs.map (fun x => x.1), []⟩

/-! ### Gathering and scattering bytes -/

/-- Pieces (first byte, bytes), as they were read. -/
abbrev Gather := List (Nat × List Byte)

/-- Join ranges that follow one another or lie in the range before. -/
def joinRanges (l : List (Nat × Nat)) : List (Nat × Nat) :=
  (l.foldl (fun acc r => match acc with
    | (a, n) :: rest => if a ≤ r.1 ∧ r.1 ≤ a + n then (a, max n (r.1 + r.2 - a)) :: rest else r :: (a, n) :: rest
    | [] => [r]) ([] : List (Nat × Nat))).reverse

/-- Join data whose pieces follow one another. -/
def joinData (l : Gather) : Gather :=
  (l.foldl (fun acc r => match acc with
    | (a, bs) :: rest => if r.1 = a + bs.length then (a, bs ++ r.2) :: rest else r :: (a, bs) :: rest
    | [] => [r]) ([] : Gather)).reverse

/-- Bytes of gathered data, from an address on. -/
def gatherBytes (g : Gather) (a n : Nat) : List Byte :=
  match g.find? (fun p => decide (p.1 ≤ a) && decide (a + n ≤ p.1 + p.2.length)) with
  | some p => (p.2.drop (a - p.1)).take n
  | none => []

/-- The number at an address of gathered bytes. -/
def gatherNat (g : Gather) (a n : Nat) : Nat := leNat (gatherBytes g a n)

/-- Where one side of a copy lies: an object from a capability's base on, a scratchpad, a reservation. -/
inductive Side where
  | object (o : OKey) (base : Nat)
  | spad (k : PKey)
  | resv (k : PKey) (serial : Nat)
  deriving DecidableEq, Repr

/-- The base of a side's offsets. -/
def Side.base : Side → Nat
  | .object _ b => b
  | _ => 0

/-- The bytes that are read and written as one (R228, R247, R358, R361): a 64-byte unit of an object or of a reservation, a word of
a scratchpad. -/
def Side.grain : Side → Nat
  | .spad _ => 4
  | _ => 64

/-- The grains of a range of a side: each one's first byte and length, from the side's base on. -/
def Side.grains (sd : Side) (a n : Nat) : List (Nat × Nat) :=
  let g := sd.grain
  if n = 0 then []
  else (List.range ((sd.base + a + n - 1) / g - (sd.base + a) / g + 1)).map (fun i =>
    let lo := ((sd.base + a) / g + i) * g - sd.base
    (lo, ((sd.base + a) / g + i + 1) * g - sd.base - lo))

/-- Whether some ranges take a byte of a range. -/
def meets (l : List (Nat × Nat)) (a n : Nat) : Bool := l.any (fun r => decide (a < r.1 + r.2) && decide (r.1 < a + n))

/-- Split data into what lies in grains that `later` does not touch, and what lies in the others. -/
def Side.cut (sd : Side) (later : List (Nat × Nat)) (data : Gather) : Gather × Gather :=
  let parts := data.flatMap (fun p => (sd.grains p.1 p.2.length).map (fun g =>
    let lo := max p.1 g.1
    (meets later g.1 g.2, lo, (p.2.drop (lo - p.1)).take (g.1 + g.2 - lo))))
  let pick (held : Bool) : Gather := joinData ((parts.filter (fun x => x.1 == held)).map (fun x => x.2))
  (pick false, pick true)

/-- The grains of some ranges that have not been read yet. -/
def Side.missing (sd : Side) (got : Gather) (ranges : List (Nat × Nat)) : List (Nat × Nat) :=
  joinRanges (((ranges.flatMap (fun r => sd.grains r.1 r.2)).eraseDups).filter (fun g =>
    !meets (got.map (fun p => (p.1, p.2.length))) g.1 g.2))

/-- The bytes of some data. -/
def dataBytes (l : Gather) : Nat := (l.map (fun p => p.2.length)).sum

/-- Read ranges of a side: the bytes, or the code and the record of an error (R233, R424). -/
def State.gather (s : State) (who : Issuer) (ctx : Nat) (side : Side) (ranges : List (Nat × Nat)) : State × Except Nat Gather :=
  match side with
  | .object o base =>
    ranges.foldl (fun (r : State × Except Nat Gather) p =>
      match r with
      | (s, .error e) => (s, .error e)
      | (s, .ok g) => match s.readObject (dieOf who.core) o (base + p.1) p.2 with
        | (s, .error e) => (s.dataError who ctx o.obj (base + p.1) p.2 e, .error e)
        | (s, .ok bs) => (s, .ok (g ++ [(p.1, bs)]))) (s, .ok [])
  | .spad k => (s, .ok (ranges.map (fun p => (p.1, Mem.read (s.parcel k).spad p.1 p.2))))
  | .resv k n => (s, .ok (ranges.map (fun p => (p.1, match (s.parcel k).resv.find? (fun r => r.serial == n) with
    | some r => (List.range p.2).map (fun i => r.byte (p.1 + i))
    | none => []))))

/-- What one unit of a copy reads of its source: the grains that no earlier unit of it has read. The answer is all the bytes at hand,
and those of them that `later` units need (R264, R361). -/
def State.unitSource (s : State) (who : Issuer) (ctx : Nat) (side : Side) (got : Gather) (need later : List (Nat × Nat)) :
    State × Except Nat (Gather × Gather) :=
  match s.gather who ctx side (side.missing got need) with
  | (s, .error e) => (s, .error e)
  | (s, .ok new) =>
    let all := joinData (sortBy (fun (a b : Nat × List Byte) => decide (a.1 ≤ b.1)) (got ++ new))
    (s, .ok (all, (side.cut later all).2))

/-- Write pieces to an object (R233), with a read back where it is asked for (R229 CHK): the code. -/
def State.scatterParts (s : State) (who : Issuer) (ctx : Nat) (o : OKey) (base : Nat) (chk : Bool) (data : Gather) : State × Nat :=
  data.foldl (fun (r : State × Nat) p =>
    if r.2 != 0 then r
    else
      let s := r.1
      let die := dieOf who.core
      match s.writeObject die o (base + p.1) p.2 with
        | (s, e) =>
          if e != 0 then (s.dataError who ctx o.obj (base + p.1) p.2.length e, e)
          else if !chk then (s, 0)
          else match s.readObject die o (base + p.1) p.2.length with
            | (s, .error e) => (s.dataError who ctx o.obj (base + p.1) p.2.length e, e)
            | (s, .ok bs) => (s, if bs == p.2 then 0 else 0x25)) (s, 0)

/-- Write pieces to an object for a running launch, which may write no weight object and no region (R226, R339). -/
def State.scatter (s : State) (who : Issuer) (ctx : Nat) (o : OKey) (base : Nat) (chk : Bool) (data : Gather) : State × Nat :=
  if data.isEmpty then (s, 0)
  else if s.writeRefused o != 0 then (s, s.writeRefused o)
  else s.scatterParts who ctx o base chk data

/-! ### The two sides of a box copy -/

/-- One side: where it lies, the record and origins, whether dims 0 and 1 are exchanged, and its element format; `res`
is the record of the reservation, where it is one. -/
structure Part where
  side : Side
  shape : BitVec 512
  org : List Nat
  swap : Bool
  fmt : Nat
  res : BitVec 256

/-- Exchange dims 0 and 1. -/
def swapIndex (swap : Bool) (idx : List Nat) : List Nat :=
  if swap then [dimOf idx 1, dimOf idx 0, dimOf idx 2, dimOf idx 3, dimOf idx 4] else idx

/-- The byte of a box element on a side (R229, R235, R247). -/
def Part.byteOf (p : Part) (idx : List Nat) : Nat :=
  let i := swapIndex p.swap idx
  match p.side with
  | .object _ _ => elemAt p.shape p.org i
  | .spad _ =>
    let e0 := if p.swap then recB p.shape 1 else recB p.shape 0
    let e1 := if p.swap then recB p.shape 0 else recB p.shape 1
    let n := dimOf i 0 + e0 * (dimOf i 1 + e1 * (dimOf i 2 + recB p.shape 2 * (dimOf i 3 + recB p.shape 3 * dimOf i 4)))
    recLoff p.shape + n * fmtBits p.fmt / 8
  | .resv _ _ => rsvAt p.res (recLoff p.shape) (dimOf i 1) (dimOf i 0)

/-- The bits of the element's place in its byte that a 4-bit element takes. -/
def Part.nibble (p : Part) (idx : List Nat) : Nat :=
  let i := swapIndex p.swap idx
  match p.side with
  | .object _ _ => (dimOf p.org 0 + dimOf i 0) % 2
  | _ => dimOf i 0 % 2

/-- The byte of the scale and the first byte of the group scale of a box element; a scratchpad holds none (log entry 22). -/
def Part.scalesOf (p : Part) (idx : List Nat) : Option (Nat × Nat) :=
  if !fmtBlock p.fmt then none
  else match p.side with
    | .object _ _ =>
      let e := elemNo p.shape p.org (swapIndex p.swap idx)
      some (recOff p.shape + recS p.shape 2 + e / fmtBlen p.fmt, recOff p.shape + recS p.shape 3 + 4 * (e / 16384))
    | .spad _ => none
    | .resv _ _ => some (rsvScaleAt p.res (p.byteOf idx), rsvGroupAt p.res (p.byteOf idx))

/-- The patterns of some elements from gathered bytes. -/
def Part.patterns (p : Part) (g : Gather) (idxs : List (List Nat)) : List Nat :=
  idxs.map (fun i =>
    if fmtBits p.fmt = 4 then gatherNat g (p.byteOf i) 1 / 16 ^ p.nibble i % 16 else gatherNat g (p.byteOf i) (fmtBits p.fmt / 8))

/-- The ranges some elements take. -/
def Part.ranges (p : Part) (idxs : List (List Nat)) : List (Nat × Nat) :=
  joinRanges (idxs.map (fun i => (p.byteOf i, max 1 (fmtBits p.fmt / 8))))

/-- The ranges of the scales of some elements. -/
def Part.scaleRanges (p : Part) (idxs : List (List Nat)) : List (Nat × Nat) :=
  let at' := idxs.filterMap p.scalesOf
  joinRanges (at'.map (fun x => (x.1, 1))) ++ (if p.fmt = 15 then joinRanges (at'.map (fun x => (x.2, 4))) else [])

/-- Two 4-bit elements in a byte. -/
def pairNibbles : List (Nat × Nat) → Gather
  | (a, x) :: (_, y) :: rest => (a, [BitVec.ofNat 8 (x + 16 * y)]) :: pairNibbles rest
  | (a, x) :: [] => [(a, [BitVec.ofNat 8 x])]
  | [] => []

/-- The bytes of some elements at their places. -/
def Part.data (p : Part) (idxs : List (List Nat)) (pats : List Nat) : Gather :=
  joinData (if fmtBits p.fmt = 4 then pairNibbles ((idxs.zip pats).map (fun e => (p.byteOf e.1, e.2)))
    else (idxs.zip pats).map (fun e => (p.byteOf e.1, leBytes (fmtBits p.fmt / 8) e.2)))

/-- A copy of a box: the counted record, its transform, its two sides. -/
structure BoxCopy where
  shape : BitVec 512
  xf : Nat
  src : Part
  dst : Part

/-- The side of a local record of a parcel (R229, R247). -/
def Parcel.localPart (p : Parcel) (b : BitVec 512) (swap : Bool) (fmt : Nat) : Part :=
  if recLkind b then match p.resv.find? (fun r => r.num == recRes b) with
    | some r => ⟨.resv p.key r.serial, b, [], swap, fmt, r.word⟩
    | none => ⟨.resv p.key 0, b, [], swap, fmt, 0⟩
  else ⟨.spad p.key, b, [], swap, fmt, 0⟩

/-- The view of a box copy (R230, R235). -/
def Parcel.boxCopy (p : Parcel) : CopyKind → Option BoxCopy
  | .cpin b o01 o2 cap =>
    let x := recXf b
    some ⟨b, x, ⟨.object ⟨p.key.ctx, capObj cap⟩ (capBase cap), b, originsOf o01 o2, false, recFmt b, 0⟩,
      p.localPart b (x == 1 || x == 4) (if x = 2 ∨ x = 4 then 11 else recFmt b)⟩
  | .cpout b o01 o2 cap =>
    let x := recXf b
    some ⟨b, x, p.localPart b (x == 1) (if x = 3 then 9 else recFmt b),
      ⟨.object ⟨p.key.ctx, capObj cap⟩ (capBase cap), b, originsOf o01 o2, false, recFmt b, 0⟩⟩
  | .cptx bs bd os od capS capD =>
    let x := recXf bd
    some ⟨bd, x, ⟨.object ⟨p.key.ctx, capObj capS⟩ (capBase capS), bs, originsTx os, x == 1 || x == 4, recFmt bs, 0⟩,
      ⟨.object ⟨p.key.ctx, capObj capD⟩ (capBase capD), bd, originsTx od, false, recFmt bd, 0⟩⟩
  | _ => none

/-- The bits of the counted side's elements (R440). -/
def BoxCopy.countedBits (c : BoxCopy) : Nat :=
  match c.dst.side with
  | .object _ _ => fmtBits c.dst.fmt
  | _ => if c.xf = 2 ∨ c.xf = 4 then 16 else fmtBits c.src.fmt

/-- The elements of unit u: the first, and how many (R237). -/
def BoxCopy.unit (c : BoxCopy) (u : Nat) : Nat × Nat :=
  let per := 32768 / c.countedBits
  (u * per, min per (recVolume c.shape - u * per))

/-- The indices of k elements from the n-th on. -/
def BoxCopy.indices (c : BoxCopy) (n k : Nat) : List (List Nat) := (List.range k).map (fun i => boxIndex c.shape (n + i))

/-- Whether the box's rows are whole blocks on a side, so that its scales move with it (R247; log entry 22). -/
def Part.wholeBlocks (p : Part) : Bool :=
  recB p.shape 0 % fmtBlen p.fmt == 0 && (match p.side with
    | .object _ _ => (List.range (recB p.shape 1)).all (fun r => elemNo p.shape p.org [0, r] % fmtBlen p.fmt == 0)
    | _ => true)

/-- The elements that start a block on the destination side. -/
def BoxCopy.starts (c : BoxCopy) (idxs : List (List Nat)) : List (List Nat) :=
  idxs.filter (fun i => dimOf i 0 % fmtBlen c.dst.fmt == 0)

/-- Whether an untransformed copy of a block format moves scales. -/
def BoxCopy.movesScales (c : BoxCopy) : Bool :=
  c.xf == 0 && fmtBlock c.src.fmt && c.src.wholeBlocks && c.dst.wholeBlocks
    && (c.src.scalesOf []).isSome && (c.dst.scalesOf []).isSome

/-- The ranges of a side that the elements from the n-th on take, and their scales. -/
def BoxCopy.reach (c : BoxCopy) (p : Part) (n : Nat) : List (Nat × Nat) :=
  let v := recVolume c.shape
  let row := recB c.shape 0
  let listed := match p.side with
    | .resv _ _ => true
    | _ => p.swap
  if v ≤ n then []
  else if listed then
    let idxs := c.indices n (v - n)
    p.ranges idxs ++ p.scaleRanges idxs
  else
    let rows := (List.range (v / row - n / row)).map (fun i =>
      (boxIndex c.shape (max n ((n / row + i) * row)), boxIndex c.shape ((n / row + i) * row + row - 1)))
    let span (at' : List Nat → Option Nat) (size : Nat) : List (Nat × Nat) := joinRanges (rows.filterMap (fun r =>
      match at' r.1, at' r.2 with
      | some a, some z => some (a, z + size - a)
      | _, _ => none))
    span (fun i => some (p.byteOf i)) (max 1 (fmtBits p.fmt / 8)) ++ span (fun i => (p.scalesOf i).map (fun x => x.1)) 1
      ++ (if p.fmt = 15 then span (fun i => (p.scalesOf i).map (fun x => x.2)) 4 else [])

/-- The data of a unit, of its elements and of their scales, from its source's bytes `g`. `first` is the first element whose pattern `g` gives
(with a quantised .qn4 unit, the first of its group), and `reach` how many it gives. -/
def BoxCopy.unitData (c : BoxCopy) (u : Nat) (g : Gather) (first reach : Nat) : Gather × Gather :=
  let (n, k) := c.unit u
  let idxs := c.indices n k
  let scaleOf (i : List Nat) : Nat × Nat := match c.src.scalesOf i with
    | some (a, b) => (gatherNat g a 1, if c.src.fmt = 15 then gatherNat g b 4 else 0)
    | none => (0, 0)
  match c.xf with
  | 2 | 4 =>
    let pats := (idxs.zip (c.src.patterns g idxs)).map (fun e =>
      Fmt.bf16.round .rne (blockValue c.src.fmt e.2 (scaleOf e.1).1 (scaleOf e.1).2))
    (c.dst.data idxs pats, [])
  | 3 =>
    let q := quantise c.shape first (c.src.patterns g (c.indices first reach))
    let len := fmtBlen c.dst.fmt
    let codes := (q.codes.drop (n - first)).take k
    let blocks := (List.range (k / len)).map (fun i => boxIndex c.shape (n + i * len))
    let scales := (blocks.zip (q.scales.drop ((n - first) / len))).filterMap (fun e =>
      (c.dst.scalesOf e.1).map (fun a => (a.1, [BitVec.ofNat 8 e.2])))
    let groups := if c.dst.fmt = 15 && n % 16384 == 0 then
        (q.groups.zip (List.range q.groups.length)).filterMap (fun e =>
          (c.dst.scalesOf (boxIndex c.shape (n + e.2 * 16384))).map (fun a => (a.2, leBytes 4 e.1)))
      else []
    (c.dst.data idxs codes, joinData scales ++ groups)
  | _ =>
    let scales := if c.movesScales then (c.starts idxs).flatMap (fun i => match c.dst.scalesOf i with
        | some (a, b) => (a, [BitVec.ofNat 8 (scaleOf i).1]) :: (if c.dst.fmt = 15 then [(b, leBytes 4 (scaleOf i).2)] else [])
        | none => [])
      else []
    (c.dst.data idxs (c.src.patterns g idxs), joinData scales)

/-- The elements whose source patterns a unit needs: for a quantised .qn4 box, those of its whole groups. -/
def BoxCopy.sourceSpan (c : BoxCopy) (u : Nat) : Nat × Nat :=
  let (n, k) := c.unit u
  if c.xf = 3 && c.dst.fmt == 15 then (n / 16384 * 16384, roundUp (n + k) 16384 - n / 16384 * 16384) else (n, k)

/-- The ranges of its source that a unit reads. -/
def BoxCopy.need (c : BoxCopy) (u : Nat) : List (Nat × Nat) :=
  let x := c.sourceSpan u
  let idxs := c.indices x.1 x.2
  c.src.ranges idxs ++ (if c.xf = 2 ∨ c.xf = 4 ∨ c.movesScales then c.src.scaleRanges idxs else [])

/-- The ranges of its source that the units from u on read. -/
def BoxCopy.sourceFrom (c : BoxCopy) (u : Nat) : List (Nat × Nat) := c.reach c.src (c.sourceSpan u).1

/-- The ranges of its destination that the units from u on write. -/
def BoxCopy.destFrom (c : BoxCopy) (u : Nat) : List (Nat × Nat) := c.reach c.dst (c.unit u).1

/-- The ranges of its destination that a unit writes. -/
def BoxCopy.destRanges (c : BoxCopy) (u : Nat) : List (Nat × Nat) :=
  let (n, k) := c.unit u
  let idxs := c.indices n k
  c.dst.ranges idxs ++ c.dst.scaleRanges idxs

/-! ### Linear copies (R236) -/

/-- LENGTH. -/
def linLength (b : BitVec 256) : Nat := (b.extractLsb' 192 48).toNat
/-- DOFF. -/
def linDoff (b : BitVec 256) : Nat := (b.extractLsb' 128 48).toNat
/-- SOFF. -/
def linSoff (b : BitVec 256) : Nat := (b.extractLsb' 64 48).toNat
/-- DCAP. -/
def linDcap (b : BitVec 256) : Nat := (b.extractLsb' 8 3).toNat
/-- SCAP. -/
def linScap (b : BitVec 256) : Nat := (b.extractLsb' 0 3).toNat
/-- Whether a reserved bit is set. -/
def linReserved (b : BitVec 256) : Bool :=
  b.extractLsb' 240 16 != 0 || b.extractLsb' 176 16 != 0 || b.extractLsb' 112 16 != 0 || b.extractLsb' 11 53 != 0
    || b.extractLsb' 3 5 != 0

/-- Whether the units of a linear copy go downwards. -/
def linDown (b : BitVec 256) (capS capD : QWord) : Bool :=
  capObj capS == capObj capD && decide (capBase capS + linSoff b < capBase capD + linDoff b)

/-- The first byte and the length of unit u of a linear copy. Where the destination lies above the source in one object the
units go downwards, so that every byte is read before it is written. -/
def linUnit (b : BitVec 256) (capS capD : QWord) (units u : Nat) : Nat × Nat :=
  let i := if linDown b capS capD then units - 1 - u else u
  (i * 4096, min 4096 (linLength b - i * 4096))

/-- The bytes that the units from u on move. -/
def linFrom (b : BitVec 256) (capS capD : QWord) (units u : Nat) : List (Nat × Nat) :=
  if units ≤ u then []
  else if linDown b capS capD then [(0, min (linLength b) ((units - u) * 4096))]
  else [(u * 4096, linLength b - u * 4096)]

/-! ### Requests -/

/-- Change a copy request. -/
def State.modCopy (s : State) (core uid : Nat) (f : CopyReq → CopyReq) : State :=
  s.modCore core (fun c => { c with copies := c.copies.map (fun r => if r.uid = uid then f r else r) })

/-- A copy has failed with a code (R232): what it has handed over is served first. -/
def State.failCopy (s : State) (core : Nat) (r : CopyReq) (code : Nat) : State :=
  let s := s.drainReq r.key r.uid
  let s := s.modCore core (fun c => { c with
    copies := c.copies.filter (fun x => x.uid != r.uid),
    segments := match r.seg with
      | some o => c.segments.filter (fun g => !(g.launch == r.key.launchKey && g.order == o))
      | none => c.segments })
  (s.fail r.key r.tix r.ctx .copies r.num r.restored r.bar (r.nominal - r.counted) (BitVec.ofNat 32 code)).reap core

/-- A copy is numbered and enters its context. -/
def State.addCopy (s : State) (k : PKey) (t : Thread) (ctx : Nat) (kind : CopyKind) (bar nominal units : Nat) (seg : Option Nat) : State :=
  let r := s.number k t.tix ctx .copies
  let req : CopyReq := ⟨r.2.1, ctx, r.2.2, false, k, t.tix, t.pc, kind, some bar, nominal, units, 0, 0, seg, none, ⟨[], [], []⟩⟩
  r.1.modCore (s.coreOf k) (fun c => { c with copies := c.copies ++ [req] })

/-- R213 over some ranges of a capability, in order. -/
def capTraps (k : QWord) (g : Right) (ranges : List (Nat × Nat)) : Option Trap :=
  firstTrap (ranges.map (fun r => capTrap k g r.1 r.2))

/-- R222 over some ranges of a capability, in order. -/
def State.leaseFaults (s : State) (k : PKey) (cap : QWord) (g : Right) (ranges : List (Nat × Nat)) : Option FaultRec :=
  (ranges.filterMap (fun r => s.leaseFault k cap g r.1 r.2)).head?

/-- The uses that a validated request makes of capabilities: CAPV, then a lease violation, else it goes on (R231). -/
def State.checkUses (s : State) (k : PKey) (uses : List (QWord × Right × List (Nat × Nat))) (on : State) : Effect :=
  match firstTrap (uses.map (fun u => capTraps u.1 u.2.1 u.2.2)) with
  | some r => .trap r
  | none => match (uses.filterMap (fun u => s.leaseFaults k u.1 u.2.1 u.2.2)).head? with
    | some f => .fatal f
    | none => .next on

/-- CPIN and CPOUT at issue (R234, R235). -/
def boxBody (x : EWord) (out : Bool) : Body := fun s k t =>
  let ctx := x.q.toNat
  match s.engineGate k t .copies ctx with
  | some w => .wait w
  | none =>
    let p := s.parcel k
    let at' := t.u x.p false
    let bar := t.u x.bar false
    match firstTrap [p.block at' 64, p.bound bar 16 16] with
    | some r => .trap r
    | none =>
      let b : BitVec 512 := BitVec.ofNat 512 (p.nat at' 64)
      let o01 := t.pair x.x.toNat
      let o2 := t.pair x.y.toNat
      let role : RecRole := if out then .cpout else .cpin
      let cap := t.cap (recCap b)
      let nominal := nominalOf b role
      let code := p.recCode b (originsOf o01 o2) role (s.classOf ⟨k.ctx, capObj cap⟩)
      if code != 0 then .next (s.failAtIssue k t.tix ctx .copies (some bar) nominal (BitVec.ofNat 32 code))
      else
        s.checkUses k [(cap, if out then .w else .r, recRanges b (originsOf o01 o2))]
          (s.addCopy k t ctx (if out then .cpout b o01 o2 cap else .cpin b o01 o2 cap) bar nominal (ceilDiv nominal 4096) none)

/-- CPIN (R235). -/
def execCpin (x : EWord) (s : State) : Host.Outcome State Fault Refusal := issue (.cpin x) (boxBody x false) s

/-- CPOUT (R235). -/
def execCpout (x : EWord) (s : State) : Host.Outcome State Fault Refusal := issue (.cpout x) (boxBody x true) s

/-- CPTX (R235). -/
def execCptx (x : EWord) (s : State) : Host.Outcome State Fault Refusal :=
  issue (.cptx x) (fun s k t =>
    let ctx := x.q.toNat
    match s.engineGate k t .copies ctx with
    | some w => .wait w
    | none =>
      let p := s.parcel k
      let at' := t.u x.p false
      let bar := t.u x.bar false
      match firstTrap [p.block at' 128, p.bound bar 16 16] with
      | some r => .trap r
      | none =>
        let bs : BitVec 512 := BitVec.ofNat 512 (p.nat at' 64)
        let bd : BitVec 512 := BitVec.ofNat 512 (p.nat (at' + 64) 64)
        let os := t.pair x.x.toNat
        let od := t.pair x.y.toNat
        let capS := t.cap (recCap bs)
        let capD := t.cap (recCap bd)
        let cls (c : QWord) : Nat := s.classOf ⟨k.ctx, capObj c⟩
        let far := if cls capS = 5 ∨ cls capS = 6 then cls capS else cls capD
        let nominal := nominalOf bd .cpout
        let source := p.recCode bs (originsTx os) .txSource 0
        let code := if source != 0 then source else p.recCode bd (originsTx od) (.txDest bs) far
        if code != 0 then .next (s.failAtIssue k t.tix ctx .copies (some bar) nominal (BitVec.ofNat 32 code))
        else
          s.checkUses k [(capS, .r, recRanges bs (originsTx os)), (capD, .w, recRanges bd (originsTx od))]
            (s.addCopy k t ctx (.cptx bs bd os od capS capD) bar nominal (ceilDiv nominal 4096) none)) s

/-- CPMC (R236); one of LENGTH 0 completes at once. -/
def execCpmc (x : EWord) (s : State) : Host.Outcome State Fault Refusal :=
  issue (.cpmc x) (fun s k t =>
    let ctx := x.q.toNat
    match s.engineGate k t .copies ctx with
    | some w => .wait w
    | none =>
      let p := s.parcel k
      let at' := t.u x.p false
      let bar := t.u x.bar false
      match firstTrap [p.block at' 32, p.bound bar 16 16] with
      | some r => .trap r
      | none =>
        let b : BitVec 256 := BitVec.ofNat 256 (p.nat at' 32)
        let n := linLength b
        let capS := t.cap (linScap b)
        let capD := t.cap (linDcap b)
        if linReserved b then .next (s.failAtIssue k t.tix ctx .copies (some bar) n 0x09)
        else
          s.checkUses k [(capS, .r, [(linSoff b, n)]), (capD, .w, [(linDoff b, n)])]
            (if n = 0 then
              let r := s.number k t.tix ctx .copies
              r.1.complete k t.tix ctx .copies r.2.2 false
            else s.addCopy k t ctx (.cpmc b capS capD) bar n (ceilDiv n 4096) none)) s

/-! ### OVLD (R135, R136) -/

/-- The device address of the launch's overlay segment at a code address (R380 OVL). -/
def State.overlay? (s : State) (l : Launch) (addr : Nat) : Option Nat :=
  ((List.range l.novl).map (fun i => s.dev (l.ovl + 16 * i) 16)).findSome? (fun e =>
    if e % 2 ^ 32 = addr then some (e / 2 ^ 64) else none)

/-- The device reads a launch's overlay list: the code of an error that it meets, else 0 (R423, R424). -/
def State.overlayRead (s : State) (l : Launch) : State × Nat := s.verifyAll .hbm l.ovl (16 * l.novl)

/-- The segments held on a core; there is room for 16 (R126). -/
def Core.segmentFree (c : Core) : Bool := decide (c.segments.length < 16)

/-- Whether a copy that has not begun is to take the place of a segment. -/
def Core.giving (c : Core) (g : Segment) : Bool :=
  c.copies.any (fun r => r.key.launchKey == g.launch && r.evicts == some g.order)

/-- The earliest-loaded overlay segment of a launch on a core that holds the PC of no thread of the launch, wherever the thread
is (R136), and that no earlier OVLD takes. -/
def State.victim (s : State) (core : Nat) (l : LKey) : Option Segment :=
  let pcs := (s.parcels.filter (fun p => p.key.launchKey == l)).flatMap (fun p => p.threads.map (fun t => t.pc.toNat))
  let free (g : Segment) : Bool :=
    g.launch == l && decide (overlayBase ≤ g.addr) && g.resident && !(s.core core).giving g
      && pcs.all (fun a => decide (a < g.addr) || decide (g.addr + 16384 ≤ a))
  (sortBy (fun (a b : Segment) => decide (a.order ≤ b.order)) ((s.core core).segments.filter free)).head?

/-- A copy of 16,384 bytes into a segment of the instruction store (R136): a free one is taken at once, a victim is named and goes
as the copy begins. -/
def State.loadOverlay (s : State) (k : PKey) (t : Thread) (ctx bar addr : Nat) (kind : CopyKind) (source : Option (Nat × Nat × Nat)) : State :=
  let core := s.coreOf k
  let l := k.launchKey
  let v := if (s.core core).segmentFree then none else s.victim core l
  if !(s.core core).segmentFree && v.isNone then s.failAtIssue k t.tix ctx .copies (some bar) 16384 0x12
  else
    let order := match s.launch? l with
      | some x => x.segOrder
      | none => 0
    let s := s.modLaunch l (fun x => { x with segOrder := x.segOrder + 1 })
    let s := s.addCopy k t ctx kind bar 16384 4 (some order)
    match v with
    | some g => s.modCopy core (s.nextUid - 1) (fun r => { r with evicts := some g.order })
    | none => s.modCore core (fun c => { c with segments := c.segments ++ [⟨l, addr, order, source, false, []⟩] })

/-- OVLD (R136). -/
def execOvld (x : EWord) (s : State) : Host.Outcome State Fault Refusal :=
  issue (.ovld x) (fun s k t =>
    let ctx := (x.mod.extractLsb' 0 2).toNat
    match s.engineGate k t .copies ctx with
    | some w => .wait w
    | none =>
      let addr := t.u x.p false
      let bar := t.u x.bar false
      let reg := x.q.toNat % 8
      let cap := t.cap reg
      let off := (t.pair x.x.toNat).toNat
      let p := s.parcel k
      match firstTrap [if x.f then capTrap cap .x off 16384 else none, p.bound bar 16 16] with
      | some r => .trap r
      | none => match (if x.f then s.leaseFault k cap .x off 16384 else none) with
        | some f => .fatal f
        | none =>
          let failed (s : State) (code : Word) : Effect := .next (s.failAtIssue k t.tix ctx .copies (some bar) 16384 code)
          match s.launch? k.launchKey with
          | none => .next s
          | some l =>
            let image := s.overlay? l addr
            let (s, e) := if x.f then (s, 0) else s.overlayRead l
            if addr % 16384 != 0 || addr < overlayBase || 2 ^ 32 - 16384 < addr then failed s 0x10
            else if e != 0 then failed (s.dataError ⟨k, t.tix, t.pc, p.core⟩ ctx 0 l.ovl (16 * l.novl) e) (BitVec.ofNat 32 e)
            else if !x.f && image.isNone then failed s 0x11
            else if ((s.core p.core).segment? l.key addr).isSome then
              let s := s.addCopy k t ctx (.ovldList addr 0) bar 16384 0 none
              let uid := s.nextUid - 1
              .next ((s.modCopy p.core uid (fun r => { r with counted := 16384 })).handCount k (some bar) 16384 uid)
            else if x.f then
              .next (s.loadOverlay k t ctx bar addr (.ovldObject addr (capObj cap) (capBase cap + off) reg)
                (some (capObj cap, capBase cap + off, reg)))
            else .next (s.loadOverlay k t ctx bar addr (.ovldList addr (BitVec.ofNat 64 (image.getD 0))) none)) s

/-- Whether a request fills a segment of the instruction store (R136). -/
def CopyReq.fills (r : CopyReq) : Bool :=
  match r.kind with
  | .ovldList _ _ => r.units != 0
  | .ovldObject .. => true
  | _ => false

/-! ### COPY_UNIT (R237) -/

/-- The ranges of what a copy holds for a later unit to write. -/
def Carry.ranges (c : Carry) : List (Nat × Nat) := (c.elems ++ c.rest).map (fun p => (p.1, p.2.length))

/-- Where a request's next unit writes. -/
def State.unitDest (s : State) (r : CopyReq) : Option (Side × List (Nat × Nat)) :=
  match (s.parcel r.key).boxCopy r.kind with
  | some c => some (c.dst.side, r.carry.ranges ++ c.destRanges r.done)
  | none => match r.kind with
    | .cpmc b capS capD =>
      let x := linUnit b capS capD r.units r.done
      some (.object ⟨r.key.ctx, capObj capD⟩ (capBase capD), r.carry.ranges ++ [(linDoff b + x.1, x.2)])
    | _ => none

/-- Where a request has still to write. -/
def State.destLeft (s : State) (r : CopyReq) : Option (Side × List (Nat × Nat)) :=
  match (s.parcel r.key).boxCopy r.kind with
  | some c => some (c.dst.side, r.carry.ranges ++ (if r.done < r.units then c.destFrom r.done else []))
  | none => match r.kind with
    | .cpmc b capS capD =>
      some (.object ⟨r.key.ctx, capObj capD⟩ (capBase capD),
        r.carry.ranges ++ (linFrom b capS capD r.units r.done).map (fun x => (linDoff b + x.1, x.2)))
    | _ => none

/-- Whether two sides are one memory. -/
def Side.same : Side → Side → Bool
  | .object o _, .object q _ => o == q
  | a, b => a == b

/-- Whether two lists of ranges share a 64-byte unit. -/
def shareUnit (a b : List (Nat × Nat)) : Bool :=
  a.any (fun x => b.any (fun y => decide (x.1 / 64 ≤ (y.1 + y.2 - 1) / 64) && decide (y.1 / 64 ≤ (x.1 + x.2 - 1) / 64)))

/-- Whether an earlier request of the context has still to write a 64-byte unit that the next unit of this one writes (R228). -/
def State.behind (s : State) (e r : CopyReq) : Bool :=
  let reach (sd : Side) (l : List (Nat × Nat)) : List (Nat × Nat) := l.map (fun p => (sd.base + p.1, p.2))
  let landing := ((s.parcel e.key).landings.filter (fun l => l.req == e.uid)).flatMap (fun l => l.pieces.map (fun p => (p.1, p.2.length)))
  match s.unitDest r, s.destLeft e with
  | some mine, some left => left.1.same mine.1
      && shareUnit (reach left.1 left.2 ++ landing) (reach mine.1 mine.2)
  | _, _ => false

/-- Whether a range of an object lies in a weight-store bank that is in its refresh window (R225). -/
def State.inRefresh (s : State) (o : OKey) (a n : Nat) : Bool :=
  match s.object? o with
  | none => false
  | some e => n != 0 && (List.range ((a + n - 1) / 65536 - a / 65536 + 1)).any (fun i =>
      match e.extent? (a / 65536 + i) with
      | some d => tierOf (extField d 63 62) == .weight
          && (extPlace d (a / 65536 + i)).2 / 2 ^ 24 % 8 == s.tb / 2048 % 8
      | none => false)

/-- Whether a unit would read a bank of the weight store in its refresh window (R225). -/
def State.readHeld (s : State) (sd : Side) (got : Gather) (need : List (Nat × Nat)) : Bool :=
  match sd with
  | .object o base => (sd.missing got need).any (fun p => s.inRefresh o (base + p.1) p.2)
  | _ => false

/-- Whether the refresh of the weight store holds up the next unit of a request. -/
def State.unitHeld (s : State) (r : CopyReq) : Bool :=
  match (s.parcel r.key).boxCopy r.kind with
  | some c => s.readHeld c.src.side r.carry.got (c.need r.done)
  | none => match r.kind with
    | .cpmc b capS capD =>
      let x := linUnit b capS capD r.units r.done
      s.readHeld (.object ⟨r.key.ctx, capObj capS⟩ (capBase capS)) r.carry.got [(linSoff b + x.1, x.2)]
    | .ovldObject _ obj off _ => s.readHeld (.object ⟨r.key.ctx, obj⟩ off) r.carry.got [(4096 * r.done, 4096)]
    | _ => false

/-- A unit has been moved: `done` advances, and so do the bytes it counts; with `now` the count is handed over. -/
def State.unitDone (s : State) (core : Nat) (r : CopyReq) (n : Nat) (now : Bool) (carry : Carry) : State :=
  let s := s.modCopy core r.uid (fun r => { r with done := r.done + 1, counted := r.counted + n, carry := carry })
  if now then s.handCount r.key r.bar n r.uid else s

/-- The data of one unit of a box copy from its source, or an error's code; replaced source elements are counted (R96). The
answer is the data of the elements, that of the scales, and the source bytes that later units need. -/
def State.boxData (s : State) (who : Issuer) (ctx u : Nat) (c : BoxCopy) (got : Gather) : State × Except Nat Carry :=
  let span := c.sourceSpan u
  let x := c.unit u
  match s.unitSource who ctx c.src.side got (c.need u) (if x.1 + x.2 < recVolume c.shape then c.sourceFrom (u + 1) else []) with
  | (s, .error e) => (s, .error e)
  | (s, .ok (g, keep)) =>
    let bad := if c.xf = 3 then ((c.src.patterns g (c.indices x.1 x.2)).filter (fun p => (quantInput p).2)).length else 0
    let data := c.unitData u g span.1 span.2
    (s.count who.key.ctx 0x018 bad, .ok ⟨data.1, data.2, keep⟩)

/-- What a unit writes of its own data and of what earlier units held for it, with `now`, and what is held for a later one. -/
def Carry.split (held new : Carry) (sd : Side) (later : List (Nat × Nat)) : Gather × Gather × Carry :=
  let e := sd.cut later (held.elems ++ new.elems)
  let x := sd.cut later (held.rest ++ new.rest)
  (e.1, x.1, ⟨e.2, x.2, new.got⟩)

/-- One unit of a box copy: what lies in a grain that a later unit writes too is held for it (R228, R247, R361). -/
def State.boxUnit (s : State) (core : Nat) (r : CopyReq) (c : BoxCopy) : State :=
  let who : Issuer := ⟨r.key, r.tix, r.pc, core⟩
  match s.boxData who r.ctx r.done c r.carry.got with
  | (s, .error e) => s.failCopy core r e
  | (s, .ok data) =>
    let (elems, rest, carry) := r.carry.split data c.dst.side (if r.done + 1 < r.units then c.destFrom (r.done + 1) else [])
    let bytes := dataBytes elems
    let land (res : Option Nat) : State :=
      (s.modParcel r.key (fun p => { p with landings := p.landings ++ landingsOf res (elems ++ rest) r.bar bytes r.uid })).unitDone
        core r bytes false carry
    match c.dst.side with
    | .object o base => match s.scatter who r.ctx o base (recChk c.shape == 1) (elems ++ rest) with
      | (s, e) => if e != 0 then s.failCopy core r e else s.unitDone core r bytes true carry
    | .spad _ => land none
    | .resv _ n => land (some n)

/-- One unit of a linear copy (R236), with what is held between two units as in `boxUnit`. -/
def State.linCopyUnit (s : State) (core : Nat) (r : CopyReq) (b : BitVec 256) (capS capD : QWord) : State :=
  let who : Issuer := ⟨r.key, r.tix, r.pc, core⟩
  let x := linUnit b capS capD r.units r.done
  let left (off : Nat) : List (Nat × Nat) := (linFrom b capS capD r.units (r.done + 1)).map (fun p => (off + p.1, p.2))
  let src : Side := .object ⟨r.key.ctx, capObj capS⟩ (capBase capS)
  let dst : Side := .object ⟨r.key.ctx, capObj capD⟩ (capBase capD)
  match s.unitSource who r.ctx src r.carry.got [(linSoff b + x.1, x.2)] (left (linSoff b)) with
  | (s, .error e) => s.failCopy core r e
  | (s, .ok (g, keep)) =>
    let new : Carry := ⟨[(linDoff b + x.1, gatherBytes g (linSoff b + x.1) x.2)], [], keep⟩
    let (data, _, carry) := r.carry.split new dst (left (linDoff b))
    match s.scatter who r.ctx ⟨r.key.ctx, capObj capD⟩ (capBase capD) false data with
    | (s, e) => if e != 0 then s.failCopy core r e else s.unitDone core r (dataBytes data) true carry

/-- An OVLD that takes the place of a segment begins: the segment goes, and the copy fills a new one there (R136). -/
def State.beginOverlay (s : State) (core : Nat) (r : CopyReq) : State :=
  match r.evicts, r.seg with
  | some v, some order =>
    let at' : Nat × Option (Nat × Nat × Nat) := match r.kind with
      | .ovldList addr _ => (addr, none)
      | .ovldObject addr obj off reg => (addr, some (obj, off, reg))
      | _ => (0, none)
    (s.modCore core (fun c => { c with
      segments := c.segments.filter (fun g => !(g.launch == r.key.launchKey && g.order == v))
        ++ [⟨r.key.launchKey, at'.1, order, at'.2, false, []⟩] })).modCopy core r.uid (fun r => { r with evicts := none })
  | _, _ => s

/-- The bytes of one unit of an OVLD. -/
def overlayUnit (core : Nat) (r : CopyReq) (keep : Gather) (bs : List Byte) (s : State) : State :=
  let s := s.modCore core (fun c => { c with segments := c.segments.map (fun g =>
    if g.launch = r.key.launchKey ∧ r.seg = some g.order then { g with bytes := Mem.write g.bytes (4096 * r.done) bs } else g) })
  let n := if r.done + 1 < r.units then (r.done + 1) * 4096 - r.counted else 0
  s.unitDone core r n true ⟨[], [], keep⟩

/-- Move the next unit of a request. -/
def State.moveUnit (s : State) (core : Nat) (r : CopyReq) : State :=
  let who : Issuer := ⟨r.key, r.tix, r.pc, core⟩
  match (s.parcel r.key).boxCopy r.kind with
  | some c => s.boxUnit core r c
  | none => match r.kind with
    | .cpmc b capS capD => s.linCopyUnit core r b capS capD
    | .ovldList _ dev =>
      let a := dev.toNat + 4096 * r.done
      match (s.beginOverlay core r).readTier r.key.ctx .hbm a 4096 with
      | (s, .error e) => (s.dataError who r.ctx 0 a 4096 e).failCopy core r e
      | (s, .ok bs) => overlayUnit core r [] bs s
    | .ovldObject _ obj off _ =>
      let s := s.beginOverlay core r
      let o : OKey := ⟨r.key.ctx, obj⟩
      if s.classOf o = 5 ∨ s.classOf o = 6 then s.failCopy core r 0x23
      else match s.unitSource who r.ctx (.object o off) r.carry.got [(4096 * r.done, 4096)] [(4096 * (r.done + 1), 16384 - 4096 * (r.done + 1))] with
        | (s, .error e) => s.failCopy core r e
        | (s, .ok (g, keep)) => overlayUnit core r keep (gatherBytes g (4096 * r.done) 4096) s
    | _ => s

/-- Whether a request may move its next unit: it is among the four in flight of its context (R228), no earlier one still
writes what it would write, no refresh window holds it up, and its core does not halt (R243). -/
def State.unitReady (s : State) (core : Nat) (r : CopyReq) : Bool :=
  let mates := (s.core core).copies.filter (fun x => x.ctx == r.ctx)
  let place := mates.findIdx (fun x => x.uid == r.uid)
  !(s.core core).halting && decide (r.done < r.units) && decide (place < 4) && !(mates.take place).any (fun e => s.behind e r) && !s.unitHeld r

/-- COPY_UNIT (R237): a copy context moves one 4 KiB unit of a request. -/
def execCopyUnit (core uid : Nat) (s : State) : Host.Outcome State Fault Refusal :=
  match (s.core core).copies.find? (fun r => r.uid == uid) with
  | none => .refused (.notEnabled "COPY_UNIT")
  | some r =>
    if s.unitReady core r then .next ((s.moveUnit core r).refresh core)
    else .refused (.notEnabled "COPY_UNIT")

/-- Whether a segment that a request fills is resident, or it fills none. -/
def Core.filled (c : Core) (r : CopyReq) : Bool :=
  match r.seg with
  | none => true
  | some o => c.segments.any (fun g => g.launch == r.key.launchKey && g.order == o && g.resident)

/-- COPY_COMPLETE (R228): every byte of the request is performed and counted. -/
def execCopyComplete (core uid : Nat) (s : State) : Host.Outcome State Fault Refusal :=
  match (s.core core).copies.find? (fun r => r.uid == uid) with
  | none => .refused (.notEnabled "COPY_COMPLETE")
  | some r =>
    let p := s.parcel r.key
    let waits := p.landings.any (fun l => l.req == uid) || p.counts.any (fun c => c.req == uid)
    if r.done < r.units || waits || !(s.core core).filled r then .refused (.notEnabled "COPY_COMPLETE")
    else
      let s := s.modCore core (fun c => { c with copies := c.copies.filter (fun x => x.uid != uid) })
      .next (((s.complete r.key r.tix r.ctx .copies r.num r.restored).reap core).refresh core)

/-- OVERLAY_RESIDENT (R127): all 16,384 bytes of an OVLD have landed; the segment is resident, and the last bytes are
handed to the barrier. -/
def execOverlayResident (core uid : Nat) (s : State) : Host.Outcome State Fault Refusal :=
  match (s.core core).copies.find? (fun r => r.uid == uid && r.seg.isSome) with
  | none => .refused (.notEnabled "OVERLAY_RESIDENT")
  | some r =>
    if r.done < r.units || (s.core core).filled r then .refused (.notEnabled "OVERLAY_RESIDENT")
    else
      let s := s.modCore core (fun c => { c with segments := c.segments.map (fun g =>
        if g.launch = r.key.launchKey ∧ r.seg = some g.order then { g with resident := true } else g) })
      let n := r.nominal - r.counted
      let s := s.modCopy core uid (fun r => { r with counted := r.nominal })
      .next ((s.handCount r.key r.bar n uid).refresh core)

end Sys2Proof.Machine
end

