-- ==== Sys2Proof/Machine/SlotStore.lean ====
section
/-!
DEFINITION. The accumulator store (R268, R22, R437): names and positions, the values of slots, shadow records (R261) and
series records (R273).
-/

namespace Sys2Proof.Machine

/-! ### Names and positions (R22, R437) -/

/-- The position behind a slot name: names start at their own positions, and an exchange moves them. -/
def Parcel.position (p : Parcel) (name : Nat) : Nat := Tbl.get name p.names name

/-- Exchange the positions behind two names (R262). -/
def Parcel.exchange (p : Parcel) (a b : Nat) : Parcel :=
  let x := p.position a
  let y := p.position b
  { p with names := Tbl.put b (Tbl.put a p.names a y) b x }

/-- The name of a position. -/
def Parcel.nameOf (p : Parcel) (pos : Nat) : Nat := ((List.range 64).find? (fun n => p.position n == pos)).getD pos

/-! ### Bytes -/

/-- The number at a byte of a slot position. -/
def Parcel.accNat (p : Parcel) (pos off n : Nat) : Nat := Mem.nat p.acc (65536 * pos + off) n

/-- Write a number at a byte of a slot position. -/
def Parcel.setAcc (p : Parcel) (pos off n v : Nat) : Parcel := { p with acc := Mem.setNat p.acc (65536 * pos + off) n v }

/-- The bytes of a memory in the 65,536 bytes of position `src`, as bytes of position `dst`. -/
def slotCells (m : Mem) (src dst : Nat) : Mem :=
  (m.filter (fun c => c.1 / 65536 == src)).map (fun c => (65536 * dst + c.1 % 65536, c.2))

/-- Copy a whole slot to another position (R272, R275). -/
def Parcel.copySlot (p : Parcel) (src dst : Nat) : Parcel :=
  { p with acc := p.acc.filter (fun c => decide (c.1 / 65536 < dst)) ++ slotCells p.acc src dst
      ++ p.acc.filter (fun c => decide (dst < c.1 / 65536)) }

/-- Write zeros to a whole slot (R272). -/
def Parcel.zeroSlot (p : Parcel) (pos : Nat) : Parcel := { p with acc := p.acc.filter (fun c => c.1 / 65536 != pos) }

/-- The place of element (i, j) of a tile of `size`-byte elements whose first slot has a name (R268): position and byte. -/
def Parcel.elemPlace (p : Parcel) (slot size i j : Nat) : Nat × Nat :=
  let off := size * (128 * i + j)
  (p.position (slot + off / 65536), off % 65536)

/-- An element of a tile. -/
def Parcel.elem (p : Parcel) (slot size i j : Nat) : Nat :=
  let e := p.elemPlace slot size i j
  p.accNat e.1 e.2 size

/-- Write an element of a tile. -/
def Parcel.setElem (p : Parcel) (slot size i j v : Nat) : Parcel :=
  let e := p.elemPlace slot size i j
  p.setAcc e.1 e.2 size v

/-! ### Shadow records (R261), by name: [31] pending, [30] of a pair (the model's own), [13:8] target, [4] f, [3:0] tie -/

/-- A shadow record as it stands in a parcel's table. -/
def shadowWord (pair : Bool) (target : Nat) (neg : Bool) (pred : Nat) : Word :=
  BitVec.ofNat 32 (2 ^ 31 + bit pair * 2 ^ 30 + target % 64 * 256 + bit neg * 16 + pred % 16)

/-- The record held by a name. -/
def shadowAt (sh : Tbl Word) (name : Nat) : Option Word :=
  let w := Tbl.get 0 sh name
  if w.getLsbD 31 then some w else none

/-- The target of a record. -/
def shadowTarget (w : Word) : Nat := (w.extractLsb' 8 6).toNat
/-- Whether a record is that of an FP64 pair. -/
def shadowPair (w : Word) : Bool := w.getLsbD 30

/-- Whether a name is a pending shadow: it holds a record, or is the odd slot of a pair that does. -/
def shadowPending (sh : Tbl Word) (name : Nat) : Bool :=
  (shadowAt sh name).isSome || (name % 2 == 1 && (match shadowAt sh (name - 1) with
    | some w => shadowPair w
    | none => false))

/-- Whether a name is the target of a pending shadow. -/
def shadowTargets (sh : Tbl Word) (name : Nat) : Bool :=
  sh.any (fun e => e.2.getLsbD 31 && (shadowTarget e.2 == name || (shadowPair e.2 && shadowTarget e.2 + 1 == name)))

/-- The slots of an operand: one, or an FP64 pair. -/
def slotNames (slot : Nat) (pair : Bool) : List Nat := if pair then [slot, slot + 1] else [slot]

/-- The pending-shadow conditions of MMA and MMAS (R254 code 0x47); `tie` is none where only targets are compared (R263). -/
def shadowBad (sh : Tbl Word) (slot : Nat) (pair : Bool) (shadow : Option (Nat × Option (Nat × Bool))) : Bool :=
  (slotNames slot pair).any (shadowPending sh) || (match shadow with
    | none => false
    | some (name, tie) =>
      (slotNames name pair).any (shadowTargets sh)
        || (match shadowAt sh name with
          | some w => shadowTarget w != slot || shadowPair w != pair || (match tie with
              | some (q, f) => w != shadowWord pair slot f q
              | none => false)
          | none => (slotNames name pair).any (shadowPending sh))
        || (pair && (shadowAt sh (name + 1)).isSome))

/-- An MMAS has started: its record (R261). -/
def shadowPut (sh : Tbl Word) (name : Nat) (pair : Bool) (slot : Nat) (tie : Nat × Bool) : Tbl Word :=
  Tbl.put 0 sh name (shadowWord pair slot tie.2 tie.1)

/-- A record is cleared (R262). -/
def shadowClear (sh : Tbl Word) (name : Nat) : Tbl Word := Tbl.put 0 sh name 0

/-! ### Series records (R273), by position -/

/-- The series record of a position. -/
def Parcel.seriesAt (p : Parcel) (pos : Nat) : BitVec 64 := Tbl.get 0 p.series pos

/-- Bits [hi:lo] of a series record. -/
def serField (r : BitVec 64) (hi lo : Nat) : Nat := (r.extractLsb' lo (hi + 1 - lo)).toNat
/-- VALID. -/
def serValid (r : BitVec 64) : Bool := r.getLsbD 63
/-- DEPTH. -/
def serDepth (r : BitVec 64) : Nat := serField r 62 60
/-- HEAD. -/
def serHead (r : BitVec 64) : Nat := serField r 59 57
/-- AVAIL. -/
def serAvail (r : BitVec 64) : Nat := serField r 56 54
/-- STG. -/
def serStg (r : BitVec 64) : Nat := serField r 53 52
/-- PV. -/
def serPv (r : BitVec 64) : Bool := r.getLsbD 51
/-- LASTD. -/
def serLastd (r : BitVec 64) : Nat := serField r 50 45
/-- RING. -/
def serRing (r : BitVec 64) : Nat := serField r 44 39
/-- M. -/
def serM (r : BitVec 64) : Nat := serField r 38 31
/-- N. -/
def serN (r : BitVec 64) : Nat := serField r 30 23
/-- CNT. -/
def serCnt (r : BitVec 64) : Nat := serField r 22 15

/-- A series record from its fields. -/
def serOf (valid : Bool) (depth head avail stg : Nat) (pv : Bool) (lastd ring m n cnt : Nat) : BitVec 64 :=
  BitVec.ofNat 64 (bit valid * 2 ^ 63 + depth % 8 * 2 ^ 60 + head % 8 * 2 ^ 57 + avail % 8 * 2 ^ 54 + stg % 4 * 2 ^ 52
    + bit pv * 2 ^ 51 + lastd % 64 * 2 ^ 45 + ring % 64 * 2 ^ 39 + m % 256 * 2 ^ 31 + n % 256 * 2 ^ 23 + cnt % 256 * 2 ^ 15)

/-- Replace the series record of a position. -/
def Parcel.setSeries (p : Parcel) (pos : Nat) (r : BitVec 64) : Parcel := { p with series := Tbl.put 0 p.series pos r }

/-- The ring position of the j-th newest checkpoint (R273). -/
def serNewest (r : BitVec 64) (j : Nat) : Nat := serRing r + (serHead r + serDepth r - 1 - j) % serDepth r

/-- Whether a position's slot is a pending shadow. -/
def Parcel.posPending (p : Parcel) (pos : Nat) : Bool := shadowPending p.shadows (p.nameOf pos)

end Sys2Proof.Machine
end

