-- ==== Sys2Proof/Machine/Matrix.lean ====
section
/-!
DEFINITION. The matrix engine (R99 to R103, R251 to R264): parameter blocks and their checks, element values, one K-group
step, MSHAPE, MMA, MMAS, MCOMMIT and MDROP.
-/

namespace Sys2Proof.Machine

/-! ### The parameter block (R251) -/

/-- Bits [hi:lo] of a block. -/
def mmaField (b : BitVec 512) (hi lo : Nat) : Nat := (b.extractLsb' lo (hi + 1 - lo)).toNat
/-- SLOT. -/
def mmaSlot (b : BitVec 512) : Nat := mmaField b 255 250
/-- SHADOW. -/
def mmaShadow (b : BitVec 512) : Nat := mmaField b 249 244
/-- K. -/
def mmaK (b : BitVec 512) : Nat := mmaField b 191 160
/-- M. -/
def mmaM (b : BitVec 512) : Nat := mmaField b 159 152
/-- N. -/
def mmaN (b : BitVec 512) : Nat := mmaField b 151 144
/-- AFMT. -/
def mmaAfmt (b : BitVec 512) : Nat := mmaField b 143 139
/-- BFMT. -/
def mmaBfmt (b : BitVec 512) : Nat := mmaField b 138 134
/-- OVW. -/
def mmaOvw (b : BitVec 512) : Bool := b.getLsbD 133
/-- SAT. -/
def mmaSat (b : BitVec 512) : Bool := b.getLsbD 132
/-- Whether a reserved bit of the block is set. -/
def mmaReserved (b : BitVec 512) : Bool := mmaField b 511 256 != 0 || mmaField b 243 192 != 0 || mmaField b 131 128 != 0

/-- The accumulators (R99). -/
inductive Accum where
  | fp32 | int32 | fp64
  deriving DecidableEq, Repr

/-- A pair of operand formats in one order: G and the accumulator (R99). -/
def pairOrdered (a b : Nat) : Option (Nat × Accum) :=
  let fp8 (f : Nat) : Bool := f == 12 || f == 13
  let int8 (f : Nat) : Bool := f == 0 || f == 4
  if a = 8 ∧ b = 8 then some (1, .fp64)
  else if (a = 11 ∧ b = 11) ∨ (a = 10 ∧ b = 10) ∨ (a = 15 ∧ b = 11) then some (2, .fp32)
  else if (fp8 a && fp8 b) || (a == 15 && b == 12) then some (4, .fp32)
  else if int8 a && int8 b then some (4, .int32)
  else if a = 14 ∧ b = 14 then some (8, .fp32)
  else if a = 16 ∧ b = 16 then some (8, .int32)
  else none

/-- A pair of operand formats: either may stand as A (R99). -/
def pairOf (a b : Nat) : Option (Nat × Accum) :=
  match pairOrdered a b with
  | some x => some x
  | none => pairOrdered b a

/-- G of a block. -/
def mmaG (b : BitVec 512) : Nat := ((pairOf (mmaAfmt b) (mmaBfmt b)).map (fun x => x.1)).getD 1

/-- The accumulator of a block. -/
def mmaAccum (b : BitVec 512) : Accum := ((pairOf (mmaAfmt b) (mmaBfmt b)).map (fun x => x.2)).getD .fp32

/-- Whether a block's tile is an FP64 pair. -/
def mmaPair (b : BitVec 512) : Bool := mmaAccum b == .fp64

/-- The bytes of an element of a block's tile. -/
def mmaSize (b : BitVec 512) : Nat := if mmaPair b then 8 else 4

/-- The bytes an MMA counts (R256). -/
def mmaBytes (b : BitVec 512) : Nat := mmaM b * mmaN b * mmaSize b

/-- The K-group steps of an MMA. -/
def mmaSteps (b : BitVec 512) : Nat := mmaK b / mmaG b

/-- Execution cycles (R258), with the latency of kind 1 and kind 2 operands (R263). -/
def mmaCycles (b : BitVec 512) : Nat :=
  48 + (if mmaPair b then mmaK b * mmaM b * mmaN b / 512 else mmaSteps b)
    + (if opdKind (mmaA b) = 1 ∨ opdKind (mmaB b) = 1 then 24 else 0)
    + (if opdKind (mmaA b) = 2 ∨ opdKind (mmaB b) = 2 then 300 else 0)

/-! ### Operands (R252) -/

/-- The core a kind 1 operand names. -/
def opdHost (core : Nat) (d : DWord) : Nat := 4 * (core / 4) + opdCore d

/-- The reservation an operand names, with its parcel, if the request may name it (R254 code 0x41). -/
def State.operand? (s : State) (k : PKey) (d : DWord) : Option (PKey × Reservation) :=
  if opdKind d = 1 then
    (s.residents (opdHost (s.coreOf k) d)).findSome? (fun p =>
      if p.key.launchKey = k.launchKey then (match p.resv? (opdRes d) with
        | some r => if rsvShare r.word then some (p.key, r) else none
        | none => none)
      else none)
  else ((s.parcel k).resv? (opdRes d)).map (fun r => (k, r))

/-- The reservation a numbered request names, deferred frees included. -/
def State.operandOf (s : State) (k : PKey) (d : DWord) : Option (PKey × Reservation) :=
  if opdKind d = 1 then
    (s.residents (opdHost (s.coreOf k) d)).findSome? (fun p =>
      if p.key.launchKey = k.launchKey then (p.resv.find? (fun r => r.num == opdRes d)).map (fun r => (p.key, r)) else none)
  else ((s.parcel k).resv.find? (fun r => r.num == opdRes d)).map (fun r => (k, r))

/-- Whether a descriptor contradicts R252 (code 0x40). -/
def opdBad (d : DWord) : Bool :=
  d.extractLsb' 48 3 != 0 || opdKind d == 3 || (opdKind d != 1 && opdCore d != 0) || (opdKind d != 2 && opdCap d != 0)

/-- Whether OFF is aligned (R252). -/
def opdAligned (d : DWord) : Bool := if opdKind d = 2 then opdOff d % 16 == 0 else opdOff d % 64 == 0

/-- Whether a size is one of the tile sizes. -/
def tileSize (n : Nat) : Bool := n == 32 || n == 64 || n == 96 || n == 128

/-- The checks of R254 made at issue, in order: the code, 0 if all pass. `shadow` is false for MMA. -/
def State.mmaCode (s : State) (k : PKey) (slots : Nat) (b : BitVec 512) (shadow : Bool) (cls : DWord → Nat) : Nat :=
  let a := mmaA b
  let d := mmaB b
  if mmaReserved b || opdBad a || opdBad d then 0x40
  else match s.operand? k a, s.operand? k d with
    | some (_, ra), some (_, rb) =>
      let pair := pairOf (mmaAfmt b) (mmaBfmt b)
      let beyond (x : DWord) (w : BitVec 256) (n : Nat) : Bool :=
        opdKind x != 2 && decide (rsvBytes w < rsvFootprint w (opdOff x) n (mmaK b))
      if mmaAfmt b ≠ rsvFmt ra.word ∨ mmaBfmt b ≠ rsvFmt rb.word ∨ pair = none then 0x42
      else if mmaSat b && mmaAccum b != .int32 then 0x42
      else if !tileSize (mmaM b) || !tileSize (mmaN b) || mmaK b == 0 || mmaK b % mmaG b != 0 || decide (1048576 < mmaK b) then 0x43
      else if !opdAligned a || !opdAligned d then 0x44
      else if beyond a ra.word (mmaM b) || beyond d rb.word (mmaN b) then 0x45
      else
        let out (n : Nat) : Bool := decide (slots ≤ n) || (mmaPair b && (n % 2 == 1 || decide (slots ≤ n + 1)))
        if out (mmaSlot b) then 0x46
        else if shadow && (out (mmaShadow b) || mmaShadow b == mmaSlot b) then 0x46
        else if !shadow && mmaShadow b != 0 then 0x46
        else if (opdKind a == 2 && (cls a == 5 || cls a == 6)) || (opdKind d == 2 && (cls d == 5 || cls d == 6)) then 0x23
        else 0
    | _, _ => 0x41

/-- The capability a kind 2 operand reads through, with the ranges it touches (R254, R260). -/
def State.directUse (s : State) (k : PKey) (t : Thread) (d : DWord) (n depth : Nat) : Option (QWord × List (Nat × Nat)) :=
  if opdKind d = 2 then (s.operandOf k d).map (fun r => (t.cap (opdCap d), rsvRanges r.2.word (opdOff d) n depth)) else none

/-- The direct operands of a block. -/
def State.directUses (s : State) (k : PKey) (t : Thread) (b : BitVec 512) : List (QWord × List (Nat × Nat)) :=
  [s.directUse k t (mmaA b) (mmaM b) (mmaK b), s.directUse k t (mmaB b) (mmaN b) (mmaK b)].filterMap id

/-- The classes of the objects of a block's direct operands. -/
def State.directClass (s : State) (k : PKey) (t : Thread) (d : DWord) : Nat := s.classOf ⟨k.ctx, capObj (t.cap (opdCap d))⟩

/-! ### Issue (R256, R261, R262) -/

/-- The declared slots of a parcel's launch. -/
def State.slotsOf (s : State) (k : PKey) : Nat := match s.launch? k.launchKey with
  | some l => l.slotCount
  | none => 0

/-- A request takes its place in matrix order. -/
def State.addMatrix (s : State) (k : PKey) (t : Thread) (op : MatrixOp) (bar : Option Nat) (failed : Nat) : State :=
  let r := s.number k t.tix 5 .matrix
  let q : MatrixReq := ⟨r.2.1, r.2.2, false, k, t.tix, t.pc, op, bar, BitVec.ofNat 32 failed, 0, []⟩
  r.1.modCore (s.coreOf k) (fun c => { c with matrix := c.matrix ++ [q] })

/-- A query takes its place in matrix order; its destinations are pending (R269). -/
def State.addQuery (s : State) (k : PKey) (t : Thread) (op : Nat → MatrixOp) (dests : List Dest) : State :=
  let (uid, s) := s.fresh
  let s := s.modThread k t.tix (fun t => t.expect uid dests none)
  s.modCore (s.coreOf k) (fun c => { c with matrix := c.matrix ++ [⟨uid, 0, false, k, t.tix, t.pc, op uid, none, 0, 0, []⟩] })

/-- MMA and MMAS at issue (R254, R256, R261). -/
def mmaBody (x : EWord) (shadow : Bool) : Body := fun s k t =>
  match s.engineGate k t .matrix 5 with
  | some w => .wait w
  | none =>
    let p := s.parcel k
    let at' := t.u x.p false
    let nb := x.mod.getLsbD 0
    let barAt := t.u x.bar false
    let bar := if nb then none else some barAt
    match firstTrap [p.block at' 64, if nb then none else p.bound barAt 16 16] with
    | some r => .trap r
    | none =>
      let b : BitVec 512 := BitVec.ofNat 512 (p.nat at' 64)
      let code := s.mmaCode k (s.slotsOf k) b shadow (s.directClass k t)
      if code != 0 then .next (s.failAtIssue k t.tix 5 .matrix bar (mmaBytes b) (BitVec.ofNat 32 code))
      else
        let uses := s.directUses k t b
        match firstTrap (uses.map (fun u => capTraps u.1 .m u.2)) with
        | some r => .trap r
        | none => match (uses.filterMap (fun u => s.leaseFaults k u.1 .m u.2)).head? with
          | some f => .fatal f
          | none =>
            let capA := t.cap (opdCap (mmaA b))
            let capB := t.cap (opdCap (mmaB b))
            .next (s.addMatrix k t (if shadow then .mmas b capA capB (x.q.setWidth 4) x.f else .mma b capA capB) bar 0)

/-- MMA (R256). -/
def execMma (x : EWord) (s : State) : Host.Outcome State Fault Refusal := issue (.mma x) (mmaBody x false) s

/-- MMAS (R261). -/
def execMmas (x : EWord) (s : State) : Host.Outcome State Fault Refusal := issue (.mmas x) (mmaBody x true) s

/-- A matrix-class request with no block and no barrier. -/
def slotBody (op : Thread → MatrixOp) : Body := fun s k t =>
  match s.engineGate k t .matrix 5 with
  | some w => .wait w
  | none => .next (s.addMatrix k t (op t) none 0)

/-- MCOMMIT (R262): the predicates are captured at issue. -/
def execMcommit (x : RWord) (s : State) : Host.Outcome State Fault Refusal :=
  issue (.mcommit x) (slotBody (fun t => .mcommit x.a.toNat t.p)) s

/-- MDROP (R262). -/
def execMdrop (x : RWord) (s : State) : Host.Outcome State Fault Refusal := issue (.mdrop x) (slotBody (fun _ => .mdrop x.a.toNat)) s

/-! ### MSHAPE (R263) -/

/-- The shadow records as one older request leaves them, if it does not fail. -/
def shadowAfter (sh : Tbl Word) (op : MatrixOp) : Tbl Word :=
  match op with
  | .mmas b _ _ q f => shadowPut sh (mmaShadow b) (mmaPair b) (mmaSlot b) (q.toNat, f)
  | .mcommit a _ | .mdrop a => shadowClear sh a
  | _ => sh

/-- The shadow records of a parcel as its older requests will leave them. -/
def State.shadowsAhead (s : State) (k : PKey) : Tbl Word :=
  let c := s.core (s.coreOf k)
  let ahead := (if c.run.isSome then c.matrix.drop 1 else c.matrix).filter (fun r => r.key == k)
  ahead.foldl (fun sh r => shadowAfter sh r.op) (s.parcel k).shadows

/-- MSHAPE (R263). -/
def execMshape (x : EWord) (s : State) : Host.Outcome State Fault Refusal :=
  issue (.mshape x) (fun s k t =>
    if !t.storeQ.isEmpty then .wait .storesDone
    else
    let p := s.parcel k
    let at' := t.u x.p false
    match p.block at' 64 with
    | some r => .trap r
    | none =>
      let b : BitVec 512 := BitVec.ofNat 512 (p.nat at' 64)
      let shadow := mmaShadow b != 0
      let first := s.mmaCode k (s.slotsOf k) b shadow (s.directClass k t)
      let uses := s.directUses k t b
      let bad := shadowBad (s.shadowsAhead k) (mmaSlot b) (mmaPair b) (if shadow then some (mmaShadow b, none) else none)
      let code :=
        if first != 0 && first != 0x23 then first
        else if bad then 0x47
        else if first != 0 then first
        else if (firstTrap (uses.map (fun u => capTraps u.1 .m u.2))).isSome then 0x50
        else if !(uses.filterMap (fun u => s.leaseFaults k u.1 .m u.2)).isEmpty then 0x51
        else 0
      let cycles := if code = 0 then min (2 ^ 32 - 1) (mmaCycles b) else 0
      .next (s.result k t.tix (writes32 x.x.toNat code ++ writes32 (x.x.toNat + 1) cycles ++ writesPred x.q.toNat (code == 0)))) s

/-! ### Element values (R85, R88, R89, R253) -/

/-- The value of an operand element's pattern under its scales. -/
def operandValue (fmt pat scale group : Nat) : Val :=
  match fmt with
  | 0 => .ofInt (signedOf pat 8)
  | 4 => .ofInt pat
  | 8 => Fmt.f64.value pat
  | 10 => Fmt.f16.value pat
  | 11 => Fmt.bf16.value pat
  | 12 => Fmt.e4m3.value pat
  | 13 => Fmt.e5m2.value pat
  | 16 => .ofInt (signedOf pat 4)
  | _ => blockValue fmt pat scale group

/-- A number among the chunks a request has read of an operand. -/
def chunkNat (chunks : List (Nat × Nat × List Byte)) (side a n : Nat) : Nat :=
  leNat ((List.range n).map (fun i =>
    match chunks.find? (fun c => c.1 == side && c.2.1 == (a + i) / 64) with
    | some c => c.2.2[(a + i) % 64]?.getD 0
    | none => 0))

/-- The value of element (x, k) of an operand whose bytes start at `base`. -/
def chunkValue (chunks : List (Nat × Nat × List Byte)) (side base : Nat) (w : BitVec 256) (o x k : Nat) : Val :=
  let f := rsvFmt w
  let b := rsvAt w o x k
  let pat := if fmtBits f = 4 then chunkNat chunks side (base + b) 1 / 16 ^ (k % 2) % 16
    else chunkNat chunks side (base + b) (fmtBits f / 8)
  operandValue f pat (if fmtBlock f then chunkNat chunks side (base + rsvScaleAt w b) 1 else 0)
    (if f = 15 then chunkNat chunks side (base + rsvGroupAt w b) 4 else 0)

/-- The chunks that a K-group of an operand takes: outer indices below n, k from k0 on. -/
def groupChunks (base : Nat) (w : BitVec 256) (o n k0 g : Nat) : List Nat :=
  let ranges := (List.range n).flatMap (fun x => (List.range g).flatMap (fun i =>
    let b := rsvAt w o x (k0 + i)
    [(b, max 1 (fmtBits (rsvFmt w) / 8))]
      ++ (if fmtBlock (rsvFmt w) then [(rsvScaleAt w b, 1)] else [])
      ++ (if rsvFmt w = 15 then [(rsvGroupAt w b, 4)] else [])))
  (ranges.flatMap (fun r => (List.range ((base + r.1 + r.2 - 1) / 64 - (base + r.1) / 64 + 1)).map (fun i => (base + r.1) / 64 + i))).dedup

/-! ### One step (R100 to R103, R106, R107) -/

/-- A group sum (R100, R101): exact, with the special cases of IEEE 754. -/
def groupSum (a b : List Val) : Val :=
  match (a.zip b).map (fun e => e.1.mul e.2) with
  | [] => .zero
  | v :: vs => vs.foldl (fun s v => s.add false v) v

/-- The smallest normal magnitude of binary32 or binary64 (R84). -/
def Fmt.belowNormal (f : Fmt) (v : Val) : Bool :=
  match v with
  | .fin _ n d => n != 0 && decide (n * 2 ^ (f.bias - 1) < d)
  | _ => false

/-- A rounding under R106 and R107: the pattern, and whether the signal box completes it. -/
def Fmt.assisted (f : Fmt) (flush : Bool) (mode : RMode) (v : Val) : Nat × Bool :=
  let r := f.round mode v
  if f.belowNormal v then
    if !flush then (r, true)
    else if r % 2 ^ (f.expBits + f.fracBits) < 2 ^ f.fracBits then (f.sign v.isNeg, false) else (r, false)
  else (r, false)

/-- The integer a value stands for. -/
def Val.toInt : Val → Int
  | .fin s n d => sgnNat s (n / d)
  | _ => 0

/-- One element's step: the new pattern, and whether the signal box completes it. -/
def stepElem (acc : Accum) (sat flush : Bool) (old : Nat) (a b : List Val) : Nat × Bool :=
  match acc with
  | .fp32 => Fmt.f32.assisted flush .rne ((Fmt.f32.value old).add false (groupSum a b))
  | .fp64 => Fmt.f64.assisted flush .rne ((Fmt.f64.value old).add false (groupSum a b))
  | .int32 =>
    let e := signedOf old 32 + (groupSum a b).toInt
    (if sat then wrapInt (max (-(2 ^ 31 : Nat)) (min (2 ^ 31 - 1 : Nat) e)) 32 else wrapInt e 32, false)

/-- A K-group step on a tile: every element of the window in order, and whether any needs the signal box. `fresh` is the
first step of an overwrite. -/
def tileStep (p : Parcel) (b : BitVec 512) (slot : Nat) (flush fresh : Bool) (av bv : List (List Val)) : Parcel × Bool :=
  let size := mmaSize b
  (av.zip (List.range av.length)).foldl (fun (r : Parcel × Bool) row =>
    (bv.zip (List.range bv.length)).foldl (fun (r : Parcel × Bool) col =>
      let old := if fresh then 0 else r.1.elem slot size row.2 col.2
      let e := stepElem (mmaAccum b) (mmaSat b) flush old row.1 col.1
      (r.1.setElem slot size row.2 col.2 e.1, r.2 || e.2)) r) (p, false)

/-- The block of an MMA or MMAS, the capabilities of its operands, and the slot it writes. -/
def MatrixOp.mma? : MatrixOp → Option (BitVec 512 × QWord × QWord × Nat)
  | .mma b ca cb => some (b, ca, cb, mmaSlot b)
  | .mmas b ca cb _ _ => some (b, ca, cb, mmaShadow b)
  | _ => none

/-- Where an operand's bytes lie: their base, and the object they are read from directly, if they are. -/
def opdBase (d : DWord) (cap : QWord) : Nat := if opdKind d = 2 then capBase cap else 0

/-- Read a chunk of an operand, whole (R264). -/
def State.readChunk (s : State) (r : MatrixReq) (d : DWord) (cap : QWord) (c : Nat) : State × Except Nat (List Byte) :=
  if opdKind d = 2 then
    let o : OKey := ⟨r.key.ctx, capObj cap⟩
    match s.readObject (dieOf (s.coreOf r.key)) o (64 * c) 64 with
    | (s, .error e) => (s.dataError ⟨r.key, r.tix, r.pc, s.coreOf r.key⟩ 5 o.obj (64 * c) 64 e, .error e)
    | x => x
  else match s.operandOf r.key d with
    | some (_, v) => (s, .ok ((List.range 64).map (fun i => v.byte (64 * c + i))))
    | none => (s, .ok [])

/-- The chunks of the next step that the request has not read. -/
def State.missingChunks (s : State) (r : MatrixReq) : List (Nat × DWord × QWord × Nat) :=
  match r.op.mma? with
  | none => []
  | some (b, ca, cb, _) =>
    let g := mmaG b
    let side (n : Nat) (d : DWord) (cap : QWord) (outer : Nat) : List (Nat × DWord × QWord × Nat) :=
      match s.operandOf r.key d with
      | some (_, v) =>
        ((groupChunks (opdBase d cap) v.word (opdOff d) outer (r.step * g) g).filter (fun c =>
          !r.chunks.any (fun x => x.1 == n && x.2.1 == c))).map (fun c => (n, d, cap, c))
      | none => []
    side 0 (mmaA b) ca (mmaM b) ++ side 1 (mmaB b) cb (mmaN b)

/-- Read the missing chunks: the request with them, or the code of an error. -/
def State.fetchChunks (s : State) (r : MatrixReq) : State × Except Nat MatrixReq :=
  (s.missingChunks r).foldl (fun (x : State × Except Nat MatrixReq) c =>
    match x with
    | (s, .error e) => (s, .error e)
    | (s, .ok r) => match s.readChunk r c.2.1 c.2.2.1 c.2.2.2 with
      | (s, .error e) => (s, .error e)
      | (s, .ok bs) => (s, .ok { r with chunks := r.chunks ++ [(c.1, c.2.2.2, bs)] })) (s, .ok r)

/-- The parcel after the next step of a request that has its chunks, and whether the step needs the signal box. -/
def State.stepResult (s : State) (r : MatrixReq) : Parcel × Bool :=
  let p := s.parcel r.key
  match r.op.mma? with
  | none => (p, false)
  | some (b, ca, cb, slot) =>
    match s.operandOf r.key (mmaA b), s.operandOf r.key (mmaB b) with
    | some (_, ra), some (_, rb) =>
      let g := mmaG b
      let vals (side : Nat) (d : DWord) (cap : QWord) (w : BitVec 256) (outer : Nat) : List (List Val) :=
        (List.range outer).map (fun x => (List.range g).map (fun i =>
          chunkValue r.chunks side (opdBase d cap) w (opdOff d) x (r.step * g + i)))
      tileStep p b slot (rsvFlush ra.word) (mmaOvw b && r.step == 0)
        (vals 0 (mmaA b) ca ra.word (mmaM b)) (vals 1 (mmaB b) cb rb.word (mmaN b))
    | _, _ => (p, false)

end Sys2Proof.Machine
end

