-- ==== Sys2Proof/Machine/Terminus.lean ====
section
/-!
DEFINITION. The Terminus (R276 to R286): the TERM parameter block, the epsilon and least-squares methods in xf32,
convergence, stagnation, the flag word and the flag map.
-/

namespace Sys2Proof.Machine

/-! ### The TERM block (R277) -/

/-- Bits [hi:lo] of a block. -/
def termField (b : BitVec 256) (hi lo : Nat) : Nat := (b.extractLsb' lo (hi + 1 - lo)).toNat
/-- TOL. -/
def termTol (b : BitVec 256) : Nat := termField b 255 224
/-- RHO; 0 selects the binary32 nearest 0.98. -/
def termRho (b : BitVec 256) : Nat := if termField b 223 192 = 0 then 0x3F7AE148 else termField b 223 192
/-- FMAP. -/
def termFmap (b : BitVec 256) : Nat := termField b 191 160
/-- FMAPEN. -/
def termFmapen (b : BitVec 256) : Bool := b.getLsbD 30
/-- FLUSH. -/
def termFlush (b : BitVec 256) : Bool := b.getLsbD 29
/-- RIDGE. -/
def termRidge (b : BitVec 256) : Nat := termField b 28 23
/-- THETA. -/
def termTheta (b : BitVec 256) : Nat := termField b 22 17
/-- ORD. -/
def termOrd (b : BitVec 256) : Nat := termField b 16 14
/-- METH. -/
def termMeth (b : BitVec 256) : Nat := termField b 13 12
/-- DST. -/
def termDst (b : BitVec 256) : Nat := termField b 11 6
/-- SER. -/
def termSer (b : BitVec 256) : Nat := termField b 5 0

/-! ### xf32 (R91, R279) -/

/-- X(v): one xf32 operation. -/
def xf (v : Val) : Val := Fmt.xf32.value (Fmt.xf32.round .rne v)

/-- a − b. -/
def vsub (a b : Val) : Val := a.add false b.neg

/-- The largest of some values; NaN if one of them is. -/
def vmax : List Val → Val
  | [] => .zero
  | v :: vs => vs.foldl (fun m x => if m == .nan || x == .nan then .nan else m.max x) v

/-- 2^(−n). -/
def twoPow (n : Nat) : Val := .fin false 1 (2 ^ n)

/-- |d| ≤ 2^(−θ) × max(refs, 2^(−126)); a test that involves NaN is false. -/
def smallAgainst (theta : Nat) (d : Val) (refs : List Val) : Bool :=
  d.abs.le ((twoPow theta).mul (vmax (refs.map Val.abs ++ [twoPow 126])))

/-! ### The epsilon method (R280) -/

/-- One row of the table from the two before it; none where a divisor fails its test. -/
def epsRow (theta : Nat) : List Val → List Val → Option (List Val)
  | prev, b :: a :: rest =>
    let d := xf (vsub a b)
    if smallAgainst theta d [a, b] then none
    else match epsRow theta (prev.drop 1) (a :: rest) with
      | none => none
      | some more => some (xf (((prev[1]?).getD Val.zero).add false (xf (Val.one.div d))) :: more)
  | _, _ => some []

/-- The rows of the table of an order, down to its one entry. -/
def epsTable (theta : Nat) : Nat → List Val → List Val → Option Val
  | 0, _, cur => cur.head?
  | n + 1, prev, cur => match epsRow theta prev cur with
    | none => none
    | some next => epsTable theta n cur next

/-- The estimate of one element from its checkpoints, oldest first, of which there are 2h + 1: the value and the order that
returned it, 0 with the fallback. -/
def epsEstimate (theta : Nat) (col : List Val) : Nat → Val × Nat
  | 0 => (col.getLast?.getD .zero, 0)
  | q + 1 =>
    match epsTable theta (2 * (q + 1)) (List.replicate (2 * (q + 1) + 1) .zero) (col.drop (col.length - (2 * (q + 1) + 1))) with
    | some v => (v, q + 1)
    | none => epsEstimate theta col q

/-! ### The least-squares method (R281) -/

/-- An entry of a matrix held by rows. -/
def entry (m : List (List Val)) (i j : Nat) : Val := ((m[i]?).getD [])[j]?.getD .zero

/-- Element i of a list of values. -/
def item (l : List Val) (i : Nat) : Val := l[i]?.getD .zero

/-- G: the sums of products of the differences, each over the window in ascending order. -/
def gram (dl : List (List Val)) : List (List Val) :=
  let h := dl.length
  let sum (i j : Nat) : Val := (((dl[i]?).getD []).zip ((dl[j]?).getD [])).foldl (fun g e => xf (g.add false (e.1.mul e.2))) .zero
  (List.range h).map (fun i => (List.range h).map (fun j => sum (min i j) (max i j)))

/-- H of a depth: the newest q rows and columns of G with the ridge on the diagonal. -/
def ridged (g : List (List Val)) (h q ridge : Nat) : List (List Val) :=
  let o := h - q
  let raw (i j : Nat) : Val := entry g (o + i) (o + j)
  let lam : Val := if ridge = 0 then .zero else xf ((twoPow ridge).mul (vmax ((List.range q).map (fun j => raw j j))))
  (List.range q).map (fun i => (List.range q).map (fun j => if i = j then xf ((raw i j).add false lam) else raw i j))

/-- u ← X(u − X(X(l_i × l_j) × P)) over the columns before. -/
def reduceBy (li lj ps : List Val) (u : Val) : Val :=
  ((li.zip lj).zip ps).foldl (fun u e => xf (vsub u (xf ((xf (e.1.1.mul e.1.2)).mul e.2)))) u

/-- LDLᵀ without pivoting, column by column: the rows of L (their columns so far) and P; none where a pivot fails. -/
def ldl (theta q : Nat) (hm : List (List Val)) : Nat → Nat → List (List Val) × List Val → Option (List (List Val) × List Val)
  | 0, _, st => some st
  | fuel + 1, j, (ls, ps) =>
    let lj := (ls[j]?).getD []
    let u := reduceBy lj lj ps (entry hm j j)
    if smallAgainst theta u [entry hm j j] then none
    else
      let ls' := (List.range q).map (fun i =>
        let li := (ls[i]?).getD []
        if i ≤ j then li ++ [if i = j then .one else .zero] else li ++ [xf ((reduceBy li lj ps (entry hm i j)).div u)])
      ldl theta q hm fuel (j + 1) (ls', ps ++ [u])

/-- z (R281): forward substitution of ones. -/
def forwardOnes (ls : List (List Val)) (q : Nat) : List Val :=
  (List.range q).foldl (fun zs j =>
    zs ++ [(List.range j).foldl (fun z l => xf (vsub z (xf ((entry ls j l).mul (item zs l))))) .one]) []

/-- y (R281): back substitution, from the last entry on. -/
def backSolve (ls : List (List Val)) (ps zs : List Val) (q : Nat) : List Val :=
  (List.range q).foldl (fun ys jj =>
    let j := q - 1 - jj
    let y0 := xf ((item zs j).div (item ps j))
    ((List.range (q - 1 - j)).foldl (fun y i => xf (vsub y (xf ((entry ls (j + 1 + i) j).mul (item ys i))))) y0) :: ys) []

/-- The weights of a depth, or none where a test fails. -/
def lsqWeights (theta ridge h q : Nat) (g : List (List Val)) : Option (List Val) :=
  match ldl theta q (ridged g h q ridge) q 0 (List.replicate q [], []) with
  | none => none
  | some (ls, ps) =>
    let ys := backSolve ls ps (forwardOnes ls q) q
    let s := ys.foldl (fun s y => xf (s.add false y)) .zero
    if smallAgainst theta s ys then none else some (ys.map (fun y => xf (y.div s)))

/-- The depth that returns, from h down, with its weights; depth 0 where none does. -/
def lsqDepth (theta ridge h : Nat) (g : List (List Val)) : Nat → Nat × List Val
  | 0 => (0, [])
  | q + 1 => match lsqWeights theta ridge h (q + 1) g with
    | some ws => (q + 1, ws)
    | none => lsqDepth theta ridge h g q

/-- The estimates of the window from the newest h + 1 checkpoints, oldest first: the values and the depth that returned. -/
def lsqEstimate (theta ridge : Nat) (chk : List (List Val)) : List Val × Nat :=
  let h := chk.length - 1
  let dl := (chk.zip (chk.drop 1)).map (fun p => (p.1.zip p.2).map (fun e => xf (vsub e.2 e.1)))
  let r := lsqDepth theta ridge h (gram dl) h
  let top := chk.getLast?.getD []
  if r.1 = 0 then (top, 0)
  else ((List.range top.length).map (fun e =>
      ((List.range r.1).foldl (fun v j =>
        xf (v.add false ((item r.2 j).mul (item ((chk[h - r.1 + j + 1]?).getD []) e)))) .zero)), r.1)

/-! ### One TERM (R279, R282, R283, R284) -/

/-- The window's values in a slot position. -/
def Parcel.window (p : Parcel) (pos m n : Nat) : List Val :=
  (List.range m).flatMap (fun i => (List.range n).map (fun j => Fmt.f32.value (p.accNat pos (4 * (128 * i + j)) 4)))

/-- The largest |X(a − b)| over the window. -/
def largestChange (a b : List Val) : Val := vmax ((a.zip b).map (fun e => (xf (vsub e.1 e.2)).abs))

/-- STG after a TERM (R282). -/
def Parcel.stagnation (p : Parcel) (r : BitVec 64) (rho : Nat) : Nat :=
  if serAvail r < 3 then 0
  else
    let c (j : Nat) : List Val := p.window (serNewest r j) (serM r) (serN r)
    let dn := largestChange (c 0) (c 1)
    let dp := largestChange (c 1) (c 2)
    if Val.lt .zero dp && (Fmt.f32.value rho).le (xf (dn.div dp)) then min (serStg r + 1) 3 else 0

/-- The result of a TERM: the outputs in order, their conv and fallback flags, USED, whether LSQ fell below h, and whether
the signal box completes a rounding. -/
structure TermResult where
  outs : List Nat
  conv : List Bool
  back : List Bool
  used : Nat
  below : Bool
  assist : Bool

/-- The estimates, rounded and tested (R279). -/
def Parcel.termResult (p : Parcel) (b : BitVec 256) : TermResult :=
  let r := p.seriesAt (p.position (termSer b))
  let m := serM r
  let n := serN r
  let eps := termMeth b == 0
  let h := if eps then min (termOrd b) ((serAvail r - 1) / 2) else min (termOrd b) (serAvail r - 1)
  let count := (if eps then 2 * h else h) + 1
  let chk := (List.range count).map (fun i => p.window (serNewest r (count - 1 - i)) m n)
  let top := chk.getLast?.getD []
  let est : List (Val × Nat) :=
    if eps then (List.range (m * n)).map (fun e => epsEstimate (termTheta b) (chk.map (fun c => item c e)) h)
    else
      let x := lsqEstimate (termTheta b) (termRidge b) chk
      x.1.map (fun v => (v, x.2))
  let outs := est.map (fun e => Fmt.f32.assisted (termFlush b) .rne e.1)
  let dst := p.position (termDst b)
  let prev := if serPv r && serLastd r == dst then p.window dst m n else top
  let conv := (outs.zip prev).map (fun e =>
    let v := Fmt.f32.value e.1.1
    (vsub v e.2).abs.le ((Fmt.f32.value (termTol b)).mul v.abs))
  let used := (est.map (fun e => e.2)).foldl min h
  ⟨outs.map (fun o => o.1), conv, est.map (fun e => e.2 == 0), used, !eps && decide (used < h), outs.any (fun o => o.2)⟩

/-- The bytes of the flag map of a window (R284). -/
def mapBytes (b : BitVec 256) (r : BitVec 64) : Nat := if termFmapen b then ceilDiv (serM r * serN r) 4 else 0

/-- The flag map (R284). -/
def flagMap (t : TermResult) : Nat :=
  ((t.conv.zip t.back).zip (List.range t.conv.length)).foldl (fun v e => v + (bit e.1.1 + 2 * bit e.1.2) * 4 ^ e.2) 0

/-- The flag word (R283). -/
def flagWord (t : TermResult) (stg : Nat) : Word :=
  let nonfin := t.outs.any (fun o => o / 2 ^ 23 % 256 == 255)
  BitVec.ofNat 32 (t.used % 16 * 256 + 128 + bit t.below * 64 + bit nonfin * 32 + bit (stg == 3) * 16
    + bit (t.back.all id) * 8 + bit (t.back.any id) * 4 + bit (t.conv.any id) * 2 + bit (t.conv.all id))

/-- A TERM has its effect on the accumulator store and the flag map (R279, R282 to R284). -/
def Parcel.term (p : Parcel) (b : BitVec 256) : Parcel :=
  let pos := p.position (termSer b)
  let r := p.seriesAt pos
  let t := p.termResult b
  let stg := p.stagnation r (termRho b)
  let dst := p.position (termDst b)
  let p := (t.outs.zip (List.range t.outs.length)).foldl (fun p e =>
    p.setAcc dst (4 * (128 * (e.2 / serN r) + e.2 % serN r)) 4 e.1) p
  let p := p.setSeries pos (serOf true (serDepth r) (serHead r) (serAvail r) stg true dst (serRing r) (serM r) (serN r) (serCnt r))
  let p := { p with flags := Tbl.put 0 p.flags pos (flagWord t stg) }
  if termFmapen b then p.engineStore (termFmap b) (leBytes (mapBytes b r) (flagMap t)) else p

/-- The count of a TERM (R278, R279): 0 where its series slot lies beyond the slots or holds no series. -/
def Parcel.termBytes (p : Parcel) (b : BitVec 256) (slots : Nat) : Nat :=
  let r := p.seriesAt (p.position (termSer b))
  if slots ≤ termSer b || !serValid r then 0 else 4 * serM r * serN r + mapBytes b r

/-- Whether the flag map does not lie in the allotment (R278 code 0x76; log entry 23 on an unaligned FMAP). -/
def Parcel.mapBad (p : Parcel) (b : BitVec 256) : Bool :=
  termFmapen b && (termFmap b % 16 != 0 || decide (p.spSize < termFmap b + mapBytes b (p.seriesAt (p.position (termSer b)))))

/-- The checks of a TERM at issue (R278). -/
def Parcel.termCode (p : Parcel) (b : BitVec 256) (slots : Nat) : Nat :=
  let most := if termMeth b = 0 then 3 else 6
  if termField b 159 31 != 0 || 2 ≤ termMeth b || termOrd b == 0 || most < termOrd b then 0x74
  else if slots ≤ termSer b || slots ≤ termDst b then 0x63
  else if p.mapBad b then 0x76
  else 0

/-- The checks of a TERM at its execution (R278). -/
def Parcel.termRun (p : Parcel) (b : BitVec 256) : Nat :=
  let r := p.seriesAt (p.position (termSer b))
  if !serValid r then 0x73
  else if serAvail r = 0 then 0x75
  else if p.mapBad b then 0x76
  else if shadowPending p.shadows (termSer b) || shadowPending p.shadows (termDst b)
      || (List.range (serDepth r)).any (fun i => p.posPending (serRing r + i)) then 0x47
  else 0

end Sys2Proof.Machine
end

