-- ==== Sys2Proof/Machine/Accumulator.lean ====
section
/-!
DEFINITION. The accumulator instructions (R269 to R275, R285) and drains (R287 to R292): what each does at issue, the value
of a query, the conversion of a window and the add-on-store.
-/

namespace Sys2Proof.Machine

/-! ### Slot requests and queries at issue (R271, R272, R274, R285) -/

/-- AZERO (R272). -/
def execAzero (x : RWord) (s : State) : Host.Outcome State Fault Refusal :=
  issue (.azero x) (slotBody (fun _ => .azero x.d.toNat (x.v == 1))) s

/-- AMOV (R272). -/
def execAmov (x : RWord) (s : State) : Host.Outcome State Fault Refusal :=
  issue (.amov x) (slotBody (fun _ => .amov x.d.toNat x.a.toNat (x.v == 1))) s

/-- ACHK (R275). -/
def execAchk (x : RWord) (s : State) : Host.Outcome State Fault Refusal :=
  issue (.achk x) (slotBody (fun _ => .achk x.a.toNat)) s

/-- ASER (R274): the control word is read at issue. -/
def execAser (x : RWord) (s : State) : Host.Outcome State Fault Refusal :=
  issue (.aser x) (fun s k t =>
    let control : Word := BitVec.ofNat 32 (t.u x.c x.zc)
    .next (s.addQuery k t (fun uid => .aser x.a.toNat x.b.toNat control uid x.d.toNat) [.g x.d.toNat])) s

/-- AINFO (R285). -/
def execAinfo (x : RWord) (s : State) : Host.Outcome State Fault Refusal :=
  issue (.ainfo x) (fun s k t =>
    let d := x.d.toNat
    .next (s.addQuery k t (fun uid => .ainfo x.v.toNat x.a.toNat uid d) (if x.v == 0 then pairDests d else [.g d]))) s

/-- AFLAG (R285). -/
def execAflag (x : RWord) (s : State) : Host.Outcome State Fault Refusal :=
  issue (.aflag x) (fun s k t =>
    let d := x.d.toNat
    .next (s.addQuery k t (fun uid => .aflag x.v.toNat x.a.toNat uid d) (if x.v == 0 then [.g d] else [.p (d % 16)]))) s

/-! ### TERM and ADRAIN at issue (R276) -/

/-- A block of 32 bytes and a barrier, read and checked as an MMA's are. -/
def termBody (x : EWord) (op : State → PKey → Thread → BitVec 256 → Option Nat → Effect) : Body := fun s k t =>
  match s.engineGate k t .matrix 5 with
  | some w => .wait w
  | none =>
    let p := s.parcel k
    let at' := t.u x.p false
    let nb := x.mod.getLsbD 0
    let barAt := t.u x.bar false
    match firstTrap [p.block at' 32, if nb then none else p.bound barAt 16 16] with
    | some r => .trap r
    | none => op s k t (BitVec.ofNat 256 (p.nat at' 32)) (if nb then none else some barAt)

/-- TERM (R278). -/
def execTerm (x : EWord) (s : State) : Host.Outcome State Fault Refusal :=
  issue (.term x) (termBody x (fun s k t b bar => .next (s.addMatrix k t (.term b) bar ((s.parcel k).termCode b (s.slotsOf k))))) s

/-- DFMT of an ADRAIN block (R287). -/
def drainFmt (b : BitVec 256) : Nat := drainField b 12 8
/-- STYPE. -/
def drainStype (b : BitVec 256) : Nat := drainField b 7 6
/-- DKIND. -/
def drainKind (b : BitVec 256) : Nat := drainField b 14 13
/-- MODE: add-on-store. -/
def drainAdds (b : BitVec 256) : Bool := b.getLsbD 15
/-- SLOT. -/
def drainSlot (b : BitVec 256) : Nat := drainField b 5 0
/-- M. -/
def drainM (b : BitVec 256) : Nat := drainField b 27 20
/-- N. -/
def drainN (b : BitVec 256) : Nat := drainField b 35 28
/-- DOFF. -/
def drainDoff (b : BitVec 256) : Nat := drainField b 111 64
/-- DPITCH. -/
def drainPitch (b : BitVec 256) : Nat := drainField b 167 128

/-- Whether a format may be a drain's destination (R287). -/
def drainFmtOk (f : Nat) : Bool := [0, 1, 2, 4, 5, 6, 8, 9, 10, 11, 12, 13].contains f

/-- The bytes of a destination element; 0 for a format outside the list (log entry 24). -/
def drainSize (b : BitVec 256) : Nat := if drainFmtOk (drainFmt b) then fmtBits (drainFmt b) / 8 else 0

/-- The bytes an ADRAIN counts (R292). -/
def drainBytes (b : BitVec 256) : Nat := drainM b * drainN b * drainSize b

/-- The pairs of an add-on-store (R290). -/
def addPairOk (b : BitVec 256) : Bool :=
  match drainStype b, drainFmt b with
  | 0, 9 | 1, 9 | 1, 2 | 2, 8 => true
  | _, _ => false

/-- The length of the footprint of DKIND 0 and 2 (R288). -/
def drainSpan (b : BitVec 256) : Nat := (drainM b - 1) * drainPitch b + drainN b * drainSize b

/-- The checks of ADRAIN at issue (R288). `cls` is the class of DCAP's object. -/
def Parcel.drainCode (p : Parcel) (b : BitVec 256) (slots cls : Nat) : Nat :=
  let size := drainSize b
  let kind := drainKind b
  let pair := drainStype b == 2
  if drainField b 255 168 != 0 || drainField b 127 112 != 0 || drainField b 63 59 != 0 || drainField b 19 19 != 0
      || drainStype b == 3 || kind == 3 || (drainAdds b && drainField b 17 16 != 0) then 0x60
  else if !drainFmtOk (drainFmt b) || (drainAdds b && (!addPairOk b || kind == 1)) then 0x61
  else if 128 < drainField b 42 36 + drainM b || 128 < drainField b 49 43 + drainN b || drainM b == 0 || drainN b == 0 then 0x62
  else if slots ≤ drainSlot b || (pair && (drainSlot b % 2 == 1 || slots ≤ drainSlot b + 1)) then 0x63
  else if kind == 1 && (drainDoff b % 64 != 0 || drainPitch b != 0) then 0x64
  else if kind != 1 && (drainDoff b % size != 0 || drainPitch b % size != 0
      || (1 < drainM b && drainPitch b < drainN b * size)) then 0x64
  else if kind == 0 && p.spSize < drainDoff b + drainSpan b then 0x65
  else if kind == 1 && (match p.resv? (drainField b 55 50) with
    | none => true
    | some r => rsvFmt r.word != drainFmt b || decide (rsvBytes r.word < rsvFootprint r.word (drainDoff b) (drainM b) (drainN b))) then 0x65
  else if kind == 2 && (cls == 5 || cls == 6) then 0x23
  else if kind == 2 && cls == 3 then 0x24
  else 0

/-- ADRAIN (R288). -/
def execAdrain (x : EWord) (s : State) : Host.Outcome State Fault Refusal :=
  issue (.adrain x) (termBody x (fun s k t b bar =>
    let cap := t.cap (drainField b 58 56)
    let code := (s.parcel k).drainCode b (s.slotsOf k) (s.classOf ⟨k.ctx, capObj cap⟩)
    let right : Right := if drainAdds b then .a else .w
    let global := code == 0 && drainKind b == 2
    match (if global then capTrap cap right (drainDoff b) (drainSpan b) else none) with
    | some r => .trap r
    | none => match (if global then s.leaseFault k cap right (drainDoff b) (drainSpan b) else none) with
      | some f => .fatal f
      | none => .next (s.addMatrix k t (.adrain b cap) bar code))) s

/-! ### Effects in matrix order -/

/-- AZERO in matrix order (R270, R272): the code, 0 with its effect. -/
def Parcel.runAzero (p : Parcel) (slot : Nat) (pair : Bool) : Parcel × Nat :=
  let names := slotNames slot pair
  if names.any (shadowPending p.shadows) then (p, 0x47)
  else (names.foldl (fun p n => p.zeroSlot (p.position n)) p, 0)

/-- AMOV in matrix order (R270, R272). -/
def Parcel.runAmov (p : Parcel) (dst src : Nat) (pair : Bool) : Parcel × Nat :=
  let names := (slotNames src pair).zip (slotNames dst pair)
  if names.any (fun e => shadowPending p.shadows e.1 || shadowPending p.shadows e.2) then (p, 0x47)
  else (names.foldl (fun p e => p.copySlot (p.position e.1) (p.position e.2)) p, 0)

/-- ACHK in matrix order (R275). -/
def Parcel.runAchk (p : Parcel) (slot : Nat) : Parcel × Nat :=
  let pos := p.position slot
  let r := p.seriesAt pos
  let ring := serRing r + serHead r
  if !serValid r then (p, 0x73)
  else if shadowPending p.shadows slot || p.posPending ring then (p, 0x47)
  else
    ((p.copySlot pos ring).setSeries pos (serOf true (serDepth r) ((serHead r + 1) % serDepth r) (min (serAvail r + 1) (serDepth r))
      (serStg r) (serPv r) (serLastd r) (serRing r) (serM r) (serN r) (min (serCnt r + 1) 255)), 0)

/-- MCOMMIT in matrix order (R262). -/
def Parcel.runCommit (p : Parcel) (slot : Nat) (preds : BitVec 16) : Parcel × Nat :=
  match shadowAt p.shadows slot with
  | none => (p, 0x49)
  | some w =>
    let v := preds.getLsbD (w.extractLsb' 0 4).toNat != w.getLsbD 4
    let q := if v then
        ((slotNames slot (shadowPair w)).zip (slotNames (shadowTarget w) (shadowPair w))).foldl (fun p e => p.exchange e.1 e.2) p
      else p
    ({ q with shadows := shadowClear p.shadows slot }, 0)

/-- MDROP in matrix order (R262). -/
def Parcel.runDrop (p : Parcel) (slot : Nat) : Parcel × Nat :=
  match shadowAt p.shadows slot with
  | none => (p, 0x49)
  | some _ => ({ p with shadows := shadowClear p.shadows slot }, 0)

/-- An MMAS starts (R261): the code, or its record and, for a new shadow, the values of its target. -/
def Parcel.startMmas (p : Parcel) (b : BitVec 512) (pred : Nat) (neg : Bool) : Parcel × Nat :=
  let slot := mmaSlot b
  let name := mmaShadow b
  let pair := mmaPair b
  if shadowBad p.shadows slot pair (some (name, some (pred, neg))) then (p, 0x47)
  else
    let p := if (shadowAt p.shadows name).isSome then p
      else ((slotNames slot pair).zip (slotNames name pair)).foldl (fun p e => p.copySlot (p.position e.1) (p.position e.2)) p
    ({ p with shadows := shadowPut p.shadows name pair slot (pred, neg) }, 0)

/-- ASER in matrix order (R274): the status, with its effect. -/
def Parcel.runAser (p : Parcel) (slot ring : Nat) (control : Word) (slots : Nat) : Parcel × Nat :=
  let d := (control.extractLsb' 0 3).toNat
  let m := (control.extractLsb' 3 8).toNat
  let n := (control.extractLsb' 11 8).toNat
  let a := p.position slot
  let b := p.position ring
  let outside (v : Nat) : Bool := v == 0 || decide (128 < v)
  if control.extractLsb' 19 13 != 0 || (d != 0 && (outside m || outside n)) then (p, 0x70)
  else if d != 0 && (decide (slots < b + d) || (decide (b ≤ a) && decide (a < b + d))) then (p, 0x71)
  else if shadowPending p.shadows slot || (List.range d).any (fun i => p.posPending (b + i)) then (p, 0x47)
  else
    let r : BitVec 64 := if d = 0 then 0 else serOf true d 0 0 0 false 0 b m n 0
    ({ p.setSeries a r with flags := Tbl.put 0 p.flags a 0 }, 0)

/-- The value of AINFO (R285). -/
def Parcel.ainfo (p : Parcel) (what slot slots : Nat) : Nat :=
  match what with
  | 0 => (p.seriesAt (p.position slot)).toNat
  | 1 => match shadowAt p.shadows slot with
    | some w => (w &&& 0x80003F1F#32).toNat
    | none => 0
  | _ => slots

/-- The flag word's bit an AFLAG form names (R285). -/
def flagBit (what : Nat) : Nat := [0, 0, 1, 2, 4, 5, 7][what]?.getD 0

/-- The writes of AFLAG (R285). -/
def Parcel.aflag (p : Parcel) (what slot d : Nat) : List Write :=
  let w := Tbl.get 0 p.flags (p.position slot)
  if what = 0 then writes32 d w.toNat else writesPred d (w.getLsbD (flagBit what))

/-! ### Drains (R289, R290) -/

/-- The patterns of a drain's window, in ascending order (R289). -/
def Parcel.drainWindow (p : Parcel) (b : BitVec 256) : List Nat :=
  let size := if drainStype b = 2 then 8 else 4
  (List.range (drainM b)).flatMap (fun i => (List.range (drainN b)).map (fun j =>
    p.elem (drainSlot b) size (drainField b 42 36 + i) (drainField b 49 43 + j)))

/-- The value of a slot element. -/
def drainValue (b : BitVec 256) (pat : Nat) : Val :=
  match drainStype b with
  | 1 => .ofInt (signedOf pat 32)
  | 2 => Fmt.f64.value pat
  | _ => Fmt.f32.value pat

/-- A value rounded into the destination's format, and whether the signal box completes it (R106, R107, R289). -/
def drainRound (b : BitVec 256) (v : Val) : Nat × Bool :=
  let ty := TypeCode.ofBits (BitVec.ofNat 4 (drainFmt b))
  let mode := RMode.ofCode (drainField b 17 16)
  if ty.isInt then (wrapInt (roundInt ty.signed ty.bits mode v) ty.bits, false)
  else if ty == .f32 || ty == .f64 then ty.fmt.assisted (b.getLsbD 18) mode v
  else (ty.fmt.round mode v, false)

/-- One element of a drain: the new pattern of its destination, whose old one is `old` (R289, R290). -/
def drainElem (b : BitVec 256) (old pat : Nat) : Nat × Bool :=
  let int := drainStype b == 1
  let v := drainValue b pat
  let ty := TypeCode.ofBits (BitVec.ofNat 4 (drainFmt b))
  if !drainAdds b then drainRound b (if int && !ty.isInt then xf v else v)
  else if drainFmt b = 2 then ((old + pat) % 2 ^ 32, false)
  else if drainFmt b = 8 then drainRound b ((Fmt.f64.value old).add false v)
  else drainRound b (xf ((Fmt.f32.value old).add false (if int then xf v else v)))

/-- The places of a drain's elements, in order (R287). -/
def drainPlaces (b : BitVec 256) (w : BitVec 256) : List Nat :=
  (List.range (drainM b)).flatMap (fun i => (List.range (drainN b)).map (fun j =>
    if drainKind b = 1 then rsvAt w (drainDoff b) i j else drainDoff b + i * drainPitch b + j * drainSize b))

/-- The side a drain writes. -/
def Parcel.drainSide (p : Parcel) (b : BitVec 256) (cap : QWord) : Side × BitVec 256 :=
  match drainKind b with
  | 0 => (.spad p.key, 0)
  | 1 => match p.resv.find? (fun r => r.num == drainField b 55 50) with
    | some r => (.resv p.key r.serial, r.word)
    | none => (.resv p.key 0, 0)
  | _ => (.object ⟨p.key.ctx, capObj cap⟩ (capBase cap), 0)

/-- The ranges a drain writes. -/
def drainRanges (b w : BitVec 256) : List (Nat × Nat) := joinRanges ((drainPlaces b w).map (fun a => (a, drainSize b)))

/-- What a drain writes, from its destination's old bytes: the data, and whether the signal box completes some rounding. -/
def drainData (b w : BitVec 256) (old : Gather) (win : List Nat) : Gather × Bool :=
  let size := drainSize b
  let es := ((drainPlaces b w).zip win).map (fun e =>
    (e.1, drainElem b (if drainAdds b then gatherNat old e.1 size else 0) e.2))
  (joinData (es.map (fun e => (e.1, leBytes size e.2.1))), es.any (fun e => e.2.2))

/-- The bytes of the ordered journal that a record takes (log entry 24). -/
def journalBytes (b : BitVec 256) : Nat := 64 + roundUp (drainBytes b) 64

/-- Whether a drain goes to the ordered journal (R291). -/
def State.journals (s : State) (k : PKey) (b : BitVec 256) : Bool :=
  (match s.launch? k.launchKey with
    | some l => l.ordered
    | none => false) && drainAdds b && drainKind b == 2 && (drainFmt b == 9 || drainFmt b == 8)

/-- The bytes of a context's journal that its records take. -/
def Ctx.journalUsed (c : Ctx) : Nat := c.journal.foldl (fun n r => n + journalBytes r.blk) 0

/-- Whether the journal has room for a record (R291). -/
def Ctx.journalRoom (c : Ctx) (b : BitVec 256) : Bool := decide (c.journalUsed + journalBytes b ≤ c.jsize * 65536)

/-- A record is written behind those of its context's journal (R291, R372), which is charged (R384): the code of the write. The spec
gives a record no layout, so its bytes are free values (log entry 56). -/
def State.writeRecord (s : State) (who : Issuer) (r : JournalRec) : State × Nat :=
  let (id, s) := s.fresh
  let ctx := who.key.ctx
  let c := s.ctx ctx
  let a := c.field 383 320 + c.journalUsed
  let n := journalBytes r.blk
  match s.writeTier ctx .hbm a ((List.range n).map (Config.journalByte id)) with
  | (s, 0) => (s.modCtx ctx (fun c => { c with journal := c.journal ++ [r] }), 0)
  | (s, e) => (s.dataError who 5 0 a n e, e)

/-- Apply an add-on-store or a store to a global object at once (R290): the code. -/
def State.drainObject (s : State) (who : Issuer) (b : BitVec 256) (cap : QWord) (win : List Nat) : State × Nat :=
  let o : OKey := ⟨who.key.ctx, capObj cap⟩
  match (if drainAdds b then s.gather who 5 (.object o (capBase cap)) (drainRanges b 0) else (s, .ok [])) with
  | (s, .error e) => (s, e)
  | (s, .ok old) => s.scatter who 5 o (capBase cap) false (drainData b 0 old win).1

/-- Whether the signal box completes some rounding of a drain, as its destination stands. -/
def State.drainAssists (s : State) (k : PKey) (b : BitVec 256) (cap : QWord) (win : List Nat) : Bool :=
  let side := (s.parcel k).drainSide b cap
  let old : Gather := if !drainAdds b then [] else
    match (s.gather ⟨k, 0, 0, s.coreOf k⟩ 5 side.1 (drainRanges b side.2)).2 with
    | .ok g => g
    | .error _ => []
  (drainData b side.2 old win).2

end Sys2Proof.Machine
end

