-- ==== Sys2Proof/Machine/Capability.lean ====
section
/-!
DEFINITION. The capability instructions that touch no memory (R215, R216).
-/

namespace Sys2Proof.Machine

/-- The capability register a field names. -/
def Thread.capField (t : Thread) (f : BitVec 9) : QWord := t.cap (f.toNat % 8)

/-- KDERIVE (R216). -/
def execKderive (x : RWord) (s : State) : Host.Outcome State Fault Refusal :=
  issue (.kderive x) (arithBody (Instr.kderive x).sig (fun t =>
    let k := t.capField x.a
    let off := t.d64 x.b x.zb
    let len := t.d64 x.c x.zc
    if capObj k = 0 then .error (.capv 1 off)
    else if !(capRights k).testBit 4 then .error (.capv 2 off)
    else if capLen k < off + len then .error (.capv 6 off)
    else .ok (t.setCap (x.d.toNat % 8) (capOf (capObj k) (capRights k) (capBase k + off) len)))) s

/-- KRIGHTS (R216). -/
def execKrights (x : RWord) (s : State) : Host.Outcome State Fault Refusal :=
  issueArith (.krights x) (fun t =>
    let k := t.capField x.a
    t.setCap (x.d.toNat % 8) (capOf (capObj k) (capRights k &&& t.u x.b x.zb % 256) (capBase k) (capLen k))) s

/-- KINFO (R216). -/
def execKinfo (x : RWord) (s : State) : Host.Outcome State Fault Refusal :=
  issueArith (.kinfo x) (fun t =>
    let k := t.capField x.a
    match x.v.toNat with
    | 0 => t.out32 x.d (capObj k)
    | 1 => t.out32 x.d (capRights k)
    | 2 => t.out64 x.d (capBase k)
    | _ => t.out64 x.d (capLen k)) s

/-- KCHK (R216). -/
def execKchk (x : RWord) (s : State) : Host.Outcome State Fault Refusal :=
  issueArith (.kchk x) (fun t =>
    let k := t.capField x.a
    let inb := capObj k != 0 && decide (t.d64 x.b x.zb + t.d64 x.c x.zc ≤ capLen k)
    t.out32 x.d (bit (capObj k != 0) * 512 + bit inb * 256 + (if inb then capRights k else 0))) s

end Sys2Proof.Machine
end

