-- ==== Sys2Proof/Machine/Float.lean ====
section
/-!
DEFINITION. The floating-point instructions (R165 to R169).
-/

namespace Sys2Proof
open Machine

/-- The rounding mode that V names (R69, R165). -/
def RWord.mode (x : RWord) : RMode := RMode.ofCode x.v.toNat
/-- Whether V names rounding toward −∞, which gives a cancelled zero its sign (R86). -/
def RWord.down (x : RWord) : Bool := x.v == 3

end Sys2Proof

namespace Sys2Proof.Machine

/-- The value in field a. -/
def Thread.numA (t : Thread) (x : RWord) : Val := t.num x.a x.za x.ty
/-- The value in field b. -/
def Thread.numB (t : Thread) (x : RWord) : Val := t.num x.b x.zb x.ty
/-- The value in field c. -/
def Thread.numC (t : Thread) (x : RWord) : Val := t.num x.c x.zc x.ty
/-- Out(d, Round(e, t, mode), t) (R166). -/
def Thread.outNum (t : Thread) (x : RWord) (e : Val) : Thread := t.out x.d x.ty (x.ty.fmt.round x.mode e)

/-- x is below y in the order of FMIN and FMAX, in which −0 < +0 (R168). -/
def belowZero (x y : Val) : Bool := x.lt y || (x.eq y && x.isNeg && !y.isNeg)

/-- FMIN and FMAX on patterns: the chosen operand's pattern, the other where one is NaN, the canonical NaN where both are
(R168). -/
def pickBits (ty : TypeCode) (larger : Bool) (a b : Nat) : Nat :=
  let x := ty.fmt.value a
  let y := ty.fmt.value b
  if x == .nan then (if y == .nan then ty.fmt.nan else b)
  else if y == .nan then a
  else if belowZero x y != larger then a else b

/-- FADD: the exact result rounded once (R166, R167). -/
def execFadd (x : RWord) (s : State) : Host.Outcome State Fault Refusal :=
  issueArith (.fadd x) (fun t => t.outNum x (Val.add x.down (t.numA x) (t.numB x))) s

/-- FSUB: the exact result rounded once (R166, R167). -/
def execFsub (x : RWord) (s : State) : Host.Outcome State Fault Refusal :=
  issueArith (.fsub x) (fun t => t.outNum x (Val.add x.down (t.numA x) (t.numB x).neg)) s

/-- FMUL: the exact result rounded once (R166, R167). -/
def execFmul (x : RWord) (s : State) : Host.Outcome State Fault Refusal :=
  issueArith (.fmul x) (fun t => t.outNum x ((t.numA x).mul (t.numB x))) s

/-- FFMA: the exact result rounded once (R166, R167). -/
def execFfma (x : RWord) (s : State) : Host.Outcome State Fault Refusal :=
  issueArith (.ffma x) (fun t => t.outNum x (Val.add x.down ((t.numA x).mul (t.numB x)) (t.numC x))) s

/-- FDIV: the exact result rounded once (R166, R167). -/
def execFdiv (x : RWord) (s : State) : Host.Outcome State Fault Refusal :=
  issueArith (.fdiv x) (fun t => t.outNum x ((t.numA x).div (t.numB x))) s

/-- FSQRT: the exact result rounded once (R166, R167). -/
def execFsqrt (x : RWord) (s : State) : Host.Outcome State Fault Refusal :=
  issueArith (.fsqrt x) (fun t => t.outNum x ((t.numA x).sqrt)) s

/-- FRCP: the exact result rounded once (R166, R167). -/
def execFrcp (x : RWord) (s : State) : Host.Outcome State Fault Refusal :=
  issueArith (.frcp x) (fun t => t.outNum x (Val.one.div (t.numA x))) s

/-- FRSQ: the exact result rounded once (R166, R167). -/
def execFrsq (x : RWord) (s : State) : Host.Outcome State Fault Refusal :=
  issueArith (.frsq x) (fun t => t.outNum x ((t.numA x).rsqrt)) s

/-- FSCALE: the exact result rounded once (R166, R167). -/
def execFscale (x : RWord) (s : State) : Host.Outcome State Fault Refusal :=
  issueArith (.fscale x) (fun t => t.outNum x ((t.numA x).scale (signedOf (t.u x.b x.zb) 32))) s

/-- FMIN (R168). -/
def execFmin (x : RWord) (s : State) : Host.Outcome State Fault Refusal :=
  issueArith (.fmin x) (fun t => t.out x.d x.ty (pickBits x.ty false (t.bits x.a x.za x.ty) (t.bits x.b x.zb x.ty))) s

/-- FMAX (R168). -/
def execFmax (x : RWord) (s : State) : Host.Outcome State Fault Refusal :=
  issueArith (.fmax x) (fun t => t.out x.d x.ty (pickBits x.ty true (t.bits x.a x.za x.ty) (t.bits x.b x.zb x.ty))) s

/-- FEXP2, correctly rounded (R166, R167). -/
def execFexp2 (x : RWord) (s : State) : Host.Outcome State Fault Refusal :=
  issueArith (.fexp2 x) (fun t => t.out x.d x.ty (roundExp2 x.ty.fmt x.mode (t.numA x))) s

/-- FLOG2, correctly rounded (R166, R167). -/
def execFlog2 (x : RWord) (s : State) : Host.Outcome State Fault Refusal :=
  issueArith (.flog2 x) (fun t => t.out x.d x.ty (roundLog2 x.ty.fmt x.mode (t.numA x))) s

/-- FSIN, correctly rounded (R166, R167). -/
def execFsin (x : RWord) (s : State) : Host.Outcome State Fault Refusal :=
  issueArith (.fsin x) (fun t => t.out x.d x.ty (roundSinCos 0 x.ty.fmt x.mode (t.numA x))) s

/-- FCOS, correctly rounded (R166, R167). -/
def execFcos (x : RWord) (s : State) : Host.Outcome State Fault Refusal :=
  issueArith (.fcos x) (fun t => t.out x.d x.ty (roundSinCos 1 x.ty.fmt x.mode (t.numA x))) s

/-- FCLASS (R169). -/
def execFclass (x : RWord) (s : State) : Host.Outcome State Fault Refusal :=
  issueArith (.fclass x) (fun t => t.out32 x.d (2 ^ classOf x.ty.fmt (t.bits x.a x.za x.ty))) s

end Sys2Proof.Machine
end

