-- ==== Sys2Proof/Machine/SetData.lean ====
section
/-!
DEFINITION. The values of sets (R303 to R306, R313 to R315): members as maximal runs, the representations and their sizes,
hash tables, the policy P, the algorithms and their cycles. Nothing here knows of handles or of stores.
-/

namespace Sys2Proof.Machine

/-! ### Members as runs (start, length), in rising order, no two adjacent -/

/-- n. -/
def runsCount (r : List (Nat × Nat)) : Nat := r.foldl (fun n p => n + p.2) 0

/-- Membership. -/
def runsHas (x : Nat) (r : List (Nat × Nat)) : Bool := r.any (fun p => decide (p.1 ≤ x) && decide (x < p.1 + p.2))

/-- Put a run before runs that start no earlier, joining what touches it. -/
def runsCons (s l : Nat) : List (Nat × Nat) → List (Nat × Nat)
  | [] => [(s, l)]
  | (t, m) :: rest => if t ≤ s + l then runsCons s (max l (t + m - s)) rest else (s, l) :: (t, m) :: rest

/-- The maximal runs of runs in any order. -/
def runsNormal (r : List (Nat × Nat)) : List (Nat × Nat) :=
  (sortBy (fun a b => decide (b.1 ≤ a.1)) (r.filter (fun p => p.2 != 0))).foldl (fun acc p => runsCons p.1 p.2 acc) []

/-- A ∪ B. -/
def runsUnion (a b : List (Nat × Nat)) : List (Nat × Nat) := runsNormal (a ++ b)

/-- A ∩ B. -/
def runsInter (a b : List (Nat × Nat)) : List (Nat × Nat) :=
  runsNormal (a.flatMap (fun p => b.map (fun q => (max p.1 q.1, min (p.1 + p.2) (q.1 + q.2) - max p.1 q.1))))

/-- A − B. -/
def runsDiff (a b : List (Nat × Nat)) : List (Nat × Nat) :=
  runsNormal (b.foldl (fun a q => a.flatMap (fun p =>
    [(p.1, min (p.1 + p.2) q.1 - p.1), (max p.1 (q.1 + q.2), p.1 + p.2 - max p.1 (q.1 + q.2))].filter (fun r => r.2 != 0))) a)

/-- The members with x. -/
def runsInsert (x : Nat) (r : List (Nat × Nat)) : List (Nat × Nat) := if runsHas x r then r else runsNormal ((x, 1) :: r)

/-- The members without x. -/
def runsDelete (x : Nat) (r : List (Nat × Nat)) : List (Nat × Nat) := if runsHas x r then runsDiff r [(x, 1)] else r

/-- The smallest member at or above x. -/
def runsNext (x : Nat) (r : List (Nat × Nat)) : Option Nat :=
  (r.find? (fun p => decide (x < p.1 + p.2))).map (fun p => max x p.1)

/-- The k smallest members, in ascending order. -/
def runsTake : Nat → List (Nat × Nat) → List Nat
  | _, [] => []
  | k, (s, l) :: rest => (List.range (min k l)).map (fun i => s + i) ++ runsTake (k - l) rest

/-- Every member, in ascending order. -/
def runsMembers (r : List (Nat × Nat)) : List Nat := runsTake (runsCount r) r

/-- The runs of a list of members. -/
def runsOf (xs : List Nat) : List (Nat × Nat) := runsNormal (xs.map (fun x => (x, 1)))

/-- lo (R306). -/
def runsLo (r : List (Nat × Nat)) : Nat := (r.head?.map (fun p => p.1)).getD 0

/-- hi (R306). -/
def runsHi (r : List (Nat × Nat)) : Nat := (r.getLast?.map (fun p => p.1 + p.2 - 1)).getD 0

/-- The members a bitmap over `%tix` holds (R137). -/
def runsOfBits (n : Nat) (b : BitVec n) : List (Nat × Nat) := runsOf ((List.range n).filter (fun i => b.getLsbD i))

/-! ### Hash tables (R304) -/

/-- A bucket with nothing in it. -/
def Bucket.empty : Bucket := ⟨List.replicate 16 none, false⟩

/-- K. -/
def Hash.k (h : Hash) : Nat := 2 ^ h.b

/-- Bucket i. -/
def Hash.bucket (h : Hash) (i : Nat) : Bucket := Tbl.get Bucket.empty h.buckets i

/-- Replace bucket i. -/
def Hash.setBucket (h : Hash) (i : Nat) (b : Bucket) : Hash := { h with buckets := Tbl.put Bucket.empty h.buckets i b }

/-- The home bucket of x. -/
def Hash.home (h : Hash) (x : Nat) : Nat := if h.b = 0 then 0 else x * 0x9E3779B1 % 2 ^ 32 / 2 ^ (32 - h.b)

/-- Whether a bucket holds x. -/
def Bucket.holds (b : Bucket) (x : Nat) : Bool := b.slots.contains (some x)

/-- Whether a bucket has no free slot. -/
def Bucket.full (b : Bucket) : Bool := b.slots.all (fun s => s.isSome)

/-- The search for x from the i-th bucket of its sequence on: the bucket that holds it, and how many buckets were read. -/
def Hash.searchFrom (h : Hash) (x : Nat) : Nat → Nat → Option Nat × Nat
  | 0, i => (none, i)
  | fuel + 1, i =>
    let at' := (h.home x + i) % h.k
    if (h.bucket at').holds x then (some at', i + 1)
    else if !(h.bucket at').ovf then (none, i + 1)
    else h.searchFrom x fuel (i + 1)

/-- The search for x. -/
def Hash.search (h : Hash) (x : Nat) : Option Nat × Nat := h.searchFrom x h.k 0

/-- E of a search. -/
def Hash.extra (h : Hash) (x : Nat) : Nat := (h.search x).2 - 1

/-- The search for a free slot from the i-th bucket on: its place in the sequence, if there is one, and the buckets read. -/
def Hash.roomFrom (h : Hash) (x : Nat) : Nat → Nat → Option Nat × Nat
  | 0, i => (none, i)
  | fuel + 1, i => if (h.bucket ((h.home x + i) % h.k)).full then h.roomFrom x fuel (i + 1) else (some i, i + 1)

/-- Put x into the lowest free slot of the i-th bucket of its sequence, and set OVF in the full buckets before it. -/
def Hash.place (h : Hash) (x i : Nat) : Hash :=
  let h := (List.range i).foldl (fun h j =>
    let at' := (h.home x + j) % h.k
    h.setBucket at' { h.bucket at' with ovf := true }) h
  let at' := (h.home x + i) % h.k
  let b := h.bucket at'
  h.setBucket at' { b with slots := b.slots.set (b.slots.findIdx (fun s => s.isNone)) (some x) }

/-- An insertion of a new x into a table with room. -/
def Hash.add (h : Hash) (x : Nat) : Hash :=
  match (h.roomFrom x h.k 0).1 with
  | some i => h.place x i
  | none => h

/-- A table of 2^b buckets with some members inserted in ascending order, doubled while one of them finds no slot. -/
def Hash.buildAt (members : List Nat) : Nat → Nat → Hash
  | 0, b => ⟨b, []⟩
  | fuel + 1, b =>
    let r := members.foldl (fun (r : Hash × Bool) x =>
      if r.2 then r else if (r.1.roomFrom x r.1.k 0).1.isNone then (r.1, true) else (r.1.add x, false)) (⟨b, []⟩, false)
    if r.2 then Hash.buildAt members fuel (b + 1) else r.1

/-- The smallest b with n ≤ 8 × 2^b. -/
def buildBits (n : Nat) : Nat := ((List.range 27).find? (fun b => decide (n ≤ 8 * 2 ^ b))).getD 26

/-- A build from members (R304). -/
def Hash.build (members : List Nat) : Hash := Hash.buildAt members 27 (buildBits members.length)

/-- An insertion of x, which may be a member: the table and E. `members` are those before it. -/
def Hash.insert (h : Hash) (members : List Nat) (x : Nat) : Hash × Nat :=
  let s := h.search x
  let room := h.roomFrom x h.k 0
  let e := max s.2 room.2 - 1
  match s.1, room.1 with
  | some _, _ => (h, e)
  | none, some i => (h.place x i, e)
  | none, none => ((Hash.buildAt members 27 (h.b + 1)).add x, e)

/-- A deletion of x: the table and E. -/
def Hash.delete (h : Hash) (x : Nat) : Hash × Nat :=
  let s := h.search x
  match s.1 with
  | none => (h, s.2 - 1)
  | some i =>
    let b := h.bucket i
    (h.setBucket i { b with slots := b.slots.map (fun y => if y == some x then none else y) }, s.2 - 1)

/-- The rebuild after a batch: n above 12K doubles, n below 2K halves (R304). -/
def Hash.resize (h : Hash) (members : List Nat) : Hash :=
  let n := members.length
  if 12 * h.k < n then Hash.buildAt members 27 (h.b + 1)
  else if n < 2 * h.k && 0 < h.b then Hash.buildAt members 27 (h.b - 1)
  else h

/-! ### A set as an operand -/

/-- What the algorithms read of a set or of a consist. -/
structure SetView where
  runs : List (Nat × Nat)
  rep : Nat
  winBase : Nat
  winLen : Nat
  hash : Hash
  deriving DecidableEq, Repr

/-- The view of a set. -/
def SetRec.view (r : SetRec) : SetView := ⟨r.runs, r.rep, r.winBase, r.winLen, r.hash⟩

/-- A consist as a bitmap with base 0 and length 1,024 (R297). -/
def consistView (b : BitVec 1024) : SetView := ⟨runsOfBits 1024 b, 1, 0, 1024, ⟨0, []⟩⟩

/-- Lmin (R306). -/
def minWindow (runs : List (Nat × Nat)) : Nat := (runsHi runs / 32 - runsLo runs / 32 + 1) * 32

/-- P (R306). -/
def policy (n rho len : Nat) : Nat :=
  if n = 0 then 0
  else if 8 * rho ≤ n then 3
  else if len ≤ 16 * n && len ≤ 2 ^ 20 then 1
  else if n ≤ 4096 then 2
  else 4

/-- P of members. -/
def policyOf (runs : List (Nat × Nat)) : Nat := policy (runsCount runs) runs.length (minWindow runs)

/-- The bytes of a representation of a set, held or not (R305). -/
def SetView.bytes (v : SetView) (rep : Nat) : Nat :=
  match rep with
  | 1 => if v.rep = 1 then v.winLen / 8 else if v.runs.isEmpty then 0 else minWindow v.runs / 8
  | 2 => 4 * runsCount v.runs
  | 3 => 8 * v.runs.length
  | 4 => 68 * (if v.rep = 4 then v.hash.k else 2 ^ buildBits (runsCount v.runs))
  | _ => 0

/-- The bytes of the representation held. -/
def SetView.held (v : SetView) : Nat := v.bytes v.rep

/-- A build of members in a representation (R304, R306). -/
def buildView (rep : Nat) (runs : List (Nat × Nat)) : SetView :=
  { runs := runs, rep := rep,
    winBase := if rep = 1 then runsLo runs / 32 * 32 else 0,
    winLen := if rep = 1 then minWindow runs else 0,
    hash := if rep = 4 then Hash.build (runsMembers runs) else ⟨0, []⟩ }

/-! ### Algorithms and cycles (R313 to R315) -/

/-- lg(x) = ⌈log2(x + 1)⌉. -/
def bitLen (x : Nat) : Nat := if x = 0 then 0 else Nat.log2 x + 1

/-- The two-operand operations, by the V of SCOST: 0 SUNI, 1 SINT, 2 SDIF. -/
def pairResult (op : Nat) (a b : SetView) : List (Nat × Nat) :=
  match op with
  | 0 => runsUnion a.runs b.runs
  | 1 => runsInter a.runs b.runs
  | _ => runsDiff a.runs b.runs

/-- ALG and its cycles with E = 0 (R313). -/
def pairCost (op : Nat) (a b : SetView) : Nat × Nat :=
  let na := runsCount a.runs
  let nb := runsCount b.runs
  let wa := a.winLen / 32
  let ns := min na nb
  let nl := max na nb
  let pick (rep : Nat) : SetView := if a.rep = rep then a else b
  let nOf (rep : Nat) : Nat := runsCount (pick rep).runs
  let wB := ceilDiv ((pick 1).winLen / 32) 8
  let rU := (pick 3).runs.length
  let kH := (pick 4).hash.k
  let diff := op == 2
  if a.rep = 0 || b.rep = 0 then
    let other := if a.rep = 0 then b else a
    (0, if op = 1 || (diff && a.rep == 0) then 24 else 24 + ceilDiv other.held 64)
  else match min a.rep b.rep, max a.rep b.rep with
    | 1, 1 =>
      let overlap := (min (a.winBase + a.winLen) (b.winBase + b.winLen) - max a.winBase b.winBase) / 32
      let cover := (max (a.winBase + a.winLen) (b.winBase + b.winLen) - min a.winBase b.winBase) / 32
      (1, 24 + ceilDiv (if op = 1 then overlap else if op = 0 then cover else wa) 8)
    | 2, 2 =>
      if op = 0 then (2, 24 + na + nb)
      else if op = 1 then (if nl ≤ 16 * ns then (2, 24 + na + nb) else (3, 24 + ns * (1 + bitLen nl)))
      else if 16 * na < nb then (3, 24 + na * (1 + bitLen nb)) else (2, 24 + na + nb)
    | 3, 3 => (4, 24 + a.runs.length + b.runs.length)
    | 4, 4 =>
      let ks := if na ≤ nb then a.hash.k else b.hash.k
      (5, if op = 1 then 24 + ks + 2 * ns else if op = 0 then 24 + a.hash.k + b.hash.k + 2 * ns else 24 + a.hash.k + 2 * na)
    | 1, 2 =>
      (6, if op = 1 then 24 + nOf 2 else if op = 0 then 24 + wB + nOf 2
          else if a.rep = 1 then 24 + ceilDiv wa 8 + nb else 24 + na)
    | 1, 3 => (7, 24 + wB + rU)
    | 1, 4 =>
      (8, if op = 1 then 24 + kH + nOf 4 else if op = 0 then 24 + wB + kH + nOf 4
          else if a.rep = 1 then 24 + ceilDiv wa 8 + b.hash.k + nb else 24 + a.hash.k + na)
    | 2, 3 => (9, 24 + nOf 2 + rU)
    | 2, 4 =>
      if op = 1 then (10, 24 + 2 * nOf 2)
      else if op = 0 then (10, 24 + kH + nOf 2 + nOf 4)
      else if a.rep = 2 then (10, 24 + 2 * na)
      else (11, 24 + a.hash.k + na * (1 + bitLen nb))
    | _, _ => (12, 24 + rU + kH + nOf 4 * (1 + bitLen rU))

/-- E of a two-operand request: the members probed into the hash operand (R313). -/
def pairProbes (op : Nat) (a b : SetView) : Nat :=
  let probe (src dst : SetView) : Nat := (runsMembers src.runs).foldl (fun n x => n + dst.hash.extra x) 0
  if a.rep = 4 && b.rep = 4 then
    if op = 2 || runsCount a.runs ≤ runsCount b.runs then probe a b else probe b a
  else if a.rep = 2 && b.rep = 4 && op != 0 then probe a b
  else if a.rep = 4 && b.rep = 2 && op == 1 then probe b a
  else 0

/-- The predicted result representation (R315). -/
def pairPredict (op : Nat) (a b : SetView) : Nat :=
  if a.runs.isEmpty || b.runs.isEmpty then policyOf (pairResult op a b)
  else
    let na := runsCount a.runs
    let nb := runsCount b.runs
    let ra := a.runs.length
    let rb := b.runs.length
    let window (lo hi : Nat) : Nat := (hi / 32 - lo / 32 + 1) * 32
    match op with
    | 0 => policy (na + nb) (ra + rb) (window (min (runsLo a.runs) (runsLo b.runs)) (max (runsHi a.runs) (runsHi b.runs)))
    | 1 =>
      let lo := max (runsLo a.runs) (runsLo b.runs)
      let hi := min (runsHi a.runs) (runsHi b.runs)
      if hi < lo then 0 else policy (min na nb) (min ra rb) (window lo hi)
    | _ => policy na (ra + rb) (window (runsLo a.runs) (runsHi a.runs))

end Sys2Proof.Machine
end

