-- ==== Sys2Proof/Machine/SetStore.lean ====
section
/-!
DEFINITION. Set handles and the set store: indices and generations (R296, R297), the near-handle table and the blocks of a
core (R300, R302), and consists as the store holds them (R137).
-/

namespace Sys2Proof.Machine

/-! ### Handles -/

/-- The index of a handle (R296). -/
def handleIndex (h : Word) : Nat := h.toNat % 2 ^ 20

/-- The generation of a handle (R296). -/
def handleGen (h : Word) : Nat := h.toNat / 2 ^ 20

/-- A handle from its generation and index. -/
def handleOf (gen index : Nat) : Word := BitVec.ofNat 32 (gen % 4096 * 2 ^ 20 + index % 2 ^ 20)

/-- The handle that the next use of an index bears. -/
def Launch.handleAt (x : Launch) (index : Nat) : Word := handleOf (Tbl.get 1 x.pool.gens index) index

/-- An index is freed: its generation rises by 1 modulo 4,096 (R296). -/
def State.releaseIndex (s : State) (l : LKey) (index : Nat) : State :=
  s.modLaunch l (fun x => { x with
    pool := { x.pool with gens := Tbl.put 1 x.pool.gens index ((Tbl.get 1 x.pool.gens index + 1) % 4096) } })

/-- The set a handle names, if it is not stale (R297). -/
def State.setRec? (s : State) (l : LKey) (h : Word) : Option SetRec :=
  match s.launch? l with
  | none => none
  | some x => if h = 0 then none else x.sets.find? (fun r => r.index == handleIndex h && r.gen == handleGen h)

/-- Change the set with an index. -/
def State.modSet (s : State) (l : LKey) (index : Nat) (f : SetRec → SetRec) : State :=
  s.modLaunch l (fun x => { x with sets := x.sets.map (fun r => if r.index = index then f r else r) })

/-- The consist a handle names in a parcel (R138). -/
def Parcel.consist? (p : Parcel) (h : Word) : Option Consist := if h = 0 then none else p.consists.find? (fun c => c.handle == h)

/-- The consist a handle names in a parcel of the device. -/
def State.consist? (s : State) (k : PKey) (h : Word) : Option Consist :=
  match s.parcel? k with
  | some p => p.consist? h
  | none => none

/-- Change a consist. -/
def State.modConsist (s : State) (k : PKey) (h : Word) (f : Consist → Consist) : State :=
  s.modParcel k (fun p => { p with consists := p.consists.map (fun c => if c.handle = h then f c else c) })

/-! ### Room (R300, R302) -/

/-- The blocks of an area (R300). -/
def blocksOf (bytes : Nat) : Nat := ceilDiv bytes 64

/-- The bytes of the area a conversion builds (R305). -/
def SetRec.newBytes (r : SetRec) (c : Conv) : Nat := ({ r.view with runs := c.base }).bytes c.target

/-- The blocks a near set holds: during a conversion, the old and the new area (R300). -/
def SetRec.blocks (r : SetRec) : Nat :=
  blocksOf r.view.held + (match r.conv with
    | some c => blocksOf (r.newBytes c)
    | none => 0)

/-- The near sets held on a core. -/
def State.nearSets (s : State) (core : Nat) : List SetRec :=
  s.launches.flatMap (fun x => x.sets.filter (fun r => r.home == core && !r.far && !r.pending))

/-- The consists held on a core. -/
def State.consistsOn (s : State) (core : Nat) : List Consist := (s.residents core).flatMap (fun p => p.consists)

/-- The near handles in use on a core; those freed in this cycle are not allotted in it (R27). -/
def State.handlesUsed (s : State) (core : Nat) : Nat :=
  (s.nearSets core).length + (s.consistsOn core).length + ((s.late core).map (fun f => f.sets.length + f.consists)).sum

/-- Whether the near-handle table of a core has a free entry (R300: 4,096). -/
def State.nearRoom (s : State) (core : Nat) : Bool := decide (s.handlesUsed core < 4096)

/-- The blocks of some near sets and of some consists; a consist takes 2 (R300). -/
def storeBlocks (sets : List SetRec) (consists : Nat) : Nat := (sets.map SetRec.blocks).sum + 2 * consists

/-- The set-store blocks in use on a core; those freed in this cycle are not allotted in it (R27). -/
def State.blocksUsed (s : State) (core : Nat) : Nat :=
  storeBlocks (s.nearSets core) (s.consistsOn core).length + ((s.late core).map (fun f => storeBlocks f.sets f.consists)).sum

/-! ### Consists (R137, R142) -/

/-- The bitmap of some `%tix` values. -/
def bitmapOf (tixs : List Nat) : BitVec 1024 := tixs.foldl (fun b t => b ||| ((1#1024) <<< t)) 0

/-- The members of a consist in rank order (R137). -/
def Consist.ranks (c : Consist) : List Nat := (List.range 1024).filter (fun t => c.members.getLsbD t)

/-- Whether a `%tix` is a member. -/
def Consist.has (c : Consist) (tix : Nat) : Bool := c.members.getLsbD tix

/-- Whether a core has room for n consists more: the near-handle table and the set store (R142, R300). -/
def State.consistRoom (s : State) (core n : Nat) : Bool :=
  decide (s.handlesUsed core + n ≤ 4096) && decide (s.blocksUsed core + 2 * n ≤ 8192)

/-- CNEW for some members: the handle, 0 where the core has no room or its die no index (R142, R302). -/
def State.newConsist (s : State) (core : Nat) (k : PKey) (tixs : List Nat) : State × Word :=
  match s.launch? k.launchKey, s.freeIndex k.launchKey core with
  | some x, some i =>
    if s.consistRoom core 1 then
      let h := x.handleAt i
      (s.modParcel k (fun p => { p with consists := p.consists ++ [⟨h, bitmapOf tixs, none, 0⟩] }), h)
    else (s, 0)
  | _, _ => (s, 0)

/-- Remove a consist: its handle becomes stale (R142, R329), and what it held is allotted again from the next cycle on (R27). -/
def State.dropConsist (s : State) (k : PKey) (h : Word) : State :=
  let s := s.noteFreed (s.coreOf k) { s.nothingFreed k.ctx with consists := 1 }
  (s.modParcel k (fun p => { p with consists := p.consists.filter (fun c => c.handle != h) })).releaseIndex k.launchKey (handleIndex h)

end Sys2Proof.Machine
end

