-- ==== Sys2Proof/Machine/SetEngine.lean ====
section
/-!
DEFINITION. The set engine (R298 to R328): mutation batches and conversions (R307 to R312), where sets lie (R300 to R302), the
failure codes (R318), what each request does at its place in set-engine order or in its lap (R319 to R326), and the engine's
steps.
-/

namespace Sys2Proof.Machine

/-! ### One mutation (R303, R304, R309) -/

/-- A mutation as a representation takes it. -/
structure Mutated where
  view : SetView
  extra : Nat
  widened : Bool
  deriving DecidableEq, Repr

/-- The window of a bitmap widened to cover x; length 0 where it would pass 2^20 (R309), until the batch's end rebuilds it. -/
def SetView.widen (v : SetView) (x : Nat) : SetView :=
  let lo := min v.winBase (x / 32 * 32)
  let hi := max (v.winBase + v.winLen) (x / 32 * 32 + 32)
  if v.winLen = 0 then v
  else if hi - lo ≤ 2 ^ 20 then { v with winBase := lo, winLen := hi - lo }
  else { v with winBase := 0, winLen := 0 }

/-- Whether x lies outside a bitmap's window. -/
def SetView.outside (v : SetView) (x : Nat) : Bool := v.rep == 1 && (decide (x < v.winBase) || decide (v.winBase + v.winLen ≤ x))

/-- One SINS (`ins`) or SDEL: the set, E, and whether the window widened. -/
def SetView.mutate (v : SetView) (ins : Bool) (x : Nat) : Mutated :=
  let runs := if ins then runsInsert x v.runs else runsDelete x v.runs
  if v.rep = 4 then
    let h := if ins then v.hash.insert (runsMembers v.runs) x else v.hash.delete x
    ⟨{ v with runs := runs, hash := h.1 }, h.2, false⟩
  else if ins && v.outside x then ⟨{ v.widen x with runs := runs }, 0, true⟩
  else ⟨{ v with runs := runs }, 0, false⟩

/-- Several mutations, in order. -/
def SetView.mutateAll (v : SetView) (l : List (Bool × Nat)) : Mutated :=
  l.foldl (fun m e => let n := m.view.mutate e.1 e.2; ⟨n.view, m.extra + n.extra, m.widened || n.widened⟩) ⟨v, 0, false⟩

/-- A set with other members and another representation. -/
def SetRec.withView (r : SetRec) (v : SetView) : SetRec :=
  { r with runs := v.runs, rep := v.rep, winBase := v.winBase, winLen := v.winLen, hash := v.hash }

/-! ### Mutation batches (R307 to R312) -/

/-- A set after a batch, the extra probes it made and the conversions it counts. -/
structure Batched where
  set : SetRec
  extra : Nat
  conversions : Nat
  deriving DecidableEq, Repr

/-- The switch (R310 step 3), immediately before the second batch after the one that started the conversion. -/
def SetRec.switch (r : SetRec) : Batched :=
  match r.conv with
  | some c => if c.later then ⟨{ r.withView ((buildView c.target c.base).mutateAll c.log).view with conv := none }, 0, 1⟩ else ⟨r, 0, 0⟩
  | none => ⟨r, 0, 0⟩

/-- The pin a set keeps: a bitmap pin is released where an insertion takes the window past 2^20 bits (R312), which leaves the
bitmap without a window until the batch's end, or where a bitmap of the members would pass them. -/
def SetRec.keptPin (r : SetRec) : Option Nat :=
  if r.pin = some 1 && (decide (2 ^ 20 < minWindow r.runs) || (r.rep == 1 && r.winLen == 0)) then none else r.pin

/-- A forced build (R309, R312): empty, the pinned representation, or P. -/
def SetRec.forcedBuild (r : SetRec) : SetRec :=
  let pin := if r.runs.isEmpty then r.pin else r.keptPin
  let rep := if r.runs.isEmpty then 0 else pin.getD (policyOf r.runs)
  { r.withView (buildView rep r.runs) with pin := pin, conv := none, miss := 0, tgt := 0 }

/-- R308, on a set that is neither converting nor pinned. -/
def SetRec.judge (r : SetRec) : SetRec :=
  let t := policyOf r.runs
  let start : SetRec := { r with conv := some ⟨t, r.runs, [], false, false⟩, miss := 0, tgt := 0 }
  if t = r.rep then { r with miss := 0, tgt := 0 }
  else if 4 * r.view.bytes t ≤ 3 * r.view.held then start
  else if r.miss = 1 && r.tgt == t then start
  else { r with miss := 1, tgt := t }

/-- What follows a batch on a set: R308, or the end of the batch after the one that started a conversion (R310 step 2). -/
def SetRec.follow (r : SetRec) : SetRec :=
  match r.conv with
  | some c => { r with conv := some { c with later := true } }
  | none => if r.pin.isSome then r else r.judge

/-- The forced conversions, which are made within a batch (R309), and how many they are. -/
def SetRec.forced (r : SetRec) (wasEmpty widened : Bool) : SetRec × Nat :=
  if (r.runs.isEmpty && r.rep != 0) || (wasEmpty && !r.runs.isEmpty) || (r.rep == 1 && r.winLen == 0) then (r.forcedBuild, 1)
  else if widened then ({ r with conv := none, miss := 0, tgt := 0 }, 1)
  else (r, 0)

/-- The mutations of a batch on a set, after the switch that comes immediately before them (R310 step 3): the set, whether it was
empty and whether a window widened. -/
def SetRec.mutated (r : SetRec) (ins : Bool) (xs : List Nat) : SetRec × Mutated :=
  let log := xs.map (fun x => (ins, x))
  let m := r.view.mutateAll log
  ({ r.withView m.view with conv := r.conv.map (fun c => { c with log := c.log ++ log }) }, m)

/-- A set as the first mutations of a batch leave it at their numbers, with the conversions that they force (R307, R309). -/
def SetRec.partly (r : SetRec) (ins : Bool) (xs : List Nat) : Batched :=
  let w := r.switch
  let m := w.set.mutated ins xs
  let e := m.1.forced w.set.runs.isEmpty m.2.widened
  ⟨e.1, m.2.extra, w.conversions + e.2⟩

/-- The end of a batch on a set (R307): the resize of a hash that nothing has built anew (R304), then R308 and R310. -/
def SetRec.endBatch (r : SetRec) (built : Bool) : SetRec :=
  if r.rep = 4 && !built then SetRec.follow { r with hash := r.hash.resize (runsMembers r.runs) } else r.follow

/-- A mutation batch (R307). -/
def SetRec.batch (r : SetRec) (ins : Bool) (xs : List Nat) : Batched :=
  let m := r.partly ins xs
  ⟨m.set.endBatch (m.conversions != r.switch.conversions), m.extra, m.conversions⟩

/-! ### Where a set lies (R300 to R302) -/

/-- The far-set object of a context (R301). -/
def State.farObject (s : State) (ctx : Nat) : OKey := ⟨ctx, (s.ctx ctx).fsobj⟩

/-- The bytes of far sets of a context, but for one. -/
def State.farBytes (s : State) (l : LKey) (index : Nat) : Nat :=
  (s.launches.filter (fun x => x.key.ctx == l.ctx)).foldl (fun n x =>
    (x.sets.filter (fun r => r.far && !r.pending && !(x.key == l && r.index == index))).foldl (fun n r => n + 64 * r.blocks) n) 0

/-- Whether the far-set object has room for a set (R302). -/
def State.farRoom (s : State) (l : LKey) (r : SetRec) : Bool :=
  match s.object? (s.farObject l.ctx) with
  | some e => s.classOf (s.farObject l.ctx) == 4 && decide (s.farBytes l r.index + 64 * r.blocks ≤ e.size)
  | none => false

/-- Whether the set store of a set's home core has room for it as it is to be (R300, R301 cases 2 and 3); `old` are the
blocks it holds now. -/
def State.nearFits (s : State) (r : SetRec) (old : Nat) : Bool :=
  decide (r.view.held ≤ 65536) && decide (s.blocksUsed r.home - old + r.blocks ≤ 8192)

/-- Where a set that has grown comes to lie, with the conversions a move counts; none where it needs far room that is not
available. -/
def State.settleSet (s : State) (l : LKey) (old : Nat) (r : SetRec) : Option (SetRec × Nat) :=
  if r.far then (if s.farRoom l r then some (r, 0) else none)
  else if s.nearFits r old then some (r, 0)
  else if s.farRoom l r then some ({ r with far := true }, 1)
  else none

/-- Put a set into the table of its launch. -/
def State.putSet (s : State) (l : LKey) (r : SetRec) : State := s.modSet l r.index (fun _ => r)

/-- Count conversions (counter 0x016, R413). -/
def State.converted (s : State) (l : LKey) (n : Nat) : State := s.count l.ctx 0x016 n

/-- Make a near set far (R301): whether there was room. -/
def State.moveFar (s : State) (l : LKey) (r : SetRec) : State × Bool :=
  let q := { r with far := true }
  if r.far then (s, true)
  else if s.farRoom l q then ((s.putSet l q).converted l 1, true)
  else (s, false)

/-! ### Operands and failure codes (R297, R318) -/

/-- The handles a request names. -/
def SetReq.handles (r : SetReq) : List Word :=
  match r.op with
  | .snew | .sldl _ _ => []
  | .suni | .sint | .sdif | .scost _ => [r.a, r.b]
  | _ => [r.a]

/-- A set that has been created. -/
def State.liveSet? (s : State) (l : LKey) (h : Word) : Option SetRec :=
  match s.setRec? l h with
  | some x => if x.pending then none else some x
  | none => none

/-- What an operand stands for: a set's or a consist's view, if its handle is not stale. -/
def State.setView? (s : State) (k : PKey) (h : Word) : Option SetView :=
  match s.liveSet? k.launchKey h, s.consist? k h with
  | some r, _ => some r.view
  | none, some c => some (consistView c.members)
  | none, none => none

/-- The view of an operand that has been checked. -/
def State.setView (s : State) (k : PKey) (h : Word) : SetView := (s.setView? k h).getD (buildView 0 [])

/-- Whether a request refuses consists (R297). -/
def SetOp.noConsist : SetOp → Bool
  | .sins _ | .sdel _ | .sfree | .shint _ => true
  | _ => false

/-- Whether a request accepts a failed set (R320). -/
def SetOp.takesFailed : SetOp → Bool
  | .srep | .slap | .sfree => true
  | _ => false

/-- Whether a request creates a set (R320). -/
def SetOp.produces : SetOp → Bool
  | .snew | .suni | .sint | .sdif | .scpy | .sldl _ _ => true
  | _ => false

/-- Whether a request is part of a mutation batch (R307). -/
def SetOp.mutates : SetOp → Bool
  | .sins _ | .sdel _ => true
  | _ => false

/-- The codes 0x84 and 0x85 of R318. -/
def State.setOpCode (s : State) (r : SetReq) : Nat :=
  match r.op with
  | .sldl _ count => if 262144 < count then 0x84 else 0
  | .shint c =>
    let v := s.setView r.key r.a
    if 4 < c.toNat then 0x84
    else if c = 1 && !v.runs.isEmpty && decide (2 ^ 20 < minWindow v.runs) then 0x85
    else 0
  | _ => 0

/-- The code a request fails with before it needs room, in the order of R318; 0 if none. -/
def State.setCode (s : State) (r : SetReq) : Nat :=
  let l := r.key.launchKey
  if r.handles.any (fun h => (s.setView? r.key h).isNone) then 0x80
  else if r.op.noConsist && (s.consist? r.key r.a).isSome then 0x81
  else if !r.op.takesFailed && r.handles.any (fun h => match s.liveSet? l h with
      | some x => x.failed
      | none => false) then 0x83
  else s.setOpCode r

/-! ### Completion and failure (R298, R318, R232) -/

/-- Take a request from its queue, or from its parcel's image. -/
def State.dropSet (s : State) (r : SetReq) : State :=
  (s.modCore (s.coreOf r.key) (fun c => { c with sets := c.sets.filter (fun x => x.uid != r.uid) })).modParcel r.key
    (fun p => { p with savedSets := p.savedSets.filter (fun x => x.uid != r.uid) })

/-- The request with a serial number. -/
def State.setReq? (s : State) (k : PKey) (uid : Nat) : Option SetReq :=
  ((s.core (s.coreOf k)).sets ++ (s.parcel k).savedSets).find? (fun x => x.uid == uid)

/-- The element of a mutation. -/
def SetOp.element : SetOp → Nat
  | .sins x | .sdel x => x.toNat
  | _ => 0

/-- The requests of a batch that have not been applied, in number order (R307). -/
def State.batchOf (s : State) (r : SetReq) : List SetReq :=
  ((s.core (s.coreOf r.key)).sets ++ (s.parcel r.key).savedSets).filter (fun x => x.batch == r.batch && x.a == r.a && x.op.mutates)

/-- The open batch of a mutation. -/
def State.openBatch? (s : State) (r : SetReq) : Option OpenBatch :=
  match s.launch? r.key.launchKey with
  | some x => x.batches.find? (fun b => b.batch == r.batch && b.a == r.a)
  | none => none

/-- The batch of a mutation is open with what `b` says, or is closed. -/
def State.setBatch (s : State) (r : SetReq) (b : Option OpenBatch) : State :=
  s.modLaunch r.key.launchKey (fun x => { x with
    batches := x.batches.filter (fun y => !(y.batch == r.batch && y.a == r.a)) ++ b.toList })

/-- A set as a batch leaves it comes to lie where it has room (R301), with the conversions that count; none where there is no
room. -/
def State.settleBatch (s : State) (l : LKey) (x : SetRec) (b : Batched) : Option State :=
  (s.settleSet l x.blocks { b.set with far := x.far }).map (fun y => (s.putSet l y.1).converted l (b.conversions + y.2))

/-- A batch ends with its last request (R307): R308 to R310 act on it, and the set comes to lie where it has room (R301). Where what
they ask for has none, the set stays as the mutations left it (log entry 62). -/
def State.closeBatch (s : State) (r : SetReq) : State :=
  let l := r.key.launchKey
  match s.openBatch? r with
  | none => s
  | some b =>
    if !(s.batchOf r).isEmpty then s
    else
      let s := s.setBatch r none
      match s.liveSet? l r.a with
      | none => s
      | some x => ((s.settleBatch l x (b.base.batch b.ins b.elems)).orElse
          (fun _ => s.settleBatch l x (b.base.partly b.ins b.elems))).getD s

/-- A request leaves its queue, and ends its batch if it is the last of one. -/
def State.leaveSet (s : State) (r : SetReq) : State := if r.op.mutates then (s.dropSet r).closeBatch r else s.dropSet r

/-- A request completes, with the writes of its result. -/
def State.endSet (s : State) (r : SetReq) (ws : List Write) : State :=
  ((s.leaveSet r).resolve r.key r.tix r.pendUid ws).completeOn r.core r.key r.tix 6 .sets r.num r.restored

/-- What a failed request writes (R318). -/
def SetReq.failWrites (r : SetReq) (code : Nat) : List Write :=
  match r.op with
  | .shas _ => writesPred r.d false
  | .scard => writesPair r.d 0xFFFFFFFFFFFFFFFF
  | .snext _ | .slap => writesPair r.d 0
  | .srep | .sstl _ _ => writes32 r.d 0
  | .shint _ => writes32 r.d code
  | .scost _ => writesPair r.d 0x00FF0000
  | _ => []

/-- The bytes a failed request counts on its barrier (R322). -/
def SetReq.failBytes (r : SetReq) : Nat :=
  match r.op with
  | .sstl _ cap => 4 * cap
  | _ => 0

/-- A request fails (R318, R320): a set-producing one leaves a failed set. -/
def State.failSet (s : State) (r : SetReq) (code : Nat) : State :=
  let s := if r.op.produces && r.result != 0 then
      s.modSet r.key.launchKey (handleIndex r.result) (fun x => { x with failed := true, pending := false })
    else s
  ((s.leaveSet r).resolve r.key r.tix r.pendUid (r.failWrites code)).failOn r.core r.key r.tix 6 .sets r.num r.restored r.bar
    r.failBytes (BitVec.ofNat 32 code)

/-! ### What requests do -/

/-- The cycle counts and the algorithm make one report (R325). -/
def costWord (alg : Nat) (conv far : Bool) (pred repB repA : Nat) : Nat :=
  alg * 65536 + bit conv * 8192 + bit far * 4096 + pred * 256 + repB * 16 + repA

/-- SCOST's report (R325). `core` is the core of the request. -/
def State.costReport (s : State) (core : Nat) (r : SetReq) (op : Nat) : Nat × Nat :=
  let l := r.key.launchKey
  let a := s.setView r.key r.a
  let b := s.setView r.key r.b
  let recs := r.handles.filterMap (s.liveSet? l)
  let cost := pairCost op a b
  let gone := recs.any (fun x => x.far || x.home != core)
  (costWord cost.1 (recs.any (fun x => x.conv.isSome)) gone (pairPredict op a b) b.rep a.rep, min (2 ^ 32 - 1) cost.2)

/-- SREP.rep's word (R323). -/
def repWord (cons : Bool) (r : SetRec) : Nat :=
  let tgt := match r.conv with
    | some c => c.target
    | none => if r.miss = 1 then r.tgt else 0
  2 ^ 31 + bit r.far * 2 ^ 30 + bit cons * 2 ^ 29 + bit r.pin.isSome * 2 ^ 28 + bit r.conv.isSome * 2 ^ 27 + bit r.failed * 2 ^ 26
    + tgt * 2 ^ 20 + r.pin.getD 0 * 2 ^ 16 + r.miss * 2 ^ 8 + r.rep

/-- The word of a handle. -/
def State.repOf (s : State) (r : SetReq) : Nat :=
  match s.liveSet? r.key.launchKey r.a with
  | some x => repWord false x
  | none => 2 ^ 31 + 2 ^ 29 + 1

/-- The members a set-producing request gives its set, and the extra probes it makes (R313, R320). -/
def State.produced (s : State) (r : SetReq) : List (Nat × Nat) × Nat :=
  let a := s.setView r.key r.a
  let b := s.setView r.key r.b
  match r.op with
  | .suni => (pairResult 0 a b, pairProbes 0 a b)
  | .sint => (pairResult 1 a b, pairProbes 1 a b)
  | .sdif => (pairResult 2 a b, pairProbes 2 a b)
  | .scpy => (a.runs, 0)
  | .sldl off count => (runsOf ((List.range count).map (fun i => (s.parcel r.key).nat (off + 4 * i) 4)), 0)
  | _ => ([], 0)

/-- A set that a request will create (R320): pending, near, with its owner. -/
def SetRec.new (index gen home owner : Nat) : SetRec where
  index := index
  gen := gen
  home := home
  owner := owner
  far := false
  failed := false
  pending := true
  runs := []
  rep := 0
  winBase := 0
  winLen := 0
  hash := ⟨0, []⟩
  miss := 0
  tgt := 0
  pin := none
  conv := none

/-- A set-producing request builds its result in P (R306, R320) and places it (R301, R302): near on its core, or far. Far room that
is needed and missing comes before a missing index (R318). -/
def State.materialise (s : State) (r : SetReq) (far : Bool) : State :=
  let l := r.key.launchKey
  let m := s.produced r
  let s := s.count l.ctx 0x017 m.2
  let x := ((s.setRec? l r.result).getD (SetRec.new 0 0 (s.coreOf r.key) r.key.pix)).withView (buildView (policyOf m.1) m.1)
  match s.settleSet l 0 { x with pending := false, far := far || !s.nearRoom x.home } with
  | none => s.failSet r 0x82
  | some (y, moves) =>
    if (s.setRec? l r.result).isNone then s.failSet r 0x86
    else ((s.putSet l y).converted l moves).endSet r []

/-- A mutation is applied at its number (R307), the last of a batch with R308 to R312. It needs far room that is not available (R302)
where neither the batch with all its requests has room nor, before the last, what is applied so far (log entry 62); it then has no
effect. -/
def State.applyMutation (s : State) (r : SetReq) (ins : Bool) : State :=
  let l := r.key.launchKey
  match s.liveSet? l r.a with
  | none => s.failSet r 0x80
  | some x =>
    let old : OpenBatch := ((s.openBatch? r).filter (fun b => b.seen == x)).getD ⟨r.batch, r.a, ins, x, [], x⟩
    let elems := old.elems ++ [r.op.element]
    let rest := ((s.batchOf r).filter (fun q => q.uid != r.uid)).map (fun q => q.op.element)
    let whole := old.base.batch ins (elems ++ rest)
    let now := if rest.isEmpty then whole else old.base.partly ins elems
    let fits (b : Batched) : Bool := (s.settleSet l x.blocks { b.set with far := x.far }).isSome
    if !(fits whole || fits now) then s.failSet r 0x82
    else
      let y : SetRec := { now.set with far := x.far }
      let s := (s.putSet l y).count l.ctx 0x017 (now.extra - (old.base.partly ins old.elems).extra)
      (s.setBatch r (some { old with elems := elems, seen := y })).endSet r []

/-- SHINT (R324). -/
def State.hint (s : State) (r : SetReq) (c : Nat) : State :=
  let l := r.key.launchKey
  match s.liveSet? l r.a with
  | none => s.failSet r 0x80
  | some x =>
    let y : SetRec := { x with conv := none, miss := 0, tgt := 0, pin := if c = 0 then none else some c }
    let rebuild := c != 0 && !y.runs.isEmpty && y.rep != c
    let z := if rebuild then y.withView (buildView c y.runs) else y
    match s.settleSet l x.blocks z with
    | none => s.failSet r 0x82
    | some (w, moves) => ((s.putSet l w).converted l (bit rebuild + moves)).endSet r (writes32 r.d 0)

/-- The core that holds the block of an index (R296). -/
def State.indexHolder (s : State) (l : LKey) (index : Nat) : Nat :=
  match (s.launch? l).bind (fun x => x.pool.blocks.find? (fun b => b.1 == index / 64)) with
  | some b => b.2
  | none => 0

/-- SFREE (R319): a thread of the core that holds the index may wait for one; what a near set held is allotted again from the next
cycle on (R27). -/
def State.freeSet (s : State) (r : SetReq) : State :=
  let l := r.key.launchKey
  let i := handleIndex r.a
  let s := match s.liveSet? l r.a with
    | some x => if x.far then s else s.noteFreed x.home { s.nothingFreed l.ctx with sets := [x] }
    | none => s
  let s := s.modLaunch l (fun x => { x with sets := x.sets.filter (fun y => y.index != i) })
  ((s.releaseIndex l i).refresh (s.indexHolder l i)).endSet r []

/-- SSTL (R322): engine stores, then their count. -/
def State.storeSet (s : State) (r : SetReq) (off cap : Nat) : State :=
  let v := s.setView r.key r.a
  let xs := runsTake cap v.runs
  let s := s.modParcel r.key (fun p => if xs.isEmpty then p else p.engineStore off (xs.flatMap (fun x => leBytes 4 x)))
  (s.handCount r.key r.bar (4 * xs.length) r.uid).endSet r (writes32 r.d xs.length)

/-- The lap of the latest request of a thread that named a far set (R323). -/
def Thread.farLap (t : Thread) (h : Word) : Nat := ((t.farLaps.find? (fun e => e.1 == h)).map (fun e => e.2)).getD 0

/-- A request of a thread that named far sets was applied in a lap. -/
def State.noteLaps (s : State) (r : SetReq) (lap : Nat) : State :=
  let hs := (r.handles.filter (fun h => match s.liveSet? r.key.launchKey h with
    | some x => x.far
    | none => false)).dedup
  s.modThread r.key r.tix (fun t => { t with
    farLaps := t.farLaps.filter (fun e => !hs.contains e.1) ++ hs.map (fun h => (h, lap)) })

/-- What a request does at its place in order; `far` where it names far sets. -/
def State.setEffect (s : State) (r : SetReq) (far : Bool) : State :=
  let v := s.setView r.key r.a
  match r.op with
  | .snew | .suni | .sint | .sdif | .scpy | .sldl _ _ => s.materialise r far
  | .sfree => s.freeSet r
  | .sins _ => s.applyMutation r true
  | .sdel _ => s.applyMutation r false
  | .shas x =>
    let e := if v.rep = 4 then v.hash.extra x.toNat else 0
    (s.count r.key.ctx 0x017 e).endSet r (writesPred r.d (runsHas x.toNat v.runs))
  | .scard => s.endSet r (writesPair r.d (runsCount v.runs))
  | .snext x => match runsNext x.toNat v.runs with
    | some m => s.endSet r (writesPair r.d (2 ^ 32 + m))
    | none => s.endSet r (writesPair r.d 0)
  | .sstl off cap => s.storeSet r off cap
  | .srep => s.endSet r (writes32 r.d (s.repOf r))
  | .slap =>
    let lap := match s.thread? r.key r.tix with
      | some t => t.farLap r.a
      | none => 0
    s.endSet r (writesPair r.d lap)
  | .shint c => s.hint r c.toNat
  | .scost op =>
    let w := s.costReport (s.coreOf r.key) r op
    s.endSet r (writesPair r.d (w.2 * 2 ^ 32 + w.1))

/-! ### Far requests (R326, R349) -/

/-- Whether a request names a far set, or one that R301 moves. -/
def State.namesFar (s : State) (core : Nat) (r : SetReq) : Bool :=
  (r.handles.filterMap (s.liveSet? r.key.launchKey)).any (fun x =>
    x.far || (x.home != core && (match r.op with
      | .scost _ => false
      | _ => true)))

/-- Move every near operand of a request, in ascending position (R301 case 4); SCOST moves none (R325). -/
def State.moveOperands (s : State) (r : SetReq) : State × Bool :=
  match r.op with
  | .scost _ => (s, true)
  | _ => r.handles.foldl (fun (x : State × Bool) h =>
      if !x.2 then x
      else match x.1.liveSet? r.key.launchKey h with
        | some q => x.1.moveFar r.key.launchKey q
        | none => x) (s, true)

/-- Whether a far request of a set request is under way. -/
def State.farPending (s : State) (uid : Nat) : Bool :=
  s.circle.any (fun q => match q.op with
    | .far uids _ => uids.contains uid
    | _ => false)

/-- Send a far request to the far-set object, in the blocking form (R326); a batch goes as one, with one ticket. Every far set stands
in row 0 of region slice 0 (log entry 26). -/
def State.sendFar (s : State) (core : Nat) (r : SetReq) : State :=
  let all := if r.op.mutates then (s.batchOf r).map (fun x => x.uid) else [r.uid]
  let (id, s) := s.fresh
  let q : CircleReq :=
    { id := id, obj := s.farObject r.key.ctx, key := r.key, tix := r.tix, pc := r.pc, core := core,
      op := .far all r.op.mutates, off := 0, reply := 0, bar := 0, blocking := true, guard := 0, pendUid := 0,
      stage := .sent, decided := false, ticket := 0, parts := [], left := [0], status := 0, drop := false }
  { s with circle := s.circle ++ [q] }

/-- A set request that was admitted to the far-set object is performed in its lap (R326). -/
def State.runFarRequest (s : State) (k : PKey) (lap uid : Nat) : State :=
  match s.setReq? k uid with
  | none => s
  | some r =>
    let code := s.setCode r
    if code != 0 then s.failSet r code
    else
      let t := s.setEffect r true
      -- the laps of the operands as they stood before the request
      (match (s.noteLaps r lap).thread? k r.tix with
        | some th => t.modThread k r.tix (fun u => { u with farLaps := th.farLaps })
        | none => t)

/-- The requests of a far request are performed, in number order and with nothing between them (R307, R326). -/
def State.runFar (s : State) (k : PKey) (uids : List Nat) (lap : Nat) : State := uids.foldl (fun s uid => s.runFarRequest k lap uid) s

/-! ### The engine's steps -/

/-- Whether the first request must wait: for an operand that another core has still to create (R326), for a batch of another issue
on a near operand, which nothing cuts (R328), for the build that ends before its batch (R310), or for its lap. -/
def State.setHeld (s : State) (core : Nat) (r : SetReq) : Bool :=
  let l := r.key.launchKey
  let mine (h : Word) : Bool := (s.core core).sets.any (fun x => x.result == h && x.op.produces)
  let cuts (h : Word) : Bool := match s.launch? l with
    | some x => x.batches.any (fun b => b.a == h && b.batch != r.batch)
    | none => false
  s.farPending r.uid
    || r.handles.any (fun h => match s.setRec? l h with
      | some x => (x.pending && !mine h) || (!x.far && cuts h)
          || (r.op.mutates && (s.openBatch? r).isNone && (match x.conv with
            | some c => c.later && !c.built
            | none => false))
      | none => false)

/-- The first request of a core's set engine is executed. -/
def State.runSet (s : State) (core : Nat) (r : SetReq) : State :=
  let code := s.setCode r
  if code != 0 then s.failSet r code
  else if s.namesFar core r then
    match s.moveOperands r with
    | (s, true) => s.sendFar core r
    | (s, false) => s.failSet r 0x82
  else s.setEffect r false

/-- Whether some batch of a context is open: a halt never cuts it between two elements (R328). -/
def State.midBatch (s : State) (ctx : Nat) : Bool := s.launches.any (fun x => x.key.ctx == ctx && !x.batches.isEmpty)

/-- SET_REQUEST_EXECUTE (R298); on a core that halts, only while some batch of the context is open (R328). -/
def execSetRequestExecute (core : Nat) (s : State) : Host.Outcome State Fault Refusal :=
  let c := s.core core
  match c.sets with
  | [] => .refused (.notEnabled "SET_REQUEST_EXECUTE")
  | r :: _ =>
    if (c.halting && !s.midBatch r.key.ctx) || s.setHeld core r then .refused (.notEnabled "SET_REQUEST_EXECUTE")
    else .next ((s.runSet core r).refresh core)

/-- The build of a set's conversion has finished. -/
def SetRec.finishBuild (r : SetRec) : SetRec := { r with conv := r.conv.map (fun c => { c with built := true }) }

/-- SET_BUILD_DONE (R310). -/
def execSetBuildDone (l : LKey) (index : Nat) (s : State) : Host.Outcome State Fault Refusal :=
  let open? := match s.launch? l with
    | some x => x.sets.any (fun r => r.index == index && (match r.conv with
        | some c => !c.built
        | none => false))
    | none => false
  if open? then
    .next ((s.modSet l index SetRec.finishBuild).modLaunch l (fun x => { x with
      batches := x.batches.map (fun b => if b.base.index = index then
        { b with base := b.base.finishBuild, seen := b.seen.finishBuild } else b) }))
  else .refused (.notEnabled "SET_BUILD_DONE")

/-- The cycle since which some thread of a launch waits for an index on a core that holds no free one (R296, R320). -/
def State.asksSince (s : State) (l : LKey) (core : Nat) : Option Nat :=
  if (s.freeIndex l core).isSome then none
  else
  let all := (s.parcels.filter (fun p => p.runsOn core && p.key.launchKey == l)).flatMap (fun p => p.threads.filterMap (fun t =>
    match t.status with
    | .engine (.setIndex n) => some n
    | _ => none))
  (sortBy (fun a b => decide (a ≤ b)) all).head?

/-- Whether a core is the first of its die to ask for a block (R296); of cores that ask in one cycle, the lowest (R29). -/
def State.asksFirst (s : State) (l : LKey) (core : Nat) : Bool :=
  match s.asksSince l core with
  | none => false
  | some n => (List.range 20).all (fun i =>
      let other := 20 * dieOf core + i
      match s.asksSince l other with
      | some m => decide (n < m) || (n == m && decide (core ≤ other))
      | none => true)

/-- INDEX_BLOCK_SUPPLY (R296): the core that asked first gets its die's next block. -/
def execIndexBlockSupply (core : Nat) (l : LKey) (s : State) : Host.Outcome State Fault Refusal :=
  let die := dieOf core
  match s.launch? l with
  | some x =>
    if s.asksFirst l core && !x.dieSpent die then
      let n := Tbl.get 0 x.pool.next die
      .next ((s.modLaunch l (fun x => { x with
        pool := { x.pool with next := Tbl.put 0 x.pool.next die (n + 1), blocks := x.pool.blocks ++ [(1024 * die + n, core)] } })).refresh core)
    else .refused (.notEnabled "INDEX_BLOCK_SUPPLY")
  | none => .refused (.notEnabled "INDEX_BLOCK_SUPPLY")

end Sys2Proof.Machine
end

