-- ==== Sys2Proof/Machine/SetIssue.lean ====
section
/-!
DEFINITION. The set instructions at issue (R317, R298, R320): what is checked, the index a set-producing request takes, and the
request that goes to the set context.
-/

namespace Sys2Proof.Machine

/-! ### Requests -/

/-- What a thread's set instruction asks for: the operation, its handles, its barrier, its scalar destinations and their field. -/
structure SetAsk where
  op : SetOp
  a : Word := 0
  b : Word := 0
  bar : Option Nat := none
  dests : List Dest := []
  d : Nat := 0

/-- A request takes its place in set-engine order; its scalar destinations are pending (R298, R151). -/
def State.addSet (s : State) (k : PKey) (t : Thread) (q : SetAsk) (result : Word) (batch : Nat) : State :=
  let r := s.number k t.tix 6 .sets
  let (uid, s) := r.1.fresh
  let s := if q.dests.isEmpty then s else s.modThread k t.tix (fun t => t.expect uid q.dests none)
  let req : SetReq :=
    { uid := r.2.1, core := s.coreOf k, num := r.2.2, restored := false, key := k, tix := t.tix, pc := t.pc, op := q.op, a := q.a, b := q.b,
      result := result, bar := q.bar, batch := batch, pendUid := uid, d := q.d }
  s.modCore (s.coreOf k) (fun c => { c with sets := c.sets ++ [req] })

/-- A set instruction that creates no set (R298). -/
def setBody (q : State → PKey → Thread → Except Trap SetAsk) (batch : Nat) : Body := fun s k t =>
  match s.engineGate k t .sets 6 with
  | some w => .wait w
  | none =>
    match q s k t with
    | .error r => .trap r
    | .ok ask => .next (s.addSet k t ask 0 batch)

/-- A set-producing instruction (R320): the index is taken and the handle written at issue. With no index left in the die's
range the handle is 0 (R302). -/
def produceBody (d : Nat) (q : State → PKey → Thread → Except Trap SetAsk) : Body := fun s k t =>
  match s.engineGate k t .sets 6 with
  | some w => .wait w
  | none =>
    let l := k.launchKey
    let core := s.coreOf k
    match q s k t with
    | .error r => .trap r
    | .ok ask =>
      match s.launch? l, s.freeIndex l core with
      | some x, some i =>
        let h := x.handleAt i
        let s := s.modLaunch l (fun x => { x with sets := x.sets ++ [SetRec.new i (handleGen h) core k.pix] })
        .next ((s.addSet k t ask h 0).result k t.tix (writes32 d h.toNat))
      | _, _ =>
        if s.indexLeft l core then .next ((s.addSet k t ask 0 0).result k t.tix (writes32 d 0))
        else .wait (.setIndex s.clk)

/-- A handle operand. -/
def Thread.handle (t : Thread) (f : BitVec 9) (zero : Bool) : Word := BitVec.ofNat 32 (t.u f zero)

/-- The checks of a list in the scratchpad (R320, R322): a list of no words passes. -/
def Parcel.listBound (p : Parcel) (off n : Nat) : Option Trap := if n = 0 then none else p.bound off (4 * n) 4

/-! ### The sixteen instructions -/

/-- SNEW (R319). -/
def execSnew (x : RWord) (s : State) : Host.Outcome State Fault Refusal :=
  issue (.snew x) (produceBody x.d.toNat (fun _ _ _ => .ok { op := .snew })) s

/-- SFREE (R319). -/
def execSfree (x : RWord) (s : State) : Host.Outcome State Fault Refusal :=
  issue (.sfree x) (setBody (fun _ _ t => .ok { op := .sfree, a := t.handle x.a x.za }) 0) s

/-- A mutation: the threads of one issue that name one handle make a batch (R307), named by a fresh serial number. -/
def issueMutation (i : Instr) (q : Thread → SetAsk) (s : State) : Host.Outcome State Fault Refusal :=
  issueWith i (fun _ _ s => let r := s.fresh; (r.2, r.1)) (fun batch => setBody (fun _ _ t => .ok (q t)) batch) (fun _ s => s) s

/-- SINS (R321). -/
def execSins (x : RWord) (s : State) : Host.Outcome State Fault Refusal :=
  issueMutation (.sins x) (fun t => { op := .sins (t.handle x.b x.zb), a := t.handle x.a x.za }) s

/-- SDEL (R321). -/
def execSdel (x : RWord) (s : State) : Host.Outcome State Fault Refusal :=
  issueMutation (.sdel x) (fun t => { op := .sdel (t.handle x.b x.zb), a := t.handle x.a x.za }) s

/-- SHAS (R321). -/
def execShas (x : RWord) (s : State) : Host.Outcome State Fault Refusal :=
  issue (.shas x) (setBody (fun _ _ t =>
    .ok { op := .shas (t.handle x.b x.zb), a := t.handle x.a x.za, dests := [.p (x.d.toNat % 16)], d := x.d.toNat }) 0) s

/-- SCARD (R321). -/
def execScard (x : RWord) (s : State) : Host.Outcome State Fault Refusal :=
  issue (.scard x) (setBody (fun _ _ t =>
    .ok { op := .scard, a := t.handle x.a x.za, dests := pairDests x.d.toNat, d := x.d.toNat }) 0) s

/-- SUNI (R320). -/
def execSuni (x : RWord) (s : State) : Host.Outcome State Fault Refusal :=
  issue (.suni x) (produceBody x.d.toNat (fun _ _ t =>
    .ok { op := .suni, a := t.handle x.a x.za, b := t.handle x.b x.zb })) s

/-- SINT (R320). -/
def execSint (x : RWord) (s : State) : Host.Outcome State Fault Refusal :=
  issue (.sint x) (produceBody x.d.toNat (fun _ _ t =>
    .ok { op := .sint, a := t.handle x.a x.za, b := t.handle x.b x.zb })) s

/-- SDIF (R320). -/
def execSdif (x : RWord) (s : State) : Host.Outcome State Fault Refusal :=
  issue (.sdif x) (produceBody x.d.toNat (fun _ _ t =>
    .ok { op := .sdif, a := t.handle x.a x.za, b := t.handle x.b x.zb })) s

/-- SCPY (R320). -/
def execScpy (x : RWord) (s : State) : Host.Outcome State Fault Refusal :=
  issue (.scpy x) (produceBody x.d.toNat (fun _ _ t => .ok { op := .scpy, a := t.handle x.a x.za })) s

/-- SLDL (R320). -/
def execSldl (x : RWord) (s : State) : Host.Outcome State Fault Refusal :=
  issue (.sldl x) (produceBody x.d.toNat (fun s k t =>
    let off := t.u x.a x.za
    let n := t.u x.b x.zb
    match (s.parcel k).listBound off n with
    | some r => .error r
    | none => .ok { op := .sldl off n })) s

/-- SSTL (R322): the capacity is read before d is written. -/
def execSstl (x : RWord) (s : State) : Host.Outcome State Fault Refusal :=
  issue (.sstl x) (setBody (fun s k t =>
    let p := s.parcel k
    let cap := t.u x.d false
    let off := t.u x.b x.zb
    let bar := t.u x.c false
    match firstTrap [p.listBound off cap, if x.zc then none else p.bound bar 16 16] with
    | some r => .error r
    | none => .ok { op := .sstl off cap, a := t.handle x.a x.za, bar := if x.zc then none else some bar,
                    dests := [.g x.d.toNat], d := x.d.toNat }) 0) s

/-- SNEXT (R321). -/
def execSnext (x : RWord) (s : State) : Host.Outcome State Fault Refusal :=
  issue (.snext x) (setBody (fun _ _ t =>
    .ok { op := .snext (t.handle x.b x.zb), a := t.handle x.a x.za, dests := pairDests x.d.toNat, d := x.d.toNat }) 0) s

/-- SREP (R323). -/
def execSrep (x : RWord) (s : State) : Host.Outcome State Fault Refusal :=
  issue (.srep x) (setBody (fun _ _ t =>
    .ok { op := if x.v == 0 then .srep else .slap, a := t.handle x.a x.za,
          dests := if x.v == 0 then [.g x.d.toNat] else pairDests x.d.toNat, d := x.d.toNat }) 0) s

/-- SHINT (R324). -/
def execShint (x : RWord) (s : State) : Host.Outcome State Fault Refusal :=
  issue (.shint x) (setBody (fun _ _ t =>
    .ok { op := .shint (t.handle x.b x.zb), a := t.handle x.a x.za, dests := [.g x.d.toNat], d := x.d.toNat }) 0) s

/-- SCOST (R325). -/
def execScost (x : RWord) (s : State) : Host.Outcome State Fault Refusal :=
  issue (.scost x) (setBody (fun _ _ t =>
    .ok { op := .scost x.v.toNat, a := t.handle x.a x.za, b := t.handle x.b x.zb,
          dests := pairDests x.d.toNat, d := x.d.toNat }) 0) s

end Sys2Proof.Machine
end

