-- ==== Sys2Proof/Machine/Circle.lean ====
section
/-!
DEFINITION. Circle regions (R330 to R349, R442): where a byte lies, requests at issue (R340, R341), admission (R334, R335), row
passes (R332, R342 to R345), laps (R333) and replies (R337, R338).
-/

namespace Sys2Proof

/-- The operation of a CRUPD (R340). -/
def EWord.circleOp (x : EWord) : Nat := (x.mod.extractLsb' 3 4).toNat

/-- The type code of a CRUPD or CRRD (R340). -/
def EWord.circleType (x : EWord) : Nat := (x.mod.extractLsb' 0 3).toNat

end Sys2Proof

namespace Sys2Proof.Machine

/-! ### Layout (R330, R331) -/

/-- A Circle region of the device. -/
def State.region? (s : State) (o : OKey) : Option Region := s.regions.find? (fun r => r.obj == o)

/-- Change a region. -/
def State.modRegion (s : State) (o : OKey) (f : Region → Region) : State :=
  { s with regions := s.regions.map (fun r => if r.obj = o then f r else r) }

/-- A region slice at the creation of its region: in lap 1, before row 0 (R333). -/
def RegionSlice.initial : RegionSlice := ⟨1, 0, false, 0, none⟩

/-- A region slice. -/
def Region.slice (r : Region) (i : Nat) : RegionSlice := Tbl.get RegionSlice.initial r.slices i

/-- Change a region slice. -/
def Region.modSlice (r : Region) (i : Nat) (f : RegionSlice → RegionSlice) : Region :=
  { r with slices := Tbl.put RegionSlice.initial r.slices i (f (r.slice i)) }

/-- The number of slices of an object, 2^s. -/
def ObjEntry.sliceCount (e : ObjEntry) : Nat := 2 ^ e.stripe

/-- The rows of each slice, Rs. -/
def ObjEntry.rows (e : ObjEntry) : Nat := e.size / (1024 * e.sliceCount)

/-- The physical slice of a region slice (R331). -/
def ObjEntry.physical (e : ObjEntry) (i : Nat) : Nat := 64 * e.home / e.sliceCount * e.sliceCount + i

/-- The entry of an object, or one of a free object. -/
def State.entry (s : State) (o : OKey) : ObjEntry := (s.object? o).getD ⟨o.obj, 0, [], []⟩

/-- The 1,024-byte chunks of bytes a to a + n − 1. -/
def chunksOf (a n : Nat) : List Nat := (List.range ((a + n - 1) / 1024 - a / 1024 + 1)).map (fun i => a / 1024 + i)

/-- The region slices of some chunks, each once. -/
def ObjEntry.slicesOf (e : ObjEntry) (chunks : List Nat) : List Nat := (chunks.map (fun c => c % e.sliceCount)).dedup

/-- The rows of a region slice that some chunks lie in. -/
def ObjEntry.rowsOf (e : ObjEntry) (chunks : List Nat) (i : Nat) : List Nat :=
  (chunks.filter (fun c => c % e.sliceCount == i)).map (fun c => c / e.sliceCount)

/-! ### Requests -/

/-- A Circle request that is under way. -/
def State.circle? (s : State) (id : Nat) : Option CircleReq := s.circle.find? (fun q => q.id == id)

/-- Change a Circle request. -/
def State.modCircle (s : State) (id : Nat) (f : CircleReq → CircleReq) : State :=
  { s with circle := s.circle.map (fun q => if q.id = id then f q else q) }

/-- Remove a Circle request. -/
def State.dropReq (s : State) (id : Nat) : State := { s with circle := s.circle.filter (fun q => q.id != id) }

/-- The bytes of a Circle type. -/
def circleWidth (ty : Nat) : Nat := if ty = 2 ∨ ty = 3 then 8 else 4

/-- The operands cmp and v of a CRUPD (R340). -/
def Thread.circleOperand (t : Thread) (op ty y : Nat) : DWord × DWord :=
  let one (n : Nat) : DWord := (t.reg n).setWidth 64
  if op = 8 ∨ op = 9 then (0, one y &&& (if circleWidth ty = 8 then 63 else 31))
  else if op = 7 then (if circleWidth ty = 8 then (t.pair y, t.pair (y + 2)) else (one y, one (y + 1)))
  else (0, if circleWidth ty = 8 then t.pair y else one y)

/-- The particulars of a request at issue: its operation, its length, the width its offset is a multiple of, the place of its
reply record, and its right. -/
structure CircleAsk where
  op : CircleOp
  n : Nat
  width : Nat
  reply : Nat
  right : Right

/-- A request is sent (R341): the thread's counter, its guard or its wait. -/
def State.sendCircle (s : State) (k : PKey) (t : Thread) (x : EWord) (q : CircleAsk) (a bar : Nat) (cap : QWord) : State × Nat :=
  let (id, s) := s.fresh
  let (uid, s) := s.fresh
  let guard := match x.guard with
    | .onTrue p => p.toNat
    | _ => 0
  let req : CircleReq :=
    { id := id, obj := ⟨k.ctx, capObj cap⟩, key := k, tix := t.tix, pc := t.pc, core := s.coreOf k, op := q.op, off := a,
      reply := q.reply, bar := bar, blocking := x.f, guard := guard, pendUid := uid, stage := .sent, decided := false,
      ticket := 0, parts := [], left := chunksOf a q.n, status := 0, drop := false }
  let s := s.modThread k t.tix (fun t =>
    let t := (t.inc .circle).passFence
    if x.f then { t with status := .engine (.circle id) } else t.expect uid [.p guard] none)
  ({ s with circle := s.circle ++ [req] }, id)

/-- CRUPD, CRRD and CRSNAP at issue (R341): step 1 is `first`. A CRUPD is a wake event (R133). -/
def circleBody (x : EWord) (first : Thread → Option Trap) (ask : Thread → CircleAsk) : Body := fun s k t =>
  match s.requestGate k t .circle with
  | some w => .wait w
  | none =>
    let p := s.parcel k
    let q := ask t
    let at' := t.u x.p false
    let bar := t.u x.bar false
    let o := (t.pair x.x.toNat).toNat
    let cap := t.cap (x.q.toNat % 8)
    let a := capBase cap + o
    match firstTrap [first t, p.bound at' 16 16, p.bound q.reply 16 16, p.bound bar 16 16, capTrap cap q.right o q.n,
        if a % q.width != 0 then some (.unaligned o) else none] with
    | some r => .trap r
    | none => match s.leaseFault k cap q.right o q.n with
      | some f => .fatal f
      | none =>
        let s := (s.sendCircle k t x q a bar cap).1
        let s := match q.op with
          | .update .. => s.wake (k.thread t.tix)
          | _ => s
        if x.f then .stay s else .next s

/-- CRUPD (R341, R342). -/
def execCrupd (x : EWord) (s : State) : Host.Outcome State Fault Refusal :=
  issue (.crupd x) (circleBody x (fun _ => none) (fun t =>
    let ty := x.circleType
    let v := t.circleOperand x.circleOp ty x.y.toNat
    { op := .update x.circleOp ty v.1 v.2, n := circleWidth ty, width := circleWidth ty, reply := t.u x.p false, right := .c })) s

/-- CRRD (R341, R344). -/
def execCrrd (x : EWord) (s : State) : Host.Outcome State Fault Refusal :=
  issue (.crrd x) (circleBody x (fun _ => none) (fun t =>
    let w := circleWidth x.circleType
    { op := .read (w == 8), n := w, width := w, reply := t.u x.p false, right := .q })) s

/-- CRSNAP (R341, R345): its length is a multiple of 4 from 4 to 65,536. -/
def execCrsnap (x : EWord) (s : State) : Host.Outcome State Fault Refusal :=
  issue (.crsnap x) (circleBody x
    (fun t =>
      let n := t.u x.y false
      if n % 4 != 0 then some (.unaligned n) else if n < 4 ∨ 65536 < n then some (.capv 3 n) else none)
    (fun t =>
      let n := t.u x.y false
      { op := .snap n, n := n, width := 4, reply := t.u x.p false + 16 * ceilDiv n 16, right := .q })) s

/-- A query of a region (R341 step 3, R346): its result, or a free value where the object is no region (log entry 27). -/
def circleQueryBody (x : EWord) (off : Thread → Nat) (value : State → ObjEntry → Region → Nat → Option Nat) : Body := fun s k t =>
  let cap := t.cap (x.q.toNat % 8)
  let o := off t
  match capCheck cap [.c, .q] o 0 with
  | some d => .trap (.capv d o)
  | none =>
    let key : OKey := ⟨k.ctx, capObj cap⟩
    let known : Option Nat := match s.object? key, s.region? key with
      | some e, some r => if s.classOf key = 2 then value s e r (capBase cap + o) else none
      | _, _ => none
    let (id, s) := s.fresh
    .next (s.result k t.tix (writesPair x.p.toNat (known.getD (Config.circleQuery id).toNat)))

/-- CRLAP (R346). -/
def execCrlap (x : EWord) (s : State) : Host.Outcome State Fault Refusal :=
  issue (.crlap x) (circleQueryBody x (fun _ => 0) (fun _ _ r _ => some r.lap)) s

/-- The largest occupancy among the latest end-of-lap reports, with the lowest region slice that has it (R346). -/
def Region.busiest (r : Region) (n : Nat) : Option Nat :=
  let all := (List.range n).filterMap (fun i => (r.slice i).shown.map (fun v => (i, v)))
  match all with
  | [] => none
  | x :: rest =>
    let m := rest.foldl (fun b e => if b.2 < e.2 then e else b) x
    some (m.1 * 2 ^ 32 + m.2)

/-- CRINFO (R346). -/
def execCrinfo (x : EWord) (s : State) : Host.Outcome State Fault Refusal :=
  issue (.crinfo x) (circleQueryBody x (fun t => if x.mod == 0 then (t.pair x.x.toNat).toNat else 0) (fun s e r a =>
    if x.mod == 0 then
      let n := e.physical (a / 1024 % e.sliceCount)
      some (n * 2 ^ 32 + (s.slice n).queue.length)
    else r.busiest e.sliceCount)) s

/-! ### Replies (R337) -/

/-- KIND of a request's reply record. -/
def CircleOp.kind : CircleOp → Nat
  | .read _ => 1
  | .snap _ => 2
  | _ => 0

/-- A reply record. -/
def replyRecord (value : DWord) (lap : BitVec 48) (kind status : Nat) : List Byte :=
  leBytes 16 (value.toNat * 2 ^ 64 + lap.toNat * 2 ^ 16 + kind % 16 * 256 + status % 256)

/-- The bytes of a snapshot in some chunks. -/
def snapBytes (off n : Nat) (chunks : List Nat) : Nat :=
  chunks.foldl (fun m c => m + (min (off + n) (1024 * c + 1024) - max off (1024 * c))) 0

/-- Send a reply that is not dropped with its parcel's launch (R391), from a slice. -/
def State.post (s : State) (q : CircleReq) (slice : Option Nat) (off : Nat) (bytes : List Byte) (count : Nat) (err : Word) (final : Bool) : State :=
  if q.drop then s else { s with replies := s.replies ++ [⟨q.id, slice, q.key, q.tix, off, bytes, q.bar, count, err, final⟩] }

/-- A request is answered whole: its reply record, its last count (R338, R345). -/
def State.answer (s : State) (q : CircleReq) (slice : Option Nat) (lap : Nat) (value : DWord) (status : Nat) : State :=
  let s := s.post q slice q.reply (replyRecord value (BitVec.ofNat 48 lap) q.op.kind status) 16 0 true
  s.modCircle q.id (fun q => { q with left := [] })

/-- The entries of a request leave every queue. -/
def State.dequeue (s : State) (id : Nat) : State :=
  { s with
    slices := (s.slices.map (fun e => (e.1, { e.2 with queue := e.2.queue.filter (fun x => x.req != id) }))).filter
      (fun e => e.2 != Slice.empty) }

/-- A request fails (R345, R347): its reply carries the code's low byte, and every uncounted byte is counted with the code. VALUE
of a snapshot is the bytes it has written (R337); VALUE of another, and LAP where no slice admitted it, are free values (log
entry 27). -/
def State.refuseReply (s : State) (q : CircleReq) (slice lap : Option Nat) (code : Nat) : State :=
  let rest := match q.op with
    | .snap n => snapBytes q.off n q.left
    | _ => 0
  let lapBits : BitVec 48 := match lap with
    | some n => BitVec.ofNat 48 n
    | none => Config.failedReplyLap q.id
  let value : DWord := match q.op with
    | .snap n => BitVec.ofNat 64 (n - rest)
    | _ => Config.failedReplyValue q.id
  let record := replyRecord value lapBits q.op.kind code
  ((s.post q slice q.reply record (rest + 16) (BitVec.ofNat 32 code) true).dequeue q.id).modCircle q.id (fun q => { q with left := [] })

/-- Requests that are answered and whose issuer knows of their admission are forgotten. -/
def State.reapCircle (s : State) : State :=
  { s with circle := s.circle.filter (fun q => !(q.left.isEmpty && (q.decided || q.drop))) }

/-! ### The home station masters (R331, R428) -/

/-- Whether a station master is not declared failed. -/
def Base.alive (b : Base) (master : Nat) : Bool := if master = 0 then b.alive0 else b.alive1

/-- The tick of a station master's last heartbeat. -/
def Base.beat (b : Base) (master : Nat) : Nat := if master = 0 then b.beat0 else b.beat1

/-- Whether a station master has missed two consecutive heartbeats. -/
def Base.missed (b : Base) (master tb : Nat) : Bool := decide (b.beat master + 512 ≤ tb)

/-- Whether a die's refreshes, repairs, moves and lap clocks are served (R428): the station master that holds them has missed no two
heartbeats, or its sibling has taken over. -/
def State.mastered (s : State) (die : Nat) : Bool :=
  let b := s.base die
  b.alive b.master && !b.missed b.master s.tb

/-- Whether the slices of a region go on with the laps that are declared: the station masters of its home die have not both
failed (R428). -/
def State.lapsRun (s : State) (o : OKey) : Bool :=
  let b := s.base (s.entry o).home
  b.alive0 || b.alive1

/-! ### Admission (R334, R335) -/

/-- Why no slice admits a request (R339, R347): a freed object, or one that is no Circle region. -/
def State.circleCode (s : State) (q : CircleReq) : Nat :=
  let far := match q.op with
    | .far _ _ => true
    | _ => false
  match s.classOf q.obj with
  | 0 => 0x22
  | 2 => if far then 0x90 else 0
  | 4 => if far then 0 else 0x90
  | _ => 0x90

/-- The physical slices of a request. -/
def State.reqSlices (s : State) (q : CircleReq) : List Nat :=
  let e := s.entry q.obj
  (e.slicesOf q.left).map e.physical

/-- Whether a request comes from a set engine. -/
def CircleOp.isFar : CircleOp → Bool
  | .far _ _ => true
  | _ => false

/-- Whether an earlier request of the same thread, or of the same set engine, is still on its way to a slice of this one (R298,
R334). -/
def State.overtakes (s : State) (q : CircleReq) : Bool :=
  s.circle.any (fun e => (if q.op.isFar then e.op.isFar && e.core == q.core else e.key == q.key && e.tix == q.tix)
    && decide (e.id < q.id) && e.stage == .sent && (s.reqSlices e).any (fun n => (s.reqSlices q).contains n))

/-- Whether a request would reach a slice after one that the order of a cycle puts behind it: ascending core, then lane (R334). -/
def State.tooLate (s : State) (c : Slice) (q : CircleReq) : Bool :=
  match q.op with
  | .host _ => false
  | _ => c.arrived.1 == s.clk && (decide (q.core < c.arrived.2.1) || (q.core == c.arrived.2.1 && decide (q.tix % 32 < c.arrived.2.2)))

/-- Whether a slice's queue is full (R334). -/
def Slice.full (c : Slice) : Bool := decide (8192 ≤ c.queue.length)

/-- The places that a request takes in a queue (R334): each request of a set batch takes one. -/
def CircleOp.places : CircleOp → Nat
  | .far uids _ => uids.length
  | _ => 1

/-- Whether a slice's queue has no room for a request. -/
def Slice.fullFor (c : Slice) (q : CircleReq) : Bool := decide (8192 < c.queue.length + q.op.places)

/-- A far request that no slice can take fails (R232). -/
def State.farFail (s : State) (q : CircleReq) (code : Nat) : State :=
  match q.op with
  | .far uids _ => uids.foldl (fun s uid => match s.setReq? q.key uid with
    | some r => s.failSet r code
    | none => s) (s.dropReq q.id)
  | _ => (s.modCircle q.id (fun q => { q with stage := .admitted })).refuseReply q none none code

/-- An admitted request counts in the interval counts of its core (R419 CRQ). -/
def State.countAdmit (s : State) (q : CircleReq) : State :=
  match q.op with
  | .host _ => s
  | _ => s.modCore q.core (fun c => { c with counts := { c.counts with crq := min (2 ^ 32 - 1) (c.counts.crq + q.op.places) } })

/-- A request takes a ticket and an entry at its slice, a batch one for each of its requests (R334, R326). -/
def State.enterSlice (s : State) (q : CircleReq) : State :=
  let e := s.entry q.obj
  let i := (e.slicesOf q.left).headD 0
  let ticket := (match s.region? q.obj with
    | some r => (r.slice i).lap
    | none => 0) + 1
  ((s.modSlice (e.physical i) (fun c => { c with
    queue := c.queue ++ List.replicate q.op.places ⟨q.id, q.obj, e.rowsOf q.left i, ticket⟩ })).modCircle q.id
    (fun q => { q with stage := .admitted, ticket := ticket })).countAdmit q

/-- A request whose bytes lie in one slice reaches it (R334). -/
def State.reachSlice (s : State) (q : CircleReq) : State :=
  let n := (s.reqSlices q).headD 0
  let s := match q.op with
    | .host _ => s
    | _ => s.modSlice n (fun c => { c with arrived := (s.clk, q.core, q.tix % 32) })
  let c := s.slice n
  if s.circleCode q != 0 then s.farFail q (s.circleCode q)
  else if !c.fullFor q && c.waiters.isEmpty then s.enterSlice q
  else if q.blocking then
    (s.modSlice n (fun c => { c with waiters := c.waiters ++ [q.id] })).modCircle q.id (fun q => { q with stage := .waiting })
  else s.modCircle q.id (fun q => { q with stage := .refused })

/-- Whether a request touches more than one slice. -/
def State.spans (s : State) (q : CircleReq) : Bool := decide (1 < ((s.entry q.obj).slicesOf q.left).length)

/-- CIRCLE_ADMIT (R334): a request reaches its slice, or the oldest waiter takes a freed entry. -/
def execCircleAdmit (req : Nat) (s : State) : Host.Outcome State Fault Refusal :=
  match s.circle? req with
  | none => .refused (.notEnabled "CIRCLE_ADMIT")
  | some q =>
    let n := (s.reqSlices q).headD 0
    if s.spans q then .refused (.notEnabled "CIRCLE_ADMIT")
    else if q.stage == .sent && !s.overtakes q && !s.tooLate (s.slice n) q then .next ((s.reachSlice q).refresh q.core)
    else if q.stage == .waiting && !(s.slice n).fullFor q && (s.slice n).waiters.head? == some req then
      .next (((s.modSlice n (fun c => { c with waiters := c.waiters.drop 1 })).enterSlice q).refresh q.core)
    else .refused (.notEnabled "CIRCLE_ADMIT")

/-- The guard predicate of a decision: 1 stays, a refusal clears it (R334, R340). -/
def State.tellGuard (s : State) (q : CircleReq) (admitted : Bool) : State :=
  s.resolve q.key q.tix q.pendUid (writesPred q.guard admitted)

/-- The blocking thread whose request has been admitted retires its instruction (R334, R341). -/
def State.retireBlocked (s : State) (q : CircleReq) : State :=
  match s.thread? q.key q.tix with
  | some t =>
    if t.status = .engine (.circle q.id) then
      s.modParcel q.key (fun p => (p.retire q.tix (q.pc + 8)).modThread q.tix (fun t => { t with status := .ready }))
    else s
  | none => s

/-- ADMISSION_DECISION (R334): the decision reaches the thread. -/
def execAdmissionDecision (req : Nat) (s : State) : Host.Outcome State Fault Refusal :=
  match s.circle? req with
  | none => .refused (.notEnabled "ADMISSION_DECISION")
  | some q =>
    let mine := !q.decided && (match q.op with
      | .update .. | .read _ | .snap _ => true
      | _ => false)
    if mine && q.stage == .refused then
      .next ((((s.tellGuard q false).modThread q.key q.tix (fun t => t.dec .circle)).dropReq req).refresh (s.coreOf q.key))
    else if mine && q.stage == .admitted then
      let s := if q.blocking then s.retireBlocked q else s.tellGuard q true
      .next (((s.modCircle req (fun q => { q with decided := true })).reapCircle).refresh (s.coreOf q.key))
    else .refused (.notEnabled "ADMISSION_DECISION")

/-! ### Spanning snapshots (R335) -/

/-- Whether some slice of a request has a full queue, or a waiter before it. -/
def State.spanFull (s : State) (q : CircleReq) : Bool :=
  (s.reqSlices q).any (fun n => (s.slice n).full || !(s.slice n).waiters.isEmpty)

/-- The master admits a snapshot: its ticket is the lap after the one last declared, and a part goes to each slice. -/
def State.admitSpan (s : State) (q : CircleReq) (r : Region) : State :=
  let e := s.entry q.obj
  let ticket := r.lap + 1
  let s := (e.slicesOf q.left).foldl (fun s i =>
    s.modSlice (e.physical i) (fun c => { c with queue := c.queue ++ [⟨q.id, q.obj, e.rowsOf q.left i, ticket⟩] })) s
  (s.modCircle q.id (fun q => { q with stage := .admitted, ticket := ticket, parts := e.slicesOf q.left })).countAdmit q

/-- SPAN_ADMIT (R335): a snapshot that touches more than one slice reaches the master, or the oldest waiter is admitted; while no
master serves the region it waits (R428). -/
def execSpanAdmit (req : Nat) (s : State) : Host.Outcome State Fault Refusal :=
  match s.circle? req with
  | none => .refused (.notEnabled "SPAN_ADMIT")
  | some q =>
    if !s.spans q || !(q.stage == .sent || q.stage == .spanning) || (q.stage == .sent && s.overtakes q) then
      .refused (.notEnabled "SPAN_ADMIT")
    else if q.stage == .sent && s.circleCode q != 0 then .next ((s.farFail q (s.circleCode q)).refresh q.core)
    else if !s.mastered (s.entry q.obj).home then .refused (.notEnabled "SPAN_ADMIT")
    else match s.region? q.obj with
      | none => .refused (.notEnabled "SPAN_ADMIT")
      | some r =>
        if q.stage == .spanning then
          if r.spanWait.head? == some req && !s.spanFull q then
            .next (((s.modRegion q.obj (fun r => { r with spanWait := r.spanWait.drop 1 })).admitSpan q r).refresh q.core)
          else .refused (.notEnabled "SPAN_ADMIT")
        else if r.spanWait.isEmpty && !s.spanFull q then .next ((s.admitSpan q r).refresh q.core)
        else if q.blocking then
          .next ((s.modRegion q.obj (fun r => { r with spanWait := r.spanWait ++ [req] })).modCircle req (fun q => { q with stage := .spanning }))
        else .next (s.modCircle req (fun q => { q with stage := .refused }))

/-- SPAN_PART_ACK (R335): a slice acknowledges its part. -/
def execSpanPartAck (req slice : Nat) (s : State) : Host.Outcome State Fault Refusal :=
  match s.circle? req with
  | none => .refused (.notEnabled "SPAN_PART_ACK")
  | some q =>
    if q.parts.contains slice then .next (s.modCircle req (fun q => { q with parts := q.parts.filter (· != slice) }))
    else .refused (.notEnabled "SPAN_PART_ACK")

/-! ### Row passes (R332, R342 to R345) -/

/-- The tier and the byte at which a chunk of a region lies (R330: in HBM). -/
def ObjEntry.chunkPlace (e : ObjEntry) (c : Nat) : Option (Tier × Nat) :=
  match e.extent? (c / 64) with
  | some d => let x := extPlace d (c / 64); some (x.1, x.2 + c % 64 * 1024)
  | none => none

/-- Read a row: its bytes, or the code of an error (R347). -/
def State.readRow (s : State) (o : OKey) (c : Nat) : State × Except Nat Mem :=
  if s.classOf o = 0 then (s, .error 0x22)
  else match (s.entry o).chunkPlace c with
    | none => (s, .error 0x22)
    | some (t, a) => match s.readTier o.ctx t a 1024 with
      | (s, .ok bs) => (s, .ok (Mem.write [] 0 bs))
      | (s, .error e) => (s, .error e)

/-- Write a row whole; its check values are generated anew (R342, R423). -/
def State.writeRow (s : State) (o : OKey) (c : Nat) (row : Mem) : State :=
  match (s.entry o).chunkPlace c with
  | some (t, a) => (s.writeTier o.ctx t a (Mem.read row 0 1024)).1
  | none => s

/-- A row pass under way: the row, and the running values of its words (R343). -/
structure RowPass where
  s : State
  slice : Option Nat
  row : Mem
  acc : List (Nat × Val)

/-- The words in a range take their running values (R343). -/
def RowPass.settle (p : RowPass) (a n : Nat) : RowPass :=
  let hit (w : Nat) : Bool := decide (a < w + 4) && decide (w < a + n)
  { p with
    row := (p.acc.filter (fun e => hit e.1)).foldl (fun m e => Mem.setNat m e.1 4 (Fmt.f32.round .rne e.2)) p.row,
    acc := p.acc.filter (fun e => !hit e.1) }

/-- The new value of a word (R340, R342). -/
def circleNew (op ty old cmp v : Nat) : Nat :=
  let bits := 8 * circleWidth ty
  let signed := ty == 0 || ty == 2
  let pick (larger : Bool) : Nat :=
    if ty = 4 then pickBits .f32 larger old v
    else
      let x : Int := if signed then signedOf old bits else old
      let y : Int := if signed then signedOf v bits else v
      if (if larger then decide (x < y) else decide (y < x)) then v else old
  match op with
  | 0 => (old + v) % 2 ^ bits
  | 1 => pick false
  | 2 => pick true
  | 3 => old &&& v
  | 4 => old ||| v
  | 5 => old ^^^ v
  | 6 => v
  | 7 => if old = cmp then v else old
  | 8 => old ||| 2 ^ v
  | _ => old &&& (2 ^ bits - 1 - 2 ^ v)

/-- One update of a row pass (R342, R343). -/
def RowPass.update (p : RowPass) (q : CircleReq) (lap : Nat) : RowPass :=
  let a := q.off % 1024
  match q.op with
  | .update op ty cmp v =>
    if op = 0 ∧ ty = 4 then
      let acc := ((p.acc.find? (fun e => e.1 == a)).map (fun e => e.2)).getD (Fmt.f32.value (Mem.nat p.row a 4))
      { p with
        s := p.s.answer q p.slice lap (BitVec.ofNat 64 (Fmt.f32.round .rne acc)) 0,
        acc := p.acc.filter (fun e => e.1 != a) ++ [(a, xf (acc.add false (Fmt.f32.value v.toNat)))] }
    else
      let w := circleWidth ty
      let p := p.settle a w
      let old := Mem.nat p.row a w
      { p with
        s := p.s.answer q p.slice lap (BitVec.ofNat 64 old) (bit (op == 7 && old != cmp.toNat)),
        row := Mem.setNat p.row a w (circleNew op ty old cmp.toNat v.toNat) }
  | .host bytes =>
    let p := p.settle a bytes.length
    { p with s := p.s.dropReq q.id, row := Mem.write p.row a bytes }
  | .far uids _ => { p with s := (if q.drop then p.s else p.s.runFar q.key uids lap).dropReq q.id }
  | _ => p

/-- One read of a row pass (R344, R345): of chunk c. -/
def RowPass.answerRead (p : RowPass) (q : CircleReq) (c lap : Nat) : RowPass :=
  let a := q.off % 1024
  match q.op with
  | .read wide => { p with s := p.s.answer q p.slice lap (BitVec.ofNat 64 (Mem.nat p.row a (if wide then 8 else 4))) 0 }
  | .snap n =>
    let lo := max q.off (1024 * c)
    let hi := min (q.off + n) (1024 * c + 1024)
    let dst := q.reply - 16 * ceilDiv n 16 + (lo - q.off)
    let s := p.s.post q p.slice dst (Mem.read p.row (lo - 1024 * c) (hi - lo)) (hi - lo) 0 false
    let left := q.left.filter (· != c)
    let q := { q with left := left }
    let s := s.modCircle q.id (fun r => { r with left := left })
    { p with s := if left.isEmpty then s.answer q p.slice q.ticket (BitVec.ofNat 64 n) 0 else s }
  | .far uids _ => { p with s := (if q.drop then p.s else p.s.runFar q.key uids lap).dropReq q.id }
  | _ => p

/-- Whether a request updates its row. -/
def CircleOp.updates : CircleOp → Bool
  | .update .. | .host _ => true
  | .far _ m => m
  | _ => false

/-- The bytes of a request. -/
def CircleOp.length : CircleOp → Nat
  | .update _ ty _ _ => circleWidth ty
  | .read wide => if wide then 8 else 4
  | .snap n => n
  | .host bs => bs.length
  | .far _ _ => 0

/-- A request of a row pass fails with the row (R347), with its record (R422). -/
def State.failInRow (s : State) (q : CircleReq) (slice : Option Nat) (lap code : Nat) : State :=
  match q.op with
  | .host bs => (s.plainError q.key.ctx q.obj.obj q.off bs.length code ⟨q.key.ctx, 0, 0⟩).dropReq q.id
  | .far uids _ => (uids.foldl (fun s uid => match s.setReq? q.key uid with
    | some r => s.dataError ⟨r.key, r.tix, r.pc, r.core⟩ 6 q.obj.obj 0 0 code
    | none => s) s).farFail q code
  | op => (s.dataError ⟨q.key, q.tix, q.pc, q.core⟩ 15 q.obj.obj q.off op.length code).refuseReply q slice (some lap) code

/-- The entries of a row due in a lap (R332). -/
def Slice.due (c : Slice) (o : OKey) (row lap : Nat) : List SliceEntry :=
  c.queue.filter (fun e => e.obj == o && e.rows.contains row && decide (e.ticket ≤ lap))

/-- The row is served for entries of a queue; those with no row left are removed (R332, R345). -/
def Slice.served (c : Slice) (o : OKey) (row lap : Nat) : Slice :=
  { c with queue := (c.queue.map (fun e =>
      if e.obj = o ∧ e.ticket ≤ lap then { e with rows := e.rows.filter (· != row) } else e)).filter (fun e => !e.rows.isEmpty) }

/-- The requests of some entries. -/
def State.reqsOf (s : State) (l : List SliceEntry) : List CircleReq := l.filterMap (fun e => s.circle? e.req)

/-- The pass of a row with work by a slice (R332). -/
def State.passRow (s : State) (o : OKey) (slice c lap : Nat) (due : List SliceEntry) : State :=
  let updates := (s.reqsOf (sortBy (fun (a b : SliceEntry) => decide (a.ticket ≤ b.ticket)) due)).filter (fun q => q.op.updates)
  let reads := (s.reqsOf due).filter (fun q => !q.op.updates)
  match s.readRow o c with
  | (s, .error e) => (updates ++ reads).foldl (fun s q => s.failInRow q (some slice) lap e) s
  | (s, .ok row) =>
    let p := updates.foldl (fun (p : RowPass) q => p.update q lap) (⟨s, some slice, row, []⟩ : RowPass)
    let p := p.settle 0 1024
    let p := { p with s := if p.row = row then p.s else p.s.writeRow o c p.row }
    (reads.foldl (fun (p : RowPass) q => p.answerRead q c lap) p).s

/-- CIRCLE_ROW_PASS (R332): a region slice passes its next row. -/
def execCircleRowPass (o : OKey) (slice : Nat) (s : State) : Host.Outcome State Fault Refusal :=
  match s.region? o, s.object? o with
  | some r, some e =>
    let rs := r.slice slice
    if slice < e.sliceCount ∧ rs.cursor < e.rows ∧ s.lapsRun o then
      let n := e.physical slice
      let due := (s.slice n).due o rs.cursor rs.lap
      let s := if due.isEmpty then s else
        (s.passRow o n (rs.cursor * e.sliceCount + slice) rs.lap due).modSlice n (fun c => c.served o rs.cursor rs.lap)
      let s := (((s.reqsOf due).map (fun q => s.coreOf q.key)).dedup).foldl (fun s n => s.refresh n) s
      let occ := (s.slice n).queue.length
      .next ((s.modRegion o (fun r => r.modSlice slice (fun rs =>
        { rs with cursor := rs.cursor + 1, occ := if rs.cursor + 1 = e.rows then occ else rs.occ }))).reapCircle)
    else .refused (.notEnabled "CIRCLE_ROW_PASS")
  | _, _ => .refused (.notEnabled "CIRCLE_ROW_PASS")

/-! ### Laps (R332, R333) -/

/-- LAP_END_REPORT (R332, R346). -/
def execLapEndReport (o : OKey) (slice : Nat) (s : State) : Host.Outcome State Fault Refusal :=
  match s.region? o, s.object? o with
  | some r, some e =>
    let rs := r.slice slice
    if slice < e.sliceCount ∧ e.rows ≤ rs.cursor ∧ !rs.reported then
      .next (s.modRegion o (fun r => r.modSlice slice (fun rs => { rs with reported := true, shown := some rs.occ })))
    else .refused (.notEnabled "LAP_END_REPORT")
  | _, _ => .refused (.notEnabled "LAP_END_REPORT")

/-- LAP_DECLARE (R333): every slice has reported the lap, 1,000 ticks have passed, every part of a snapshot is acknowledged. -/
def execLapDeclare (o : OKey) (s : State) : Host.Outcome State Fault Refusal :=
  match s.region? o, s.object? o with
  | some r, some e =>
    let ended := (List.range e.sliceCount).all (fun i => (r.slice i).lap == r.lap && (r.slice i).reported)
    if ended && s.mastered (s.entry o).home && decide (r.declaredAt + 1000 ≤ s.tb) && s.circle.all (fun q => q.obj != o || q.parts.isEmpty) then
      .next (s.modRegion o (fun r => { r with lap := r.lap + 1, declaredAt := s.tb }))
    else .refused (.notEnabled "LAP_DECLARE")
  | _, _ => .refused (.notEnabled "LAP_DECLARE")

/-- LAP_START (R333): the declaration reaches a slice. -/
def execLapStart (o : OKey) (slice : Nat) (s : State) : Host.Outcome State Fault Refusal :=
  match s.region? o, s.object? o with
  | some r, some e =>
    if slice < e.sliceCount ∧ (r.slice slice).lap < r.lap ∧ s.lapsRun o then
      .next (s.modRegion o (fun r => r.modSlice slice (fun rs => { rs with lap := r.lap, cursor := 0, reported := false })))
    else .refused (.notEnabled "LAP_START")
  | _, _ => .refused (.notEnabled "LAP_START")

/-! ### Landing (R338) -/

/-- Whether a reply lands after an earlier one: a request's record after its data (R345), and what one slice sends one thread in the
order in which it was applied or answered (R439). -/
def Reply.after (r earlier : Reply) : Bool :=
  (r.final && earlier.req == r.req)
    || (earlier.key == r.key && earlier.tix == r.tix && r.slice.isSome && earlier.slice == r.slice)

/-- CIRCLE_REPLY_LAND (R338): the k-th reply lands, in the scratchpad or in the saved image; its count waits for a later
service. -/
def execCircleReplyLand (k : Nat) (s : State) : Host.Outcome State Fault Refusal :=
  match s.replies[k]? with
  | none => .refused (.notEnabled "CIRCLE_REPLY_LAND")
  | some r =>
    if (s.replies.take k).any r.after then .refused (.notEnabled "CIRCLE_REPLY_LAND")
    else
      let s := { s with replies := dropAt s.replies k }
      .next ((s.modParcel r.key (fun p =>
        let p := p.engineStore r.off r.bytes
        { p with counts := p.counts ++ [⟨r.bar, r.count, r.err, r.req, if r.final then some r.tix else none⟩] })).refresh (s.coreOf r.key))

end Sys2Proof.Machine
end

