-- ==== Sys2Proof/Machine/Integer.lean ====
section
/-!
DEFINITION. The integer instructions (R155 to R158).
-/

namespace Sys2Proof.Machine

/-- x, the value in field a (R150, R156). -/
def Thread.intA (t : Thread) (x : RWord) : Int := t.int x.a x.za x.ty
/-- y, the value in field b. -/
def Thread.intB (t : Thread) (x : RWord) : Int := t.int x.b x.zb x.ty
/-- z, the value in field c. -/
def Thread.intC (t : Thread) (x : RWord) : Int := t.int x.c x.zc x.ty
/-- Imm(t) of format I as a value (R150). -/
def immInt (x : IWord) : Int := x.ty.intValue (immBits x.imm21 x.ty)
/-- Imm(t) of the L form as a value. -/
def longInt (x : LWord) : Int := x.ty.intValue (longBits x.imm64 x.ty)

/-- The pattern of an exact result: Sat(e, t) where V = 001, Wrap(e, w) otherwise (R156). -/
def intResult (ty : TypeCode) (v : BitVec 3) (e : Int) : Nat :=
  wrapInt (if v == 1 then satInt ty.signed ty.bits e else e) ty.bits

/-- Out(d, ·, t) of an exact result. -/
def Thread.outInt (t : Thread) (d : BitVec 9) (ty : TypeCode) (v : BitVec 3) (e : Int) : Thread := t.out d ty (intResult ty v e)

/-- ADD (R156). -/
def execAdd (x : RWord) (s : State) : Host.Outcome State Fault Refusal :=
  issueArith (.add x) (fun t => t.outInt x.d x.ty x.v (t.intA x + t.intB x)) s

/-- SUB (R156). -/
def execSub (x : RWord) (s : State) : Host.Outcome State Fault Refusal :=
  issueArith (.sub x) (fun t => t.outInt x.d x.ty x.v (t.intA x - t.intB x)) s

/-- MUL (R156). -/
def execMul (x : RWord) (s : State) : Host.Outcome State Fault Refusal :=
  issueArith (.mul x) (fun t => t.outInt x.d x.ty x.v (t.intA x * t.intB x)) s

/-- MULHI: the upper half of the product (R156). -/
def execMulhi (x : RWord) (s : State) : Host.Outcome State Fault Refusal :=
  issueArith (.mulhi x) (fun t => t.outInt x.d x.ty x.v (Int.fdiv (t.intA x * t.intB x) ((2 ^ x.ty.bits : Nat) : Int))) s

/-- MAD (R156). -/
def execMad (x : RWord) (s : State) : Host.Outcome State Fault Refusal :=
  issueArith (.mad x) (fun t => t.outInt x.d x.ty x.v (t.intA x * t.intB x + t.intC x)) s

/-- NEG (R156). -/
def execNeg (x : RWord) (s : State) : Host.Outcome State Fault Refusal :=
  issueArith (.neg x) (fun t => t.outInt x.d x.ty x.v (-(t.intA x))) s

/-- ABS (R156). -/
def execAbs (x : RWord) (s : State) : Host.Outcome State Fault Refusal :=
  issueArith (.abs x) (fun t => t.outInt x.d x.ty x.v (((t.intA x).natAbs : Int))) s

/-- MIN (R156). -/
def execMin (x : RWord) (s : State) : Host.Outcome State Fault Refusal :=
  issueArith (.min x) (fun t => t.outInt x.d x.ty x.v (Min.min (t.intA x) (t.intB x))) s

/-- MAX (R156). -/
def execMax (x : RWord) (s : State) : Host.Outcome State Fault Refusal :=
  issueArith (.max x) (fun t => t.outInt x.d x.ty x.v (Max.max (t.intA x) (t.intB x))) s

/-- CLAMP (R156). -/
def execClamp (x : RWord) (s : State) : Host.Outcome State Fault Refusal :=
  issueArith (.clamp x) (fun t => t.outInt x.d x.ty x.v (Min.min (Max.max (t.intA x) (t.intB x)) (t.intC x))) s

/-- SAD (R156). -/
def execSad (x : RWord) (s : State) : Host.Outcome State Fault Refusal :=
  issueArith (.sad x) (fun t => t.outInt x.d x.ty x.v (((t.intA x - t.intB x).natAbs : Int) + t.intC x)) s

/-- ADD with an immediate (R156). -/
def execAddImm (x : IWord) (s : State) : Host.Outcome State Fault Refusal :=
  issueArith (.addImm x) (fun t => t.outInt x.d x.ty x.v (t.int x.a false x.ty + immInt x)) s

/-- SUB with an immediate (R156). -/
def execSubImm (x : IWord) (s : State) : Host.Outcome State Fault Refusal :=
  issueArith (.subImm x) (fun t => t.outInt x.d x.ty x.v (t.int x.a false x.ty - immInt x)) s

/-- MUL with an immediate (R156). -/
def execMulImm (x : IWord) (s : State) : Host.Outcome State Fault Refusal :=
  issueArith (.mulImm x) (fun t => t.outInt x.d x.ty x.v (t.int x.a false x.ty * immInt x)) s

/-- MIN with an immediate (R156). -/
def execMinImm (x : IWord) (s : State) : Host.Outcome State Fault Refusal :=
  issueArith (.minImm x) (fun t => t.outInt x.d x.ty x.v (Min.min (t.int x.a false x.ty) (immInt x))) s

/-- MAX with an immediate (R156). -/
def execMaxImm (x : IWord) (s : State) : Host.Outcome State Fault Refusal :=
  issueArith (.maxImm x) (fun t => t.outInt x.d x.ty x.v (Max.max (t.int x.a false x.ty) (immInt x))) s

/-- ADD in the L form (R62, R156). -/
def execAddLong (x : LWord) (s : State) : Host.Outcome State Fault Refusal :=
  issueArith (.addLong x) (fun t => t.outInt x.d x.ty x.v (t.int x.a false x.ty + longInt x)) s

/-- SUB in the L form (R62, R156). -/
def execSubLong (x : LWord) (s : State) : Host.Outcome State Fault Refusal :=
  issueArith (.subLong x) (fun t => t.outInt x.d x.ty x.v (t.int x.a false x.ty - longInt x)) s

/-- DIVZ (R157). -/
def Trap.divz : Trap := { kind := 0x05 }

/-- DIV: the quotient truncated toward zero, or DIVZ (R157). -/
def execDiv (x : RWord) (s : State) : Host.Outcome State Fault Refusal :=
  issue (.div x) (arithBody (Instr.div x).sig (fun t =>
    if t.intB x = 0 then .error .divz
    else .ok (t.outInt x.d x.ty 0 (Int.tdiv (t.intA x) (t.intB x))))) s

/-- REM: the remainder, with the sign of the dividend, or DIVZ (R157). -/
def execRem (x : RWord) (s : State) : Host.Outcome State Fault Refusal :=
  issue (.rem x) (arithBody (Instr.rem x).sig (fun t =>
    if t.intB x = 0 then .error .divz
    else .ok (t.outInt x.d x.ty 0 (t.intA x - t.intB x * Int.tdiv (t.intA x) (t.intB x))))) s

/-- ADDC: the sum with carry in, and the carry or signed overflow out (R158). -/
def execAddc (x : RWord) (s : State) : Host.Outcome State Fault Refusal :=
  issueArith (.addc x) (fun t =>
    let e := t.intA x + t.intB x + (bit (t.pred x.predC) : Int)
    (t.outInt x.d x.ty 0 e).setPred x.predC (carryOut x.ty e)) s

/-- SUBB: the difference with borrow in, and the borrow or signed overflow out (R158). -/
def execSubb (x : RWord) (s : State) : Host.Outcome State Fault Refusal :=
  issueArith (.subb x) (fun t =>
    let e := t.intA x - t.intB x - (bit (t.pred x.predC) : Int)
    (t.outInt x.d x.ty 0 e).setPred x.predC (carryOut x.ty e)) s

end Sys2Proof.Machine
end

