-- ==== Sys2Proof/Machine/Compare.lean ====
section
/-!
DEFINITION. The compare and predicate instructions (R176, R177).
-/

namespace Sys2Proof.Machine

/-- CMP (R177). -/
def execCmp (x : RWord) (s : State) : Host.Outcome State Fault Refusal :=
  issueArith (.cmp x) (fun t => t.outPred x.d (intCond x.v (t.intA x) (t.intB x))) s

/-- CMP with an immediate (R177). -/
def execCmpImm (x : IWord) (s : State) : Host.Outcome State Fault Refusal :=
  issueArith (.cmpImm x) (fun t => t.outPred x.d (intCond x.v (t.int x.a false x.ty) (immInt x))) s

/-- CMP in the L form (R62, R177). -/
def execCmpLong (x : LWord) (s : State) : Host.Outcome State Fault Refusal :=
  issueArith (.cmpLong x) (fun t => t.outPred x.d (intCond x.v (t.int x.a false x.ty) (longInt x))) s

/-- FCMP (R177). -/
def execFcmp (x : RWord) (s : State) : Host.Outcome State Fault Refusal :=
  issueArith (.fcmp x) (fun t => t.outPred x.d (numCond x.v (t.numA x) (t.numB x))) s

/-- PLOP (R177). -/
def execPlop (x : RWord) (s : State) : Host.Outcome State Fault Refusal :=
  issueArith (.plop x) (fun t => t.outPred x.d (predFn x.v (t.predField x.a) (t.predField x.b))) s

/-- PMOV in both directions (R177). -/
def execPmov (x : RWord) (s : State) : Host.Outcome State Fault Refusal :=
  issueArith (.pmov x) (fun t =>
    if x.v == 1 then t.outPred x.d (t.u x.a x.za != 0) else t.out32 x.d (bit (t.predField x.a))) s

end Sys2Proof.Machine
end

