-- ==== Sys2Proof/Machine/Consist.lean ====
section
/-!
DEFINITION. Consists and collectives (R137 to R145): membership, arrivals, completion of an instance, and the folds over
the supplied values in rank order.
-/

namespace Sys2Proof

/-- c[3:0] of CSCAN, its segment predicate (R145). -/
def RWord.segPred (x : RWord) : Nat := (x.c.extractLsb' 0 4).toNat

end Sys2Proof

namespace Sys2Proof.Machine

/-! ### What a collective computes (R144, R145) -/

/-- Op(x, y) on patterns of a type. -/
def foldOp (ty : TypeCode) (v : BitVec 3) (x y : Nat) : Nat :=
  if ty.isInt then
    match v.toNat with
    | 0 => (x + y) % 2 ^ ty.bits
    | 1 => if ty.intValue x ≤ ty.intValue y then x else y
    | 2 => if ty.intValue x ≤ ty.intValue y then y else x
    | 3 => x &&& y
    | 4 => x ||| y
    | _ => x ^^^ y
  else match v.toNat with
    | 0 => ty.fmt.round .rne (Val.add false (ty.fmt.value x) (ty.fmt.value y))
    | 1 => pickBits ty false x y
    | _ => pickBits ty true x y

/-- The exclusive identity. -/
def foldIdentity (ty : TypeCode) (v : BitVec 3) : Nat :=
  if ty.isInt then
    match v.toNat with
    | 1 => if ty.signed then 2 ^ (ty.bits - 1) - 1 else 2 ^ ty.bits - 1
    | 2 => if ty.signed then 2 ^ (ty.bits - 1) else 0
    | 3 => 2 ^ ty.bits - 1
    | _ => 0
  else match v.toNat with
    | 1 => ty.fmt.round .rne (.inf false)
    | 2 => ty.fmt.round .rne (.inf true)
    | _ => 0

/-- A NaN result is the canonical NaN (R87, R144). -/
def canonical (ty : TypeCode) (b : Nat) : Nat :=
  if ty.isInt then b else if ty.fmt.value b == .nan then ty.fmt.nan else b

/-- The rank a CSHFL reads: rank `r` of `m` with operand `x`; its own rank where the computed one is no member's. -/
def shuffleRank (v : BitVec 3) (m r x : Nat) : Nat :=
  let k : Int := match v.toNat with
    | 0 => x
    | 1 => (r : Int) - x
    | 2 => (r : Int) + x
    | _ => (r ^^^ x : Nat)
  if 0 ≤ k ∧ k < m then k.toNat else r

/-- CSCAN over the supplied values; `none` is an accumulator that holds only the identity. A NaN result is canonical (R87), but
for the first value of a segment in an inclusive scan, which is unchanged (R145). -/
def scanFrom (ty : TypeCode) (v : BitVec 3) (excl seg : Bool) : Option Nat → List Arrival → List Nat
  | _, [] => []
  | acc, a :: rest =>
    let acc := if seg && a.seg then none else acc
    let inc := match acc with
      | some x => foldOp ty v x a.val.toNat
      | none => a.val.toNat
    (if excl then (acc.map (canonical ty)).getD (foldIdentity ty v) else inc) :: scanFrom ty v excl seg (some inc) rest

/-- The results of an instance, one per rank (R144, R145). -/
def CollKind.results (kind : CollKind) (sups : List Arrival) : List Nat :=
  let vals := sups.map (fun a => a.val.toNat)
  match kind with
  | .cbar => sups.map (fun _ => 0)
  | .cshfl _ v => (List.range sups.length).map (fun r =>
      match sups[r]? with
      | some a => (vals[shuffleRank v sups.length r a.aux.toNat]?).getD 0
      | none => 0)
  | .creduce ty v =>
    match vals with
    | [] => []
    | x :: rest => sups.map (fun _ => canonical ty (rest.foldl (foldOp ty v) x))
  | .cscan ty v excl seg => scanFrom ty v excl seg none sups
  | .cvote v =>
    let ones := (vals.filter (· != 0)).length
    let n := sups.length
    let r := match v.toNat with
      | 0 => bit (ones == n)
      | 1 => bit (ones != 0)
      | 2 => bit (ones == 0 || ones == n)
      | _ => ones
    sups.map (fun _ => r)

/-- The destination of a collective is written. -/
def CollKind.deliver (kind : CollKind) (d : Nat) (r : Nat) (t : Thread) : Thread :=
  match kind with
  | .cbar => t
  | .cshfl ty _ | .creduce ty _ | .cscan ty _ _ _ => t.out (BitVec.ofNat 9 d) ty r
  | .cvote v => if v == 3 then t.out32 (BitVec.ofNat 9 d) r else t.outPred (BitVec.ofNat 9 d) (r != 0)

/-! ### Completion (R139, R140) -/

/-- A waiting thread of a parcel goes on after its instruction, with a change to it. -/
def Parcel.resume (p : Parcel) (tix : Nat) (f : Thread → Thread) : Parcel :=
  { p.modThread tix (fun t => { f (t.retire (t.pc + 8)) with status := .ready }) with retired := bump p.retired }

/-- The threads in membership wait on a consist, in ascending `%tix` order. -/
def Parcel.joinersOf (p : Parcel) (h : Word) : List Nat :=
  sortBy (fun a b => decide (a ≤ b)) ((p.threads.filter (fun t => t.status == .membership h)).map (fun t => t.tix))

/-- COLLECTIVE_COMPLETE by a thread, where every current member has arrived (R139): every destination is written, every member goes on,
and the threads in membership wait join (R140). The completed instance is a barrier phase of its consist (R355, R364). -/
def State.completeInstance (s : State) (k : PKey) (h : Word) (tix : Nat) : State :=
  match s.parcel? k, s.consist? k h with
  | some p, some c =>
    match c.open? with
    | none => s
    | some i =>
      if c.ranks.all (fun t => i.arrivals.any (fun a => a.tix == t)) then
        let sups := c.ranks.filterMap (fun t => i.arrivals.find? (fun a => a.tix == t))
        let joiners := p.joinersOf h
        let s := s.modParcel k (fun p =>
          let p := (sups.zip (i.kind.results sups)).foldl (fun p (a : Arrival × Nat) =>
            p.resume a.1.tix (fun t =>
              { i.kind.deliver a.1.d a.2 t with detect := t.detect.phaseAcquire (.consist h) c.completed })) p
          joiners.foldl (fun p t => p.resume t id) p)
        let s := s.modConsist k h (fun c => { c with
          open? := none, completed := c.completed + 1, members := c.members ||| bitmapOf joiners })
        (s.replayEntry k h.toNat c.completed.toNat i.rsum true).wake (k.thread tix)
      else s
  | _, _ => s

/-- A member leaves a consist, which may complete its open instance (R140). -/
def State.leaveConsist (s : State) (k : PKey) (h : Word) (tix : Nat) : State :=
  (s.modConsist k h (fun c => { c with members := c.members &&& ~~~(bitmapOf [tix]) })).completeInstance k h tix

/-- Arrival at a collective instance (R138, R139): the traps in the order of R138, then the arrival, which is a release
(R364) and waits until the thread's older stores are performed (R355; DEDUCED, log entry 48). -/
def State.arriveCollective (s : State) (k : PKey) (t : Thread) (h : Word) (kind : CollKind) (d : Nat) (val : DWord) (aux : Word)
    (seg : Bool) : Effect :=
  match s.consist? k h with
  | none => .trap (.mmx 0x12 h.toNat)
  | some c =>
    if !c.has t.tix then .trap (.mmx 0x13 h.toNat)
    else if (match c.open? with
      | some i => i.kind != kind
      | none => false) then .trap (.mmx 0x14 h.toNat)
    else if !t.storeQ.isEmpty then .wait .storesDone
    else
      let s := s.modThread k t.tix (fun t =>
        let detect := t.detect.release.2
        { t with status := .collective h, detect := detect.insRing (.consist h) c.completed detect.rc })
      let s := s.modConsist k h (fun c =>
        let i := c.open?.getD ⟨kind, [], 0⟩
        { c with open? := some { i with arrivals := i.arrivals ++ [⟨t.tix, d, val, aux, seg⟩], rsum := i.rsum + t.retired } })
      .stay (s.completeInstance k h t.tix)

/-! ### The instructions -/

/-- CNEW (R142): `.grp` makes one consist of the threads that execute it, `.empty` and `.self` one for each; without room for all of
them none is made and every issuing thread receives 0. -/
def execCnew (x : RWord) (s : State) : Host.Outcome State Fault Refusal :=
  let pre (g : Group) (tixs : List Nat) (s : State) : State × Option Word :=
    if tixs.isEmpty then (s, none)
    else if !s.consistRoom g.core (if x.v == 2 then 1 else tixs.length) then (s, some 0)
    else if x.v != 2 then (s, none)
    else if s.indexLeft g.key.launchKey g.core then
      let r := s.newConsist g.core g.key tixs
      (r.1, some r.2)
    else (s, none)
  let finish (s : State) (k : PKey) (t : Thread) (h : Word) : Effect :=
    .next (s.modThread k t.tix (fun t => (t.out32 x.d h.toNat).mark (Instr.cnew x).sig))
  issueWith (.cnew x) pre (fun shared s k t =>
    match shared with
    | some h => finish s k t h
    | none =>
      if x.v == 2 || !s.indexLeft k.launchKey (s.coreOf k) then .wait (.setIndex s.clk)
      else
        let r := s.newConsist (s.coreOf k) k (if x.v == 1 then [t.tix] else [])
        finish r.1 k t r.2) (fun _ s => s) s

/-- CFREE (R142): waiting members and joiners raise MMX "stale consist" at their instructions. -/
def execCfree (x : RWord) (s : State) : Host.Outcome State Fault Refusal :=
  issue (.cfree x) (fun s k t =>
    let h : Word := BitVec.ofNat 32 (t.u x.a x.za)
    match s.parcel? k, s.consist? k h with
    | some p, some _ =>
      let waiting := (p.threads.filter (fun u => u.status == .collective h || u.status == .membership h)).map (fun u => u.tix)
      .next (waiting.foldl (fun s u => s.trap k u (.mmx 0x12 h.toNat)) (s.dropConsist k h))
    | _, _ => .trap (.mmx 0x12 h.toNat)) s

/-- JOIN (R140, R142). -/
def execJoin (x : RWord) (s : State) : Host.Outcome State Fault Refusal :=
  issue (.join x) (fun s k t =>
    let h : Word := BitVec.ofNat 32 (t.u x.a x.za)
    match s.consist? k h with
    | none => .trap (.mmx 0x12 h.toNat)
    | some c =>
      if c.has t.tix then .next s
      else if c.open?.isSome then .stay (s.modThread k t.tix (fun t => { t with status := .membership h }))
      else .next (s.modConsist k h (fun c => { c with members := c.members ||| bitmapOf [t.tix] }))) s

/-- LEAVE (R140, R142). -/
def execLeave (x : RWord) (s : State) : Host.Outcome State Fault Refusal :=
  issue (.leave x) (fun s k t =>
    let h : Word := BitVec.ofNat 32 (t.u x.a x.za)
    match s.consist? k h with
    | none => .trap (.mmx 0x12 h.toNat)
    | some c => .next (if c.has t.tix then s.leaveConsist k h t.tix else s)) s

/-- The handle that a thread of a group names in field a, where the thread is a member of that consist. -/
def State.membership? (s : State) (k : PKey) (x : RWord) (tix : Nat) : Option Word :=
  match s.thread? k tix with
  | none => none
  | some t =>
    let h : Word := BitVec.ofNat 32 (t.u x.a x.za)
    match s.consist? k h with
    | some c => if c.has tix then some h else none
    | none => none

/-- ELECT (R143): the lowest `%tix` among the executing members that name one handle. -/
def execElect (x : RWord) (s : State) : Host.Outcome State Fault Refusal :=
  issueWith (.elect x) (fun _ tixs s => (s, tixs)) (fun tixs s k t =>
    let chosen := match s.membership? k x t.tix with
      | none => false
      | some h => tixs.all (fun u => decide (t.tix ≤ u) || s.membership? k x u != some h)
    .next (s.modThread k t.tix (fun t => (t.outPred x.d chosen).mark (Instr.elect x).sig))) (fun _ s => s) s

/-- CBAR (R139). -/
def execCbar (x : RWord) (s : State) : Host.Outcome State Fault Refusal :=
  issue (.cbar x) (fun s k t => s.arriveCollective k t (BitVec.ofNat 32 (t.u x.a x.za)) .cbar 0 0 0 false) s

/-- CSHFL (R144). -/
def execCshfl (x : RWord) (s : State) : Host.Outcome State Fault Refusal :=
  issue (.cshfl x) (fun s k t =>
    s.arriveCollective k t (BitVec.ofNat 32 (t.u x.c x.zc)) (.cshfl x.ty x.v) x.d.toNat (BitVec.ofNat 64 (t.bits x.a x.za x.ty))
      (BitVec.ofNat 32 (t.u x.b x.zb)) false) s

/-- CREDUCE (R144). -/
def execCreduce (x : RWord) (s : State) : Host.Outcome State Fault Refusal :=
  issue (.creduce x) (fun s k t =>
    s.arriveCollective k t (BitVec.ofNat 32 (t.u x.b x.zb)) (.creduce x.ty x.v) x.d.toNat (BitVec.ofNat 64 (t.bits x.a x.za x.ty))
      0 false) s

/-- CSCAN (R145): c[4] is `.excl`, c[5] the segmented form. -/
def execCscan (x : RWord) (s : State) : Host.Outcome State Fault Refusal :=
  issue (.cscan x) (fun s k t =>
    s.arriveCollective k t (BitVec.ofNat 32 (t.u x.b x.zb)) (.cscan x.ty x.v (x.c.getLsbD 4) (x.c.getLsbD 5)) x.d.toNat
      (BitVec.ofNat 64 (t.bits x.a x.za x.ty)) 0 (x.c.getLsbD 5 && t.pred x.segPred)) s

/-- CVOTE (R144). -/
def execCvote (x : RWord) (s : State) : Host.Outcome State Fault Refusal :=
  issue (.cvote x) (fun s k t =>
    s.arriveCollective k t (BitVec.ofNat 32 (t.u x.b x.zb)) (.cvote x.v) x.d.toNat (if t.predField x.a then 1 else 0) 0 false) s

end Sys2Proof.Machine
end

