-- ==== Sys2Proof/Machine/Index.lean ====
section
/-!
DEFINITION. The index engine (R238 to R240, R242): CPXG, CPXS, ENGRES, and the step that takes one element.
-/

namespace Sys2Proof.Machine

/-! ### The index block (R238) -/

/-- COUNT. -/
def ixCount (b : BitVec 256) : Nat := (b.extractLsb' 224 32).toNat
/-- LIST. -/
def ixList (b : BitVec 256) : Nat := (b.extractLsb' 192 32).toNat
/-- STRIDE. -/
def ixStride (b : BitVec 256) : Nat := (b.extractLsb' 128 48).toNat
/-- TOFF. -/
def ixToff (b : BitVec 256) : Nat := (b.extractLsb' 64 48).toNat
/-- ROW. -/
def ixRow (b : BitVec 256) : Nat := (b.extractLsb' 32 32).toNat
/-- CAP. -/
def ixCap (b : BitVec 256) : Nat := (b.extractLsb' 0 3).toNat
/-- Whether a reserved bit is set. -/
def ixReserved (b : BitVec 256) : Bool := b.extractLsb' 176 16 != 0 || b.extractLsb' 112 16 != 0 || b.extractLsb' 3 29 != 0

/-- Validation: the first code that applies, 0 if none does. Local row e lies at `rows` + e × ROW (log entry 21). -/
def ixCode (b : BitVec 256) (rows size cls : Nat) : Nat :=
  let n := ixCount b
  let row := ixRow b
  if row < 4 || 65536 < row || row % 4 != 0 then 0x03
  else if ixList b % 4 != 0 || rows % 16 != 0 then 0x05
  else if size < ixList b + 4 * n || size < rows + n * row then 0x08
  else if ixReserved b then 0x09
  else if cls == 5 || cls == 6 then 0x23
  else 0

/-! ### Status, failure, completion -/

/-- The status record (R240), as an engine store. -/
def State.jobStatus (s : State) (k : PKey) (at' state cursor num : Nat) : State :=
  s.modParcel k (fun p => p.engineStore at' (leBytes 16 (state * 2 ^ 96 + cursor % 2 ^ 32 * 2 ^ 64 + num % 2 ^ 64)))

/-- Change a job. -/
def State.modJob (s : State) (core uid : Nat) (f : IndexJob → IndexJob) : State :=
  s.modCore core (fun c => { c with index := c.index.map (fun j => if j.uid = uid then f j else j) })

/-- Remove a job that has ended; its CURSOR stays on its timeline (R242). -/
def State.dropJob (s : State) (core : Nat) (j : IndexJob) : State :=
  s.modCore core (fun c => { c with
    index := c.index.filter (fun x => x.uid != j.uid),
    jobCursors := if j.restored then c.jobCursors else Tbl.put 0xFFFFFFFF c.jobCursors j.num j.cursor })

/-- A job has failed with a code (R232, R240): what it and the jobs before it have handed over is served first, in number order
(R228). -/
def State.failJob (s : State) (core : Nat) (j : IndexJob) (code : Word) : State :=
  let before := ((s.core core).index.takeWhile (fun x => x.uid != j.uid)).filter (fun x => x.key == j.key)
  let s := before.foldl (fun s x => s.drainReq x.key x.uid) s
  let s := (s.drainReq j.key j.uid).jobStatus j.key j.statusAt 2 j.cursor j.num
  (s.dropJob core j).fail j.key j.tix 4 .copies j.num j.restored (some j.bar) ((ixCount j.blk - j.cursor) * ixRow j.blk) code

/-- The code with which a suspended job is aborted (R239). -/
def IndexJob.abortCode (j : IndexJob) : Word := if j.suspended = 4 then 0x31 else 0x30

/-- The suspended jobs of a parcel are aborted (R239). -/
def State.abortJobs (s : State) (core : Nat) (k : PKey) : State :=
  ((s.core core).index.filter (fun j => j.key == k && j.suspended != 0)).foldl (fun s j => s.failJob core j j.abortCode) s

/-- A job suspends with a cause: 3 a bad index, 4 a lease violation (R239). One whose parcel has no thread left is aborted. -/
def State.suspendJob (s : State) (core : Nat) (j : IndexJob) (cause : Nat) : State :=
  let s := (s.jobStatus j.key j.statusAt cause j.cursor j.num).modJob core j.uid (fun j => { j with suspended := cause })
  if (s.parcel j.key).threads.all (fun t => t.exited) then s.abortJobs core j.key else s

/-- Whether bytes of a request still wait for the port or for their count. -/
def Parcel.inFlight (p : Parcel) (req : Nat) : Bool := p.landings.any (fun l => l.req == req) || p.counts.any (fun c => c.req == req)

/-- The scratchpad ranges that a job has still to write: its landings, the rows it has not taken, its status record. -/
def Parcel.jobWrites (p : Parcel) (j : IndexJob) : List (Nat × Nat) :=
  let row := ixRow j.blk
  let left := ixCount j.blk - j.cursor
  ((p.landings.filter (fun l => l.req == j.uid)).flatMap (fun l => l.pieces.map (fun x => (x.1, x.2.length))))
    ++ (if j.scatter || j.code != 0 || left = 0 then [] else [(j.rows + j.cursor * row, left * row)]) ++ [(j.statusAt, 16)]

/-- The scratchpad ranges that a job may write as it goes on: its next row, its status record. -/
def IndexJob.nextWrites (j : IndexJob) : List (Nat × Nat) :=
  let row := ixRow j.blk
  (if j.scatter || j.code != 0 || decide (ixCount j.blk ≤ j.cursor) then [] else [(j.rows + j.cursor * row, row)]) ++ [(j.statusAt, 16)]

/-- Whether an earlier job of the context, not suspended, has still to write a 64-byte unit that a job may write as it goes on: the
writes of one context to one unit are in number order (R228, R356). -/
def State.jobBehind (s : State) (core : Nat) (j : IndexJob) : Bool :=
  ((s.core core).index.takeWhile (fun e => e.uid != j.uid)).any (fun e => e.key == j.key && e.suspended == 0
    && shareUnit ((s.parcel j.key).jobWrites e) j.nextWrites)

/-! ### Instructions -/

/-- CPXG and CPXS at issue (R234, R238). -/
def indexBody (x : EWord) (scatter : Bool) : Body := fun s k t =>
  match s.engineGate k t .copies 4 with
  | some w => .wait w
  | none =>
    let p := s.parcel k
    let blkAt := t.u x.p false
    let rows := t.u x.x false
    let statusAt := t.u x.y false
    let bar := t.u x.bar false
    match firstTrap [p.block blkAt 32, p.bound statusAt 16 16, p.bound bar 16 16] with
    | some r => .trap r
    | none =>
      let b : BitVec 256 := BitVec.ofNat 256 (p.nat blkAt 32)
      let cap := t.cap (ixCap b)
      let code := ixCode b rows p.spSize (s.classOf ⟨k.ctx, capObj cap⟩)
      let right : Right := if scatter then .w else .r
      let r := s.number k t.tix 4 .copies
      let job : IndexJob := ⟨r.2.1, r.2.2, false, k, t.tix, t.pc, scatter, b, cap, rows, statusAt, bar, 0, 0, BitVec.ofNat 32 code⟩
      let queued := r.1.modCore p.core (fun c => { c with index := c.index ++ [job] })
      -- a job that ends at once writes its status record behind what earlier jobs have still to write there
      let waits := r.1.jobBehind p.core job
      if code != 0 then
        if waits then .next queued
        else
          let s := (r.1.jobStatus k statusAt 2 0 r.2.2).modCore p.core (fun c => { c with
            jobCursors := Tbl.put 0xFFFFFFFF c.jobCursors r.2.2 0 })
          .next (s.fail k t.tix 4 .copies r.2.2 false (some bar) (ixCount b * ixRow b) (BitVec.ofNat 32 code))
      else match capTrap cap right (ixToff b) 0 with
        | some r => .trap r
        | none =>
          if ixCount b = 0 && !waits then
            let s := r.1.modCore p.core (fun c => { c with jobCursors := Tbl.put 0xFFFFFFFF c.jobCursors r.2.2 0 })
            .next ((s.jobStatus k statusAt 0 0 r.2.2).complete k t.tix 4 .copies r.2.2 false)
          else .next queued

/-- CPXG (R234, R238). -/
def execCpxg (x : EWord) (s : State) : Host.Outcome State Fault Refusal := issue (.cpxg x) (indexBody x false) s

/-- CPXS (R234, R238). -/
def execCpxs (x : EWord) (s : State) : Host.Outcome State Fault Refusal := issue (.cpxs x) (indexBody x true) s

/-- ENGRES (R242): on a suspended job, retry, skip or abort; otherwise no effect. -/
def execEngres (x : EWord) (s : State) : Host.Outcome State Fault Refusal :=
  issue (.engres x) (fun s k t =>
    let core := s.coreOf k
    let n := t.d64 x.y false
    match (s.core core).index.find? (fun j => j.num == n && !j.restored && j.suspended != 0) with
    | none => .next s
    | some j => .next (match (x.mod.extractLsb' 0 2).toNat with
      | 0 => s.modJob core j.uid (fun j => { j with suspended := 0 })
      | 1 =>
        let s := s.modJob core j.uid (fun j => { j with suspended := 0, cursor := j.cursor + 1 })
        s.handCount j.key (some j.bar) (ixRow j.blk) j.uid
      | _ => s.failJob core j j.abortCode)) s

/-! ### INDEX_ELEMENT (R239) -/

/-- Move the row of element e: a gather lands it in local row e, a scatter writes the table row and counts it. -/
def State.moveRow (s : State) (core : Nat) (j : IndexJob) (a : Nat) : State :=
  let o : OKey := ⟨j.key.ctx, capObj j.cap⟩
  let row := ixRow j.blk
  let local' := j.rows + j.cursor * row
  let who : Issuer := ⟨j.key, j.tix, j.pc, core⟩
  let bad (s : State) (e : Nat) : State := (s.dataError who 4 o.obj a row e).failJob core j (BitVec.ofNat 32 e)
  let advance (s : State) : State := s.modJob core j.uid (fun j => { j with cursor := j.cursor + 1 })
  if j.scatter then
    if s.writeRefused o != 0 then bad s (s.writeRefused o)
    else
      let r := s.writeObject (dieOf core) o a (Mem.read (s.parcel j.key).spad local' row)
      if r.2 != 0 then bad r.1 r.2
      else advance (r.1.handCount j.key (some j.bar) row j.uid)
  else match s.readObject (dieOf core) o a row with
    | (s, .error e) => bad s e
    | (s, .ok bs) => advance (s.modParcel j.key (fun p => { p with
        landings := p.landings ++ landingsOf none [(local', bs)] (some j.bar) row j.uid }))

/-- The next job that can go on: not suspended, with a code to fail with, with an element left, or with every row counted. -/
def State.nextJob (s : State) (core : Nat) : Option IndexJob :=
  (s.core core).index.find? (fun j => j.suspended == 0 &&
    (j.code != 0 || decide (j.cursor < ixCount j.blk) || !(s.parcel j.key).inFlight j.uid) && !s.jobBehind core j)

/-- INDEX_ELEMENT (R239, R240): the index engine takes the next element of its job, or ends a job whose rows are counted; not on a
core that halts (R243). -/
def execIndexElement (core : Nat) (s : State) : Host.Outcome State Fault Refusal :=
  match s.nextJob core with
  | none => .refused (.notEnabled "INDEX_ELEMENT")
  | some j =>
    let n := ixCount j.blk
    if (s.core core).halting then .refused (.notEnabled "INDEX_ELEMENT")
    else if j.code != 0 then .next ((s.failJob core j j.code).refresh core)
    else if n ≤ j.cursor then
      let s := (s.jobStatus j.key j.statusAt 0 n j.num).dropJob core j
      .next ((s.complete j.key j.tix 4 .copies j.num j.restored).refresh core)
    else
      let i := (s.parcel j.key).nat (ixList j.blk + 4 * j.cursor) 4
      let a := ixToff j.blk + i * ixStride j.blk
      let right : Right := if j.scatter then .w else .r
      .next ((if capLen j.cap < a + ixRow j.blk then s.suspendJob core j 3
        else if !s.leased j.key (capObj j.cap) right (capBase j.cap + a) (ixRow j.blk) then s.suspendJob core j 4
        else s.moveRow core j (capBase j.cap + a)).refresh core)

end Sys2Proof.Machine
end

