-- ==== Sys2Proof/Machine/Control.lean ====
section
/-!
DEFINITION. Control instructions (R124, R130 to R134): branches, calls and returns, EXIT, YIELD, NOP, and the wake of
yielded threads.
-/

namespace Sys2Proof

/-- The target of a format B branch: (a + 8 × off32) mod 2^32 (R131). -/
def BWord.target (x : BWord) (pc : Word) : Word := pc + 8 * x.off32

end Sys2Proof

namespace Sys2Proof.Machine

/-! ### Branches (R131) -/

/-- A branch with its faults; `link` is written before the PC changes. -/
def State.branch (s : State) (k : PKey) (t : Thread) (tgt : Word) (link : Option Nat) : Effect :=
  match (s.core (s.coreOf k)).branchFault k.launchKey tgt with
  | some r => .trap r
  | none => match link with
    | none => .jump s tgt
    | some d => .jump (s.modThread k t.tix (fun th => th.setReg d (t.pc + 8))) tgt

/-- BRA (R131). -/
def execBra (x : BWord) (s : State) : Host.Outcome State Fault Refusal :=
  issue (.bra x) (fun s k t => s.branch k t (x.target t.pc) none) s

/-- Every thread of the group that has evaluated the guard raises NONUNIF at its BRU (R124). -/
def nonuniform (g : Group) (x : BWord) (s : State) : Host.Outcome State Fault Refusal :=
  .next ((g.tixs.foldl (fun (s : State) tix =>
    match s.thread? g.key tix, s.readiness g (Instr.bru x).sig tix with
    | some t, .go => s.trap g.key tix { kind := 0x09, addr := (x.target t.pc).toNat }
    | some t, .skip => s.trap g.key tix { kind := 0x09, addr := (x.target t.pc).toNat }
    | some _, .pending ds => s.modThread g.key tix (fun t => { t with status := .engine (.dests ds), reuse := none })
    | _, _ => s) { s with group := none }).refresh g.core)

/-- BRU (R124, R131). -/
def execBru (x : BWord) (s : State) : Host.Outcome State Fault Refusal :=
  let branch (s : State) := issue (.bru x) (fun s k t => s.branch k t (x.target t.pc) none) s
  match s.group with
  | none => .refused .noGroup
  | some g =>
    let sig := (Instr.bru x).sig
    let uniform := (s.executing g sig).isEmpty || !g.tixs.any (fun t => s.readiness g sig t == .skip)
    if s.held g sig || uniform then branch s
    else
      let s := s.count g.key.ctx 0x011 1
      match s.launch? g.key.launchKey with
      | some l => if l.nonunif then nonuniform g x s else branch s
      | none => branch s

/-- BRX (R131). -/
def execBrx (x : RWord) (s : State) : Host.Outcome State Fault Refusal :=
  issue (.brx x) (fun s k t => s.branch k t (BitVec.ofNat 32 (t.u x.a x.za)) none) s

/-- CALL: it links g1 (R131). -/
def execCall (x : BWord) (s : State) : Host.Outcome State Fault Refusal :=
  issue (.call x) (fun s k t => s.branch k t (x.target t.pc) (some 1)) s

/-- CALLX: the target is read before the link is written (R131). -/
def execCallx (x : RWord) (s : State) : Host.Outcome State Fault Refusal :=
  issue (.callx x) (fun s k t => s.branch k t (BitVec.ofNat 32 (t.u x.a x.za)) (some x.d.toNat)) s

/-- RET (R131). -/
def execRet (x : RWord) (s : State) : Host.Outcome State Fault Refusal :=
  issue (.ret x) (fun s k t => s.branch k t (BitVec.ofNat 32 (t.u x.a x.za)) none) s

/-! ### EXIT, YIELD, NOP -/

/-- The consists of a parcel that a thread belongs to. -/
def Parcel.consistsOf (p : Parcel) (tix : Nat) : List Word := (p.consists.filter (fun c => c.has tix)).map (fun c => c.handle)

/-- EXIT's effect on a thread whose stores are performed (R132): it leaves its consists, discards its pending results and
frees its slot; with the last thread of a parcel, suspended index jobs are aborted (R239). -/
def State.exitThread (s : State) (k : PKey) (tix : Nat) : State :=
  match s.parcel? k, s.thread? k tix with
  | some p, some t =>
    let s := (p.consistsOf tix).foldl (fun s h => s.leaveConsist k h tix) s
    let s := s.modParcel k (fun p => (p.retire tix t.pc).modThread tix (fun t =>
      { t with status := .exited, due := [], pend := [], deliver := [], reuse := none }))
    let s := s.modCore p.core (fun c => { c with
      recentExit := c.recentExit.filter (fun e => e.1 != t.slot) ++ [(t.slot, k.thread tix, t.pc, t.tstate)] })
    let s := s.noteFreed p.core { s.nothingFreed k.ctx with threads := s.slotsHeld { p with threads := [t] } }
    if (s.parcel k).threads.all (fun t => t.exited) then s.abortJobs p.core k else s
  | _, _ => s

/-- EXIT (R132). -/
def execExit (x : RWord) (s : State) : Host.Outcome State Fault Refusal :=
  issue (.exit x) (fun s k t => if t.storeQ.isEmpty then .stay (s.exitThread k t.tix) else .wait .storesDone) s

/-- YIELD (R133): the thread is yielded since this cycle (R436); one whose parcel has no other runnable thread is made ready
again at once. -/
def execYield (x : RWord) (s : State) : Host.Outcome State Fault Refusal :=
  issue (.yield x) (fun s k t => .next (s.modThread k t.tix (fun t => { t with status := .yielded s.clk }))) s

/-- NOP (R134). -/
def execNop (x : RWord) (s : State) : Host.Outcome State Fault Refusal := issue (.nop x) (fun s _ _ => .next s) s

/-- The wake events of a launch that may reach a core now: on the core of the event's own thread from the next cycle on, on
another at any time (R133). -/
def State.wakesDue (s : State) (core : Nat) (l : LKey) : List Wake :=
  (s.core core).wakes.filter (fun w => w.launch == l && (decide (w.clk < s.clk) || s.coreOf w.actor.parcelKey != core))

/-- Whether some wake event wakes a thread: another thread's, no earlier than the cycle in which the thread's YIELD retired
(R133, R436). -/
def wakesThread (ws : List Wake) (me : TRef) (t : Thread) : Bool :=
  match t.status with
  | .yielded since => ws.any (fun w => w.actor != me && decide (since ≤ w.clk))
  | _ => false

/-- YIELD_WAKE (R133, R436): wake events reach a core, and the yielded threads of the launch there that they wake become
ready. -/
def execYieldWake (core : Nat) (l : LKey) (s : State) : Host.Outcome State Fault Refusal :=
  let due := s.wakesDue core l
  if due.isEmpty then .refused (.notEnabled "YIELD_WAKE")
  else
    let s := s.modCore core (fun c => { c with wakes := c.wakes.filter (fun w => !due.contains w) })
    let woken (p : Parcel) : Parcel :=
      if p.runsOn core && p.key.launchKey == l then { p with threads := p.threads.map (fun t =>
        if wakesThread due (p.key.thread t.tix) t then { t with status := .ready } else t) }
      else p
    .next (State.refresh { s with parcels := s.parcels.map woken } core)

end Sys2Proof.Machine
end

