-- ==== Sys2Proof/Machine/Convert.lean ====
section
/-!
DEFINITION. The conversion and move instructions (R170 to R175).
-/

namespace Sys2Proof.Machine

/-- The rounding of a CVT or PACK element (R69, R95): under `.sr` it takes one step of the thread's generator. -/
def Thread.rounding (t : Thread) (v : BitVec 3) : RMode × Thread :=
  if v == 4 then (.sr (srStep t.srseed).toNat, { t with srseed := srStep t.srseed }) else (RMode.ofCode v.toNat, t)

/-- Round(x, dt, mode) (R92, R93, R171). -/
def cvtBits (dt : TypeCode) (mode : RMode) (x : Val) : Nat :=
  if dt.isInt then wrapInt (roundInt dt.signed dt.bits mode x) dt.bits else dt.fmt.round mode x

/-- One element converted as CVT converts it, with the generator step it takes. -/
def Thread.convert (t : Thread) (x : RWord) (e : Val) : Nat × Thread :=
  let r := t.rounding x.v
  (cvtBits x.ty r.1 e, r.2)

/-- CVT (R171). -/
def execCvt (x : RWord) (s : State) : Host.Outcome State Fault Refusal :=
  issueArith (.cvt x) (fun t =>
    let r := t.convert x (t.num x.a x.za x.srcType)
    r.2.out x.d x.ty r.1) s

/-- PACK: element 0, then element 1 (R172). -/
def execPack (x : RWord) (s : State) : Host.Outcome State Fault Refusal :=
  issueArith (.pack x) (fun t =>
    let r0 := t.convert x (t.num x.a x.za x.srcType)
    let r1 := r0.2.convert x (t.num x.b x.zb x.srcType)
    if x.ty.bits = 16 then r1.2.out32 x.d (r1.1 * 2 ^ 16 + r0.1)
    else r1.2.out32 x.d ((t.reg x.d.toNat).toNat % 2 ^ 16 * 2 ^ 16 + r1.1 * 2 ^ 8 + r0.1)) s

/-- Element i of UNPACK's source (R173). -/
def unpackElement (x : RWord) (a b i : Nat) : Nat :=
  if x.srcType.bits = 16 then bitsOf a (16 * i + 15) (16 * i)
  else bitsOf a (8 * (2 * (b % 2) + i) + 7) (8 * (2 * (b % 2) + i))

/-- UNPACK (R173). -/
def execUnpack (x : RWord) (s : State) : Host.Outcome State Fault Refusal :=
  issueArith (.unpack x) (fun t =>
    let e (i : Nat) : Nat :=
      cvtBits x.ty .rne (x.srcType.value (unpackElement x (t.u x.a x.za) (t.u x.b x.zb) i))
    t.out64 x.d (e 1 * 2 ^ 32 + e 0)) s

/-- FRND (R174). -/
def execFrnd (x : RWord) (s : State) : Host.Outcome State Fault Refusal :=
  issueArith (.frnd x) (fun t => t.outNum x ((t.numA x).integral x.mode)) s

/-- MOV (R175). -/
def execMov (x : RWord) (s : State) : Host.Outcome State Fault Refusal :=
  issueArith (.mov x) (fun t => t.out x.d x.ty (t.bits x.a x.za x.ty)) s

/-- SEL (R175). -/
def execSel (x : RWord) (s : State) : Host.Outcome State Fault Refusal :=
  issueArith (.sel x) (fun t =>
    t.out x.d x.ty (if t.pred x.predC then t.bits x.a x.za x.ty else t.bits x.b x.zb x.ty)) s

/-- MOVI (R175). -/
def execMovi (x : IWord) (s : State) : Host.Outcome State Fault Refusal :=
  issueArith (.movi x) (fun t => t.out x.d x.ty (immBits x.imm21 x.ty)) s

/-- MOVI in the L form (R62, R175). -/
def execMoviLong (x : LWord) (s : State) : Host.Outcome State Fault Refusal :=
  issueArith (.moviLong x) (fun t => t.out x.d x.ty (longBits x.imm64 x.ty)) s

end Sys2Proof.Machine
end

