-- ==== Sys2Proof/Machine/MatrixOrder.lean ====
section
/-!
DEFINITION. Matrix order (R257): how the matrix context of a core starts, steps, completes and fails its requests and
queries (R256, R264, R269), signal-box assists (R106 to R108, R414), and the completion of drains (R289 to R294).
-/

namespace Sys2Proof.Machine

/-! ### The head of matrix order -/

/-- Change the first request of the matrix context. -/
def Core.modHead (c : Core) (f : MatrixReq → MatrixReq) : Core :=
  match c.matrix with
  | [] => c
  | r :: rest => { c with matrix := f r :: rest }

/-- The bytes a request counts on its barrier (R256, R279, R292); 0 for a request without one. -/
def State.matrixBytes (s : State) (r : MatrixReq) : Nat :=
  match r.op with
  | .mma b _ _ | .mmas b _ _ _ _ => mmaBytes b
  | .term b => (s.parcel r.key).termBytes b (s.slotsOf r.key)
  | .adrain b _ => drainBytes b
  | _ => 0

/-- The first request leaves the order. -/
def State.popMatrix (s : State) (core : Nat) : State :=
  s.modCore core (fun c => { c with matrix := c.matrix.drop 1, run := none })

/-- A request of the matrix context completes: its count, its timeline, and the frees it held up (R256, R228, R250). -/
def State.endMatrix (s : State) (core : Nat) (r : MatrixReq) : State :=
  let n := s.matrixBytes r
  let s := match r.bar with
    | some b => s.countBytes r.key b n 0
    | none => s
  ((s.popMatrix core).complete r.key r.tix 5 .matrix r.num r.restored).reap core

/-- The first request fails with a code and leaves the order (R257, R232). -/
def State.failMatrix (s : State) (core : Nat) (r : MatrixReq) (code : Nat) : State :=
  let n := s.matrixBytes r
  ((s.popMatrix core).fail r.key r.tix 5 .matrix r.num r.restored r.bar n (BitVec.ofNat 32 code)).reap core

/-- The first request has had its effect: it stands complete but for its count. -/
def State.ranMatrix (s : State) (core : Nat) : State :=
  s.modCore core (fun c => { c.modHead (fun r => { r with step := 1 }) with run := some ⟨false, s.clk⟩ })

/-- The first request runs. -/
def State.runMatrix (s : State) (core : Nat) (assist : Bool) : State :=
  s.modCore core (fun c => { c with run := some ⟨assist, s.clk⟩ })

/-- A slot request's effect: its parcel as it leaves it, or its code. -/
def State.slotRequest (s : State) (core : Nat) (r : MatrixReq) (x : Parcel × Nat) : State :=
  if x.2 != 0 then s.failMatrix core r x.2
  else (s.modParcel r.key (fun _ => x.1)).ranMatrix core

/-- A query's effect: its values are known, and it leaves the order (R269). -/
def State.answerQuery (s : State) (core : Nat) (r : MatrixReq) (uid : Nat) (ws : List Write) : State :=
  (s.popMatrix core).supply r.key r.tix uid ws

/-! ### Start (R257, R254, R261, R270, R278, R289) -/

/-- Whether a slot, or either slot of a pair, is a pending shadow. -/
def Parcel.drainShadowed (p : Parcel) (b : BitVec 256) : Bool :=
  (slotNames (drainSlot b) (drainStype b == 2)).any (shadowPending p.shadows)

/-- An ADRAIN reads its window (R289) and goes to its write phase. -/
def State.startDrain (s : State) (core : Nat) (r : MatrixReq) (b : BitVec 256) : State :=
  let p := s.parcel r.key
  if p.drainShadowed b then s.failMatrix core r 0x47
  else (s.popMatrix core).modCore core (fun c => { c with drains := c.drains ++ [⟨r, p.drainWindow b, .unjudged, s.journals r.key b⟩] })

/-- The first request starts. -/
def State.startMatrix (s : State) (core : Nat) (r : MatrixReq) : State :=
  let p := s.parcel r.key
  if r.failed != 0 then s.failMatrix core r r.failed.toNat
  else match r.op with
    | .mma b _ _ =>
      if r.step == 0 && shadowBad p.shadows (mmaSlot b) (mmaPair b) none then s.failMatrix core r 0x47
      else s.runMatrix core false
    | .mmas b _ _ q f =>
      if r.step != 0 then s.runMatrix core false
      else
        let x := p.startMmas b q.toNat f
        if x.2 != 0 then s.failMatrix core r x.2 else (s.modParcel r.key (fun _ => x.1)).runMatrix core false
    | .mcommit a ps => s.slotRequest core r (p.runCommit a ps)
    | .mdrop a => s.slotRequest core r (p.runDrop a)
    | .azero a pair => s.slotRequest core r (p.runAzero a pair)
    | .amov d a pair => s.slotRequest core r (p.runAmov d a pair)
    | .achk a => s.slotRequest core r (p.runAchk a)
    | .term b =>
      let code := p.termRun b
      if code != 0 then s.failMatrix core r code
      else if (p.termResult b).assist then (s.count r.key.ctx 0x014 1).runMatrix core true
      else s.slotRequest core r (p.term b, 0)
    | .adrain b _ => s.startDrain core r b
    | .aser a ring control uid d =>
      let x := p.runAser a ring control (s.slotsOf r.key)
      (s.modParcel r.key (fun _ => x.1)).answerQuery core r uid (writes32 d x.2)
    | .ainfo what a uid d =>
      let v := p.ainfo what a (s.slotsOf r.key)
      s.answerQuery core r uid (if what = 0 then writes32 d (v % 2 ^ 32) ++ writes32 (d + 1) (v / 2 ^ 32) else writes32 d v)
    | .aflag what a uid d => s.answerQuery core r uid (p.aflag what a d)

/-- Whether an ADRAIN must wait: two drains are in their write phase on the core (R294). -/
def Core.drainsFull (c : Core) (r : MatrixReq) : Bool :=
  r.failed == 0 && (match r.op with
    | .adrain _ _ => decide (2 ≤ c.drains.length)
    | _ => false)

/-- The block and the capability of a drain. -/
def Drain.block (d : Drain) : BitVec 256 × QWord :=
  match d.req.op with
  | .adrain b cap => (b, cap)
  | _ => (0, 0)

/-- Where a drain writes: a memory and its ranges there. -/
def State.drainDest (s : State) (d : Drain) : Side × List (Nat × Nat) :=
  let side := (s.parcel d.req.key).drainSide d.block.1 d.block.2
  (side.1, (drainRanges d.block.1 side.2).map (fun r => (side.1.base + r.1, r.2)))

/-- Whether a TERM must wait: an earlier drain has yet to write a 64-byte unit of its flag map (R228, R356). -/
def State.mapBehind (s : State) (core : Nat) (r : MatrixReq) : Bool :=
  match r.op with
  | .term b =>
    let p := s.parcel r.key
    termFmapen b && (s.core core).drains.any (fun e =>
      let x := s.drainDest e
      e.stage != .written && x.1.same (.spad r.key)
        && shareUnit x.2 [(termFmap b, mapBytes b (p.seriesAt (p.position (termSer b))))])
  | _ => false

/-- A query of matrix order (R269). -/
def MatrixOp.query : MatrixOp → Bool
  | .aser .. | .ainfo .. | .aflag .. => true
  | _ => false

/-- MATRIX_REQUEST_START (R257). On a core that halts no new request starts but a query, whose destination is written before the halt
completes (R294, R395). -/
def execMatrixRequestStart (core : Nat) (s : State) : Host.Outcome State Fault Refusal :=
  let c := s.core core
  match c.run, c.matrix with
  | none, r :: _ =>
    if (c.halting && !r.op.query) || c.drainsFull r || s.mapBehind core r then .refused (.notEnabled "MATRIX_REQUEST_START")
    else .next ((s.startMatrix core r).refresh core)
  | _, _ => .refused (.notEnabled "MATRIX_REQUEST_START")

/-! ### Group steps (R256, R264, R100 to R107) -/

/-- The steps of a request: its K-groups, or one. -/
def MatrixOp.steps (o : MatrixOp) : Nat :=
  match o.mma? with
  | some (b, _, _, _) => mmaSteps b
  | none => 1

/-- Whether the refresh of the weight store holds up a chunk of the next step (R225, R260). -/
def State.stepHeld (s : State) (r : MatrixReq) : Bool :=
  (s.missingChunks r).any (fun c => opdKind c.2.1 == 2 && s.inRefresh ⟨r.key.ctx, capObj c.2.2.1⟩ (64 * c.2.2.2) 64)

/-- The kind 1 operands of a request: the core read, the reservation and OFF (R259). -/
def kindOnes (core : Nat) (o : MatrixOp) : List (Nat × Nat × Nat × Nat) :=
  match o.mma? with
  | none => []
  | some (b, _, _, _) => ([(0, mmaA b), (1, mmaB b)].filter (fun d => opdKind d.2 == 1)).map (fun d =>
      (d.1, opdHost core d.2, opdRes d.2, opdOff d.2))

/-- Whether two reads are of one operand for one step, reached within 64 cycles of one another (R259; log entry 25). -/
def OpdRead.meets (e x : OpdRead) : Bool :=
  x.place == e.place && x.step == e.step && decide (x.clk ≤ e.clk + 64) && decide (e.clk ≤ x.clk + 64)

/-- The other cores of a core's cluster. -/
def neighbours (core : Nat) : List Nat := ((List.range 4).map (fun i => 4 * (core / 4) + i)).filter (· != core)

/-- Whether another core of the cluster may still share a read: one reached its step within 64 cycles of it, or can yet. -/
def State.shareable (s : State) (core : Nat) (e : OpdRead) : Bool :=
  decide (s.clk ≤ e.clk + 64) || (List.range 4).any (fun i => match (s.core (4 * (core / 4) + i)).run with
    | some run => decide (run.clk ≤ e.clk + 64)
    | none => false)

/-- A core's read of a kind 1 operand: a chunk that another core of the cluster reads with it goes to both, and counts once, with the
second core; a third joins (R259). The answer is the chunks that count. -/
def State.shareRead (s : State) (core : Nat) (e : OpdRead) : State × Nat :=
  let mates := (neighbours core).flatMap (fun n => (s.core n).opdReads.filter e.meets)
  let shared := e.chunks.filter (fun c => mates.any (fun x => x.chunks.contains c))
  let fresh := shared.filter (fun c => !mates.any (fun x => x.sent.contains c))
  let mark (x : OpdRead) : OpdRead := if e.meets x then { x with sent := x.sent ++ fresh.filter (fun c => x.chunks.contains c) } else x
  let s := if fresh.isEmpty then s else
    (neighbours core).foldl (fun s n => s.modCore n (fun c => { c with opdReads := c.opdReads.map mark })) s
  (s.modCore core (fun c => { c with opdReads := c.opdReads ++ [{ e with sent := shared }] }), fresh.length)

/-- A core's reads of kind 1 operands for its step are noted, and the chunks that are multicast count (R259, counter 0x015). -/
def State.shareReads (s : State) (core : Nat) (r : MatrixReq) (reached : Nat) : State :=
  let s := s.modCore core (fun c => { c with opdReads := c.opdReads.filter (s.shareable core) })
  let missing := s.missingChunks r
  (kindOnes core r.op).foldl (fun s d =>
    let chunks := (missing.filter (fun c => c.1 == d.1)).map (fun c => c.2.2.2)
    let x := s.shareRead core ⟨d.2, r.step, reached, chunks, []⟩
    x.1.count r.key.ctx 0x015 x.2) s

/-- A step's results are written and the request stands at its next step. -/
def State.applyStep (s : State) (core : Nat) (r : MatrixReq) : State :=
  (s.modParcel r.key (fun _ => (s.stepResult r).1)).modCore core (fun c =>
    { c.modHead (fun q => { q with step := r.step + 1, chunks := r.chunks }) with run := some ⟨false, s.clk⟩ })

/-- The next step of the first request, which reached it in a cycle. -/
def State.groupStep (s : State) (core : Nat) (r : MatrixReq) (reached : Nat) : State :=
  let s := s.shareReads core r reached
  match s.fetchChunks r with
  | (s, .error e) => s.failMatrix core r e
  | (s, .ok r) =>
    if (s.stepResult r).2 then
      (s.count r.key.ctx 0x014 1).modCore core (fun c =>
        { c.modHead (fun q => { q with chunks := r.chunks }) with run := some ⟨true, s.clk⟩ })
    else s.applyStep core r

/-- MATRIX_GROUP_STEP (R256): a core that halts stops at a K-group boundary (R108, R265). -/
def execMatrixGroupStep (core : Nat) (s : State) : Host.Outcome State Fault Refusal :=
  let c := s.core core
  match c.run, c.matrix with
  | some run, r :: _ =>
    if !c.halting && !run.assist && r.op.mma?.isSome && decide (r.step < r.op.steps) && !s.stepHeld r then
      .next ((s.groupStep core r run.clk).refresh core)
    else .refused (.notEnabled "MATRIX_GROUP_STEP")
  | _, _ => .refused (.notEnabled "MATRIX_GROUP_STEP")

/-- MATRIX_REQUEST_COMPLETE (R256, R272, R279). -/
def execMatrixRequestComplete (core : Nat) (s : State) : Host.Outcome State Fault Refusal :=
  let c := s.core core
  match c.run, c.matrix with
  | some run, r :: _ =>
    if !run.assist && decide (r.op.steps ≤ r.step) then .next ((s.endMatrix core r).refresh core)
    else .refused (.notEnabled "MATRIX_REQUEST_COMPLETE")
  | _, _ => .refused (.notEnabled "MATRIX_REQUEST_COMPLETE")

/-! ### Assists (R106, R108, R414) -/

/-- Change the k-th drain of a core. -/
def Core.modDrain (c : Core) (k : Nat) (f : Drain → Drain) : Core :=
  { c with drains := (c.drains.zip (List.range c.drains.length)).map (fun e => if e.2 = k then f e.1 else e.1) }

/-- The first drain that waits for the signal box. -/
def Core.waitingDrain (c : Core) : Option Nat :=
  ((List.range c.drains.length).find? (fun k => match c.drains[k]? with
    | some d => d.stage == .waiting
    | none => false))

/-- SUBNORMAL_ASSIST (R106): the signal box completes a tile step, a TERM or a drain. -/
def execSubnormalAssist (core : Nat) (s : State) : Host.Outcome State Fault Refusal :=
  let c := s.core core
  match c.run, c.matrix, c.waitingDrain with
  | some ⟨true, _⟩, r :: _, _ =>
    match r.op with
    | .term b => .next ((s.slotRequest core r ((s.parcel r.key).term b, 0)).refresh core)
    | _ => .next ((s.applyStep core r).refresh core)
  | _, _, some k => .next (s.modCore core (fun c => c.modDrain k (fun d => { d with stage := .given })))
  | _, _, none => .refused (.notEnabled "SUBNORMAL_ASSIST")

/-- A drain fails: no byte of it has been counted. -/
def State.failDrain (s : State) (core k : Nat) (d : Drain) (code : Nat) : State :=
  let r := d.req
  let n := s.matrixBytes r
  let s := s.modCore core (fun c => { c with drains := dropAt c.drains k })
  (s.fail r.key r.tix 5 .matrix r.num r.restored r.bar n (BitVec.ofNat 32 code)).reap core

/-- ASSIST_TIMEOUT (R414). -/
def execAssistTimeout (core : Nat) (s : State) : Host.Outcome State Fault Refusal :=
  let c := s.core core
  match c.run, c.matrix, c.waitingDrain with
  | some ⟨true, _⟩, r :: _, _ => .next ((s.failMatrix core r 0x48).refresh core)
  | _, _, some k => match c.drains[k]? with
    | some d => .next ((s.failDrain core k d 0x48).refresh core)
    | none => .refused (.notEnabled "ASSIST_TIMEOUT")
  | _, _, none => .refused (.notEnabled "ASSIST_TIMEOUT")

/-! ### Completion of drains (R289 to R292) -/

/-- Whether an earlier drain of the core is to write first: both add (R290), or it has yet to write a 64-byte unit that this one
writes (R228). -/
def State.drainBehind (s : State) (e d : Drain) : Bool :=
  let x := s.drainDest e
  let y := s.drainDest d
  e.stage != .written && ((drainAdds e.block.1 && drainAdds d.block.1) || (x.1.same y.1 && shareUnit x.2 y.2))

/-- A drain's window is written: its count is handed to its barrier. -/
def State.drainWritten (s : State) (core k : Nat) (d : Drain) : State :=
  (s.modCore core (fun c => c.modDrain k (fun d => { d with stage := .written }))).handCount d.req.key d.req.bar
    (drainBytes d.block.1) d.req.uid

/-- A drain writes, adds or journals its window (R289 to R292). -/
def State.writeDrain (s : State) (core k : Nat) (d : Drain) : State :=
  let r := d.req
  let b := d.block.1
  let cap := d.block.2
  let who : Issuer := ⟨r.key, r.tix, r.pc, core⟩
  if d.journal then
    if (s.ctx r.key.ctx).journalRoom b then
      match s.writeRecord who ⟨r.key.launch, r.key.pix, b, cap, d.win⟩ with
      | (s, e) => if e != 0 then s.failDrain core k d e else s.drainWritten core k d
    else s.failDrain core k d 0x66
  else if drainKind b = 2 then
    match s.drainObject who b cap d.win with
    | (s, e) => if e != 0 then s.failDrain core k d e else s.drainWritten core k d
  else
    let side := (s.parcel r.key).drainSide b cap
    let old : Gather := match (s.gather who 5 side.1 (if drainAdds b then drainRanges b side.2 else [])).2 with
      | .ok g => g
      | .error _ => []
    let data := (drainData b side.2 old d.win).1
    let s := s.modParcel r.key (fun p => data.foldl (fun p x =>
      match side.1 with
      | .resv _ n => p.modResv n (fun v => v.write x.1 x.2)
      | _ => p.engineStore x.1 x.2) p)
    s.drainWritten core k d

/-- DRAIN_COMPLETE (R292): the k-th drain of a core in its write phase writes, and completes once its count is applied. -/
def execDrainComplete (core k : Nat) (s : State) : Host.Outcome State Fault Refusal :=
  let c := s.core core
  match c.drains[k]? with
  | none => .refused (.notEnabled "DRAIN_COMPLETE")
  | some d =>
    let r := d.req
    match d.stage with
    | .waiting => .refused (.notEnabled "DRAIN_COMPLETE")
    | .written =>
      if (s.parcel r.key).counts.any (fun c => c.req == r.uid) then .refused (.notEnabled "DRAIN_COMPLETE")
      else
        let s := s.modCore core (fun c => { c with drains := dropAt c.drains k })
        .next (((s.complete r.key r.tix 5 .matrix r.num r.restored).reap core).refresh core)
    | stage =>
      if (c.drains.take k).any (fun e => s.drainBehind e d) then .refused (.notEnabled "DRAIN_COMPLETE")
      else if stage == .unjudged && !d.journal && s.drainAssists r.key d.block.1 d.block.2 d.win then
        .next ((s.count r.key.ctx 0x014 1).modCore core (fun c => c.modDrain k (fun d => { d with stage := .waiting })))
      else .next ((s.writeDrain core k d).refresh core)

end Sys2Proof.Machine
end

