-- ==== Sys2Proof/Machine/Objects.lean ====
section
/-!
DEFINITION. What system software, the base dies and the links do to objects and to memory: the object table and its
invalidations (R217 to R219), lease faults (R220), migration (R223), writes over the links (R339, R423), the state of links
(R426, R429) and the refresh of the weight store (R225).
-/

namespace Sys2Proof.Machine

/-- Whether the latest start has passed a step (R431): the device is ready, or a later step stopped it. -/
def State.startedPast (s : State) (step : Nat) : Bool :=
  s.boot == .ready || (s.boot == .stopped && decide (step < (s.bootStatus.extractLsb' 0 8).toNat))

/-! ### Units of memory (R20, R218, R427) -/

/-- The stack and the layer of an HBM unit: 64 GiB a stack, 16 layers of 4 GiB (R2, R427). -/
def hbmLayer (loc : Nat) : Nat × Nat := (loc / 2 ^ 20, loc / 2 ^ 16 % 16)

/-- Whether a layer of a stack is in service (R427 LMAP). -/
def State.layerServes (s : State) (stack layer : Nat) : Bool := (s.base stack).capacity.getLsbD layer

/-- Whether system software may place new extents on some units (R26, R427): they exist, in layers that are in service. -/
def State.placeable (s : State) (t : Tier) (loc count : Nat) : Bool :=
  decide (loc + count ≤ tierUnits t) && (match t with
    | .hbm => count == 0 || (List.range ((loc + count - 1) / 2 ^ 16 - loc / 2 ^ 16 + 1)).all (fun i =>
        let x := hbmLayer (loc + i * 2 ^ 16)
        s.layerServes x.1 x.2)
    | _ => true)

/-- The objects that are not free, with their entries (R217, R219). -/
def State.liveObjects (s : State) : List (OKey × ObjEntry) :=
  s.ctxs.flatMap (fun c => (c.2.objects.map (fun e => ((⟨c.1, e.obj⟩ : OKey), e))).filter (fun x => s.classOf x.1 != 0))

/-- Whether some unit of a range belongs to an object other than `o`, or to a migration: a tier is full where its units are held
(R26). A link's remote units are its own side's. -/
def State.unitsTaken (s : State) (o : Option OKey) (t : Tier) (loc count : Nat) : Bool :=
  let meets (a n : Nat) : Bool := decide (a < loc + count) && decide (loc < a + n)
  t != .link && (s.liveObjects.any (fun x => some x.1 != o && x.2.leaves.any (fun d =>
      tierOf (extField d 63 62) == t && meets (extField d 55 0) (extField d 95 64)))
    || s.migrations.any (fun m => s.classOf m.obj != 0 && m.places.any (fun x => x.1 == t && meets x.2 1)))

/-! ### Leases (R220, R221) -/

/-- The units of a lease's range. -/
def leaseUnits (l : BitVec 256) : List Nat :=
  let a := leaseField l 151 104
  let n := leaseField l 103 56
  if n = 0 then [] else (List.range ((a + n - 1) / 65536 - a / 65536 + 1)).map (fun i => a / 65536 + i)

/-- Replace STATE of a lease (R221). -/
def setLeaseState (l : BitVec 256) (st : Nat) : BitVec 256 := BitVec.ofNat 256 (setBits l.toNat 187 184 st)

/-- Whether every unit of a lease is backed; a unit in any tier, or over any link, counts (R220). -/
def State.leaseBacked (s : State) (ctx : Nat) (l : BitVec 256) : Bool :=
  match s.object? ⟨ctx, leaseField l 175 152⟩ with
  | some e => (leaseUnits l).all (fun u => (e.extent? u).isSome)
  | none => false

/-- Faulted leases whose units are all backed are held (R220). -/
def State.holdLeases (s : State) (ctx : Nat) : State :=
  s.modCtx ctx (fun c => { c with leases := c.leases.map (fun l =>
    if leaseField l 187 184 = 3 ∧ s.leaseBacked ctx l then setLeaseState l 2 else l) })

/-- The leases of a parcel, in region order. -/
def State.leasesOf (s : State) (k : PKey) : List (BitVec 256) :=
  (s.ctx k.ctx).leases.filter (fun l => leaseField l 255 224 == k.launch && leaseField l 223 192 == k.pix)

/-- A pending lease (R221). -/
def leaseOf (k : PKey) (reg rights obj start len : Nat) : BitVec 256 :=
  (BitVec.ofNat 32 k.launch ++ BitVec.ofNat 32 k.pix ++ BitVec.ofNat 4 reg ++ 1#4 ++ BitVec.ofNat 8 rights ++ BitVec.ofNat 24 obj
    ++ BitVec.ofNat 48 start ++ BitVec.ofNat 48 len ++ 0#56 : BitVec 256)

/-- LEASE_TAKE (R220) for one region entry: its first test, then its lease, held or faulted; a failed test ends the launch. -/
def State.takeLease (s : State) (l : Launch) (k : PKey) (i : Nat) : State :=
  let e := l.region i
  let cap := l.cap e.cap
  let off := e.offAt k.pix
  let len := e.lenAt k.pix
  if s.classOf ⟨k.ctx, capObj cap⟩ = 0 || decide ((capLen cap : Int) < off + len) || e.rights &&& capRights cap != e.rights then
    s.launchFatal l.key { kind := 0x04, code := i, obj := capObj cap, addr := capBase cap + off.toNat, len := len.toNat, pix := k.pix }
  else
    let lease := leaseOf k i e.rights (capObj cap) (capBase cap + off.toNat) len.toNat
    let lease := setLeaseState lease (if s.leaseBacked k.ctx lease then 2 else 3)
    s.modCtx k.ctx (fun c => { c with leases := c.leases ++ [lease] })

/-- Take the leases of a parcel that waits in a deque, in declaration order, each once the one before is held (R220). -/
def State.takeLeases (s : State) (k : PKey) : Nat → State
  | 0 => s
  | fuel + 1 =>
    match s.launch? k.launchKey with
    | none => s
    | some l =>
      let taken := s.leasesOf k
      if taken.any (fun e => leaseField e 187 184 != 2) then s
      else if l.nreg ≤ taken.length then s
      else (s.takeLease l k taken.length).takeLeases k fuel

/-- Whether every lease of a parcel is held (R220). -/
def State.allLeased (s : State) (l : Launch) (k : PKey) : Bool :=
  let taken := s.leasesOf k
  decide (l.nreg ≤ taken.length) && taken.all (fun e => leaseField e 187 184 == 2)

/-- The parcels of a context that wait for a faulted lease. -/
def State.leaseWaiters (s : State) (ctx : Nat) : List PKey :=
  (((s.ctx ctx).leases.filter (fun l => leaseField l 187 184 == 3)).map (fun l => (⟨ctx, leaseField l 255 224, leaseField l 223 192⟩ : PKey))).dedup

/-- Faulted leases whose units are now all backed are held, and their parcels take their next leases. -/
def State.resumeLeases (s : State) (ctx : Nat) : State :=
  (s.leaseWaiters ctx).foldl (fun s k => s.takeLeases k 17) (s.holdLeases ctx)

/-! ### The object table (R217, R219) -/

/-- ROUTE_WALK (R219): the walk units of the home base die resolve a unit for a die that has not cached it. -/
def execRouteWalk (die : Nat) (o : OKey) (unit : Nat) (s : State) : Host.Outcome State Fault Refusal :=
  let cached := s.routes.any (fun r => r.die == die && r.obj == o && extCovers unit r.desc)
  match s.route die o unit with
  | (t, some _) => if cached || s.classOf o == 0 then .refused (.notEnabled "ROUTE_WALK") else .next t
  | (_, none) => .refused (.notEnabled "ROUTE_WALK")

/-- The descriptors of an entry (R217): INLINE's two where DEPTH is 0, else the leaves of the tree it names (log entry 6);
empty ones cover nothing. -/
def entryLeaves (word : BitVec 512) (tree : List (BitVec 128)) : List (BitVec 128) :=
  (if word.extractLsb' 318 2 = 0 then [word.extractLsb' 0 128, word.extractLsb' 128 128] else tree).filter (fun d => extField d 95 64 != 0)

/-- The bits of an entry that system software writes: ACC is the device's, reserved bits read 0 (R217). -/
def entryMask : BitVec 512 :=
  BitVec.ofNat 512 ((2 ^ 480 - 1) - (2 ^ 458 - 2 ^ 448) - (2 ^ 400 - 2 ^ 384) - (2 ^ 318 - 2 ^ 256))

/-- Whether a class is swept as a Circle region (R330, R349). -/
def swept (cls : Nat) : Bool := cls == 2 || cls == 4

/-- A region goes with its object: what its slices have admitted, and what waits, fails with 0x22 (R347); a request that was refused
has no reply (R334). -/
def State.dropRegion (s : State) (o : OKey) : State :=
  let mine := s.circle.filter (fun q => q.obj == o && q.stage != .sent && q.stage != .refused && !q.left.isEmpty)
  let s := mine.foldl (fun s q =>
    match q.op with
    | .host _ => (s.dequeue q.id).dropReq q.id
    | .far _ _ => (s.dequeue q.id).farFail q 0x22
    | _ =>
      let admitted := q.stage == .admitted
      (s.modCircle q.id (fun q => { q with stage := .admitted })).refuseReply q (if admitted then (s.reqSlices q).head? else none)
        (if admitted then some q.ticket else none) 0x22) s
  { s with
    slices := (s.slices.map (fun e => (e.1, { e.2 with waiters := e.2.waiters.filter (fun n => !mine.any (fun q => q.id == n)) }))).filter
      (fun e => e.2 != Slice.empty),
    regions := s.regions.filter (fun r => r.obj != o) }

/-- A region is created with its object: lap 1 starts (R333). -/
def State.addRegion (s : State) (o : OKey) : State :=
  { s with regions := s.regions ++ [⟨o, 1, s.tb, [], []⟩] }

/-- An entry is created or changed: objects stand in ascending order of their ids. -/
def State.putObject (s : State) (o : OKey) (e : ObjEntry) : State :=
  s.modCtx o.ctx (fun c => { c with
    objects := c.objects.filter (fun x => decide (x.obj < o.obj)) ++ [e] ++ c.objects.filter (fun x => decide (o.obj < x.obj)) })

/-- An entry is freed: one with ACC bits, which only an invalidation clears, or with an invalidation under way keeps them (R217, R219). -/
def State.freeObject (s : State) (o : OKey) (e : ObjEntry) : State :=
  if e.acc = 0 ∧ e.invalidating.isEmpty then s.modCtx o.ctx (fun c => { c with objects := c.objects.filter (fun x => x.obj != o.obj) })
  else s.putObject o { e with leaves := [] }

/-- A migration goes on where the new entry of its object has its unit where the old one had it. -/
def Migration.stays (m : Migration) (o : OKey) (e : ObjEntry) : Bool :=
  m.obj != o || (e.cls != 0 && (match e.extent? m.unit with
    | some d => (tierOf (extField d 63 62), extField d 55 0 + (m.unit - extField d 127 96))
        == (if m.switched then (m.tier, m.loc) else (m.oldTier, m.oldLoc))
    | none => false))

/-- OBJECT_TABLE_WRITE (R217): system software creates, changes or frees an entry. Creation fails where the units named do not
exist, lie in a layer out of service, or are held by another object (R26, R427); object id 0 is never assigned (R212). -/
def execObjectTableWrite (s : State) : Host.Outcome State Fault Refusal :=
  let c := s.command
  let o : OKey := ⟨c.ctx, c.obj⟩
  if s.boot != .ready || c.obj = 0 || 64 ≤ c.ctx then .refused (.notEnabled "OBJECT_TABLE_WRITE")
  else
    let old := s.object? o
    let acc := match old with
      | some e => e.word &&& ~~~ entryMask
      | none => 0
    let e : ObjEntry := ⟨c.obj, (c.word &&& entryMask) ||| (acc &&& ((0xFFFFFFFF : BitVec 512) <<< 480)), entryLeaves c.word c.leaves,
      match old with
      | some e => e.invalidating
      | none => []⟩
    let places := e.leaves.all (fun d =>
      (s.placeable (tierOf (extField d 63 62)) (extField d 55 0) (extField d 95 64)
        && !s.unitsTaken (some o) (tierOf (extField d 63 62)) (extField d 55 0) (extField d 95 64))
      || (match old with
        | some x => x.leaves.contains d
        | none => false))
    if !places && e.cls != 0 then .next s
    else
      let before := s.classOf o
      let s := { s with migrations := s.migrations.filter (fun m => m.stays o e) }
      let s := if swept before && before != e.cls then s.dropRegion o else s
      let s := if e.cls = 0 then s.freeObject o e else s.putObject o e
      let s := if (s.region? o).isSome && before = 0 then s.dropRegion o else s
      .next ((if swept e.cls && (s.region? o).isNone then s.addRegion o else s).resumeLeases o.ctx)

/-- OBJECT_INVALIDATE (R219): the invalidation goes to the dies and peer chips whose ACC bits are set, and clears them. -/
def execObjectInvalidate (s : State) : Host.Outcome State Fault Refusal :=
  let o : OKey := ⟨s.command.ctx, s.command.obj⟩
  match s.object? o with
  | none => .refused (.notEnabled "OBJECT_INVALIDATE")
  | some e => .next (s.modObject o (fun x => { x with
      word := x.word &&& ~~~ ((0xFFFFFFFF : BitVec 512) <<< 480),
      invalidating := (x.invalidating ++ (List.range 32).filter (fun i => e.acc.testBit i)).dedup }))

/-- The moves of an object whose invalidation is complete have ended (R219, R223): nothing uses their old places. -/
def State.endMoves (s : State) (o : OKey) : State :=
  match s.object? o with
  | some e => if e.invalidating.isEmpty then { s with migrations := s.migrations.filter (fun m => !(m.obj == o && m.switched)) } else s
  | none => s

/-- INVALIDATE_ACK (R219): a die drops what it has cached; a peer chip (agent 16 + j) does so on its side. -/
def execInvalidateAck (o : OKey) (agent : Nat) (s : State) : Host.Outcome State Fault Refusal :=
  match s.object? o with
  | none => .refused (.notEnabled "INVALIDATE_ACK")
  | some e =>
    if e.invalidating.contains agent then
      let s := s.modObject o (fun x => { x with invalidating := x.invalidating.filter (· != agent) })
      .next (State.endMoves { s with routes := s.routes.filter (fun r => !(r.die == agent && r.obj == o)) } o)
    else .refused (.notEnabled "INVALIDATE_ACK")

/-- OBJECT_DELETE (R219): DEL is set; the entry reads as free once no lease of the context covers the object
(`State.classOf`), and until then the command reports "deferred". -/
def execObjectDelete (s : State) : Host.Outcome State Fault Refusal :=
  let o : OKey := ⟨s.command.ctx, s.command.obj⟩
  match s.object? o with
  | none => .refused (.notEnabled "OBJECT_DELETE")
  | some _ =>
    let deferred := if (s.ctx o.ctx).leasesObject o.obj then [Report.deferred o] else []
    .next ({ s with reports := s.reports ++ deferred }.modObject o (fun x => { x with word := x.word ||| ((1 : BitVec 512) <<< 472) }))

/-! ### Lease faults (R220) -/

/-- LEASE_FAULT_BACK (R220): system software backs a unit that a faulted lease waits for. -/
def execLeaseFaultBack (s : State) : Host.Outcome State Fault Refusal :=
  let c := s.command
  let o : OKey := ⟨c.ctx, c.obj⟩
  let wanted := (s.ctx c.ctx).leases.any (fun l => leaseField l 187 184 == 3 && leaseField l 175 152 == c.obj && (leaseUnits l).contains c.unit)
  match s.object? o with
  | none => .refused (.notEnabled "LEASE_FAULT_BACK")
  | some e =>
    if wanted && (e.extent? c.unit).isNone && s.placeable c.tier c.loc 1 && !s.unitsTaken none c.tier c.loc 1 then
      let d := extOf c.unit 1 (tierCode c.tier) false false c.loc
      .next ((s.modObject o (fun x => { x with leaves := x.leaves ++ [d] })).resumeLeases c.ctx)
    else .refused (.notEnabled "LEASE_FAULT_BACK")

/-- LEASE_FAULT_REFUSE (R220): the launch ends with the record of kind 0x05 (R405). -/
def execLeaseFaultRefuse (s : State) : Host.Outcome State Fault Refusal :=
  let c := s.command
  let mine (l : BitVec 256) : Bool :=
    leaseField l 187 184 == 3 && leaseField l 255 224 == c.launch && leaseField l 223 192 == c.pix && leaseField l 191 188 == c.reg
  match (s.ctx c.ctx).leases.find? mine with
  | none => .refused (.notEnabled "LEASE_FAULT_REFUSE")
  | some l => .next (s.launchFatal ⟨c.ctx, c.launch⟩
      { kind := 0x05, code := c.reg, obj := leaseField l 175 152, addr := leaseField l 151 104, len := leaseField l 103 56, pix := c.pix })

/-! ### Migration (R223) -/

/-- The descriptors of an object with that of one unit replaced; what the old one covered beside it stays. -/
def replaceUnit (leaves : List (BitVec 128)) (u : Nat) (d : BitVec 128) : List (BitVec 128) :=
  leaves.flatMap (fun x =>
    if extCovers u x then
      let first := extField x 127 96
      let count := extField x 95 64
      let loc := extField x 55 0
      let piece (f n : Nat) : BitVec 128 := extOf f n (extField x 63 62) (x.getLsbD 61) (x.getLsbD 60) (loc + (f - first))
      (if u = first then [] else [piece first (u - first)]) ++ [d]
        ++ (if u + 1 = first + count then [] else [piece (u + 1) (first + count - u - 1)])
    else [x])

/-- The errors that wait in a 64 KiB unit are met, as by a read of each of its bytes (R424). -/
def State.verifyUnit (s : State) (o : OKey) (t : Tier) (loc : Nat) : State :=
  let c := checkBytes t
  ((s.memFaults.filter (fun f => f.tier == t && f.unit * c / 65536 == loc)).map (fun f => f.unit)).foldl (fun s u =>
    match s.verify t u with
    | (s, code) => s.plainError o.ctx o.obj (u * c) c code ⟨o.ctx, 0, 0⟩) s

/-- The checked units of one tier over the bytes of a checked unit of another, as a 64 KiB unit moves between two places. -/
def movedUnits (t : Tier) (t' : Tier) (loc' u : Nat) : List Nat :=
  let a := loc' * 65536 + u * checkBytes t % 65536
  (List.range ((a + checkBytes t - 1) / checkBytes t' - a / checkBytes t' + 1)).map (fun i => a / checkBytes t' + i)

/-- Copy a unit from one place to another, with its poison: its bytes are verified as they are read, and their check values
move unchanged (R223, R423). -/
def State.copyPlace (s : State) (o : OKey) (t : Tier) (loc : Nat) (t' : Tier) (loc' : Nat) : State :=
  let s := s.verifyUnit o t loc
  let bs := Mem.read (s.tier t) (loc * 65536) 65536
  let s := s.setTier t' (Mem.write (s.tier t') (loc' * 65536) bs)
  let here (x : Nat) : Bool := x * checkBytes t' / 65536 == loc'
  let moved := (s.poison.filter (fun p => p.1 == t && p.2 * checkBytes t / 65536 == loc)).flatMap (fun p =>
    (movedUnits t t' loc' p.2).map (fun u => (t', u)))
  { s with
    poison := s.poison.filter (fun p => !(p.1 == t' && here p.2)) ++ moved,
    memFaults := s.memFaults.filter (fun f => !(f.tier == t' && here f.unit)) }

/-- Whether a unit may move (R223, R330): its extent and its object are not pinned, and the object is no Circle region. -/
def ObjEntry.movable (e : ObjEntry) (d : BitVec 128) : Bool := !d.getLsbD 61 && !e.pinned && !swept e.cls

/-- One step of a copy-then-switch (R223): the first sets MV and copies, with every write mirrored from then on; the second
writes the new place, clears MV and invalidates. Writes go to both places until the invalidation is complete (R219). -/
def State.moveUnitTo (s : State) (o : OKey) (u : Nat) (d : BitVec 128) (t : Tier) (loc : Nat) : State :=
  let from' := (tierOf (extField d 63 62), extField d 55 0 + (u - extField d 127 96))
  match s.migrations.find? (fun m => m.obj == o && m.unit == u) with
  | none =>
    let s := s.modObject o (fun e => { e with
      leaves := replaceUnit e.leaves u (extOf u 1 (extField d 63 62) false true from'.2) })
    let s := s.copyPlace o from'.1 from'.2 t loc
    { s with migrations := s.migrations ++ [⟨o, u, t, loc, from'.1, from'.2, false⟩] }
  | some m =>
    let s := s.modObject o (fun e => { e with
      leaves := replaceUnit e.leaves u (extOf u 1 (tierCode m.tier) false false m.loc),
      word := e.word &&& ~~~ ((0xFFFFFFFF : BitVec 512) <<< 480),
      invalidating := (e.invalidating ++ (List.range 32).filter (fun i => e.acc.testBit i)).dedup })
    State.endMoves { s with migrations := s.migrations.map (fun x => if x.obj = o ∧ x.unit = u then { x with switched := true } else x) } o

/-- Whether a unit's move to a place can begin or end. -/
def State.moveReady (s : State) (o : OKey) (u : Nat) (t : Tier) (loc : Nat) : Bool :=
  match s.migrations.find? (fun m => m.obj == o && m.unit == u) with
  | some m => !m.switched && m.tier == t && m.loc == loc
  | none => s.placeable t loc 1 && !s.unitsTaken none t loc 1

/-- Whether a descriptor puts a unit into a layer that is being mapped out (R427). -/
def State.leavingLayer (s : State) (d : BitVec 128) (u : Nat) : Bool :=
  let x := hbmLayer (extField d 55 0 + (u - extField d 127 96))
  tierOf (extField d 63 62) == .hbm && s.hotRemove.any (fun e => (e.stack, e.layer) == x)

/-- The base die whose station master moves a unit: that of its LP partition or of its stack (R2, R17, R223, R427). -/
def moverDie (t : Tier) (unit : Nat) : Nat :=
  match t with
  | .lp => unit / 2 ^ 21
  | _ => unit / 2 ^ 20

/-- The tracker begins to count a unit of the LP tier anew (R223; log entry 50). -/
def State.untouch (s : State) (unit : Nat) : State := { s with touched := Tbl.put 0 s.touched unit 0 }

/-- MIGRATION_PROMOTE (R223, R427, R428): a station master moves a unit to HBM: from the LP tier once requests have touched it, or
out of a failing layer. A pinned LP unit is counted instead (counter 0x019), once each time it is touched (log entry 50). -/
def execMigrationPromote (o : OKey) (unit newLoc : Nat) (s : State) : Host.Outcome State Fault Refusal :=
  match (s.object? o).filter (fun _ => s.classOf o != 0) with
  | none => .refused (.notEnabled "MIGRATION_PROMOTE")
  | some e => match e.extent? unit with
    | none => .refused (.notEnabled "MIGRATION_PROMOTE")
    | some d =>
      let tier := tierOf (extField d 63 62)
      let loc := extField d 55 0 + (unit - extField d 127 96)
      let hot := tier == .lp && (Tbl.get 0 s.touched loc != 0 || s.migrations.any (fun m => m.obj == o && m.unit == unit && !m.switched))
      if !((hot || s.leavingLayer d unit) && s.mastered (moverDie tier loc)) then .refused (.notEnabled "MIGRATION_PROMOTE")
      else if !e.movable d then
        if hot then .next ((s.count (e.field 471 466) 0x019 1).untouch loc) else .refused (.notEnabled "MIGRATION_PROMOTE")
      else if s.moveReady o unit .hbm newLoc then
        let t := s.moveUnitTo o unit d .hbm newLoc
        .next (if tier == .lp then t.untouch loc else t)
      else .refused (.notEnabled "MIGRATION_PROMOTE")

/-- MIGRATION_DEMOTE (R223): system software moves a unit in the same way. -/
def execMigrationDemote (s : State) : Host.Outcome State Fault Refusal :=
  let c := s.command
  let o : OKey := ⟨c.ctx, c.obj⟩
  match (s.object? o).filter (fun _ => s.classOf o != 0) with
  | none => .refused (.notEnabled "MIGRATION_DEMOTE")
  | some e => match e.extent? c.unit with
    | none => .refused (.notEnabled "MIGRATION_DEMOTE")
    | some d =>
      if e.movable d && s.moveReady o c.unit c.tier c.loc then .next (s.moveUnitTo o c.unit d c.tier c.loc)
      else .refused (.notEnabled "MIGRATION_DEMOTE")

/-! ### Writes over the links (R339, R423, R429) -/

/-- The parts of a write that fall in one row of a region each (R339). -/
def rowParts (a : Nat) (bs : List Byte) : List (Nat × List Byte) :=
  (chunksOf a bs.length).map (fun c =>
    let lo := max a (1024 * c)
    (lo, (bs.drop (lo - a)).take (min (a + bs.length) (1024 * c + 1024) - lo)))

/-- A write of system software to a Circle object while no launch holds a lease on it (R339): each part is an update that its
row's slice admits now, or once it has room (R334). -/
def State.hostUpdate (s : State) (o : OKey) (a : Nat) (bs : List Byte) : State :=
  if bs.isEmpty then s
  else (rowParts a bs).foldl (fun s p =>
    let (id, s) := s.fresh
    let q : CircleReq :=
      { id := id, obj := o, key := ⟨o.ctx, 2 ^ 32, 0⟩, tix := 0, pc := 0, core := 0, op := .host p.2, off := p.1, reply := 0, bar := 0,
        blocking := true, guard := 0, pendUid := 0, stage := .sent, decided := false, ticket := 0, parts := [],
        left := chunksOf p.1 p.2.length, status := 0, drop := false }
    State.reachSlice { s with circle := s.circle ++ [q] } q) s

/-- A write of system software to an object, over the link of a die: the code its command completes with. -/
def State.hostObjectWrite (s : State) (die : Nat) (o : OKey) (a : Nat) (bs : List Byte) : State × Nat :=
  match s.classOf o with
  | 2 => if (s.ctx o.ctx).leasesObject o.obj then (s, 0x91) else (s.hostUpdate o a bs, 0)
  | 3 => (s, 0x24)
  | _ => s.writeObject die o a bs

/-- HOST_LINK_WRITE (R339, R423, R424): bytes arrive over PCI Express, for an object or, with object 0, for device memory itself;
they are charged to no context (R384). A command that fails leaves its code. -/
def execHostLinkWrite (s : State) : Host.Outcome State Fault Refusal :=
  let c := s.command
  if s.boot != .ready || isPeerPort c.link || decide (linkCount ≤ c.link) || s.linksDown.contains c.link then
    .refused (.notEnabled "HOST_LINK_WRITE")
  else
    let (t, code) := if c.obj = 0 then s.writeTier c.ctx .hbm c.off c.bytes
      else s.hostObjectWrite (linkDie c.link) ⟨c.ctx, c.obj⟩ c.off c.bytes
    let t := (t.unbilled s c.ctx).plainError c.ctx c.obj c.off c.bytes.length code ⟨c.ctx, 0, 0⟩
    .next (if code = 0 then t else { t with reports := t.reports ++ [.failed (BitVec.ofNat 32 code)] })

/-- The routing of a unit for a peer chip: the walk sets the ACC bit of the chip that the port reports (R219, R429). -/
def State.peerRoute (s : State) (o : OKey) (link : Nat) : State :=
  s.modObject o (fun e => { e with word := e.word ||| ((1 : BitVec 512) <<< (496 + Tbl.get 0 s.chips link % 16)) })

/-- Whether a peer port's copy of an object's bytes can be served. -/
def State.peerServes (s : State) (link : Nat) (o : OKey) : Bool :=
  s.boot == .ready && isPeerPort link && !s.linksDown.contains link && s.classOf o != 0

/-- A check mismatch found at a peer port starts a self-test of one of its lanes (R423, R426; the manual names no lane). -/
def State.peerMismatch (s : State) (link : Nat) : State :=
  let (id, s) := s.fresh
  { s with tests := s.tests ++ [⟨.peerLane, 2, link, Config.errorField id 2 % 16, 0, 0⟩] }

/-- PEER_PORT_WRITE (R224, R422, R423): a bulk copy of a peer chip arrives. What fails its check values is not written and leaves a
record of kind 0x0D; what would write a region, a weight object or a far-set object is not written. -/
def execPeerPortWrite (s : State) : Host.Outcome State Fault Refusal :=
  let c := s.command
  let o : OKey := ⟨c.ctx, c.obj⟩
  if !s.peerServes c.link o then .refused (.notEnabled "PEER_PORT_WRITE")
  else
    let s := s.peerRoute o c.link
    if !c.good then .next ((s.peerMismatch c.link).plainError o.ctx o.obj c.off c.bytes.length 0x21 ⟨o.ctx, 0, 0⟩)
    else if s.classOf o != 1 then .next s
    else
      let (t, code) := s.writeObject (linkDie c.link) o c.off c.bytes
      .next ((t.unbilled s o.ctx).plainError o.ctx o.obj c.off c.bytes.length code ⟨o.ctx, 0, 0⟩)

/-- PEER_PORT_READ (R219, R423, R424): a peer chip's copy reads object bytes, which leave with their check values. -/
def execPeerPortRead (s : State) : Host.Outcome State Fault Refusal :=
  let c := s.command
  let o : OKey := ⟨c.ctx, c.obj⟩
  if !s.peerServes c.link o then .refused (.notEnabled "PEER_PORT_READ")
  else
    let s := s.peerRoute o c.link
    match s.readObject (linkDie c.link) o c.off c.len with
    | (t, .ok _) => .next (t.unbilled s o.ctx)
    | (t, .error code) => .next ((t.unbilled s o.ctx).plainError o.ctx o.obj c.off c.len code ⟨o.ctx, 0, 0⟩)

/-! ### Links (R426, R429) -/

/-- LINK_DOWN (R429). -/
def execLinkDown (s : State) : Host.Outcome State Fault Refusal :=
  if s.linksDown.contains s.command.link || decide (linkCount ≤ s.command.link) then .refused (.notEnabled "LINK_DOWN")
  else .next { s with linksDown := s.linksDown ++ [s.command.link] }

/-- LINK_UP (R429): a peer port then reports the number of the chip at its other end. -/
def execLinkUp (s : State) : Host.Outcome State Fault Refusal :=
  let c := s.command
  if s.linksDown.contains c.link then .next { s with
    linksDown := s.linksDown.filter (· != c.link),
    chips := if isPeerPort c.link then Tbl.put 0 s.chips c.link (c.place % 16) else s.chips }
  else .refused (.notEnabled "LINK_UP")

/-- LINK_LANE_ERROR (R426): the lane leaves the link while it is retrained and tested; the link stays up. -/
def execLinkLaneError (s : State) : Host.Outcome State Fault Refusal :=
  let c := s.command
  if (c.part == .peerLane && isPeerPort c.link) || (c.part == .hostLane && decide (c.link < 2)) then
    let (id, s) := s.fresh
    .next { s with
      lanesDown := if s.lanesDown.contains (c.link, c.lane) then s.lanesDown else s.lanesDown ++ [(c.link, c.lane)],
      tests := s.tests ++ [⟨c.part, Config.errorField id 2 % 16, c.link, c.lane, 0, 0⟩] }
  else .refused (.notEnabled "LINK_LANE_ERROR")

/-! ### The weight store (R225, R425) -/

/-- WS_REFRESH_WINDOW (R225): the window of the next bank begins, and the bank is scrubbed: its errors are met as a read meets
them (R424, R425). -/
def execWsRefreshWindow (s : State) : Host.Outcome State Fault Refusal :=
  if !s.startedPast 6 then .refused (.notEnabled "WS_REFRESH_WINDOW")
  else
    let mine (f : MemFault) : Bool := f.tier == .weight && f.unit / 2 ^ 18 % 8 == s.tb / 2048 % 8
    .next (((s.memFaults.filter mine).map (fun f => f.unit)).foldl (fun s u => (s.verify .weight u).1) s)

end Sys2Proof.Machine
end

