-- ==== Sys2Proof/Machine/Nodes.lean ====
section
/-!
DEFINITION. Contexts and their reset (R371 to R373, R405), budget windows (R384), hardware queues (R374, R375), nodes and
dependency counters (R376 to R379), and the dispatch of a launch (R380, R381, R383, R387).
-/

namespace Sys2Proof.Machine

/-! ### Contexts -/

/-- Whether the device takes commands for a context (R371, R431). -/
def State.serves (s : State) (ctx : Nat) : Bool := s.boot == .ready && decide (ctx < 64)

/-- The admitted requests of a region are applied, whatever its laps (R373). -/
def State.applyRegion (s : State) (r : Region) : State :=
  let e := s.entry r.obj
  (List.range e.sliceCount).foldl (fun s i =>
    let n := e.physical i
    let rows := (((s.slice n).queue.filter (fun x => x.obj == r.obj)).flatMap (fun x => x.rows)).dedup
    (sortBy (fun a b => decide (a ≤ b)) rows).foldl (fun s row =>
      let due := (s.slice n).due r.obj row (r.lap + 1)
      (s.passRow r.obj (e.physical i) (row * e.sliceCount + i) (r.slice i).lap due).modSlice n (fun c => c.served r.obj row (r.lap + 1))) s) s

/-- Cores that hold no parcel of another context issue again. -/
def State.unhalt (s : State) (ctx : Nat) : State :=
  s.mapCores (fun n c => if (s.residents n).all (fun p => p.key.ctx == ctx) then { c with halting := false } else c)

/-- A drain of a context that has read its slot writes what it holds for an object, and is done (R294, R391, R394). -/
def State.finishDrain (s : State) (core : Nat) (d : Drain) : State :=
  let r := d.req
  (s.drainObject ⟨r.key, r.tix, r.pc, core⟩ d.block.1 d.block.2 d.win).1.modCore core (fun c =>
    { c.modTimeline 5 (fun t => t.complete r.num r.restored) with drains := c.drains.filter (fun e => e.req.uid != r.uid) })

/-- Every drain of a context that has read its slot is done, before anything of the context is freed (R373). -/
def State.finishDrains (s : State) (ctx : Nat) : State :=
  s.cores.foldl (fun s e => (e.2.drains.filter (fun d => d.req.key.ctx == ctx && d.lasts)).foldl (fun s d => s.finishDrain e.1 d) s) s

/-- Steps 1 to 3 of a context reset (R373): launches end, queues stop, and everything the context holds is freed; the
counters of the context (R413) and the timelines of its cores (R227) are 0 again. -/
def State.clearContext (s : State) (ctx : Nat) : State :=
  let s := s.finishDrains ctx
  let cores := ((s.parcels.filter (fun p => p.key.ctx == ctx && p.placed)).map (fun p => p.core)).dedup
  let s := ((s.launches.filter (fun l => l.key.ctx == ctx)).map (fun l => l.key)).foldl (fun s l => s.dropLaunch l) s
  let regions := s.regions.filter (fun r => r.obj.ctx == ctx)
  let s := regions.foldl (fun s r => (s.applyRegion r).dropRegion r.obj) s
  let s := (List.range 16).foldl (fun s q => s.setQueueField ctx q 119 116 3) s
  let s := cores.foldl (fun s n => s.modCore n (fun c => { c with timelines := [], jobCursors := [] })) s
  let s := s.unhalt ctx
  { (s.modCtx ctx (fun c => { Ctx.initial with
      desc := c.desc &&& ~~~ 2#512, debugAt := c.debugAt, lastLaunch := c.lastLaunch, hbmBytes := c.hbmBytes, energy := c.energy })) with
    images := s.images.filter (fun i => i.ctx != ctx),
    nodes := s.nodes.filter (fun n => n.ctx != ctx),
    routes := s.routes.filter (fun r => r.obj.ctx != ctx),
    migrations := s.migrations.filter (fun m => m.obj.ctx != ctx) }

/-- A context reset (R373): steps 1 to 3, then one record of kind "reset". -/
def State.contextReset (s : State) (ctx : Nat) : State := (s.clearContext ctx).faultRecord ctx { kind := 0x09 }

/-- A context-fatal event (R405): the record of kind 0x0C, ENABLE is cleared and the context is reset. -/
def State.contextFatal (s : State) (ctx code addr : Nat) : State :=
  let s := s.faultRecord ctx { kind := 0x0C, code := code, addr := addr }
  (s.modCtx ctx (fun c => { c with desc := c.desc &&& ~~~ 1#512 })).contextReset ctx

/-- CONTEXT_ENABLE (R372): system software sets or clears ENABLE. -/
def execContextEnable (s : State) : Host.Outcome State Fault Refusal :=
  let c := s.command
  if s.serves c.ctx then .next (s.modCtx c.ctx (fun x => { x with desc := if c.on then x.desc ||| 1#512 else x.desc &&& ~~~ 1#512 }))
  else .refused (.notEnabled "CONTEXT_ENABLE")

/-- CONTEXT_RESET (R373). -/
def execContextReset (s : State) : Host.Outcome State Fault Refusal :=
  if s.serves s.command.ctx then .next (s.contextReset s.command.ctx) else .refused (.notEnabled "CONTEXT_RESET")

/-- BUDGET_WINDOW (R384): window ⌊%tb / 10,000⌋ begins and every context's counts restart. -/
def execBudgetWindow (s : State) : Host.Outcome State Fault Refusal :=
  if s.window = s.tb / 10000 then .refused (.notEnabled "BUDGET_WINDOW")
  else .next s.rolled

/-! ### Queues (R374, R375) -/

/-- Whether a queue descriptor is invalid: SZ outside 4 to 20, RING not 64-aligned, or a reserved bit set. -/
def queueInvalid (d : Nat) : Bool :=
  bitsOf d 127 123 < 4 || 20 < bitsOf d 127 123 || bitsOf d 255 192 % 64 != 0 || bitsOf d 115 1 != 0

/-- The descriptor of a queue. -/
def State.queueDesc (s : State) (ctx q : Nat) : Nat := s.dev (s.queueAt ctx q) 32

/-- STATE of a queue that is served: empty, or serving (R374). -/
def State.queueMark (s : State) (ctx q : Nat) : State :=
  if s.queueField ctx q 119 116 < 2 then
    s.setQueueField ctx q 119 116 (bit (s.queueField ctx q 191 160 != s.queueField ctx q 159 128))
  else s

/-- The device checks a queue's descriptor: an invalid one faults it, with the record of kind 0x10 (R374, R422). -/
def State.queueCheck (s : State) (ctx q : Nat) : State × Bool :=
  let d := s.queueDesc ctx q
  if queueInvalid d then
    ((s.setQueueField ctx q 119 116 2).faultRecord ctx
      { kind := 0x10, code := bitsOf d 127 123, code2 := bitsOf d 255 192 % 2 ^ 32, queue := q }, false)
  else (s, true)

/-- What is done with a queue whose descriptor's bytes are good; bad ones leave it as it is, with their record (R423, R424; log entry
63). -/
def State.withQueue (s : State) (ctx q : Nat) (f : State → State) : State :=
  match s.devCheck ⟨ctx, 0, 0⟩ (s.queueAt ctx q) 32 with
  | (s, 0) => f s
  | (s, _) => s

/-- QUEUE_ENABLE (R374): system software sets or clears ENABLE; setting it checks the descriptor. -/
def execQueueEnable (s : State) : Host.Outcome State Fault Refusal :=
  let c := s.command
  if s.serves c.ctx && decide (c.queue < 16) then .next (s.withQueue c.ctx c.queue (fun s =>
    let s := s.setQueueField c.ctx c.queue 0 0 (bit c.on)
    if c.on then
      match s.queueCheck c.ctx c.queue with
      | (s, true) => s.queueMark c.ctx c.queue
      | (s, false) => s
    else s))
  else .refused (.notEnabled "QUEUE_ENABLE")

/-- DOORBELL (R374): TAIL advances; the descriptor is checked, and more nodes than the ring holds fault the queue. -/
def execDoorbell (s : State) : Host.Outcome State Fault Refusal :=
  let c := s.command
  if s.serves c.ctx && decide (c.queue < 16) then .next (s.withQueue c.ctx c.queue (fun s =>
    let s := s.setQueueField c.ctx c.queue 159 128 c.tail.toNat
    match s.queueCheck c.ctx c.queue with
    | (s, false) => s
    | (s, true) =>
      let head := s.queueField c.ctx c.queue 191 160
      if 2 ^ s.queueField c.ctx c.queue 127 123 < (c.tail.toNat + 2 ^ 32 - head) % 2 ^ 32 then
        (s.setQueueField c.ctx c.queue 119 116 2).faultRecord c.ctx
          { kind := 0x08, code := c.tail.toNat, code2 := head, queue := c.queue }
      else s.queueMark c.ctx c.queue))
  else .refused (.notEnabled "DOORBELL")

/-- QUEUE_STATE_CLEAR (R374, R379): system software writes STATE to 0. -/
def execQueueStateClear (s : State) : Host.Outcome State Fault Refusal :=
  let c := s.command
  if s.serves c.ctx && decide (c.queue < 16) then
    .next (s.withQueue c.ctx c.queue (fun s => s.setQueueField c.ctx c.queue 119 116 0))
  else .refused (.notEnabled "QUEUE_STATE_CLEAR")

/-- Whether a queue is served (R374). -/
def State.queueServed (s : State) (ctx q : Nat) : Bool :=
  s.serves ctx && decide (q < 16) && (s.ctx ctx).enabled && s.queueField ctx q 0 0 == 1 && decide (s.queueField ctx q 119 116 < 2)
    && !queueInvalid (s.queueDesc ctx q)

/-! ### Nodes (R376, R379) -/

/-- Bits [hi:lo] of a node. -/
def Node.field (n : Node) (hi lo : Nat) : Nat := (n.word.extractLsb' lo (hi + 1 - lo)).toNat
/-- KIND. -/
def Node.kind (n : Node) : Nat := n.field 3 0
/-- PARAM. -/
def Node.param (n : Node) : Nat := n.field 447 384
/-- VALUE. -/
def Node.value (n : Node) : Nat := n.field 191 128
/-- Whether its KIND is reserved or a reserved field is set (R379). -/
def Node.malformed (n : Node) : Bool :=
  n.kind == 0 || decide (5 < n.kind) || n.field 239 192 != 0 || n.field 127 16 != 0 || n.field 7 4 != 0

/-- Change a node. -/
def State.modNode (s : State) (n : Nat) (f : Node → Node) : State :=
  { s with nodes := s.nodes.map (fun x => if x.id = n then f x else x) }

/-- Whether every node that its queue dispatched before a node has started: nodes of one queue start in order (R375). -/
def State.turnOf (s : State) (n : Node) : Bool :=
  s.nodes.all (fun x => x.started || !(x.ctx == n.ctx && x.queue == n.queue && decide (x.id < n.id)))

/-- A node of a kind that has not begun, and may (R375). -/
def State.freshNode (s : State) (n : Nat) (kind : Nat) : Option Node :=
  s.nodes.find? (fun x => x.id == n && x.kind == kind && !x.started && s.turnOf x)

/-- Whether a dependency counter lets its node go (R375, R378): it is 0 or below, or there is none. -/
def State.depends (s : State) (a : Nat) : Bool := a != 0 && decide (0 < signedOf (s.dev a 8) 64)

/-- The device reads a node and its dependency counter: the code of an error that it meets, else 0 (R423, R424). -/
def State.nodeCheck (s : State) (ctx at' counter : Nat) : State × Nat :=
  match s.devCheck ⟨ctx, 0, 0⟩ at' 64 with
  | (s, 0) => if counter = 0 then (s, 0) else s.devCheck ⟨ctx, 0, 0⟩ counter 8
  | r => r

/-- The node at HEAD of a queue dispatches, and HEAD advances; one that is malformed, or that failed with a code, fails at once
(R379). -/
def State.dispatchNode (s : State) (ctx queue slot : Nat) (word : BitVec 512) (code : Nat) : State :=
  let (id, s) := s.fresh
  let node : Node := ⟨id, s.clk, ctx, queue, slot, word, false, false, none, 0, none, ⟨[], [], []⟩⟩
  let s := (s.setQueueField ctx queue 191 160 ((s.queueField ctx queue 191 160 + 1) % 2 ^ 32)).queueMark ctx queue
  let s := { s with nodes := s.nodes ++ [node] }
  if code != 0 || node.malformed then s.nodeFail node code else s

/-- NODE_DISPATCH (R375): the node at HEAD dispatches once its dependency counter is 0 or below; HEAD advances. A node whose bytes or
whose counter's bytes are bad fails at once (R379, R424; log entry 51); a queue whose descriptor's bytes are bad is not served. -/
def execNodeDispatch (ctx queue : Nat) (s : State) : Host.Outcome State Fault Refusal :=
  let head := s.queueField ctx queue 191 160
  let slot := head % 2 ^ s.queueField ctx queue 127 123
  let at' := s.queueField ctx queue 255 192 + 64 * slot
  let word : BitVec 512 := BitVec.ofNat 512 (s.dev at' 64)
  let counter := (word.extractLsb' 320 64).toNat
  if !s.queueServed ctx queue || head == s.queueField ctx queue 159 128 then .refused (.notEnabled "NODE_DISPATCH")
  else match s.devCheck ⟨ctx, 0, 0⟩ (s.queueAt ctx queue) 32 with
    | (t, 0) => match t.nodeCheck ctx at' counter with
      | (t, code) => if code = 0 ∧ s.depends counter then .refused (.notEnabled "NODE_DISPATCH")
        else .next (t.dispatchNode ctx queue slot word code)
    | (t, _) => if t.poison = s.poison then .refused (.notEnabled "NODE_DISPATCH") else .next t

/-! ### Transform and fill nodes (R377, R379) -/

/-- The capabilities 0 and 1 of a node's parameter block. -/
def State.nodeCap (s : State) (n : Node) (k : Nat) : QWord := BitVec.ofNat 128 (s.dev (n.param + 128 + 16 * k) 16)

/-- The parcel key a node's requests bear in records: no launch. -/
def Node.issuer (n : Node) : Issuer := ⟨⟨n.ctx, 0, 0⟩, 0, 0, 0⟩

/-- Whether a launch of a context runs (R339). -/
def State.launched (s : State) (ctx : Nat) : Bool := s.launches.any (fun l => l.key.ctx == ctx)

/-- Whether a node's copy may not write an object now: a Circle object during a launch of its context (R339). -/
def State.nodeRefused (s : State) (o : OKey) : Bool := s.classOf o == 2 && s.launched o.ctx

/-- The checks of a transform or fill (R231, R235, R213): the copy and its units, or the code of the failure. -/
def State.nodeCopy (s : State) (n : Node) (fill : Bool) : Except Nat (CopyKind × Nat) :=
  let bs : BitVec 512 := BitVec.ofNat 512 (s.dev n.param 64)
  let bd : BitVec 512 := BitVec.ofNat 512 (s.dev (n.param + 64) 64)
  let capS := s.nodeCap n (recCap bs)
  let capD := s.nodeCap n (recCap bd)
  let cls (c : QWord) : Nat := s.classOf ⟨n.ctx, capObj c⟩
  let far := if cls capS = 5 ∨ cls capS = 6 then cls capS else cls capD
  let p := Parcel.initial n.issuer.key
  let source := p.recCode bs (originsTx 0) .txSource 0
  let code := if source != 0 then source else p.recCode bd (originsTx 0) (.txDest bs) far
  if code != 0 then .error code
  else if 1 < recCap bs ∨ 1 < recCap bd then .error 0
  else if (capTraps capS .r (recRanges bs (originsTx 0))).isSome || (capTraps capD .w (recRanges bd (originsTx 0))).isSome then .error 0
  else if fill && cls capD != 3 then .error 0
  else if s.nodeRefused ⟨n.ctx, capObj capD⟩ then .error 0x91
  else .ok (.cptx bs bd 0 0 capS capD, ceilDiv (nominalOf bd .cpout) 4096)

/-- The units of a node's copy. -/
def BoxCopy.units (c : BoxCopy) : Nat := ceilDiv (elemBytes (recVolume c.shape) c.countedBits) 4096

/-- Whether a node's next unit reads a bank of the weight store in its refresh window (R225). -/
def State.nodeHeld (s : State) (n : Node) (c : BoxCopy) : Bool := s.readHeld c.src.side n.carry.got (c.need n.copied)

/-- The next unit of a node's copy: its code, 0 if it was moved (R232), and what it holds for a later unit (R228). -/
def State.nodeUnit (s : State) (n : Node) (c : BoxCopy) : State × Nat × Carry :=
  let field := Config.errorField n.id 4 % 4
  match s.boxData n.issuer field n.copied c n.carry.got with
  | (s, .error e) => (s, e, n.carry)
  | (s, .ok data) =>
    let (elems, rest, carry) := n.carry.split data c.dst.side (if n.copied + 1 < c.units then c.destFrom (n.copied + 1) else [])
    match c.dst.side with
    | .object o base =>
      if s.nodeRefused o then (s, 0x91, carry) else
      let r := s.scatterParts n.issuer field o base (recChk c.shape == 1) (elems ++ rest)
      (r.1, r.2, carry)
    | _ => (s, 0, carry)

/-- A step of a transform or fill node: its checks, then a unit each time. -/
def State.nodeMove (s : State) (n : Node) (fill : Bool) : Option State :=
  match n.copy with
  | none => if !s.turnOf n then none else match s.devCheck n.issuer.key n.param 160 with
    | (s, 0) => match s.nodeCopy n fill with
      | .error code => some (s.nodeFail n code)
      | .ok (k, units) => some (s.modNode n.id (fun x => { x with started := true, copy := some k, satisfied := units == 0 }))
    | (s, code) => some (s.nodeFail n code)
  | some k => match (Parcel.initial n.issuer.key).boxCopy k with
    | none => none
    | some c =>
      if n.satisfied || s.nodeHeld n c then none
      else match s.nodeUnit n c with
        | (s, 0, carry) => some (s.modNode n.id (fun x =>
            { x with copied := x.copied + 1, satisfied := x.copied + 1 == c.units, carry := carry }))
        | (s, code, _) => some (s.nodeFail n code)

/-- NODE_TRANSFORM (R377): the CPTX of R235 between the two tensors of its parameter block, a unit at a time. -/
def execNodeTransform (node : Nat) (s : State) : Host.Outcome State Fault Refusal :=
  match (s.nodes.find? (fun x => x.id == node && x.kind == 2)).bind (fun n => s.nodeMove n false) with
  | some s => .next s
  | none => .refused (.notEnabled "NODE_TRANSFORM")

/-- NODE_WEIGHT_FILL (R377, R226): the same; its destination is a weight object. -/
def execNodeWeightFill (node : Nat) (s : State) : Host.Outcome State Fault Refusal :=
  match (s.nodes.find? (fun x => x.id == node && x.kind == 3)).bind (fun n => s.nodeMove n true) with
  | some s => .next s
  | none => .refused (.notEnabled "NODE_WEIGHT_FILL")

/-! ### Wait and signal nodes (R377) -/

/-- NODE_WAIT: the node begins to poll; a PARAM that is not 8-aligned names no word. -/
def execNodeWait (node : Nat) (s : State) : Host.Outcome State Fault Refusal :=
  match s.freshNode node 4 with
  | none => .refused (.notEnabled "NODE_WAIT")
  | some n => .next (if n.param % 8 != 0 then s.nodeFail n 0 else s.modNode node (fun x => { x with started := true }))

/-- NODE_WAIT_SATISFIED: the word has reached VALUE, as unsigned; a word whose bytes are bad fails the node (R379, R424). -/
def execNodeWaitSatisfied (node : Nat) (s : State) : Host.Outcome State Fault Refusal :=
  match s.nodes.find? (fun x => x.id == node && x.kind == 4 && x.started && !x.satisfied) with
  | none => .refused (.notEnabled "NODE_WAIT_SATISFIED")
  | some n =>
    match s.devCheck n.issuer.key n.param 8 with
    | (t, 0) =>
      if n.value ≤ s.dev n.param 8 then .next (t.modNode node (fun x => { x with satisfied := true }))
      else .refused (.notEnabled "NODE_WAIT_SATISFIED")
    | (t, code) => .next (t.nodeFail n code)

/-- NODE_SIGNAL: VALUE is written to the word; a word of a unit whose bytes are bad is not written, and the node fails (R424). -/
def execNodeSignal (node : Nat) (s : State) : Host.Outcome State Fault Refusal :=
  match s.freshNode node 5 with
  | none => .refused (.notEnabled "NODE_SIGNAL")
  | some n => .next (if n.param % 8 != 0 then s.nodeFail n 0
      else match s.devCheck n.issuer.key n.param 8 with
        | (s, 0) => (s.setDev n.param 8 n.value).modNode node (fun x => { x with started := true, satisfied := true })
        | (s, code) => s.nodeFail n code)

/-! ### Completion (R377, R378) -/

/-- A dependency counter is decremented by 1, not below −2^63; one already at 0 or below is counted (R378). -/
def State.decrement (s : State) (ctx a : Nat) : State :=
  let v := s.dev a 8
  let s := s.setDev a 8 (if v = 2 ^ 63 then v else (v + 2 ^ 64 - 1) % 2 ^ 64)
  if signedOf v 64 ≤ 0 then s.count ctx 0x01A 1 else s

/-- The successor counters of a completed node, whose list and counters are read first; one whose bytes are bad stays as it is,
with a record (R378, R424). -/
def State.decrementAll (s : State) (n : Node) : State :=
  let count := n.field 255 240
  let key : PKey := ⟨n.ctx, n.launchId, 0⟩
  match s.devCheck key (n.field 319 256) (8 * count) with
  | (s, 0) => (List.range count).foldl (fun s i =>
      let a := s.dev (n.field 319 256 + 8 * i) 8
      match s.devCheck key a 8 with
      | (s, 0) => s.decrement n.ctx a
      | (s, _) => s) s
  | (s, _) => s

/-- NODE_COMPLETE (R377): each successor counter is decremented, in list order; then VECTOR is raised. -/
def execNodeComplete (node : Nat) (s : State) : Host.Outcome State Fault Refusal :=
  match s.nodes.find? (fun x => x.id == node && x.satisfied) with
  | none => .refused (.notEnabled "NODE_COMPLETE")
  | some n =>
    let s := s.decrementAll n
    let v := n.field 15 8
    .next { s with
      nodes := s.nodes.filter (fun x => x.id != node),
      msix := if v = 0xFF then s.msix else s.msix ++ [(n.ctx, v)] }

/-! ### Launch nodes (R380, R381, R383, R387) -/

/-- The registers the threads of a parcel of `n` threads take on a lane (R111). -/
def Launch.laneDemand (l : Launch) (n lane : Nat) : Nat :=
  ((List.range n).filter (fun t => t % 32 == lane)).foldl (fun d t => d + l.roleRegs (l.roleOf t)) 0

/-- Whether check 1 of R383 fails: reserved fields, role counts, budgets, XHASH, the image's length. -/
def Launch.packetBad (l : Launch) : Bool :=
  l.field 1023 848 != 0 || l.field 447 433 != 0 || decide (16 < l.nreg)
    || ([0, 1, 2, 3].filter (fun k => decide (l.roles ≤ k))).any (fun k => l.field (639 + 64 * k) (576 + 64 * k) != 0)
    || (List.range l.roles).any (fun k => l.roleReserved k != 0)
    || l.regions.any (fun e => e.reserved != 0)
    || ((List.range l.roles).map l.roleCount).sum != l.p
    || (List.range l.roles).any (fun k => l.roleRegs k < 16 || 512 < l.roleRegs k)
    || l.xhash.extractLsb' 60 4 != 0 || decide (l.scratch < l.sdLen)

/-- Check 2 of R383 (R24): the first row of the table of R19 that a parcel does not fit. -/
def Launch.unfit (l : Launch) : Option Nat :=
  if 1024 < l.p then some 1
  else if (List.range 32).any (fun i => decide (8192 < l.laneDemand l.p i)) then some 2
  else if 1048576 < l.scratch then some 5
  else if 64 < l.slotCount then some 6
  else if 16 < l.imageSegments then some 7
  else none

/-- Whether a region fails at a parcel (R383 check 3, the first check of R220). -/
def State.regionBad (s : State) (l : Launch) (e : RegionEntry) (pix : Nat) : Bool :=
  let k := l.cap e.cap
  let off := e.offAt pix
  let len := e.lenAt pix
  let out (v : Int) : Bool := decide (v < 0) || decide ((2 : Int) ^ 48 ≤ v)
  out off || out len || s.classOf ⟨l.key.ctx, capObj k⟩ == 0 || decide ((capLen k : Int) < off + len)
    || e.rights &&& capRights k != e.rights || (e.staged && decide ((l.allotment : Int) < e.stage + len))

/-- Check 3 of R383: the first region that fails, and the parcel it fails at. -/
def State.regionFail (s : State) (l : Launch) : Option (Nat × RegionEntry × Nat) :=
  (List.range l.nreg).findSome? (fun k =>
    let e := l.region k
    if s.regionBad l e 0 then some (k, e, 0)
    else if s.regionBad l e (l.parcels - 1) then some (k, e, l.parcels - 1)
    else none)

/-- The record of a refused launch (R408 kind 0x06), if a check of R383 fails. -/
def State.launchCheck (s : State) (l : Launch) : Option FaultRec :=
  if l.packetBad then some { kind := 0x06, code := 1 }
  else match l.unfit with
    | some row => some { kind := 0x06, code := 2, code2 := row }
    | none => match s.regionFail l with
      | none => none
      | some (k, e, pix) => some
        { kind := 0x06, code := 3, code2 := k, obj := capObj (l.cap e.cap),
          addr := (((capBase (l.cap e.cap) : Int) + e.offAt pix) % 2 ^ 64).toNat, len := (e.lenAt pix % 2 ^ 64).toNat }

/-- The device reads a launch node's packet, its region list and its queue's descriptor: the code of an error it meets, else 0 (R379,
R423, R424). -/
def State.packetCheck (s : State) (n : Node) (l : Launch) : State × Nat :=
  match s.devCheck n.issuer.key n.param 256 with
  | (s, 0) => match s.devCheck n.issuer.key l.regl (32 * min 16 l.nreg) with
    | (s, 0) => s.devCheck n.issuer.key (s.queueAt n.ctx n.queue) 32
    | r => r
  | r => r

/-- The parcels of each die's deque at dispatch (R387). -/
def Launch.initialDeques (l : Launch) : Tbl (List Nat) :=
  ((List.range 16).map (fun d => (d, (List.range l.parcels).filter (fun p => p / l.chunk % 16 == d)))).filter (fun e => !e.2.isEmpty)

/-- The region list of a launch, as the device reads it at dispatch (R381, R383). -/
def State.regionList (s : State) (l : Launch) : List RegionEntry :=
  (List.range (min 16 l.nreg)).map (fun k => RegionEntry.ofNat (s.dev (l.regl + 32 * k) 32))

/-- NODE_LAUNCH (R383): the packet is checked; the launch is refused with one record, or takes the next launch id of its
context and stands in every yard (R387). A packet or region list whose bytes are bad fails the node (R379, R424; log entry 51). -/
def execNodeLaunch (node : Nat) (s : State) : Host.Outcome State Fault Refusal :=
  match s.freshNode node 1 with
  | none => .refused (.notEnabled "NODE_LAUNCH")
  | some n =>
    let id := (s.ctx n.ctx).lastLaunch + 1
    let dl := s.queueField n.ctx n.queue 120 120 == 1
    let l : Launch :=
      { key := ⟨n.ctx, id⟩, packet := BitVec.ofNat 2048 (s.dev n.param 256), regions := [], queue := n.queue, node := n.id, nodeIndex := n.index,
        deadline := if dl then n.field 511 448 else 0, prio := s.queueField n.ctx n.queue 122 121, dl := dl, dispatched := n.at',
        deques := [], empties := [], unfreed := 0, missed := false, sets := [], batches := [], pool := ⟨[], [], [], []⟩, segOrder := 0 }
    let l := { l with regions := s.regionList l }
    let (s, code) := s.packetCheck n l
    if code != 0 then .next (s.nodeFail n code)
    else match s.launchCheck l with
    | some r =>
      let s := s.faultRecord n.ctx { r with queue := n.queue, node := n.index }
      .next { s.setQueueField n.ctx n.queue 119 116 2 with nodes := s.nodes.filter (fun x => x.id != node) }
    | none =>
      let s := s.modCtx n.ctx (fun c => { c with lastLaunch := id })
      let s := s.modNode node (fun x => { x with started := true, launch := some l.key })
      .next { s with launches := s.launches ++ [{ l with deques := l.initialDeques, unfreed := l.parcels }] }

/-- DEADLINE_MISS (R385): a deadline-class launch reaches its deadline with a parcel not freed. -/
def execDeadlineMiss (l : LKey) (s : State) : Host.Outcome State Fault Refusal :=
  match s.launch? l with
  | none => .refused (.notEnabled "DEADLINE_MISS")
  | some x =>
    if x.late s.tb then
      .next ((s.modLaunch l (fun x => { x with missed := true })).count l.ctx 0x01B 1)
    else .refused (.notEnabled "DEADLINE_MISS")

end Sys2Proof.Machine
end

