-- ==== Sys2Proof/Machine/Timeline.lean ====
section
/-!
DEFINITION. Timelines (R227, R241, R242): TLREAD, ENGQ, TLWATCH and the firing of watches.
-/

namespace Sys2Proof.Machine

/-- TLREAD (R242). -/
def execTlread (x : RWord) (s : State) : Host.Outcome State Fault Refusal :=
  issue (.tlread x) (fun s k t =>
    let ctx := x.a.toNat % 16
    let tl := (s.core (s.coreOf k)).timeline ctx
    let d := x.d.toNat
    .next (s.result k t.tix (match x.v.toNat with
      | 0 => writesPair d tl.done
      | 1 => writesPair d tl.issued
      | 2 => writesPair d (Tbl.get 0 t.own ctx).toNat
      | 3 => writesPair d tl.failN
      | 4 => writes32 d tl.failC.toNat
      | _ => writes32 d tl.nFail.toNat))) s

/-- The state ENGQ reports of number `n` (R242). -/
def Core.reqState (c : Core) (ctx n : Nat) : Nat :=
  let tl := c.timeline ctx
  let held := if ctx = 4 then c.index.find? (fun j => j.num == n && !j.restored && j.suspended != 0) else none
  if tl.issued < n then 5
  else match held with
    | some j => j.suspended
    | none => if tl.recent.contains n then 2 else if tl.done < n then 1 else 0

/-- The cursor ENGQ reports (R242): CURSOR of an index job, the units completed of a copy in flight, else all ones. -/
def Core.reqCursor (c : Core) (ctx n : Nat) : Nat :=
  if ctx = 4 then match c.index.find? (fun j => j.num == n && !j.restored) with
    | some j => j.cursor
    | none => Tbl.get 0xFFFFFFFF c.jobCursors n
  else match ((c.copies.filter (fun r => r.ctx == ctx)).take 4).find? (fun r => r.num == n && !r.restored) with
    | some r => r.done
    | none => 0xFFFFFFFF

/-- ENGQ (R242). -/
def execEngq (x : EWord) (s : State) : Host.Outcome State Fault Refusal :=
  issue (.engq x) (fun s k t =>
    let n := t.d64 x.y false
    let c := s.core (s.coreOf k)
    let d := x.p.toNat
    .next (s.result k t.tix (writes32 d (c.reqState x.q.toNat n) ++ writes32 (d + 1) (c.reqCursor x.q.toNat n)))) s

/-- The arrival of a watch (R205, R242, R364): in the current phase of the barrier, with the release count kept at issue;
where no arrival is awaited it is dropped, and the thread writes ERR 0x101 if ERR is 0 (R192; log entry 59). -/
def State.watchArrive (s : State) (k : PKey) (tix off : Nat) (c : BitVec 4) : State :=
  let p := s.parcel k
  let b := p.barrier off
  if b.pend = 0 then
    if b.err = 0 then s.modParcel k (fun p => (p.noteWrite off tix (c - 1) true false).setBarrier off { b with err := 0x101 }) else s
  else
    let retired := match p.thread? tix with
      | some t => t.retired
      | none => 0
    let s := s.modParcel k (fun p =>
      { (p.noteWrite off tix (c - 1) true false).modThread tix (fun t =>
          { t with detect := t.detect.insRing (.barrier off) b.phase c }) with
        phaseSums := Tbl.put 0 p.phaseSums off (Tbl.get 0 p.phaseSums off + retired) })
    (s.putBarrier k off { b with pend := b.pend - 1 }).wake (k.thread tix)

/-- TLWATCH (R242). -/
def execTlwatch (x : EWord) (s : State) : Host.Outcome State Fault Refusal :=
  issue (.tlwatch x) (fun s k t =>
    let ctx := x.q.toNat
    let v := t.pair x.y.toNat
    let bar := t.u x.bar false
    let core := s.coreOf k
    let c := s.core core
    let due := decide (v.toNat ≤ (c.timeline ctx).done)
    if !t.storeQ.isEmpty then .wait .storesDone
    else if t.fenceNumber && s.undecided k t.tix then .wait .numbering
    else match (s.parcel k).bound bar 16 16 with
      | some r => .trap r
      | none =>
        if !due && 64 ≤ c.watches.length then .wait .watchRoom
        else
          let rc := t.detect.rc + 1
          let s := s.modThread k t.tix (fun t => { t with detect := { t.detect with rc := rc } })
          if due then .next (s.watchArrive k t.tix bar rc)
          else .next (s.modCore core (fun c => { c with watches := c.watches ++ [⟨k, t.tix, ctx, v, bar, rc⟩] }))) s

/-- WATCH_FIRE (R242): the k-th watch of a core fires, where DONE has reached its value. -/
def execWatchFire (core k : Nat) (s : State) : Host.Outcome State Fault Refusal :=
  match (s.core core).watches[k]? with
  | none => .refused (.notEnabled "WATCH_FIRE")
  | some w =>
    if w.value.toNat ≤ ((s.core core).timeline w.ctx).done then
      let s := s.modCore core (fun c => { c with watches := dropAt c.watches k })
      .next ((s.watchArrive w.key w.tix w.bar w.rc).refresh core)
    else .refused (.notEnabled "WATCH_FIRE")

end Sys2Proof.Machine
end

