-- ==== Sys2Proof/Machine/Scheduling.lean ====
section
/-!
DEFINITION. What a parcel is allotted on a core (R22 to R25, R111, R126, R178), budgets and ranks (R384, R385), placement
(R386), the preparation and the start of a parcel (R54, R112), stealing (R388, R389), the end of parcels and launches (R27,
R390), slices (R392), and pre-emption with its save and restore (R28, R393 to R396).
-/

namespace Sys2Proof.Machine

/-! ### What a parcel takes on a core (R19, R22, R23, R111, R178) -/

/-- The lowest start of `size` units, at a multiple of `step`, that meets none of the ranges taken and ends by `limit`. -/
def lowestGap (taken : List (Nat × Nat)) (size limit step : Nat) : Option Nat :=
  let clear (a : Nat) : Bool := taken.all (fun r => decide (a + size ≤ r.1) || decide (r.1 + r.2 ≤ a))
  (sortBy (fun a b => decide (a ≤ b)) (0 :: taken.map (fun r => roundUp (r.1 + r.2) step))).find?
    (fun a => clear a && decide (a + size ≤ limit))

/-- The threads of a parcel that hold a slot (R27: EXIT frees it). -/
def Parcel.held (p : Parcel) : List Thread := p.threads.filter (fun t => !t.exited)

/-- The registers the threads of a parcel hold on a lane. -/
def State.laneRegs (s : State) (p : Parcel) (lane : Nat) : Nat :=
  match s.launch? p.key.launchKey with
  | some l => (p.held.filter (fun t => t.tix % 32 == lane)).foldl (fun n t => n + l.roleRegs t.role) 0
  | none => 0

/-- What cannot be allotted on a core now: what its parcels hold, and what was freed in this cycle (R27). -/
def State.taken (s : State) (core : Nat) : List Freed := (s.residents core).map s.holding ++ s.late core

/-- Whether a parcel's threads and registers fit on every lane (R111). -/
def State.lanesFit (s : State) (hs : List Freed) (p : Parcel) : Bool :=
  let taken := hs.flatMap (fun h => h.threads)
  (List.range 32).all (fun i =>
    let lane := taken.filter (fun t => t.1 % 32 == i)
    decide (lane.length + (p.held.filter (fun t => t.tix % 32 == i)).length ≤ 32)
      && decide ((lane.map (fun t => t.2)).sum + s.laneRegs p i ≤ 8192))

/-- The scratchpad range a parcel would take (R178). -/
def spadGap (hs : List Freed) (p : Parcel) : Option Nat := lowestGap (hs.map (fun h => h.spad)) p.spSize 1048576 1024

/-- The run of accumulator slots a parcel would take (R22). -/
def slotGap (hs : List Freed) (p : Parcel) : Option Nat := lowestGap (hs.map (fun h => h.slots)) p.slots 64 2

/-- The lowest free residency place. -/
def freePlace (hs : List Freed) : Option Nat := (List.range 8).find? (fun i => hs.all (fun h => h.place != some i))

/-- Whether a launch's resident image stands on a core. -/
def Core.hasImage (c : Core) (l : LKey) : Bool := c.segments.any (fun g => g.launch == l && decide (g.addr < overlayBase))

/-- The resident segment of a core that stands where a saved overlay stood. -/
def Core.overlayLike (c : Core) (g : Segment) : Option Segment :=
  c.segments.find? (fun h => h.launch == g.launch && h.addr == g.addr && h.resident)

/-- The overlay segments a saved parcel brings that its launch does not hold on a core (R146). -/
def Core.missingSegs (c : Core) (p : Parcel) : List Segment := p.savedSegs.filter (fun g => (c.overlayLike g).isNone)

/-- The overlay that a saved OVLD, not yet begun, is to take the place of, as its parcel holds it (R136, R146). -/
def Parcel.savedVictim (p : Parcel) (r : CopyReq) : Option Segment := r.evicts.bind (fun v => p.savedSegs.find? (fun g => g.order == v))

/-- The segment of a core that a restored OVLD takes the place of: the overlay that it was to evict, unless another one takes it
(R136, R146). -/
def Core.victimAt (c : Core) (p : Parcel) (r : CopyReq) : Option Segment :=
  ((p.savedVictim r).bind c.overlayLike).filter (fun h => !c.giving h)

/-- Whether a saved OVLD fills a free segment of a core. -/
def Core.fillsFree (c : Core) (p : Parcel) (r : CopyReq) : Bool :=
  r.fills && (match p.savedVictim r with
    | some g => (c.overlayLike g).isSome && (c.victimAt p r).isNone
    | none => true)

/-- The free segments a parcel needs on a core: the image, its overlays, and those its OVLDs fill, but for one that will take the place
of an overlay (R23, R126, R146). -/
def Core.segmentsNeeded (c : Core) (l : Launch) (p : Parcel) : Nat :=
  (if c.hasImage l.key then 0 else l.imageSegments) + (c.missingSegs p).length + (p.savedCopies.filter (c.fillsFree p)).length

/-- A reservation of a restored parcel on its new core: it keeps its number, and takes the lowest run of granules that is free
(R28, R245, R249). -/
def placeRsv (held : List Reservation) (place : Nat) (r : Reservation) : Option Reservation :=
  if held.any (fun h => h.num == r.num) then none
  else (freeRun held (rsvCount r.word)).map (fun f => { r with
    word := BitVec.ofNat 256 (setBits (setBits r.word.toNat 234 226 f) 225 223 place) })

/-- The reservations of a restored parcel on its new core, if all of them fit beside those held there. -/
def placeRsvs (held : List Reservation) (place : Nat) (rs : List Reservation) : Option (List Reservation) :=
  rs.foldl (fun r x => r.bind (fun done => (placeRsv (held ++ done) place x).map (fun y => done ++ [y]))) (some [])

/-- A near set that follows a restored parcel; a build starts again from the set as it stands (R310, R328). -/
def SetRec.brought (r : SetRec) (core : Nat) : SetRec :=
  { r with home := core, conv := r.conv.map (fun c => { c with base := r.runs, built := false }) }

/-- Whether a near set of a launch waits for a parcel to be restored (R328). -/
def SetRec.waitsFor (r : SetRec) (pix : Nat) : Bool := r.home == noCore && r.owner == pix && !r.far

/-- Whether the near sets and the consists that a restored parcel brings fit in the set store of a core (R4, R28, R300). -/
def State.storeFits (s : State) (l : Launch) (p : Parcel) (core : Nat) : Bool :=
  let back := (l.sets.filter (fun r => r.waitsFor p.key.pix)).map (fun r => r.brought core)
  decide (s.handlesUsed core + back.length + p.consists.length ≤ 4096)
    && decide (s.blocksUsed core + storeBlocks back p.consists.length ≤ 8192)

/-- Whether a parcel fits on a core: everything that placement allots, at once (R23, R25), and what a restored parcel holds
besides (R4, R28); what was freed in this cycle is not allotted in it (R27). -/
def State.fits (s : State) (l : Launch) (p : Parcel) (core : Nat) : Bool :=
  let hs := s.taken core
  let c := s.core core
  (placeRsvs (s.rsvsTaken core) 0 p.resv).isSome && s.storeFits l p core &&
  hs.all (fun h => h.ctx == p.key.ctx) && s.lanesFit hs p && (spadGap hs p).isSome && (slotGap hs p).isSome && (freePlace hs).isSome
    && !c.halting && decide (c.segmentsNeeded l p + c.segments.length + ((s.late core).map (fun h => h.segments)).sum ≤ 16)

/-- Give a thread the lowest free slot of its lane: slots are numbered lane + 32 × j (R417). -/
def giveSlot (taken : List Nat) (t : Thread) : Thread :=
  { t with slot := (((List.range 32).map (fun j => t.tix % 32 + 32 * j)).find? (fun n => !taken.contains n)).getD (t.tix % 32) }

/-- Slots for the threads of a parcel, in ascending `%tix`. -/
def giveSlots (taken : List Nat) (ts : List Thread) : List Thread :=
  (ts.foldl (fun (r : List Nat × List Thread) t =>
    if t.exited then (r.1, r.2 ++ [t]) else
      let u := giveSlot r.1 t
      (u.slot :: r.1, r.2 ++ [u])) (taken, [])).2

/-- The bytes of a segment of a launch's image, read from device memory and charged to its context (R126, R384). -/
def State.imageSegment (s : State) (l : Launch) (i : Nat) : State × Except Nat (List Byte) :=
  s.readTier l.key.ctx .hbm (l.codeAt + 16384 * i) (min 16384 (l.codeLen - 16384 * i))

/-- The bytes of an overlay segment as a restore refills it (R146). -/
def State.overlayBytes (s : State) (l : Launch) (core : Nat) (g : Segment) : State × Except Nat (List Byte) :=
  match g.source with
  | some (obj, off, _) => s.readObject (dieOf core) ⟨l.key.ctx, obj⟩ off 16384
  | none => match s.overlayRead l with
    | (s, 0) => s.readTier l.key.ctx .hbm ((s.overlay? l g.addr).getD 0) 16384
    | (s, e) => (s, .error e)

/-- The device address of a segment's bytes: those of the image, of an overlay of the launch's list, or of the first unit of an
object's (R126, R135, R408). -/
def State.segmentAt (s : State) (l : Launch) (addr : Nat) (source : Option (Nat × Nat × Nat)) : Nat :=
  match source with
  | some (obj, off, _) => match (s.object? ⟨l.key.ctx, obj⟩).bind (fun e => e.extent? (off / 65536)) with
    | some d => (extPlace d (off / 65536)).2 + off % 65536
    | none => 0
  | none => if addr < overlayBase then l.codeAt + addr else (s.overlay? l addr).getD 0

/-- A segment's bytes are bad (R424): at a restore that is kind 0x0A (R146, R405); the image of a launch that a placement reads first is
a request with kind 0x0D (R422). Either ends the launch, which has no code to run (log entry 63). -/
def State.segmentError (s : State) (l : LKey) (pix addr code : Nat) (restoring : Bool) : State :=
  if restoring then s.launchFatal l { kind := 0x0A, code := 0x20, addr := addr, pix := pix }
  else
    let (id, s) := s.fresh
    s.launchFatal l { kind := 0x0D, code := code, code2 := Config.errorField id 5 % 16, addr := addr, len := 16384, pix := pix }

/-- A resident segment is put into a core's instruction store, or its bytes' error ends the launch (R146, R405, R408, R422). -/
def State.putSegment (s : State) (l : LKey) (core addr : Nat) (source : Option (Nat × Nat × Nat)) (pix : Nat) (restoring : Bool)
    (r : State × Except Nat (List Byte)) : State :=
  match s.launch? l, r.2 with
  | none, _ => s
  | some x, .error e => r.1.segmentError l pix (s.segmentAt x addr source) e restoring
  | some x, .ok bs =>
    (r.1.modLaunch l (fun x => { x with segOrder := x.segOrder + 1 })).modCore core (fun c => { c with
      segments := c.segments ++ [⟨l, addr, x.segOrder, source, true, Mem.write [] 0 bs⟩] })

/-- The segments a parcel's placement loads (R126, R146); what a restore refills is charged to no context (R384). -/
def State.loadSegments (s : State) (l : Launch) (core : Nat) (p : Parcel) : State :=
  let missing := (s.core core).missingSegs p
  let back := p.phase == .saved
  let t := if (s.core core).hasImage l.key then s
    else (List.range l.imageSegments).foldl (fun s i => s.putSegment l.key core (16384 * i) none p.key.pix back (s.imageSegment l i)) s
  let t := (sortBy (fun (a b : Segment) => decide (a.order ≤ b.order)) missing).foldl
    (fun s g => s.putSegment l.key core g.addr g.source p.key.pix back (s.overlayBytes l core g)) t
  if back then t.unbilled s l.key.ctx else t

/-- A parcel is allotted its place, its ranges and its slots on a core (R22, R23); a restored one also its reservations, whose
records take the new place and the new granules (R28, R245). -/
def State.allot (s : State) (p : Parcel) (core : Nat) : Parcel :=
  let hs := s.taken core
  let place := (freePlace hs).getD 0
  { p with
    core := core,
    place := place,
    resv := (placeRsvs (s.rsvsTaken core) place p.resv).getD p.resv,
    spBase := (spadGap hs p).getD 0,
    slotBase := (slotGap hs p).getD 0,
    threads := giveSlots (hs.flatMap (fun h => h.threads.map (fun t => t.1))) p.threads }

/-! ### Budgets and ranks (R384, R385) -/

/-- A launch's class and priority as one number: the lower ranks higher. A deadline of 0 ranks after every other one. Between two
deadline-class launches of equal DEADLINE the priority decides nothing (DESIGN CHOICE, log entry 52). -/
def Launch.grade (l : Launch) : Nat :=
  if l.dl then (if l.deadline = 0 then 2 ^ 64 else l.deadline) else 2 ^ 64 + 4 - l.prio

/-- R385: whether a launch ranks above another. -/
def Launch.ranksAbove (a b : Launch) : Bool :=
  decide (a.grade < b.grade) || (a.grade == b.grade && (decide (a.dispatched < b.dispatched) || (a.dispatched == b.dispatched &&
    (decide (a.key.ctx < b.key.ctx) || (a.key.ctx == b.key.ctx && decide (a.queue ≤ b.queue))))))

/-- The parcels of a context that are resident on some core. -/
def State.resident (s : State) (ctx : Nat) : List Parcel := s.parcels.filter (fun p => p.key.ctx == ctx && p.placed)

/-- Headroom (R384): parcel slots, and both counts of the current window. -/
def State.headroom (s : State) (ctx : Nat) : Bool :=
  let c := s.rolled.ctx ctx
  decide ((s.resident ctx).length < c.pslots)
    && (c.hbmBudget == 0xFFFFFFFF || decide (c.hbmBytes < c.hbmBudget * 4096))
    && (c.energyBudget == 0xFFFFFFFF || decide (c.energy < c.energyBudget))

/-! ### Placement (R386) -/

/-- A new parcel of a launch, with its threads as R51, R94 and R112 create them. -/
def Launch.newParcel (l : Launch) (pix : Nat) : Parcel :=
  { Parcel.initial ⟨l.key.ctx, l.key.launch, pix⟩ with
    spSize := l.allotment, slots := l.slotCount, xhash := l.xhash,
    threads := (List.range (l.threadsOf pix)).map (fun tix =>
      { Thread.initial with
        tix := tix, role := l.roleOf tix, pc := BitVec.ofNat 32 (l.roleEntry (l.roleOf tix)),
        c := ((List.range 8).map (fun k => (k, l.cap k))).filter (fun e => e.2 != 0),
        srseed := srInit (l.tid pix tix) }) }

/-- The front of a launch's deque on a die. -/
def Launch.front (l : Launch) (die : Nat) : Option Nat := (Tbl.get [] l.deques die).head?

/-- A parcel of a launch that waits in a deque: a saved one, or a new one. -/
def State.waitingParcel (s : State) (l : Launch) (pix : Nat) : Parcel :=
  (s.parcel? ⟨l.key.ctx, l.key.launch, pix⟩).getD (l.newParcel pix)

/-- Whether a parcel holds a shared reservation or a saved request with a kind 1 operand (R266). -/
def Parcel.tied (p : Parcel) : Bool :=
  p.resv.any (fun r => rsvShare r.word) || p.savedMatrix.any (fun r => match r.op.mma? with
    | some (b, _, _, _) => opdKind (mmaA b) == 1 || opdKind (mmaB b) == 1
    | none => false)

/-- The parcels that are restored together, each at its saved core index (R266): those of the launch that one save took off the
cores of one cluster, if some of them is tied. -/
def State.restoreGroup (s : State) (p : Parcel) : Option (List Parcel) :=
  let g := s.parcels.filter (fun q => q.key.launchKey == p.key.launchKey && q.phase == .saved && q.core / 4 == p.core / 4
    && q.savedBy == p.savedBy)
  if p.phase == .saved && g.any Parcel.tied then some g else none

/-- Near sets that follow a restored parcel (R328). -/
def Launch.setsReturn (l : Launch) (pix core : Nat) : Launch :=
  { l with sets := l.sets.map (fun r => if r.waitsFor pix then r.brought core else r) }

/-- The segments that a parcel's placement takes on a core. -/
def Core.segmentsTaken (c : Core) (l : Launch) (p : Parcel) : List Segment :=
  (if c.hasImage l.key then [] else (List.range l.imageSegments).map (fun i => ⟨l.key, 16384 * i, 0, none, true, []⟩))
    ++ c.missingSegs p
    ++ (p.savedCopies.filter (c.fillsFree p)).map (fun r => ⟨l.key, 2 ^ 32, r.uid, none, false, []⟩)

/-- A parcel stands on a core, with all that it takes there, its segments and its near sets too; for the fit of the others of its
group (R4, R266). -/
def State.occupyCore (s : State) (l : Launch) (p : Parcel) (core : Nat) : State :=
  let q := { s.allot p core with phase := .restoring }
  let s := s.modCore core (fun c => { c with segments := c.segments ++ c.segmentsTaken l p })
  let s := s.modLaunch l.key (fun x => x.setsReturn p.key.pix core)
  { s with parcels := s.parcels.filter (fun x => x.key != p.key) ++ [q] }

/-- Whether a group fits on a cluster, each at its saved core index (R266). -/
def State.groupFits (s : State) (l : Launch) (cluster : Nat) (g : List Parcel) : Bool :=
  (g.foldl (fun (r : State × Bool) p =>
    let core := 4 * cluster + p.core % 4
    (r.1.occupyCore l p core, r.2 && r.1.fits l p core)) (s, true)).2

/-- The cores on which a waiting parcel and its group would stand on a die: the first that fit, in ascending order. -/
def State.place? (s : State) (l : Launch) (die : Nat) (p : Parcel) : Option (List (Parcel × Nat)) :=
  match s.restoreGroup p with
  | none => ((List.range 20).map (fun i => 20 * die + i)).findSome? (fun core => if s.fits l p core then some [(p, core)] else none)
  | some g => ((List.range 5).map (fun i => 5 * die + i)).findSome? (fun n =>
      if s.groupFits l n g then some (g.map (fun q => (q, 4 * n + q.core % 4))) else none)

/-- The launches with a parcel waiting on a die, in the order of R385. -/
def State.waitingOn (s : State) (die : Nat) : List Launch :=
  sortBy Launch.ranksAbove (s.launches.filter (fun l => (l.front die).isSome && (s.ctx l.key.ctx).halt == .none))

/-- Whether a waiting parcel has a lease that is not held, or staging copies under way, which delay its placement (R220). -/
def State.delayed (s : State) (p : Parcel) : Bool :=
  (s.leasesOf p.key).any (fun e => leaseField e 187 184 != 2) || (match s.parcel? p.key with
    | some q => q.phase == .preparing
    | none => false)

/-- The placement a yard makes next (R386): the launch, the parcel and where it goes. -/
def State.placement (s : State) (die : Nat) : Option (Launch × List (Parcel × Nat)) :=
  (s.waitingOn die).findSome? (fun l =>
    match l.front die with
    | none => none
    | some pix =>
      let p := s.waitingParcel l pix
      if s.headroom l.key.ctx && !s.delayed p then (s.place? l die p).map (fun x => (l, x)) else none)

/-- Remove a parcel from the deques of its launch. -/
def State.undeque (s : State) (k : PKey) : State :=
  s.modLaunch k.launchKey (fun l => { l with
    deques := (l.deques.map (fun e => (e.1, e.2.filter (· != k.pix)))).filter (fun e => !e.2.isEmpty) })

/-- The slice that follows a context's last one: it begins as that one expires, and lasts SLICE µs of 1,000 ticks (R392). -/
def Ctx.nextSlice (c : Ctx) : Ctx := { c with sliceEnd := c.sliceEnd + 1000 * c.sliceLen }

/-- A context that places a parcel after being idle begins a slice (R392): SLICE µs of 1,000 ticks. -/
def State.beginSlice (s : State) (ctx : Nat) : State :=
  if (s.resident ctx).isEmpty then s.modCtx ctx (fun c => { c with sliceEnd := s.tb + 1000 * c.sliceLen }) else s

/-- The phase in which a parcel is put on a core. -/
def ParcelPhase.placed : ParcelPhase → ParcelPhase
  | .saved => .restoring
  | _ => .starting

/-- A parcel is put on a core: its allotment, the launch's segments (R23, R126); what the core remembers of the slots'
exited threads goes (R417). -/
def State.putParcel (s : State) (l : Launch) (p : Parcel) (core : Nat) : State :=
  let s := s.beginSlice p.key.ctx
  let q := { s.allot p core with phase := p.phase.placed }
  let s := { s.undeque p.key with
    parcels := s.parcels.filter (fun (x : Parcel) => x.key != p.key) ++ [q] }
  let s := s.modCore core (fun c => { c with recentExit := c.recentExit.filter (fun e => !q.held.any (fun t => t.slot == e.1)) })
  s.loadSegments l core p

/-- The preparation of a parcel's scratchpad begins, while the parcel waits in its deque (R54, R220). -/
def State.beginPrepare (s : State) (l : Launch) (k : PKey) : State :=
  { s with parcels := s.parcels ++ [{ l.newParcel k.pix with core := noCore }] }

/-- PARCEL_PLACE (R386): the leases of the parcel that a yard places next are taken while it stands in its deque; once all of
them are held its scratchpad is prepared there; and the parcel goes to its core once that is done (R220; log entry 53). A faulted
lease leaves it in the deque. -/
def execParcelPlace (die : Nat) (s : State) : Host.Outcome State Fault Refusal :=
  match s.placement die with
  | some (l, [(p, core)]) =>
    match s.parcel? p.key with
    | some q => if q.phase = .prepared then .next (s.putParcel l p core) else .refused (.notEnabled "PARCEL_PLACE")
    | none =>
      let t := s.takeLeases p.key 17
      .next (match t.launch? l.key with
        | some x => if t.allLeased x p.key then t.beginPrepare x p.key else t
        | none => t)
  | _ => .refused (.notEnabled "PARCEL_PLACE")

/-! ### Preparation and start (R54, R112) -/

/-- The die whose deque holds a parcel. -/
def State.yardOf (s : State) (k : PKey) : Nat :=
  match s.launch? k.launchKey with
  | some l => ((List.range 16).find? (fun d => (Tbl.get [] l.deques d).contains k.pix)).getD 0
  | none => 0

/-- Where a region of a parcel's list lies: the object, its first byte and its length. -/
def Launch.regionAt (l : Launch) (k : PKey) (i : Nat) : OKey × Nat × Nat :=
  let e := l.region i
  (⟨k.ctx, capObj (l.cap e.cap)⟩, capBase (l.cap e.cap) + (e.offAt k.pix).toNat, (e.lenAt k.pix).toNat)

/-- The units of a parcel's staging copies, each within 4 KiB of its object: the region, the first byte and the length. -/
def Launch.stagingUnits (l : Launch) (k : PKey) : List (Nat × Nat × Nat) :=
  (List.range l.nreg).flatMap (fun i =>
    let (_, a, n) := l.regionAt k i
    if !(l.region i).staged || n == 0 then []
    else (List.range ((a + n - 1) / 4096 - a / 4096 + 1)).map (fun j =>
      let lo := max a ((a / 4096 + j) * 4096)
      (i, lo, min (a + n) ((a / 4096 + j + 1) * 4096) - lo)))

/-- A unit of a staging copy (R54): object bytes into the scratchpad; bytes that cannot be read are not written. -/
def State.stage (s : State) (l : Launch) (k : PKey) (i a n : Nat) : State :=
  let (o, base, _) := l.regionAt k i
  match s.readObject (s.yardOf k) o a n with
  | (s, .ok bs) => s.modParcel k (fun p => { p with spad := Mem.write p.spad ((l.region i).stage + (a - base)) bs })
  | (s, .error c) => s.plainError k.ctx o.obj a n c k

/-- The `.sdata` image of a launch, verified; bytes that cannot be read are not written (R424; log entry 38). -/
def State.sdataImage (s : State) (l : Launch) (k : PKey) : State × List Byte :=
  match s.devCheck k l.sdata l.sdLen with
  | (s, 0) => (s, Mem.read s.hbm l.sdata l.sdLen)
  | (s, _) => (s, [])

/-- A step of the preparation of a parcel's scratchpad (R54, R178): the image and zeros, then a unit of its staging copies at a time,
which waits while the weight store refreshes the bank it would read (R225). -/
def State.prepare (s : State) (l : Launch) (p : Parcel) : Option State :=
  let k := p.key
  let units := l.stagingUnits k
  let done (s : State) : State := s.modParcel k (fun p =>
    { p with prep := p.prep + 1, phase := if units.length ≤ p.prep then .prepared else p.phase })
  match p.prep with
  | 0 =>
    let (s, image) := s.sdataImage l k
    some (done (s.modParcel k (fun p => { p with spad := Mem.write [] 0 image, recs := [] })))
  | i + 1 => match units[i]? with
    | none => some (done s)
    | some (r, a, n) => if s.inRefresh (l.regionAt k r).1 a n then none else some (done (s.stage l k r a n))

/-- SCRATCHPAD_PREPARE (R54). -/
def execScratchpadPrepare (k : PKey) (s : State) : Host.Outcome State Fault Refusal :=
  match s.parcel? k, s.launch? k.launchKey with
  | some p, some l =>
    match (if p.phase = .preparing then s.prepare l p else none) with
    | some s => .next s
    | none => .refused (.notEnabled "SCRATCHPAD_PREPARE")
  | _, _ => .refused (.notEnabled "SCRATCHPAD_PREPARE")

/-- THREADS_START (R112): every thread of a prepared parcel becomes ready. -/
def execThreadsStart (k : PKey) (s : State) : Host.Outcome State Fault Refusal :=
  match s.parcel? k with
  | some p =>
    if p.phase = .starting ∧ (s.ctx k.ctx).halt = .none then
      .next ((s.modParcel k (fun p => { p with phase := .running })).refresh p.core)
    else .refused (.notEnabled "THREADS_START")
  | none => .refused (.notEnabled "THREADS_START")

/-! ### Stealing (R388, R389) -/

/-- Whether a die has room for a parcel of a launch. -/
def State.dieRoom (s : State) (l : Launch) (die : Nat) : Bool :=
  (List.range 20).any (fun i => s.fits l (l.newParcel 0) (20 * die + i))

/-- STEAL_REQUEST (R388): a yard with an empty deque and room asks the next victim that has not answered "empty". -/
def execStealRequest (die : Nat) (l : LKey) (s : State) : Host.Outcome State Fault Refusal :=
  match s.launch? l with
  | none => .refused (.notEnabled "STEAL_REQUEST")
  | some x =>
    let victims := (List.range 15).map (fun i => (die + 1 + i) % 16)
    match victims.find? (fun v => !(Tbl.get [] x.empties die).contains v) with
    | none => .refused (.notEnabled "STEAL_REQUEST")
    | some v =>
      if die < 16 ∧ x.front die = none ∧ s.dieRoom x die ∧ !s.steals.any (fun t => t.die == die && t.launch == l) then
        .next { s with steals := s.steals ++ [⟨die, l, v⟩] }
      else .refused (.notEnabled "STEAL_REQUEST")

/-- Whether the owner of a deque takes its last entry now (R389, R397): its yard would place it, or is preparing it. -/
def State.ownerTakes (s : State) (die : Nat) (l : Launch) (pix : Nat) : Bool :=
  Tbl.get [] l.deques die == [pix] && ((match s.parcel? ⟨l.key.ctx, l.key.launch, pix⟩ with
    | some q => q.phase == .preparing
    | none => false) || (match s.placement die with
    | some (x, g) => x.key == l.key && g.any (fun q => q.1.key.pix == pix)
    | none => false))

/-- STEAL_REPLY (R388, R389): the victim gives the parcel at the back of its deque, or answers "empty", as it does where it takes
its last entry itself. -/
def execStealReply (die : Nat) (l : LKey) (s : State) : Host.Outcome State Fault Refusal :=
  match s.steals.find? (fun t => t.die == die && t.launch == l) with
  | none => .refused (.notEnabled "STEAL_REPLY")
  | some t =>
    let give := match s.launch? l with
      | some x => (Tbl.get [] x.deques t.victim).getLast?.filter (fun pix => !s.ownerTakes t.victim x pix)
      | none => none
    let s := { s with steals := s.steals.filter (fun u => !(u.die == die && u.launch == l)) }
    .next (s.modLaunch l (fun x =>
      match give with
      | none => { x with empties := Tbl.put [] x.empties die (Tbl.get [] x.empties die ++ [t.victim]) }
      | some p =>
        let d := Tbl.put [] x.deques t.victim ((Tbl.get [] x.deques t.victim).dropLast)
        { x with deques := Tbl.put [] d die (Tbl.get [] d die ++ [p]) }))

/-! ### The end of a parcel and of a launch (R27, R329, R390) -/

/-- Whether a parcel can be freed (R27 step 2): its threads have exited, and none of their requests and watches is left (R242). -/
def State.freeable (s : State) (p : Parcel) : Bool :=
  let c := s.core p.core
  p.phase == .running && p.threads.all (fun t => t.exited) && p.landings.isEmpty && p.counts.isEmpty
    && c.copies.all (fun r => r.key != p.key) && c.index.all (fun r => r.key != p.key) && c.matrix.all (fun r => r.key != p.key)
    && c.drains.all (fun r => r.req.key != p.key) && c.sets.all (fun r => r.key != p.key) && c.port.all (fun i => i.key != p.key)
    && c.watches.all (fun w => w.key != p.key) && s.circle.all (fun q => q.key != p.key) && s.replies.all (fun r => r.key != p.key)
    && p.resv.all (fun r => !s.resBusy p.key r.num)

/-- With a launch's last parcel on a core go its near sets there, whose handles become stale, and its segments (R27, R329). -/
def State.leaveCore (s : State) (l : LKey) (core : Nat) : State :=
  if s.parcels.any (fun p => p.core == core && p.key.launchKey == l && p.placed) then s
  else
    let s := (s.noteFreed core (s.launchHolding l core)).modLaunch l (fun x => { x with
      sets := x.sets.filter (fun r => r.far || r.home != core),
      pool := { x.pool with spent := x.pool.spent ++ (x.sets.filter (fun r => !r.far && r.home == core)).map (fun r => r.index) } })
    s.modCore core (fun c => { c with
      segments := c.segments.filter (fun g => g.launch != l),
      wakes := c.wakes.filter (fun w => w.launch != l) })

/-- PARCEL_FREE (R27): the parcel's resources are freed; its consists go with it (R329). The last parcel of a deadline-class
launch may be late (R385). -/
def execParcelFree (k : PKey) (s : State) : Host.Outcome State Fault Refusal :=
  match s.parcel? k with
  | none => .refused (.notEnabled "PARCEL_FREE")
  | some p =>
    if s.freeable p then
      let s := (p.consists.map (fun c => c.handle)).foldl (fun s h => s.dropConsist k h) s
      let s := s.noteFreed p.core (s.holding { p with consists := [] })
      let s := s.modCore p.core (fun c => { c with entries := c.entries.filter (fun e => e.place != p.place) })
      let s := { s with parcels := s.parcels.filter (fun q => q.key != k) }
      let s := (s.leaveCore k.launchKey p.core).modLaunch k.launchKey (fun l => { l with unfreed := l.unfreed - 1 })
      match s.launch? k.launchKey with
      | none => .next (s.refresh p.core)
      | some l =>
        let late := l.dl && l.deadline != 0 && l.unfreed == 0 && !l.missed && decide (l.deadline < s.tb)
        .next ((if late then s.count k.ctx 0x01B 1 else s).refresh p.core)
    else .refused (.notEnabled "PARCEL_FREE")

/-- A context's journal records, each with the device address at which it stands: one behind the other from JRNL on (R291, R372;
log entry 56). -/
def Ctx.placedRecords (c : Ctx) : List (Nat × JournalRec) :=
  (c.journal.foldl (fun (r : Nat × List (Nat × JournalRec)) j => (r.1 + journalBytes j.blk, r.2 ++ [(r.1, j)])) (c.field 383 320, [])).2

/-- A journal record is read back, which is charged, and applied (R290, R291, R384); one whose bytes are bad is context-fatal
(R405). -/
def State.applyRecord (s : State) (l : LKey) (e : Nat × JournalRec) : State :=
  let r := e.2
  let n := journalBytes r.blk
  match (s.launch? l).isSome, (s.charge l.ctx .hbm e.1 n).verifyAll .hbm e.1 n with
  | false, _ => s
  | true, (s, 0) =>
    let k : PKey := ⟨l.ctx, l.launch, r.pix⟩
    let s := if s.drainAssists k r.blk r.cap r.win then s.count l.ctx 0x014 1 else s
    (s.drainObject ⟨k, 0, 0, 0⟩ r.blk r.cap r.win).1
  | true, (s, _) => s.contextFatal l.ctx 1 e.1

/-- JOURNAL_APPLY (R291): a launch's records, in ascending `%pix`, and for one parcel in the order of execution. -/
def State.applyJournal (s : State) (l : LKey) : State :=
  let mine := (s.ctx l.ctx).placedRecords.filter (fun e => e.2.launch == l.launch)
  (sortBy (fun (a b : Nat × JournalRec) => decide (a.2.pix ≤ b.2.pix)) mine).foldl (fun s e => s.applyRecord l e) s

/-- LAUNCH_END (R390): the journal is applied; leases, sets, indices and segments are released; the node is done. -/
def execLaunchEnd (l : LKey) (s : State) : Host.Outcome State Fault Refusal :=
  match s.launch? l with
  | none => .refused (.notEnabled "LAUNCH_END")
  | some x =>
    if x.unfreed = 0 then
      .next (((s.applyJournal l).dropLaunch l).modNode x.node (fun n => { n with satisfied := true }))
    else .refused (.notEnabled "LAUNCH_END")

/-! ### Slices and the choice of pre-emption (R392, R393) -/

/-- The state as it would be without what a context holds on the cores: its resident parcels, its segments and its near sets. -/
def State.without (s : State) (ctx : Nat) : State :=
  { s.mapCores (fun _ c => { c with
      segments := c.segments.filter (fun g => g.launch.ctx != ctx), freed := c.freed.filter (fun f => f.ctx != ctx) }) with
    parcels := s.parcels.filter (fun p => p.key.ctx != ctx || !p.placed),
    launches := s.launches.map (fun l => if l.key.ctx = ctx then { l with sets := l.sets.filter (fun r => r.far) } else l) }

/-- Whether the front parcel of a launch fits on some die. -/
def State.fitsSomewhere (s : State) (l : Launch) : Bool :=
  (List.range 16).any (fun d => match l.front d with
    | none => false
    | some pix => (s.place? l d (s.waitingParcel l pix)).isSome)

/-- Whether a launch of another context waits for resources that a context holds: it fits nowhere, and would fit if the context
held nothing (R393). -/
def State.waitsFor (s : State) (ctx : Nat) (l : Launch) : Bool :=
  l.key.ctx != ctx && (s.ctx l.key.ctx).halt == .none && s.headroom l.key.ctx && !s.fitsSomewhere l && (s.without ctx).fitsSomewhere l

/-- The running launches of a context. -/
def State.runningLaunches (s : State) (ctx : Nat) : List Launch :=
  s.launches.filter (fun l => l.key.ctx == ctx && (s.resident ctx).any (fun p => p.key.launchKey == l.key))

/-- The grade of a context's best running launch. -/
def State.bestGrade (s : State) (ctx : Nat) : Nat := (s.runningLaunches ctx).foldl (fun n l => min n l.grade) (2 ^ 65)

/-- Whether a context's slice has expired. -/
def State.expired (s : State) (ctx : Nat) : Bool := decide ((s.ctx ctx).sliceEnd ≤ s.tb)

/-- The two cases of R393. -/
def State.qualifies (s : State) (ctx : Nat) : Bool :=
  (s.ctx ctx).halt == .none && !(s.resident ctx).isEmpty && s.launches.any (fun l => s.waitsFor ctx l &&
    (decide (l.grade < s.bestGrade ctx) || (s.expired ctx && decide (l.grade ≤ s.bestGrade ctx))))

/-- The context that is pre-empted: of those that qualify, the one whose best running launch ranks lowest, then the one
restored last (R393). -/
def State.chosen (s : State) : Option Nat :=
  ((List.range 64).filter s.qualifies).foldl (fun best c => match best with
    | none => some c
    | some b => if s.bestGrade b < s.bestGrade c ∨ (s.bestGrade b = s.bestGrade c ∧ (s.ctx b).lastRestored < (s.ctx c).lastRestored)
        then some c else some b) none

/-- Whether a context's slice has expired with no launch of another context waiting for its cores (R392). -/
def State.renews (s : State) (ctx : Nat) : Bool :=
  !(s.resident ctx).isEmpty && s.expired ctx && !s.launches.any (s.waitsFor ctx)

/-- SLICE_EXPIRY (R392): where no launch of another context waits for the context's cores, a new slice begins, at the expiry of the
last one. -/
def execSliceExpiry (ctx : Nat) (s : State) : Host.Outcome State Fault Refusal :=
  if s.renews ctx then .next (s.modCtx ctx Ctx.nextSlice) else .refused (.notEnabled "SLICE_EXPIRY")

/-- The slices that expire as time passes with no launch waiting give way to new ones at once (R392): those of every context, `k`
times at most. -/
def State.renewSlices (s : State) : Nat → State
  | 0 => s
  | k + 1 =>
    match (List.range 64).filter s.renews with
    | [] => s
    | l => (l.foldl (fun s ctx => s.modCtx ctx Ctx.nextSlice) s).renewSlices k

/-! ### Halt (R394, R395, R348) -/

/-- The cores that hold parcels of a context. -/
def State.coresOf (s : State) (ctx : Nat) : List Nat := ((s.resident ctx).map (fun p => p.core)).dedup

/-- Whether a restore of a context is under way (R396). -/
def State.restoring (s : State) (ctx : Nat) : Bool := (s.resident ctx).any (fun p => p.phase == .restoring)

/-- A halt of every core of a context is requested (R393, R394): issue stops. -/
def State.halt (s : State) (ctx : Nat) : State :=
  let s := (s.coresOf ctx).foldl (fun s n => s.modCore n (fun c => { c with halting := true })) s
  s.modCtx ctx (fun c => { c with halt := .halting })

/-- Whether the last parcel of some launch of a context has retired, so that the launch counts as complete (R397). -/
def State.completing (s : State) (ctx : Nat) : Bool :=
  (s.launches.filter (fun l => l.key.ctx == ctx)).any (fun l =>
    let mine := (s.resident ctx).filter (fun p => p.key.launchKey == l.key)
    mine.length == l.unfreed && mine.all s.freeable)

/-- PREEMPT (R393): the chosen context is halted, or one whose dump waits for the end of a restore (R396, R415). No save is made of
a launch that is complete but for the freeing of its last parcel (R397). -/
def execPreempt (ctx : Nat) (s : State) : Host.Outcome State Fault Refusal :=
  if (s.ctx ctx).halt = .none ∧ !s.restoring ctx ∧ !s.completing ctx ∧ ((s.ctx ctx).dumping ∨ s.chosen = some ctx) then .next (s.halt ctx)
  else .refused (.notEnabled "PREEMPT")

/-- Whether the matrix context of a core is at a point where a halt may cut it (R265, R294). -/
def Core.matrixCut (c : Core) : Bool :=
  c.drains.isEmpty && (match c.run, c.matrix with
    | some r, q :: _ => !r.assist && q.op.mma?.isSome && decide (q.step < q.op.steps)
    | none, q :: _ => !q.op.query
    | _, _ => true)

/-- Whether nothing of a thread is left that a halt completes: its queued stores and loads, its results that are known. -/
def Thread.quiet (t : Thread) : Bool := t.storeQ.isEmpty && t.deliver.isEmpty && t.pend.all (fun e => e.vals.isNone)

/-- Whether a parcel is at a point where a halt may complete (R394): nothing is in flight. -/
def Parcel.quiet (p : Parcel) : Bool :=
  p.landings.isEmpty && p.counts.isEmpty && p.threads.all (fun t => t.exited || t.quiet)

/-- Whether a Circle request keeps its context from halting (R348, R394): one on its way, or a non-blocking one that is undecided. -/
def CircleReq.holdsHalt (q : CircleReq) : Bool := q.stage == .sent || (!q.blocking && !q.decided)

/-- Whether a context's halt is complete (R394, R395): its staging copies are complete too. -/
def State.haltDone (s : State) (ctx : Nat) : Bool :=
  (s.coresOf ctx).all (fun n => (s.core n).port.isEmpty && (s.core n).matrixCut)
    && !s.midBatch ctx && (s.resident ctx).all (fun p => p.quiet)
    && s.parcels.all (fun p => p.key.ctx != ctx || p.phase != .preparing)
    && (s.circle.filter (fun q => q.key.ctx == ctx && !q.drop && (s.resident ctx).any (fun p => p.key == q.key))).all (fun q => !q.holdsHalt)

/-- A blocking request that waits for its admission is withdrawn; its thread will issue it again (R348). -/
def State.withdraw (s : State) (q : CircleReq) : State :=
  let s := s.dropReq q.id
  let s := { s with
    slices := (s.slices.map (fun e => (e.1, { e.2 with waiters := e.2.waiters.filter (· != q.id) }))).filter (fun e => e.2 != Slice.empty),
    regions := s.regions.map (fun r => { r with spanWait := r.spanWait.filter (· != q.id) }) }
  match q.op with
  | .far _ _ => s
  | _ => s.modThread q.key q.tix (fun t => { t.dec .circle with status := .ready })

/-- A halted thread: results due are written, and the reuse buffer is empty (R59, R395). -/
def Thread.halted (t : Thread) : Thread :=
  { t with due := [], reuse := none, status := match t.status with
    | .short _ => .ready
    | x => x }

/-- A parcel of a context whose halt is complete. -/
def Parcel.haltFor (p : Parcel) (ctx : Nat) : Parcel :=
  if p.key.ctx = ctx ∧ p.placed then { p with threads := p.threads.map Thread.halted } else p

/-- HALT_COMPLETE (R394): every core of the context has halted. -/
def execHaltComplete (ctx : Nat) (s : State) : Host.Outcome State Fault Refusal :=
  if (s.ctx ctx).halt = .halting ∧ s.haltDone ctx then
    let waiters := s.circle.filter (fun q => q.key.ctx == ctx && q.blocking && (s.resident ctx).any (fun p => p.key == q.key)
      && (q.stage == .waiting || q.stage == .spanning))
    let s := waiters.foldl (fun s q => s.withdraw q) s
    .next (({ s with parcels := s.parcels.map (fun p => p.haltFor ctx) } : State).modCtx ctx (fun c => { c with halt := .halted }))
  else .refused (.notEnabled "HALT_COMPLETE")

/-! ### Save (R396, R146, R243, R265, R328) -/

/-- A copy as it is saved: an OVLD starts again from its first byte (R146); one that has not begun keeps the segment that it is to
evict (R136). -/
def CopyReq.saved (r : CopyReq) : CopyReq :=
  { r with
    restored := true, done := if r.fills then 0 else r.done, seg := none
    carry := if r.fills then ⟨[], [], []⟩ else r.carry }

/-- A parcel as its image holds it, of the save with a serial number. -/
def State.savedParcel (s : State) (save : Nat) (p : Parcel) : Parcel :=
  let c := s.core p.core
  { p with
    phase := .saved, before := p.phase, savedBy := save,
    savedCopies := (c.copies.filter (fun r => r.key == p.key)).map CopyReq.saved,
    savedJobs := (c.index.filter (fun r => r.key == p.key)).map (fun r => { r with restored := true }),
    savedMatrix := (c.matrix.filter (fun r => r.key == p.key)).map (fun r => { r with restored := true }),
    savedSets := (c.sets.filter (fun r => r.key == p.key)).map (fun r => { r with restored := r.restored || !s.farPending r.uid }),
    savedWatches := c.watches.filter (fun w => w.key == p.key),
    savedSegs := (c.segments.filter (fun g => g.launch == p.key.launchKey && decide (overlayBase ≤ g.addr)
      && g.resident)).map (fun g => { g with bytes := [] }),
    savedIssued := (List.range 7).map (fun k => BitVec.ofNat 64 (c.timeline k).issued) }

/-- A launch whose parcels leave their cores: near sets follow the parcel that created them, or the lowest one of their
core (R328); the deques receive the parcels at their fronts, where all saved ones stand in ascending `%pix` (R396); `old` are the
parcels that were saved before. -/
def Launch.switchedOut (l : Launch) (ps old : List Parcel) : Launch :=
  let mine := ps.filter (fun p => p.key.launchKey == l.key)
  let pixes (c : Nat) : List Nat := sortBy (fun a b => decide (a ≤ b)) ((mine.filter (fun p => p.core == c)).map (fun p => p.key.pix))
  let follow (r : SetRec) : SetRec :=
    if r.far || (pixes r.home).isEmpty then r
    else { r with owner := if (pixes r.home).contains r.owner then r.owner else (pixes r.home).headD 0, home := noCore }
  let of (d : Nat) : List Nat := (mine.filter (fun p => dieOf p.core == d)).map (fun p => p.key.pix)
  let isOld (pix : Nat) : Bool := old.any (fun p => p.key == ⟨l.key.ctx, l.key.launch, pix⟩)
  let deque (d : Nat) : List Nat :=
    let q := Tbl.get [] l.deques d
    sortBy (fun a b => decide (a ≤ b)) (of d ++ q.filter isOld) ++ q.filter (fun pix => !isOld pix)
  { l with
    sets := l.sets.map follow,
    deques := ((List.range 16).map (fun d => (d, deque d))).filter (fun e => !e.2.isEmpty) }

/-- The bytes of a core's image (R6: 8.625 MiB), and its place in the save area (R396). -/
def imageBytes : Nat := 9043968

/-- The device address of a core's image. -/
def State.imageAt (s : State) (ctx core : Nat) : Nat := (s.ctx ctx).field 447 384 + 9437184 * core

/-- Whether a 256-byte unit of HBM has bytes of a core's image. -/
def State.imageUnit (s : State) (ctx core unit : Nat) : Bool :=
  let a := s.imageAt ctx core
  decide (a < 256 * unit + 256) && decide (256 * unit < a + imageBytes)

/-- The bytes of the image of a core, as the save with a serial number writes them: the spec gives the image no layout, so each is a
free value (R396; log entry 12). -/
def imageContents (save core : Nat) : List Byte := (List.range imageBytes).map (Config.imageByte save core)

/-- The image of a core is written (R396): its units take fresh check values (R423), so poison and errors that wait go. -/
def State.writeImage (s : State) (save ctx core : Nat) : State :=
  let mine (t : Tier) (u : Nat) : Bool := t == .hbm && s.imageUnit ctx core u
  { s with
    hbm := Mem.write s.hbm (s.imageAt ctx core) (imageContents save core),
    poison := s.poison.filter (fun p => !mine p.1 p.2),
    memFaults := s.memFaults.filter (fun f => !mine f.tier f.unit),
    images := s.images.filter (fun i => !(i.ctx == ctx && i.core == core)) ++ [⟨ctx, core, []⟩] }

/-- The units of a core's image whose bytes are bad are met as the image is read back: the first of them, if there is one (R405,
R424). -/
def State.readImage (s : State) (ctx core : Nat) : State × Option Nat :=
  let waiting := (s.memFaults.filter (fun f => f.tier == .hbm && s.imageUnit ctx core f.unit)).map (fun f => f.unit)
  let t := waiting.foldl (fun s u => (s.verify .hbm u).1) s
  (t, ((t.poison.filter (fun p => p.1 == .hbm && s.imageUnit ctx core p.2)).map (fun p => p.2)).foldl
    (fun b u => some (match b with
      | some x => min x u
      | none => u)) none)

/-- Every resident parcel of a context is switched out (R396). -/
def State.switchOut (s : State) (ctx : Nat) : State :=
  let ps := s.resident ctx
  let old := s.parcels.filter (fun p => p.phase == .saved)
  let gone (k : PKey) : Bool := ps.any (fun p => p.key == k)
  let (save, s) := s.fresh
  let saved := ps.map (s.savedParcel save)
  let cores := s.coresOf ctx
  let s := s.dropSetNumbers (fun r => gone r.key && !s.farPending r.uid)
  let s := ps.foldl (fun s p => s.noteFreed p.core (s.holding p)) s
  let s := cores.foldl (fun s n => s.noteFreed n { s.nothingFreed ctx with
    segments := ((s.core n).segments.filter (fun g => g.launch.ctx == ctx)).length, sets := s.nearSets n }) s
  let s := cores.foldl (fun s n => s.modCore n (fun c =>
    { c.dropRequests gone with
      entries := [],
      segments := c.segments.filter (fun g => g.launch.ctx != ctx),
      wakes := c.wakes.filter (fun w => w.launch.ctx != ctx) })) s
  let s := cores.foldl (fun t n => t.writeImage save ctx n) (s.unhalt ctx)
  { s with
    parcels := s.parcels.filter (fun p => !gone p.key) ++ saved,
    launches := s.launches.map (fun l => if l.key.ctx = ctx then l.switchedOut ps old else l) }

/-- SAVE_COMPLETE (R396): the images are written; one that cannot be written is context-fatal (R405). -/
def execSaveComplete (ctx : Nat) (written : Bool) (s : State) : Host.Outcome State Fault Refusal :=
  if (s.ctx ctx).halt = .halted then
    if written then
      .next ((s.switchOut ctx).modCtx ctx (fun c => { c with halt := .none, dumping := false, sliceEnd := 0 }))
    else .next (s.contextFatal ctx 2 ((s.ctx ctx).field 447 384))
  else .refused (.notEnabled "SAVE_COMPLETE")

/-! ### Restore (R28, R146, R210, R243, R265, R266, R310, R363) -/

/-- A thread as a restore returns it: a yielded one is ready, and its detection state but RC is empty (R146, R363). -/
def Thread.restored (t : Thread) : Thread :=
  { t with
    status := match t.status with
      | .yielded _ => .ready
      | x => x,
    detect := { Detect.empty with rc := t.detect.rc } }

/-- Every access record is reset except TAG (R190, R210). -/
def keepTags (recs : Tbl (BitVec 64)) : Tbl (BitVec 64) :=
  (recs.map (fun e => (e.1, e.2 &&& (1#64 <<< 39)))).filter (fun e => e.2 != 0)

/-- A parcel as it stands after its restore; its saved requests have gone to the core. -/
def Parcel.restored (p : Parcel) : Parcel :=
  { p with
    phase := if p.before = .running then .restoring else p.before,
    threads := p.threads.map Thread.restored, recs := keepTags p.recs,
    savedCopies := [], savedJobs := [], savedMatrix := [], savedSets := [], savedSegs := [] }

/-- A restored copy of a parcel on its core: an OVLD takes a segment to fill, or names the one that gives way as it begins (R136,
R146). -/
def State.resumeCopy (s : State) (core : Nat) (p : Parcel) (r : CopyReq) : State :=
  let overlay (addr : Nat) (source : Option (Nat × Nat × Nat)) : State :=
    let l := r.key.launchKey
    let order := match s.launch? l with
      | some x => x.segOrder
      | none => 0
    (s.modLaunch l (fun x => { x with segOrder := x.segOrder + 1 })).modCore core (fun c =>
      match c.victimAt p r with
      | some g => { c with copies := c.copies ++ [{ r with seg := some order, evicts := some g.order }] }
      | none => { c with
        segments := c.segments ++ [⟨l, addr, order, source, false, []⟩],
        copies := c.copies ++ [{ r with seg := some order, evicts := none }] })
  match r.kind with
  | .ovldList addr _ => if r.units = 0 then s.modCore core (fun c => { c with copies := c.copies ++ [r] }) else overlay addr none
  | .ovldObject addr obj off reg => overlay addr (some (obj, off, reg))
  | _ => s.modCore core (fun c => { c with copies := c.copies ++ [r] })

/-- The requests of a saved parcel that has been put on a core resume there. -/
def State.resumeRequests (s : State) (l : LKey) (p : Parcel) (core : Nat) : State :=
  let s := s.modParcel p.key Parcel.restored
  let s := p.savedCopies.foldl (fun s r => s.resumeCopy core p r) s
  let s := s.modCore core (fun c => { c with
    index := c.index ++ p.savedJobs,
    matrix := c.matrix ++ p.savedMatrix,
    sets := c.sets ++ p.savedSets.map (fun r => if r.restored then { r with core := core } else r) })
  let s := s.modLaunch l (fun x => x.setsReturn p.key.pix core)
  let (id, s) := s.fresh
  s.modCtx p.key.ctx (fun c => { c with lastRestored := id })

/-- A saved parcel is put on a core, and its requests resume there; where the bytes of a segment were bad, its launch has ended (R146,
R405). -/
def State.resume (s : State) (l : Launch) (p : Parcel) (core : Nat) : State :=
  let t := s.putParcel l p core
  if (t.launch? l.key).isSome then t.resumeRequests l.key p core else t

/-- A saved parcel is read back from the image of the core it left, which keeps it for a dump (R415), and returns; a unit of the
image whose bytes are bad ends the launch with kind 0x0A (R405, R424; log entry 12: a parcel's restore reads the whole image). -/
def State.restore (s : State) (l : Launch) (p : Parcel) (core : Nat) : State :=
  match s.readImage p.key.ctx p.core with
  | (s, some u) => s.launchFatal l.key { kind := 0x0A, code := 0x20, addr := 256 * u, pix := p.key.pix }
  | (s, none) =>
    State.resume { s with images := s.images.map (fun (i : Image) =>
      if i.ctx = p.key.ctx ∧ i.core = p.core then { i with left := i.left ++ [p] } else i) } l p core

/-- Whether the requests that a parcel brought back are all done (R243 step 1); suspended jobs wait. -/
def State.resumed (s : State) (p : Parcel) : Bool :=
  let c := s.core p.core
  c.copies.all (fun r => r.key != p.key) && c.index.all (fun r => r.key != p.key || r.suspended != 0)
    && c.matrix.all (fun r => r.key != p.key) && c.drains.all (fun r => r.req.key != p.key) && c.sets.all (fun r => r.key != p.key)
    && p.landings.isEmpty

/-- Steps 2 to 4 of R243: timelines are raised, suspended jobs take fresh numbers, watches are entered again. -/
def State.rejoin (s : State) (p : Parcel) : State :=
  let s := s.modCore p.core (fun c => (List.range 7).foldl (fun c k =>
    let saved := ((p.savedIssued[k]?).getD 0).toNat
    if (c.timeline k).issued < saved then c.modTimeline k (fun t => { t with issued := saved }) else c) c)
  let jobs := (s.core p.core).index.filter (fun j => j.key == p.key)
  let s := jobs.foldl (fun s j =>
    let n := ((s.core p.core).timeline 4).issued + 1
    let s := s.modCore p.core (fun c => c.modTimeline 4 Timeline.issue)
    (s.modJob p.core j.uid (fun j => { j with num := n, restored := false })).jobStatus j.key j.statusAt j.suspended j.cursor n) s
  let s := p.savedWatches.foldl (fun s w =>
    if w.value.toNat ≤ ((s.core p.core).timeline w.ctx).done then s.watchArrive w.key w.tix w.bar w.rc
    else s.modCore p.core (fun c => { c with watches := c.watches ++ [w] })) s
  (s.modParcel p.key (fun p => { p with phase := .running, savedWatches := [], savedIssued := [] })).refresh p.core

/-- PARCEL_RESTORE (R28): a saved parcel, with those it is tied to (R266), returns to a core of the die; and, once the
requests it brought are done, its threads go on (R243). -/
def execParcelRestore (die : Nat) (k : PKey) (s : State) : Host.Outcome State Fault Refusal :=
  match s.parcel? k with
  | none => .refused (.notEnabled "PARCEL_RESTORE")
  | some p =>
    match p.phase with
    | .saved => match s.placement die with
      | some (l, g) =>
        if l.key = k.launchKey ∧ l.front die = some k.pix then
          .next (g.foldl (fun s x => match s.launch? l.key with
            | some _ => s.restore l x.1 x.2
            | none => s) s)
        else .refused (.notEnabled "PARCEL_RESTORE")
      | none => .refused (.notEnabled "PARCEL_RESTORE")
    | .restoring => if s.resumed p then .next (s.rejoin p) else .refused (.notEnabled "PARCEL_RESTORE")
    | _ => .refused (.notEnabled "PARCEL_RESTORE")

end Sys2Proof.Machine
end

