-- ==== Sys2Proof/Machine/Fetch.lean ====
section
/-!
DEFINITION. What stands around the execution of an instruction: fetching (R125 to R128), the choice of the group that
issues (R118), the occupancy of the issue slots (R152), the passing of time (R2, R419), and the moves of the outside that
are no instruction.
-/

namespace Sys2Proof

/-- Scratchpad and barrier instructions, which wait until the port has finished earlier ones (R121, R183). -/
def Instr.usesPort : Instr → Bool
  | .lds _ | .sts _ | .atomsAdd _ | .atomsMin _ | .atomsMax _ | .atomsAnd _ | .atomsOr _ | .atomsXor _ | .atomsSwap _
  | .atomsCas _ | .binit _ | .arrive _ | .expect _ | .waitph _ | .testph _ | .kld _ | .kst _ => true
  | _ => false

end Sys2Proof

namespace Sys2Proof.Machine

/-! ### Fetching -/

/-- Whether the word at a code address belongs to the arithmetic class (R118); an address that holds none does not. -/
def Core.arithAt (c : Core) (l : Launch) (pc : Word) : Bool :=
  c.fetchable l.key pc && isArithOpcode ((c.codeWord l.key pc.toNat).extractLsb' 54 10).toNat

/-- The occupancy of the arithmetic slot (R152). -/
def occupancy (i : Instr) : Nat :=
  match i with
  | .mul x | .mulhi x | .mad x => if x.ty.bits = 64 then 2 else 1
  | .mulImm x => if x.ty.bits = 64 then 2 else 1
  | .div x | .rem x => if x.ty.bits = 64 then 8 else 4
  | .fadd x | .fsub x | .fmul x | .ffma x | .fmin x | .fmax x | .fclass x | .fscale x | .frnd x | .fcmp x =>
      if x.ty.bits = 64 then 2 else 1
  | .fdiv x | .fsqrt x | .frcp x | .frsq x => if x.ty.bits = 64 then 8 else 4
  | .fexp2 x | .flog2 x | .fsin x | .fcos x => if x.ty.bits = 64 then 16 else 4
  | .cvt x | .pack x | .unpack x => if x.ty == .f64 || x.srcType == .f64 then 2 else 1
  | _ => 1

/-! ### Selection (R118) -/

/-- What the core's issue stage has chosen: the group, and its instruction or the trap of its word. -/
structure Selected where
  group : Group
  what : Except Trap Instr

/-- Whether an active entry may issue in a class: its word has been read, every thread is ready, and the port is free for
what uses it. -/
def State.issuable (s : State) (core : Nat) (arith : Bool) (e : Entry) (p : Parcel) (l : Launch) : Bool :=
  let c := s.core core
  e.active && decide (e.fetched ≤ s.clk) && e.tixs.all (fun t => match p.thread? t with
      | some th => th.status == .ready
      | none => false)
    && c.arithAt l e.pc == arith
    && (match c.fetch l e.pc with
      | .ok i => !i.usesPort || c.port.isEmpty
      | .error _ => true)

/-- R118: the smaller age, then the lower place, then the lower first thread. The first thread of an entry is the one that
joined it first (DESIGN CHOICE, log entry 47). -/
def Entry.before (a b : Entry) : Bool :=
  decide (a.age < b.age) || (a.age == b.age && (decide (a.place < b.place) ||
    (a.place == b.place && decide (a.tixs.headD 0 ≤ b.tixs.headD 0))))

/-! ### The end of a cycle (R113, R115) -/

/-- Every ready thread of a core takes the state its next instruction gives it (R113). -/
def State.stand (s : State) (core : Nat) : State :=
  if (s.core core).halting then s
  else { s with parcels := s.parcels.map (fun p =>
    match p.runsOn core, s.launch? p.key.launchKey with
    | true, some l => { p with threads := p.threads.map (fun t =>
        if t.status = .ready then { t with status := s.standing core l t } else t) }
    | _, _ => p) }

/-! ### The active set (R119, R120) -/

/-- The threads of an entry. -/
def State.entryThreads (s : State) (core : Nat) (e : Entry) : List Thread :=
  match (s.residents core).find? (fun p => p.place == e.place) with
  | some p => e.tixs.filterMap p.thread?
  | none => []

/-- The lowest runnable `%tix` of the parcel in a residency place. -/
def State.lowestRunnable (s : State) (core place : Nat) : Option Nat :=
  match (s.residents core).find? (fun p => p.place == place) with
  | some p => (sortBy (fun a b => decide (a ≤ b)) ((p.threads.filter (fun t => t.status.runnable)).map (fun t => t.tix))).head?
  | none => none

/-- Whether an entry is protected (R119). -/
def State.isProtected (s : State) (core : Nat) (e : Entry) : Bool :=
  match s.lowestRunnable core e.place with
  | some t => e.tixs.contains t
  | none => false

/-- Put entries into the active set, or take them out. -/
def Core.setActive (c : Core) (es : List Entry) (on : Bool) : Core :=
  { c with entries := c.entries.map (fun e => if es.contains e then { e with active := on } else e) }

/-- The entries that are, or are not, in the active set, in the order of R118. -/
def Core.inSet (c : Core) (on : Bool) : List Entry := sortBy Entry.before (c.entries.filter (fun e => e.active == on))

/-- Step 2 of R120 for one protected entry. -/
def State.protect (s : State) (core : Nat) (c : Core) (e : Entry) : Core :=
  let c := if (c.inSet true).length < 8 then c
    else match ((c.inSet true).filter (fun x => !s.isProtected core x)).getLast? with
      | some x => c.setActive [x] false
      | none => c
  c.setActive [e] true

/-- The swaps of R120 on a core. A pending entry is ready when each of its threads is (DESIGN CHOICE, log entry 47). -/
def State.swap (s : State) (core : Nat) : State :=
  let c := s.core core
  let idle (e : Entry) : Bool := !s.isProtected core e && (s.entryThreads core e).all (fun t => !t.status.grouped)
  let c := c.setActive ((c.inSet true).filter idle) false
  let c := ((c.inSet false).filter (s.isProtected core)).foldl (fun c e => s.protect core c e) c
  let ready := (c.inSet false).filter (fun e => (s.entryThreads core e).all (fun t => t.status == .ready))
  s.setCore core (c.setActive (ready.take (8 - (c.inSet true).length)) true)

/-- The end of a cycle on a core: waits end, threads join entries (R115), and the swaps of R120 are made, which take effect
in the next cycle. -/
def State.endCycle (s : State) (core : Nat) : State :=
  (((((s.settle core).stand core).leave core).join core).swap core).modCore core (fun c => { c with turn := s.clk + 1 })

/-- ACTIVE_SET_SWAP (R115, R120): the end of the cycle on a core, once in a cycle. -/
def execActiveSetSwap (core : Nat) (s : State) : Host.Outcome State Fault Refusal :=
  if s.clk < (s.core core).turn then .refused (.notEnabled "ACTIVE_SET_SWAP") else .next (s.endCycle core)

/-- The cores on which something runs. -/
def State.busyCores (s : State) : List Nat :=
  (s.cores.map (fun e => e.1)) ++ (s.parcels.filter (fun p => p.phase == .running)).map (fun p => p.core)

/-- The cycle ends on every core on which it has not ended (R120). -/
def State.endCycles (s : State) : State :=
  s.busyCores.foldl (fun s n => if s.clk < (s.core n).turn then s else s.endCycle n) s

/-- The selection of the issue stage in one class. -/
def State.select (s : State) (core : Nat) (arith : Bool) : Option Selected :=
  let c := s.core core
  let free := if arith then c.arithFree else c.otherFree
  if c.halting || s.clk < free || s.clk < c.turn then none
  else
    let found := c.entries.filterMap (fun e =>
      match s.parcels.find? (fun p => p.runsOn core && p.place == e.place) with
      | none => none
      | some p => match s.launch? p.key.launchKey with
        | none => none
        | some l => if s.issuable core arith e p l then
            some (e, (⟨⟨core, p.key, e.tixs, e.pc, 8⟩, c.fetch l e.pc⟩ : Selected)) else none)
    match sortBy (fun a b => Entry.before a.1 b.1) found with
    | [] => none
    | (_, x) :: _ => some x

/-- The group whose instruction is known: its size (R56). -/
def Group.sized (g : Group) (i : Instr) : Group := { g with size := i.size }

/-- A count of R419 grows and saturates. -/
def satCount (n k : Nat) : Nat := min (2 ^ 32 - 1) (n + k)

/-- Whether no thread of a group can issue: one is in short wait (R118), or each waits for an engine (R115 step 5). -/
def State.idles (s : State) (g : Group) (sig : Sig) : Bool :=
  s.held g sig || g.tixs.all (fun t => match s.readiness g sig t with
    | .pending _ => true
    | _ => false)

/-- The issue slot and the entry's age, where the group does issue (R118, R152, R419). -/
def State.occupy (s : State) (g : Group) (i : Instr) (arith : Bool) : State :=
  if s.idles g i.sig then s
  else
    let place := (s.parcel g.key).place
    s.modCore g.core (fun c =>
      let c := { c with entries := c.entries.map (fun (e : Entry) =>
        if e.place = place && e.pc == g.pc && e.tixs == g.tixs then { e with age := s.clk } else e) }
      if arith then { c with arithFree := s.clk + occupancy i, counts := { c.counts with issA := satCount c.counts.issA 1 } }
      else { c with otherFree := s.clk + 1, counts := { c.counts with issO := satCount c.counts.issO 1 } })

/-- The state in which `exec` executes the chosen instruction. -/
def State.begin (s : State) (g : Group) (i : Instr) (arith : Bool) : State :=
  { s.occupy (g.sized i) i arith with group := some (g.sized i) }

/-- Every thread of the group traps at its word (R78, R128). -/
def State.trapGroup (s : State) (g : Group) (r : Trap) : State :=
  (g.tixs.foldl (fun s t => s.trap g.key t r) s).refresh g.core

/-! ### Moves that are no instruction -/

/-- The interval counts of a core over `k` cycles in which nothing else happens (R419). -/
def State.intervalCounts (s : State) (core k : Nat) (c : Core) : CoreCounts :=
  let ts := (s.residents core).flatMap (fun p => p.threads.filter (fun t => !t.exited))
  let ready (e : Entry) : Bool := e.active && (s.entryThreads core e).all (fun t => t.status == .ready)
  let fetching := ((c.entries.filter ready).map (fun e => e.fetched - s.clk)).foldl max 0
  let engine (t : Thread) : Bool := match t.status with
    | .engine _ => true
    | _ => false
  let n := c.counts
  { n with
    engw := if !c.entries.any ready && ts.any engine then satCount n.engw k else n.engw,
    phw := if !ts.isEmpty && ts.all (fun t => !t.status.runnable) then satCount n.phw k else n.phw,
    fetch := satCount n.fetch (min k fetching),
    mxb := if c.run.isSome then satCount n.mxb k else n.mxb,
    cpb := if !c.copies.isEmpty || !c.index.isEmpty then satCount n.cpb k else n.cpb,
    setb := if !c.sets.isEmpty then satCount n.setb k else n.setb }

/-- Time passes (R2, R409); with the first cycle that passes, the present one ends on every core (R120). Slices that expire are
renewed where nothing waits for them (R392): one lasts 10,000 ticks at least. -/
def State.passTime (s : State) (ticks cycles : Nat) : State :=
  let t := if cycles = 0 then s else s.endCycles
  State.renewSlices { t.mapCores (fun n c => { c with counts := t.intervalCounts n cycles c }) with
    tb := (s.tb + ticks) % 2 ^ 64, clk := s.clk + cycles } (ticks / 10000 + 1)

/-- The reading of the words of a core's entries at an address takes some cycles (R418, R419 FETCH). -/
def State.fetchWait (s : State) (core : Nat) (pc : Word) (cycles : Nat) : State :=
  s.modCore core (fun c => { c with entries := c.entries.map (fun e => if e.pc = pc then { e with fetched := s.clk + cycles } else e) })

/-- An error stands in a unit of a tier; the weight store has an ECC and no check values to mismatch (R423). -/
def State.meetsError (s : State) (t : Tier) (unit kind : Nat) : State :=
  if t = .weight ∧ 2 ≤ kind then s else { s with memFaults := s.memFaults ++ [⟨t, unit, kind⟩] }

/-- The moves that are neither an issue nor a step of the device. -/
def State.outside (s : State) : Move → State
  | .command c => { s with command := c }
  | .time t c => s.passTime t c
  | .fetchWait core pc n => s.fetchWait core pc n
  | .memoryError t u k => s.meetsError t u k
  | .remoteWrite a bs => { s with link := Mem.write s.link a bs }
  | .tableError ctx a => s.contextFatal ctx 1 a
  | .flash i bs => { s with firmware := Tbl.put [] s.firmware i bs }
  | .fuse key hash versions => { s with
      vendorKey := key, fuseKey := hash, fuseVersions := versions.foldl (fun l v => Tbl.put 0 l v.1 v.2) [] }
  | .energy ctx n => s.rolled.modCtx ctx (fun c => { c with energy := c.energy + n })
  | _ => s

/-- The next move, and the state without it: the head of the schedule, else a free value (R441, log entry 1). -/
def State.nextMove (s : State) : Move × State :=
  match s.schedule with
  | m :: rest => (m, { s with schedule := rest })
  | [] => (Config.nextMove s.choice, { s with choice := s.choice + 1 })

/-! ### Placing one instruction for the next step -/

/-- The launch packet that stands for the load of a program from outside (log entry 14): one thread in one parcel, one role
at address 0 with 512 registers, the whole scratchpad, all slots, a handler at 0x80 and a loader at 0x100. -/
def loadedPacket : BitVec 2048 :=
  BitVec.ofNat 2048 (0x0010008004002001 <<< 512 ||| 0x100 <<< 480 ||| 0x80 <<< 448 ||| 1048576 <<< 407 ||| 64 <<< 400
    ||| 1 <<< 399 ||| 1 <<< 398 ||| 16384 <<< 288 ||| 31 <<< 618)

/-- A core that holds no parcel, or core 0. -/
def State.freeCore (s : State) : Nat :=
  ((List.range coreCount).find? (fun n => s.parcels.all (fun p => p.core != n))).getD 0

/-- The launch of the loaded program. -/
def loadedLaunch (key : LKey) : Launch where
  key := key
  packet := loadedPacket
  regions := []
  queue := 0
  node := 0
  nodeIndex := 0
  deadline := 0
  prio := 0
  dl := false
  dispatched := 0
  deques := []
  empties := []
  unfreed := 1
  missed := false
  sets := []
  batches := []
  pool := ⟨[], [], [], []⟩
  segOrder := 0

/-- A running parcel of one ready thread of the loaded program. -/
def loadedParcel (key : PKey) (core : Nat) : Parcel :=
  { Parcel.initial key with
    core := core, phase := .running, spSize := 1048576, slots := 64, xhash := 0x0010008004002001,
    threads := [{ Thread.initial with srseed := srInit 0 }] }

/-- The state with an instruction of at most two words at the address a ready thread fetches next, whose issue is the next
move (log entry 14). -/
def State.placeWord (s : State) (w : Nat) : State :=
  let core := s.freeCore
  let n := (s.ctx 0).lastLaunch + 1
  let key : PKey := ⟨0, n, 0⟩
  let bytes := Mem.setNat [] 0 16 w
  let c := { Core.initial with
    entries := [⟨0, 0, [0], 0, true, 0⟩],
    segments := [⟨key.launchKey, 0, 0, none, true, bytes⟩] }
  let s := s.modCtx 0 (fun c => { c with lastLaunch := n })
  { s.setCore core c with
    boot := .ready,
    launches := s.launches ++ [loadedLaunch key.launchKey],
    parcels := s.parcels ++ [loadedParcel key core],
    schedule := .issue core (isArithOpcode (w / 2 ^ 54 % 1024)) :: s.schedule }

end Sys2Proof.Machine
end

