-- ==== Sys2Proof/Machine/Signature.lean ====
section
/-!
DEFINITION. The hash and the signature of R7: SHA-256, and SLH-DSA with the parameter set SLH-DSA-SHA2-128s (n = 16, h = 63,
d = 7, h' = 9, a = 12, k = 14, w = 16, m = 30). The rule names FIPS 205 for both; what follows is read from that standard
(PRESUMED, log entry 29). Byte strings are big-endian where they stand for numbers.
-/

namespace Sys2Proof

/-! ### SHA-256 -/

/-- The constants of the 64 rounds. -/
def shaRounds : List Word :=
  [0x428a2f98, 0x71374491, 0xb5c0fbcf, 0xe9b5dba5, 0x3956c25b, 0x59f111f1, 0x923f82a4, 0xab1c5ed5]
  ++ [0xd807aa98, 0x12835b01, 0x243185be, 0x550c7dc3, 0x72be5d74, 0x80deb1fe, 0x9bdc06a7, 0xc19bf174]
  ++ [0xe49b69c1, 0xefbe4786, 0x0fc19dc6, 0x240ca1cc, 0x2de92c6f, 0x4a7484aa, 0x5cb0a9dc, 0x76f988da]
  ++ [0x983e5152, 0xa831c66d, 0xb00327c8, 0xbf597fc7, 0xc6e00bf3, 0xd5a79147, 0x06ca6351, 0x14292967]
  ++ [0x27b70a85, 0x2e1b2138, 0x4d2c6dfc, 0x53380d13, 0x650a7354, 0x766a0abb, 0x81c2c92e, 0x92722c85]
  ++ [0xa2bfe8a1, 0xa81a664b, 0xc24b8b70, 0xc76c51a3, 0xd192e819, 0xd6990624, 0xf40e3585, 0x106aa070]
  ++ [0x19a4c116, 0x1e376c08, 0x2748774c, 0x34b0bcb5, 0x391c0cb3, 0x4ed8aa4a, 0x5b9cca4f, 0x682e6ff3]
  ++ [0x748f82ee, 0x78a5636f, 0x84c87814, 0x8cc70208, 0x90befffa, 0xa4506ceb, 0xbef9a3f7, 0xc67178f2]

/-- The eight words that a digest is built up in. -/
structure ShaState where
  a : Word := 0x6a09e667
  b : Word := 0xbb67ae85
  c : Word := 0x3c6ef372
  d : Word := 0xa54ff53a
  e : Word := 0x510e527f
  f : Word := 0x9b05688c
  g : Word := 0x1f83d9ab
  h : Word := 0x5be0cd19
  deriving DecidableEq, Repr

/-- One round, with its constant and its message word. -/
def ShaState.round (s : ShaState) (k w : Word) : ShaState :=
  let t1 := s.h + (s.e.rotateRight 6 ^^^ s.e.rotateRight 11 ^^^ s.e.rotateRight 25) + ((s.e &&& s.f) ^^^ (~~~ s.e &&& s.g)) + k + w
  let t2 := (s.a.rotateRight 2 ^^^ s.a.rotateRight 13 ^^^ s.a.rotateRight 22) + ((s.a &&& s.b) ^^^ (s.a &&& s.c) ^^^ (s.b &&& s.c))
  ⟨t1 + t2, s.a, s.b, s.c, s.d + t1, s.e, s.f, s.g⟩

/-- The rounds for some constants; `w` holds the sixteen latest words of the message schedule, the oldest first. -/
def ShaState.rounds (s : ShaState) : List Word → List Word → ShaState
  | [], _ => s
  | k :: ks, w =>
    let at' (i : Nat) : Word := (w[i]?).getD 0
    let s0 (x : Word) : Word := x.rotateRight 7 ^^^ x.rotateRight 18 ^^^ x >>> 3
    let s1 (x : Word) : Word := x.rotateRight 17 ^^^ x.rotateRight 19 ^^^ x >>> 10
    (s.round k (at' 0)).rounds ks (w.drop 1 ++ [s1 (at' 14) + at' 9 + s0 (at' 1) + at' 0])

/-- A big-endian number from its bytes. -/
def beNat (bs : List Byte) : Nat := bs.foldl (fun n b => n * 256 + b.toNat) 0

/-- The `n` low bytes of a number, the highest first. -/
def beBytes (n v : Nat) : List Byte := (List.range n).map (fun i => BitVec.ofNat 8 (v / 256 ^ (n - 1 - i)))

/-- One 64-byte block is taken into a digest. -/
def ShaState.block (s : ShaState) (bs : List Byte) : ShaState :=
  let t := s.rounds shaRounds ((List.range 16).map (fun i => BitVec.ofNat 32 (beNat ((bs.drop (4 * i)).take 4))))
  ⟨s.a + t.a, s.b + t.b, s.c + t.c, s.d + t.d, s.e + t.e, s.f + t.f, s.g + t.g, s.h + t.h⟩

/-- The first `n` blocks of some bytes are taken into a digest. -/
def ShaState.blocks (s : ShaState) (bs : List Byte) : Nat → ShaState
  | 0 => s
  | n + 1 => (s.block (bs.take 64)).blocks (bs.drop 64) n

/-- SHA-256: the digest's 32 bytes. -/
def sha256 (m : List Byte) : List Byte :=
  let padded := m ++ 0x80 :: List.replicate ((119 - m.length % 64) % 64) 0 ++ beBytes 8 (8 * m.length)
  let s := ({} : ShaState).blocks padded (padded.length / 64)
  [s.a, s.b, s.c, s.d, s.e, s.f, s.g, s.h].flatMap (fun w => beBytes 4 w.toNat)

/-- HMAC with SHA-256, for a key of at most 64 bytes. -/
def hmac256 (key m : List Byte) : List Byte :=
  let pad (x : Byte) : List Byte := (key ++ List.replicate (64 - key.length) 0).map (fun b => b ^^^ x)
  sha256 (pad 0x5C ++ sha256 (pad 0x36 ++ m))

/-- The mask generation function of SHA-256: its first `n` bytes. -/
def mgf256 (seed : List Byte) (n : Nat) : List Byte :=
  ((List.range ((n + 31) / 32)).flatMap (fun i => sha256 (seed ++ beBytes 4 i))).take n

/-! ### SLH-DSA: addresses and hash functions -/

/-- An address: layer, tree, type and three words whose meaning is the type's. -/
structure Adrs where
  layer : Nat := 0
  tree : Nat := 0
  type : Nat := 0
  key : Nat := 0
  chain : Nat := 0
  hash : Nat := 0
  deriving DecidableEq, Repr

/-- An address in its compressed form of 22 bytes. -/
def Adrs.bytes (x : Adrs) : List Byte :=
  beBytes 1 x.layer ++ beBytes 8 x.tree ++ beBytes 1 x.type ++ beBytes 4 x.key ++ beBytes 4 x.chain ++ beBytes 4 x.hash

/-- The tweakable hash of some strings of 16 bytes: F, H and T of the standard. -/
def slhHash (seed : List Byte) (x : Adrs) (m : List Byte) : List Byte :=
  (sha256 (seed ++ List.replicate 48 0 ++ x.bytes ++ m)).take 16

/-- The digits of `b` bits of a byte string, the first ones of `n`. -/
def slhDigits (bs : List Byte) (b n : Nat) : List Nat :=
  let v := beNat bs
  (List.range n).map (fun i => v / 2 ^ (8 * bs.length - b * (i + 1)) % 2 ^ b)

/-- Piece i, of 16 bytes, of a byte string. -/
def piece16 (bs : List Byte) (i : Nat) : List Byte := (bs.drop (16 * i)).take 16

/-! ### One-time signatures -/

/-- `n` steps of a hash chain from step `i`. -/
def slhChain (seed : List Byte) (x : Adrs) (v : List Byte) (i : Nat) : Nat → List Byte
  | 0 => v
  | n + 1 => slhChain seed x (slhHash seed { x with hash := i } v) (i + 1) n

/-- The 35 digits of a message of 16 bytes: 32 of its own, then those of its checksum. -/
def wotsDigits (m : List Byte) : List Nat :=
  let d := slhDigits m 4 32
  d ++ slhDigits (beBytes 2 ((d.map (fun x => 15 - x)).sum * 16)) 4 3

/-- The secret value of a chain. -/
def wotsSecret (sk seed : List Byte) (x : Adrs) (i : Nat) : List Byte := slhHash seed { x with type := 5, chain := i, hash := 0 } sk

/-- The public key from the ends of the 35 chains. -/
def wotsRoot (seed : List Byte) (x : Adrs) (ends : List Byte) : List Byte := slhHash seed { x with type := 1, chain := 0, hash := 0 } ends

/-- The public key of a key pair. -/
def wotsPublic (sk seed : List Byte) (x : Adrs) : List Byte :=
  wotsRoot seed x ((List.range 35).flatMap (fun i => slhChain seed { x with chain := i } (wotsSecret sk seed x i) 0 15))

/-- The signature of a message of 16 bytes. -/
def wotsSign (sk seed : List Byte) (x : Adrs) (m : List Byte) : List Byte :=
  ((List.range 35).zip (wotsDigits m)).flatMap (fun c => slhChain seed { x with chain := c.1 } (wotsSecret sk seed x c.1) 0 c.2)

/-- The public key that a signature of a message leads to. -/
def wotsFrom (seed : List Byte) (x : Adrs) (m sig : List Byte) : List Byte :=
  wotsRoot seed x (((List.range 35).zip (wotsDigits m)).flatMap (fun c =>
    slhChain seed { x with chain := c.1 } (piece16 sig c.1) c.2 (15 - c.2)))

/-! ### Trees -/

/-- A node of a hash tree from its two children. -/
def slhJoin (seed : List Byte) (x : Adrs) (height index : Nat) (l r : List Byte) : List Byte :=
  slhHash seed { x with chain := height, hash := index } (l ++ r)

/-- The root that a leaf and its path lead to: `index` is the leaf's, and the path's `n` pieces stand in `auth` from piece `j`. -/
def slhClimb (seed : List Byte) (x : Adrs) (auth : List Byte) (v : List Byte) (index j : Nat) : Nat → List Byte
  | 0 => v
  | n + 1 =>
    let s := piece16 auth j
    let up := if index % 2 = 0 then slhJoin seed x (j + 1) (index / 2) v s else slhJoin seed x (j + 1) (index / 2) s v
    slhClimb seed x auth up (index / 2) (j + 1) n

/-- Node `index` at height `z` of a tree of one-time keys. -/
def xmssNode (sk seed : List Byte) (x : Adrs) (index : Nat) : Nat → List Byte
  | 0 => wotsPublic sk seed { x with type := 0, key := index }
  | z + 1 => slhJoin seed { x with type := 2, key := 0 } (z + 1) index (xmssNode sk seed x (2 * index) z) (xmssNode sk seed x (2 * index + 1) z)

/-- The other child of the parent of the node above leaf `index` at height `j`. -/
def sibling (index j : Nat) : Nat := if index / 2 ^ j % 2 = 0 then index / 2 ^ j + 1 else index / 2 ^ j - 1

/-- The signature of 16 bytes by leaf `index` of a tree: 35 pieces, then the path. -/
def xmssSign (sk seed : List Byte) (x : Adrs) (index : Nat) (m : List Byte) : List Byte :=
  wotsSign sk seed { x with type := 0, key := index } m
    ++ (List.range 9).flatMap (fun j => xmssNode sk seed x (sibling index j) j)

/-- The root that a tree's signature leads to. -/
def xmssFrom (seed : List Byte) (x : Adrs) (index : Nat) (m sig : List Byte) : List Byte :=
  slhClimb seed { x with type := 2, key := 0 } (sig.drop 560) (wotsFrom seed { x with type := 0, key := index } m (sig.take 560)) index 0 9

/-- The signatures of layers `layer` to 6: of 16 bytes, then of each layer's root. -/
def layersSign (sk seed : List Byte) (layer tree leaf : Nat) (m : List Byte) : Nat → List Byte
  | 0 => []
  | n + 1 =>
    let x : Adrs := { layer := layer, tree := tree }
    let sig := xmssSign sk seed x leaf m
    sig ++ layersSign sk seed (layer + 1) (tree / 512) (tree % 512) (xmssFrom seed x leaf m sig) n

/-- The root that the signatures of layers `layer` to 6 lead to. -/
def layersFrom (seed : List Byte) (layer tree leaf : Nat) (m sig : List Byte) : Nat → List Byte
  | 0 => m
  | n + 1 =>
    layersFrom seed (layer + 1) (tree / 512) (tree % 512)
      (xmssFrom seed { layer := layer, tree := tree } leaf m (sig.take 704)) (sig.drop 704) n

/-! ### Few-time signatures -/

/-- The secret value of a leaf. -/
def forsSecret (sk seed : List Byte) (x : Adrs) (index : Nat) : List Byte := slhHash seed { x with type := 6, chain := 0, hash := index } sk

/-- Node `index` at height `z`. -/
def forsNode (sk seed : List Byte) (x : Adrs) (index : Nat) : Nat → List Byte
  | 0 => slhHash seed { x with chain := 0, hash := index } (forsSecret sk seed x index)
  | z + 1 => slhJoin seed x (z + 1) index (forsNode sk seed x (2 * index) z) (forsNode sk seed x (2 * index + 1) z)

/-- The signature of a digest of 21 bytes: for each of the 14 trees a secret value and a path. -/
def forsSign (sk seed : List Byte) (x : Adrs) (md : List Byte) : List Byte :=
  ((List.range 14).zip (slhDigits md 12 14)).flatMap (fun t =>
    let leaf := t.1 * 4096 + t.2
    forsSecret sk seed x leaf ++ (List.range 12).flatMap (fun j => forsNode sk seed x (sibling leaf j) j))

/-- The public key that a signature leads to. -/
def forsFrom (seed : List Byte) (x : Adrs) (md sig : List Byte) : List Byte :=
  let roots := ((List.range 14).zip (slhDigits md 12 14)).flatMap (fun t =>
    let leaf := t.1 * 4096 + t.2
    let s := (sig.drop (208 * t.1)).take 208
    slhClimb seed x (s.drop 16) (slhHash seed { x with chain := 0, hash := leaf } (s.take 16)) leaf 0 12)
  slhHash seed { x with type := 4, chain := 0, hash := 0 } roots

/-! ### Signing and verifying -/

/-- The parts of a message's digest: the 21 bytes that are signed, the tree and the leaf. -/
def slhDigest (r seed root m : List Byte) : List Byte × Nat × Nat :=
  let d := mgf256 (r ++ seed ++ sha256 (r ++ seed ++ root ++ m)) 30
  (d.take 21, beNat ((d.drop 21).take 7) % 2 ^ 54, beNat (d.drop 28) % 2 ^ 9)

/-- The message as it is signed, with an empty context string. -/
def slhMessage (m : List Byte) : List Byte := 0 :: 0 :: m

/-- The root of the highest tree: the second half of a public key. -/
def slhRoot (sk seed : List Byte) : List Byte := xmssNode sk seed { layer := 6 } 0 9

/-- A signature of 7,856 bytes by a key with its secret seed, its PRF key, its public seed and its root; `rand` are 16 bytes of
the signer's. -/
def slhSign (sk prf seed root rand m : List Byte) : List Byte :=
  let m' := slhMessage m
  let r := (hmac256 prf (rand ++ m')).take 16
  let (md, tree, leaf) := slhDigest r seed root m'
  let x : Adrs := { tree := tree, type := 3, key := leaf }
  let fors := forsSign sk seed x md
  r ++ fors ++ layersSign sk seed 0 tree leaf (forsFrom seed x md fors) 7

/-- Whether a signature of a message verifies under a public key: its seed, then its root. -/
def slhVerify (pk m sig : List Byte) : Bool :=
  let seed := pk.take 16
  let root := pk.drop 16
  let (md, tree, leaf) := slhDigest (sig.take 16) seed root (slhMessage m)
  let fors := forsFrom seed { tree := tree, type := 3, key := leaf } md ((sig.drop 16).take 2912)
  pk.length == 32 && sig.length == 7856 && layersFrom seed 0 tree leaf fors (sig.drop 2928) 7 == root

end Sys2Proof
end

