-- ==== Sys2Proof/Machine/Integrity.lean ====
section
/-!
DEFINITION. Debugging (R415 to R419), scrub, self-test and map-out (R425 to R427), station masters (R428), device words that
system software writes, and start-up with attestation (R430, R431).
-/

namespace Sys2Proof.Machine

/-! ### Debug control blocks and samples (R416 to R418) -/

/-- DEBUG_CONTROL_BLOCK (R416): system software gives a context its block: the command writes it to a device address, where
the device reads it from then on. -/
def execDebugControlBlock (s : State) : Host.Outcome State Fault Refusal :=
  let c := s.command
  if s.serves c.ctx then .next ((s.setDev c.off 64 c.word.toNat).modCtx c.ctx (fun x => { x with debugAt := some c.off }))
  else .refused (.notEnabled "DEBUG_CONTROL_BLOCK")

/-- Whether a function with its exponent, its ring's size and its ring's address at some fields is on (R416). -/
def ringOn (b : BitVec 512) (exponent size maxSize addr : Nat) : Bool :=
  dbgOk b && decide (10 ≤ exponent) && decide (exponent ≤ 24) && decide (4 ≤ size) && decide (size ≤ maxSize) && addr % 64 == 0

/-- A record is written into a ring whose .n64 count stands at its start (R417, R419). -/
def State.ringWrite (s : State) (ring size bytes v : Nat) : State :=
  let i := s.dev ring 8
  (s.setDev (ring + 64 + bytes * (i % 2 ^ size)) bytes v).setDev ring 8 ((i + 1) % 2 ^ 64)

/-- What a sample finds in a slot (R417): its thread, its next PC, STATE, WAIT and H. -/
structure Sample where
  slot : Nat
  thread : TRef
  pc : Word
  state : Nat
  wait : Nat
  h : Nat

/-- Whether the word of a thread's entry is being read (R418). -/
def State.fetching (s : State) (core : Nat) (p : Parcel) (t : Thread) : Bool :=
  (s.core core).entries.any (fun e => e.place == p.place && e.tixs.contains t.tix && decide (s.clk < e.fetched))

/-- STATE and WAIT of a thread (R418): 2 with its reason, 3 ready, 0 where no resident segment holds its next PC or its word
is being read. A thread that has nothing else to wait for is in the state that its next instruction gives it (R113). -/
def State.sampleState (s : State) (core : Nat) (p : Parcel) (t : Thread) : Nat × Nat :=
  let status := match t.status, s.launch? p.key.launchKey with
    | .ready, some l => s.standing core l t
    | x, _ => x
  match status with
  | .ready => if ((s.core core).segment? p.key.launchKey t.pc.toNat).isSome && !s.fetching core p t then (3, 0) else (0, 0)
  | .short _ | .port => (2, 0)
  | .engine _ => (2, 1)
  | .phase _ _ | .collective _ => (2, 2)
  | .yielded _ => (2, 3)
  | .membership _ => (2, 4)
  | .exited => (1, 0)

/-- The occupied slots of a core, and those its context's threads have left by EXIT (R417). -/
def State.samples (s : State) (core ctx : Nat) : List Sample :=
  let c := s.core core
  let live := (s.residents core).flatMap (fun p => p.held.map (fun t =>
    let x := s.sampleState core p t
    (⟨t.slot, p.key.thread t.tix, t.pc, x.1, x.2, t.tstate.toNat % 4⟩ : Sample)))
  let left := (c.recentExit.filter (fun e => e.2.1.ctx == ctx)).map (fun e =>
    (⟨e.1, e.2.1, e.2.2.1, 1, 0, e.2.2.2.toNat % 4⟩ : Sample))
  sortBy (fun a b => decide (a.slot ≤ b.slot)) (live ++ left)

/-- The slot sampled at a tick: the lowest at or above its number, else the lowest (R417). -/
def pickSample (l : List Sample) (n : Nat) : Option Sample := (l.find? (fun x => decide (n ≤ x.slot))).or l.head?

/-- A sample record (R418). -/
def Sample.bits (x : Sample) (tb core : Nat) : Nat :=
  (tb % 2 ^ 64) <<< 192 ||| (x.thread.launch % 2 ^ 32) <<< 160 ||| (x.thread.pix % 2 ^ 32) <<< 128 ||| (x.thread.tix % 1024) <<< 118
  ||| (x.state % 4) <<< 116 ||| (x.thread.ctx % 64) <<< 110 ||| (core % 512) <<< 96 ||| x.pc.toNat <<< 64 ||| (x.wait % 256) <<< 56
  ||| (x.h % 256) <<< 48

/-- Whether reading the debug control block of a context meets an error that poisons its bytes (R424). -/
def State.blockMeets (s : State) (ctx : Nat) : Bool :=
  match (s.ctx ctx).debugAt with
  | some a => (s.verifyAll .hbm a 64).1.poison != s.poison
  | none => false

/-- The records of a sample tick, where the ring's count is good (R417, R423). -/
def State.writeSamples (s : State) (ctx : Nat) (c : BitVec 512) : State :=
  let ring := dbgField c 511 448
  match s.devCheck ⟨ctx, 0, 0⟩ ring 8 with
  | (s, 0) => (sortBy (fun a b => decide (a ≤ b)) (s.coresOf ctx)).foldl (fun t n =>
      match pickSample (s.samples n ctx) (s.tb / 2 ^ dbgField c 346 342 % 1024) with
      | some x => t.ringWrite ring (dbgField c 351 347) 32 (x.bits s.tb n)
      | none => t) s
  | (s, _) => s

/-- PC_SAMPLE (R417): at a sample tick every core that holds a parcel of the context writes a record. -/
def execPcSample (ctx : Nat) (s : State) : Host.Outcome State Fault Refusal :=
  if s.blockMeets ctx then .next (s.debugRead ctx).1
  else match s.debugRead ctx with
    | (s, c) =>
      let j := dbgField c 346 342
      if ringOn c j (dbgField c 351 347) 20 (dbgField c 511 448) && s.tb % 2 ^ j == 0 && (s.ctx ctx).sampledAt != s.tb + 1 then
        .next ((s.writeSamples ctx c).modCtx ctx (fun c => { c with sampledAt := s.tb + 1 }))
      else .refused (.notEnabled "PC_SAMPLE")

/-! ### The counter series (R419) -/

/-- A series record of a core (R419). -/
def State.seriesRecord (s : State) (core : Nat) : Nat :=
  let n := (s.core core).counts
  let ctx := (s.residents core).head?.map (fun p => p.key.ctx)
  (s.tb % 2 ^ 64) <<< 448 ||| core <<< 439 ||| ((ctx.getD 63) % 64) <<< 433 ||| (bit ctx.isSome) <<< 432
  ||| (min (2 ^ 32 - 1) (s.clk - s.latchedClk)) <<< 384 ||| (n.issA % 2 ^ 32) <<< 352 ||| (n.issO % 2 ^ 32) <<< 320
  ||| (n.engw % 2 ^ 32) <<< 288 ||| (n.phw % 2 ^ 32) <<< 256 ||| (n.spp % 2 ^ 32) <<< 224 ||| (n.fetch % 2 ^ 32) <<< 192
  ||| (n.mxb % 2 ^ 32) <<< 160 ||| (n.cpb % 2 ^ 32) <<< 128 ||| (n.setb % 2 ^ 32) <<< 96 ||| (n.crq % 2 ^ 32) <<< 64

/-- The records of a latch tick, where the ring's count is good (R419, R423). -/
def State.writeSeries (s : State) (c : BitVec 512) : State :=
  let ring := dbgField c 255 192
  match s.devCheck ⟨0, 0, 0⟩ ring 8 with
  | (s, 0) => (List.range coreCount).foldl (fun t n => t.ringWrite ring (dbgField c 333 329) 64 (s.seriesRecord n)) s
  | (s, _) => s

/-- COUNTER_LATCH (R419): every core latches its counts and writes a record, in ascending `%core`. -/
def execCounterLatch (s : State) : Host.Outcome State Fault Refusal :=
  if s.blockMeets 0 then .next (s.debugRead 0).1
  else match s.debugRead 0 with
    | (s, c) =>
      if ringOn c (dbgField c 338 334) (dbgField c 333 329) 24 (dbgField c 255 192) && s.tb % 2 ^ dbgField c 338 334 == 0
          && s.latched != s.tb + 1 then
        .next { (s.writeSeries c).mapCores (fun _ c => { c with counts := CoreCounts.zero }) with latched := s.tb + 1, latchedClk := s.clk }
      else .refused (.notEnabled "COUNTER_LATCH")

/-! ### Dumps and device words (R396, R415) -/

/-- DUMP (R415): the context is pre-empted for its save image, and restored afterwards. -/
def execDump (s : State) : Host.Outcome State Fault Refusal :=
  let ctx := s.command.ctx
  if s.serves ctx && !(s.ctx ctx).dumping then
    let s := s.modCtx ctx (fun c => { c with dumping := true })
    .next (if (s.ctx ctx).halt = .none ∧ !s.restoring ctx ∧ !s.completing ctx then s.halt ctx else s)
  else .refused (.notEnabled "DUMP")

/-- The bits of a context descriptor that a plain write sets: RESET and ENABLE have steps of their own (R372). -/
def descMask : BitVec 512 := BitVec.ofNat 512 ((2 ^ 512 - 1) - (2 ^ 200 - 2 ^ 192) - (2 ^ 100 - 1))

/-- REGISTER_WRITE (R372, R406, R429): a context descriptor, RIDX of a fault ring, an entry of a function's MSI-X table, or a
word of device memory. -/
def execRegisterWrite (s : State) : Host.Outcome State Fault Refusal :=
  let c := s.command
  if s.boot != .ready then .refused (.notEnabled "REGISTER_WRITE")
  else match c.target with
    | .ctxDescriptor ctx =>
      if ctx < 64 then .next (s.modCtx ctx (fun x => { x with desc := (c.word &&& descMask) ||| (x.desc &&& 1#512) }))
      else .refused (.notEnabled "REGISTER_WRITE")
    | .faultRingRidx ctx =>
      if ctx < 64 then .next (s.setDev ((s.ctx ctx).fring + 4) 4 c.tail.toNat) else .refused (.notEnabled "REGISTER_WRITE")
    | .msixEntry ctx v =>
      if ctx < 64 ∧ v < 256 then .next { s with msixTable := Tbl.put 0 s.msixTable (256 * ctx + v) (c.word.extractLsb' 0 128) }
      else .refused (.notEnabled "REGISTER_WRITE")
    | .deviceWord a => .next (s.setDev a 8 (c.word.extractLsb' 0 64).toNat)

/-! ### The error ring, scrub and self-test (R425, R426) -/

end Sys2Proof.Machine

namespace Sys2Proof

/-- UNIT of an error record (R426). -/
def UnitKind.unitCode : UnitKind → Nat
  | .hbmRow => 0 | .lpRow => 1 | .weightStore => 2 | .hostLane => 3 | .peerLane => 4 | .stationMaster => 5

end Sys2Proof

namespace Sys2Proof.Machine

/-- A record enters the device error ring (R426). -/
def State.errorRecord (s : State) (unit : UnitKind) (cls verdict place sub row addr : Nat) : State :=
  { s with errorRing := s.errorRing ++ [BitVec.ofNat 256
      ((s.tb % 2 ^ 64) <<< 192 ||| unit.unitCode <<< 188 ||| (cls % 16) <<< 184 ||| (verdict % 16) <<< 180 ||| (place % 256) <<< 168
        ||| (sub % 256) <<< 160 ||| (row % 2 ^ 32) <<< 128 ||| (addr % 2 ^ 64) <<< 64 ||| s.errorRing.length % 2 ^ 32)] }

/-- SCRUB_READ (R425): a row of HBM or of the LP tier is read, and a corrected error is written back. -/
def execScrubRead (s : State) : Host.Outcome State Fault Refusal :=
  let c := s.command
  let (unit, place, _, _) := errorPlace c.tier c.unit
  if s.startedPast 6 && (unit == .hbmRow || unit == .lpRow) && decide (place < 16) && s.mastered place then
    .next ([0, 1, 2, 3].foldl (fun s i => (s.verify c.tier (c.unit / 4 * 4 + i)).1) s)
  else .refused (.notEnabled "SCRUB_READ")

/-- Whether a test can run: those of a die with no station master have stopped (R428). -/
def State.testable (s : State) (t : TestReq) : Bool :=
  match t.unit with
  | .hbmRow | .lpRow | .weightStore => s.mastered t.place
  | _ => true

/-- SELF_TEST (R426): the first test that can run ends with a verdict and its record; a lasting HBM row without a spare counts once
towards the map-out of its layer (R427), and a lane that passes returns to its link. -/
def execSelfTest (s : State) : Host.Outcome State Fault Refusal :=
  match s.tests.find? s.testable with
  | none => .refused (.notEnabled "SELF_TEST")
  | some t =>
    let verdict := match s.command.result with
      | .passed => 0
      | .failedSpared => 1
      | .failedCounted => 2
    let s := { s with tests := s.tests.erase t }
    let s := if t.unit == .hbmRow && verdict == 2 then
        s.modBase t.place (fun b => { b with counted := b.counted.insert (t.sub, t.row) })
      else s
    let s := if (t.unit == .hostLane || t.unit == .peerLane) && verdict == 0 then
        { s with lanesDown := s.lanesDown.filter (· != (t.place, t.sub)) }
      else s
    .next (s.errorRecord t.unit t.cls verdict t.place t.sub t.row t.addr)

/-! ### Map-out (R427) -/

/-- Whether some of `n` units of HBM from `loc` on lie in a layer. -/
def inLayer (stack layer loc n : Nat) : Bool :=
  n != 0 && (List.range ((loc + n - 1) / 2 ^ 16 - loc / 2 ^ 16 + 1)).any (fun i => hbmLayer (loc + i * 2 ^ 16) == (stack, layer))

/-- Whether some extent, or a migration, has units in a layer. -/
def State.layerUsed (s : State) (stack layer : Nat) : Bool :=
  s.liveObjects.any (fun x => x.2.leaves.any (fun d =>
      tierOf (extField d 63 62) == .hbm && inLayer stack layer (extField d 55 0) (extField d 95 64)))
    || s.migrations.any (fun m => s.classOf m.obj != 0 && m.places.any (fun x => x.1 == .hbm && inLayer stack layer x.2 1))

/-- The rows counted towards the map-out of a layer (R427). -/
def Base.countedRows (b : Base) (layer : Nat) : Nat := (b.counted.filter (fun r => r.1 == layer)).length

/-- A layer leaves the capacity register of its stack (R427). -/
def Base.dropLayer (b : Base) (layer : Nat) : Base :=
  { b with capacity := (b.capacity &&& ~~~ ((1#32) <<< layer)) - (1#32 <<< 16) }

/-- The objects with extents in a layer, in ascending order of context and id (R427). -/
def State.objectsIn (s : State) (stack layer : Nat) : List OKey :=
  (s.liveObjects.filter (fun x => x.2.leaves.any (fun d =>
    tierOf (extField d 63 62) == .hbm && inLayer stack layer (extField d 55 0) (extField d 95 64)))).map (fun x => x.1)

/-- LAYER_MAP_OUT (R427): with eight counted rows the capacity register drops the layer and a hot-remove event is sent; once
no extent is left there, the layer is retired with its record. -/
def execLayerMapOut (stack layer : Nat) (s : State) : Host.Outcome State Fault Refusal :=
  if !(decide (stack < 16) && decide (layer < 16) && s.mastered stack) then .refused (.notEnabled "LAYER_MAP_OUT")
  else if s.layerServes stack layer then
    if 8 ≤ (s.base stack).countedRows layer then
      let s := s.modBase stack (fun b => b.dropLayer layer)
      .next { s with hotRemove := s.hotRemove ++ [⟨stack, layer, s.objectsIn stack layer⟩] }
    else .refused (.notEnabled "LAYER_MAP_OUT")
  else if s.hotRemove.any (fun e => e.stack == stack && e.layer == layer) && !s.layerUsed stack layer then
    let (id, s) := s.fresh
    .next (State.errorRecord { s with hotRemove := s.hotRemove.filter (fun e => !(e.stack == stack && e.layer == layer)) }
      .hbmRow (Config.errorField id 1) 3 stack layer (Config.errorField id 3) 0)
  else .refused (.notEnabled "LAYER_MAP_OUT")

/-! ### Station masters (R428) -/

/-- HEARTBEAT (R428): every 256 ticks, by a station master that has missed no two of them. -/
def execHeartbeat (die master : Nat) (s : State) : Host.Outcome State Fault Refusal :=
  let b := s.base die
  if s.startedPast 4 ∧ die < 16 ∧ master < 2 ∧ b.alive master ∧ !b.missed master s.tb ∧ b.beat master + 256 ≤ s.tb then
    .next (s.modBase die (fun b => if master = 0 then { b with beat0 := s.tb } else { b with beat1 := s.tb }))
  else .refused (.notEnabled "HEARTBEAT")

/-- A station master is declared failed. -/
def Base.lose (b : Base) (master : Nat) : Base := if master = 0 then { b with alive0 := false } else { b with alive1 := false }

/-- MASTER_TAKEOVER (R428): a station master that has missed two heartbeats is declared failed, and its sibling takes over; or
both masters of the die have failed, and its lap clocks stop. -/
def execMasterTakeover (die : Nat) (s : State) : Host.Outcome State Fault Refusal :=
  let b := s.base die
  let gone (m : Nat) : Bool := !b.alive m || b.missed m s.tb
  let fresh (m : Nat) : Bool := b.alive m && b.missed m s.tb
  if die < 16 ∧ (fresh 0 ∨ fresh 1) then
    let (id, s) := s.fresh
    if gone 0 && gone 1 then
      .next ((s.modBase die (fun b => { (b.lose 0).lose 1 with fallback := true })).errorRecord .stationMaster 3 (Config.errorField id 4)
        die (Config.errorField id 2) (Config.errorField id 3) 0)
    else
      let lost := if fresh 0 then 0 else 1
      .next ((s.modBase die (fun b => { b.lose lost with master := 1 - lost, fallback := false })).errorRecord .stationMaster 3 4
        die (Config.errorField id 2) (Config.errorField id 3) 0)
  else .refused (.notEnabled "MASTER_TAKEOVER")

/-- Whether a refresh of a stack is due: one falls due every 800 ticks (log entry 30). -/
def State.refreshDue (s : State) (die : Nat) : Bool := decide ((s.base die).refreshed / 800 < s.tb / 800)

/-- STATION_MASTER_REFRESH (R428). -/
def execStationMasterRefresh (die : Nat) (s : State) : Host.Outcome State Fault Refusal :=
  if s.startedPast 6 && decide (die < 16) && s.refreshDue die && s.mastered die then
    .next (s.modBase die (fun b => { b with refreshed := s.tb, fallback := false }))
  else .refused (.notEnabled "STATION_MASTER_REFRESH")

/-- Whether the station master that holds a die's refreshes has let a heartbeat's deadline pass, or is declared failed (R428). -/
def State.silent (s : State) (die : Nat) : Bool :=
  let b := s.base die
  !b.alive b.master || decide (b.beat b.master + 256 < s.tb)

/-- FALLBACK_REFRESH (R428): the sequencer issues the refresh that falls due with no command issued, from the first missed heartbeat
deadline until the takeover completes. -/
def execFallbackRefresh (die : Nat) (s : State) : Host.Outcome State Fault Refusal :=
  if s.startedPast 6 && decide (die < 16) && s.refreshDue die && s.silent die then
    .next (s.modBase die (fun b => { b with refreshed := s.tb, fallback := true }))
  else .refused (.notEnabled "FALLBACK_REFRESH")

/-! ### Start-up and attestation (R7, R430, R431) -/

/-- A little-endian number of an image's header. -/
def headerField (image : List Byte) (at' n : Nat) : Nat := Mem.nat (Mem.write [] 0 ((image.drop at').take n)) 0 n

/-- Whether a start executes an image of a type (R430): its header is of that type, its version is at least the fuse counter's, its
length and its digest are those of its payload, and its signature verifies under the key whose SHA-256 the fuses hold. The header's
fields stand at the bytes that log entry 29 gives. -/
def State.verified (s : State) (type : Nat) : Bool :=
  let image := Tbl.get [] s.firmware type
  let signed := image.take (image.length - 7856)
  let payload := signed.drop 64
  decide (64 + 7856 ≤ image.length) && headerField image 0 4 == type && decide (Tbl.get 0 s.fuseVersions type ≤ headerField image 4 4)
    && headerField image 8 8 == payload.length && (image.drop 32).take 32 == sha256 payload && sha256 s.vendorKey == s.fuseKey
    && slhVerify s.vendorKey signed (image.drop signed.length)

/-- The steps of a start at which an image is verified (R431), with its type. -/
def imageSteps : List (Nat × Nat) := [(2, 0), (4, 1), (8, 2)]

/-- The step that stops a start and its cause: the first image that is not verified, or a step before it that fails. -/
def State.startFailure (s : State) (fails : Option (BitVec 8 × BitVec 8)) : Option (BitVec 8 × BitVec 8) :=
  match imageSteps.find? (fun i => !s.verified i.2), fails with
  | some (step, _), some f => if f.1.toNat ≤ step then some f else some (BitVec.ofNat 8 step, Config.bootCause step)
  | some (step, _), none => some (BitVec.ofNat 8 step, Config.bootCause step)
  | none, f => f

/-- The links that are down after a start (R431): a step that a warm start skips leaves its links as they are, and one that runs
trains those it finds down. -/
def linksAfter (down : List Nat) (passed : Nat → Bool) : List Nat :=
  down.filter (fun n => !passed (if isPeerPort n then 11 else 10))

/-- The device as a start leaves what it does not set: everything is cleared; the outside's own data, the fuses and the clocks stay,
and `%clk` counts from the start (R409). -/
def State.cleared (s : State) : State :=
  { State.reset with
    schedule := s.schedule, choice := s.choice, nextUid := s.nextUid, command := s.command, tb := s.tb, window := s.window, link := s.link,
    firmware := s.firmware, vendorKey := s.vendorKey, fuseKey := s.fuseKey, fuseVersions := s.fuseVersions, signatures := s.signatures,
    chips := s.chips,
    bases := ((List.range 16).map (fun d => (d, { Base.initial with beat0 := s.tb, beat1 := s.tb, refreshed := s.tb }))).filter
      (fun e => e.2 != Base.initial) }

/-- The outcome of a start from some links down, whose steps pass but for one, if one fails (R431). A stopped start has zeroed memory
only if it failed after step 7. -/
def State.start (s : State) (down : List Nat) (fails : Option (BitVec 8 × BitVec 8)) : State :=
  let stop := s.startFailure fails
  let passed (n : Nat) : Bool := match stop with
    | none => true
    | some f => decide (n < f.1.toNat)
  let t := { s.cleared with
    linksDown := linksAfter down passed,
    measurements := (imageSteps.filter (fun (i : Nat × Nat) => passed i.1)).map (fun (i : Nat × Nat) => sha256 (Tbl.get [] s.firmware i.2)) }
  let t := if passed 7 then t
    else { t with hbm := s.hbm, lp := s.lp, weight := s.weight, poison := s.poison, memFaults := s.memFaults }
  match stop with
  | none => { t with boot := .ready, bootStatus := Config.readyStatus }
  | some (step, cause) => { t with boot := .stopped, bootStatus := cause ++ step }

/-- Whether a start has a step that some number names, of those it runs (R431). -/
def startStep (skipped : List Nat) (fails : Option (BitVec 8 × BitVec 8)) : Bool :=
  match fails with
  | none => true
  | some (step, _) => decide (1 ≤ step.toNat) && decide (step.toNat ≤ 12) && !skipped.contains step.toNat

/-- The links of the device. -/
def allLinks : List Nat := List.range linkCount

/-- The steps that a warm start skips (R431): 3, 5 and 6, and the training of PCI Express or of the peer ports where all of these
stayed up. -/
def State.warmSkips (s : State) : List Nat :=
  [3, 5, 6] ++ (if s.linksDown.any (fun n => !isPeerPort n) then [] else [10]) ++ (if s.linksDown.any isPeerPort then [] else [11])

/-- COLD_START (R431): all steps run, on links that are all untrained. -/
def execColdStart (fails : Option (BitVec 8 × BitVec 8)) (s : State) : Host.Outcome State Fault Refusal :=
  if startStep [] fails then .next (s.start allLinks fails) else .refused (.notEnabled "COLD_START")

/-- WARM_START (R431); the device has been started before. -/
def execWarmStart (fails : Option (BitVec 8 × BitVec 8)) (s : State) : Host.Outcome State Fault Refusal :=
  if s.boot != .off && startStep s.warmSkips fails then .next (s.start s.linksDown fails) else .refused (.notEnabled "WARM_START")

/-- 16 bytes of the device's identity key. -/
def identityPart (i : Nat) : List Byte := (List.range 16).map (fun j => Config.identityByte (16 * i + j))

/-- ATTESTATION_SIGN (R7, R430): the identity key signs the measurement list. -/
def execAttestationSign (s : State) : Host.Outcome State Fault Refusal :=
  if s.boot == .ready then
    let n := s.signatures.length
    .next { s with signatures := s.signatures ++ [slhSign (identityPart 0) (identityPart 1) (identityPart 2)
      (slhRoot (identityPart 0) (identityPart 2)) ((List.range 16).map (Config.signatureRandom n)) s.measurements.flatten] }
  else .refused (.notEnabled "ATTESTATION_SIGN")

end Sys2Proof.Machine
end

