-- ==== Sys2Proof/Machine/Logic.lean ====
section
/-!
DEFINITION. The logic and bit instructions (R159 to R164). Patterns are natural numbers below 2^w.
-/

namespace Sys2Proof.Machine

/-- u, the pattern in field a (R160). -/
def Thread.patA (t : Thread) (x : RWord) : Nat := t.bits x.a x.za x.ty
/-- The pattern in field b. -/
def Thread.patB (t : Thread) (x : RWord) : Nat := t.bits x.b x.zb x.ty

/-- The pattern of w bits with every bit of `u` changed (R160). -/
def notBits (w u : Nat) : Nat := 2 ^ w - 1 - u % 2 ^ w

/-- SHL by k (R160). -/
def shlBits (w u k : Nat) : Nat := if k < w then u <<< k else 0
/-- SHR by k (R160). -/
def shrBits (w u k : Nat) : Nat := if k < w then u >>> k else 0
/-- SAR by k: arithmetic whatever the signedness of T (R160). -/
def sarBits (w u k : Nat) : Nat := wrapInt (signedOf u w >>> Min.min k (w - 1)) w
/-- ROT left by k (R160). -/
def rotBits (w u k : Nat) : Nat := (u <<< (k % w)) ||| (u >>> (w - k % w))

/-- The count immediate of format I: Bits(imm21 sign-extended)[31:0] (R159). -/
def immCount (x : IWord) : Nat := imm21Bits x.imm21 % 2 ^ 32

/-- n, the length of the field that a control word names within w bits (R161). -/
def fieldLen (ctl w : Nat) : Nat :=
  let pos := bitsOf ctl 7 0
  let len := bitsOf ctl 15 8
  if w ≤ pos || len = 0 then 0 else Min.min len (w - pos)

/-- BFX (R161). -/
def bfxBits (ty : TypeCode) (u ctl : Nat) : Nat :=
  let n := fieldLen ctl ty.bits
  if n = 0 then 0
  else
    let f := bitsOf u (bitsOf ctl 7 0 + n - 1) (bitsOf ctl 7 0)
    wrapInt (if ty.signed then signedOf f n else f) ty.bits

/-- BFI (R161). -/
def bfiBits (w v base ctl : Nat) : Nat :=
  let n := fieldLen ctl w
  let pos := bitsOf ctl 7 0
  if n = 0 then base else setBits base (pos + n - 1) pos v

/-- The number of 1 bits among the low w (R162). -/
def popcBits (w u : Nat) : Nat := ((List.range w).filter (fun i => u.testBit i)).length
/-- CLZ (R162). -/
def clzBits (w u : Nat) : Nat := if u = 0 then w else w - 1 - Nat.log2 u
/-- CTZ (R162). -/
def ctzBits (w u : Nat) : Nat := ((List.range w).find? (fun i => u.testBit i)).getD w
/-- BREV (R162). -/
def brevBits (w u : Nat) : Nat := (List.range w).foldl (fun r i => if u.testBit i then r + 2 ^ (w - 1 - i) else r) 0

/-- One byte of PERM (R163): `pool` holds the bytes of a below those of b. -/
def permByte (pool sel : Nat) : Nat :=
  let v := bitsOf pool (8 * (sel % 8) + 7) (8 * (sel % 8))
  if sel < 8 then v else if v.testBit 7 then 0xFF else 0

/-- PERM (R163). -/
def permBits (a b c : Nat) : Nat :=
  (List.range 4).foldl (fun r i => r + permByte (a + b * 2 ^ 32) (bitsOf c (4 * i + 3) (4 * i)) * 2 ^ (8 * i)) 0

/-- LUT3 (R164). -/
def lutBits (w x y z table : Nat) : Nat :=
  (List.range w).foldl (fun r i =>
    if table.testBit (4 * bit (x.testBit i) + 2 * bit (y.testBit i) + bit (z.testBit i)) then r + 2 ^ i else r) 0

/-- AND (R160). -/
def execAnd (x : RWord) (s : State) : Host.Outcome State Fault Refusal :=
  issueArith (.and x) (fun t => t.out x.d x.ty (t.patA x &&& t.patB x)) s

/-- OR (R160). -/
def execOr (x : RWord) (s : State) : Host.Outcome State Fault Refusal :=
  issueArith (.or x) (fun t => t.out x.d x.ty (t.patA x ||| t.patB x)) s

/-- XOR (R160). -/
def execXor (x : RWord) (s : State) : Host.Outcome State Fault Refusal :=
  issueArith (.xor x) (fun t => t.out x.d x.ty (t.patA x ^^^ t.patB x)) s

/-- NOT (R160). -/
def execNot (x : RWord) (s : State) : Host.Outcome State Fault Refusal :=
  issueArith (.not x) (fun t => t.out x.d x.ty (notBits x.ty.bits (t.patA x))) s

/-- ANDN (R160). -/
def execAndn (x : RWord) (s : State) : Host.Outcome State Fault Refusal :=
  issueArith (.andn x) (fun t => t.out x.d x.ty (t.patA x &&& notBits x.ty.bits (t.patB x))) s

/-- AND with an immediate (R160). -/
def execAndImm (x : IWord) (s : State) : Host.Outcome State Fault Refusal :=
  issueArith (.andImm x) (fun t => t.out x.d x.ty (t.bits x.a false x.ty &&& immBits x.imm21 x.ty)) s

/-- OR with an immediate (R160). -/
def execOrImm (x : IWord) (s : State) : Host.Outcome State Fault Refusal :=
  issueArith (.orImm x) (fun t => t.out x.d x.ty (t.bits x.a false x.ty ||| immBits x.imm21 x.ty)) s

/-- XOR with an immediate (R160). -/
def execXorImm (x : IWord) (s : State) : Host.Outcome State Fault Refusal :=
  issueArith (.xorImm x) (fun t => t.out x.d x.ty (t.bits x.a false x.ty ^^^ immBits x.imm21 x.ty)) s

/-- ANDN with an immediate (R160). -/
def execAndnImm (x : IWord) (s : State) : Host.Outcome State Fault Refusal :=
  issueArith (.andnImm x) (fun t => t.out x.d x.ty (t.bits x.a false x.ty &&& notBits x.ty.bits (immBits x.imm21 x.ty))) s

/-- AND in the L form (R160). -/
def execAndLong (x : LWord) (s : State) : Host.Outcome State Fault Refusal :=
  issueArith (.andLong x) (fun t => t.out x.d x.ty (t.bits x.a false x.ty &&& longBits x.imm64 x.ty)) s

/-- OR in the L form (R160). -/
def execOrLong (x : LWord) (s : State) : Host.Outcome State Fault Refusal :=
  issueArith (.orLong x) (fun t => t.out x.d x.ty (t.bits x.a false x.ty ||| longBits x.imm64 x.ty)) s

/-- XOR in the L form (R160). -/
def execXorLong (x : LWord) (s : State) : Host.Outcome State Fault Refusal :=
  issueArith (.xorLong x) (fun t => t.out x.d x.ty (t.bits x.a false x.ty ^^^ longBits x.imm64 x.ty)) s

/-- SHL (R160). -/
def execShl (x : RWord) (s : State) : Host.Outcome State Fault Refusal :=
  issueArith (.shl x) (fun t => t.out x.d x.ty (shlBits x.ty.bits (t.patA x) (t.u x.b x.zb) % 2 ^ x.ty.bits)) s

/-- SHL with an immediate count (R160). -/
def execShlImm (x : IWord) (s : State) : Host.Outcome State Fault Refusal :=
  issueArith (.shlImm x) (fun t => t.out x.d x.ty (shlBits x.ty.bits (t.bits x.a false x.ty) (immCount x) % 2 ^ x.ty.bits)) s

/-- SHR (R160). -/
def execShr (x : RWord) (s : State) : Host.Outcome State Fault Refusal :=
  issueArith (.shr x) (fun t => t.out x.d x.ty (shrBits x.ty.bits (t.patA x) (t.u x.b x.zb) % 2 ^ x.ty.bits)) s

/-- SHR with an immediate count (R160). -/
def execShrImm (x : IWord) (s : State) : Host.Outcome State Fault Refusal :=
  issueArith (.shrImm x) (fun t => t.out x.d x.ty (shrBits x.ty.bits (t.bits x.a false x.ty) (immCount x) % 2 ^ x.ty.bits)) s

/-- SAR (R160). -/
def execSar (x : RWord) (s : State) : Host.Outcome State Fault Refusal :=
  issueArith (.sar x) (fun t => t.out x.d x.ty (sarBits x.ty.bits (t.patA x) (t.u x.b x.zb) % 2 ^ x.ty.bits)) s

/-- SAR with an immediate count (R160). -/
def execSarImm (x : IWord) (s : State) : Host.Outcome State Fault Refusal :=
  issueArith (.sarImm x) (fun t => t.out x.d x.ty (sarBits x.ty.bits (t.bits x.a false x.ty) (immCount x) % 2 ^ x.ty.bits)) s

/-- ROT (R160). -/
def execRot (x : RWord) (s : State) : Host.Outcome State Fault Refusal :=
  issueArith (.rot x) (fun t => t.out x.d x.ty (rotBits x.ty.bits (t.patA x) (t.u x.b x.zb) % 2 ^ x.ty.bits)) s

/-- ROT with an immediate count (R160). -/
def execRotImm (x : IWord) (s : State) : Host.Outcome State Fault Refusal :=
  issueArith (.rotImm x) (fun t => t.out x.d x.ty (rotBits x.ty.bits (t.bits x.a false x.ty) (immCount x) % 2 ^ x.ty.bits)) s

/-- BFX (R161). -/
def execBfx (x : RWord) (s : State) : Host.Outcome State Fault Refusal :=
  issueArith (.bfx x) (fun t => t.out x.d x.ty (bfxBits x.ty (t.patA x) (t.u x.b x.zb))) s

/-- BFI (R161). -/
def execBfi (x : RWord) (s : State) : Host.Outcome State Fault Refusal :=
  issueArith (.bfi x) (fun t => t.out x.d x.ty (bfiBits x.ty.bits (t.patA x) (t.patB x) (t.u x.c x.zc))) s

/-- POPC: the count is written at 32 bits (R162). -/
def execPopc (x : RWord) (s : State) : Host.Outcome State Fault Refusal :=
  issueArith (.popc x) (fun t => t.out32 x.d (popcBits x.ty.bits (t.patA x))) s

/-- CLZ: the count is written at 32 bits (R162). -/
def execClz (x : RWord) (s : State) : Host.Outcome State Fault Refusal :=
  issueArith (.clz x) (fun t => t.out32 x.d (clzBits x.ty.bits (t.patA x))) s

/-- CTZ: the count is written at 32 bits (R162). -/
def execCtz (x : RWord) (s : State) : Host.Outcome State Fault Refusal :=
  issueArith (.ctz x) (fun t => t.out32 x.d (ctzBits x.ty.bits (t.patA x))) s

/-- BREV (R162). -/
def execBrev (x : RWord) (s : State) : Host.Outcome State Fault Refusal :=
  issueArith (.brev x) (fun t => t.out x.d x.ty (brevBits x.ty.bits (t.patA x))) s

/-- PERM (R163). -/
def execPerm (x : RWord) (s : State) : Host.Outcome State Fault Refusal :=
  issueArith (.perm x) (fun t => t.out32 x.d (permBits (t.u x.a x.za) (t.u x.b x.zb) (t.u x.c x.zc))) s

/-- LUT3: d is its third input (R164). -/
def execLut3 (x : RWord) (s : State) : Host.Outcome State Fault Refusal :=
  issueArith (.lut3 x) (fun t => t.out x.d x.ty (lutBits x.ty.bits (t.patA x) (t.patB x) (t.bits x.d false x.ty) (x.c.toNat % 256))) s

end Sys2Proof.Machine
end

