-- ==== Sys2Proof/Machine/Port.lean ====
section
/-!
DEFINITION. Scratchpad, atomic, barrier and tagged-capability accesses (R178 to R211, R216): what happens at issue, the
passes of the core's port, and the steps that deliver results, perform stores and serve engine landings and counts.
-/

namespace Sys2Proof

/-- The bytes of a format M access of a width (R63). -/
def MWord.size (x : MWord) : Nat := (widthType x.width).bits / 8

/-- Whether an order code is strong (R72). -/
def MWord.strong (x : MWord) : Bool := x.order != 0

end Sys2Proof

namespace Sys2Proof.Machine

/-! ### Entering the port (R183) -/

/-- An instruction of a group takes its place in the port. -/
def openPort (i : Instr) (g : Group) (_ : List Nat) (s : State) : State × Unit :=
  (s.modCore g.core (fun c => { c with port := c.port ++ [⟨g.key, g.pc, i, [], [], 0⟩] }), ())

/-- The instruction that entered the port last leaves it where it has no access to serve. -/
def closePort (g : Group) (s : State) : State :=
  s.modCore g.core (fun c => { c with port := match c.port.getLast? with
    | some i => if i.accs.isEmpty then c.port.dropLast else c.port
    | none => c.port })

/-- The last instruction of the port takes one more access. -/
def addAccess (a : PAcc) : List PortItem → List PortItem
  | [] => []
  | [i] => [{ i with accs := i.accs ++ [a] }]
  | i :: rest => i :: addAccess a rest

/-- A thread's access enters the port; the thread waits for its passes. -/
def State.enterPort (s : State) (k : PKey) (a : PAcc) (f : Thread → Thread) : State :=
  (s.modCore (s.coreOf k) (fun c => { c with port := addAccess a c.port })).modThread k a.tix
    (fun t => { f t with status := .port })

/-- Issue of an instruction that uses the port. -/
def issuePort (i : Instr) (body : Body) (s : State) : Host.Outcome State Fault Refusal :=
  issueWith i (openPort i) (fun _ => body) closePort s

/-- What keeps a load from issuing: an acquire fence (R209), the counter (R206), for a strong load the thread's queue
(R195). -/
def loadWait (t : Thread) (strong : Bool) : Option Wait :=
  if t.fenceAcquire && t.counts.loads != 0 then some .loadsDone
  else if 62 ≤ t.counts.loads then some (.countRoom .loads)
  else if strong && !t.storeQ.isEmpty then some .storesDone
  else none

/-- What keeps an ATOMS or a barrier instruction from issuing (R209). -/
def State.orderWait (s : State) (k : PKey) (t : Thread) (load : Bool) : Option Wait :=
  if t.fenceRelease && !t.storeQ.isEmpty then some .storesDone
  else if t.fenceNumber && s.undecided k t.tix then some .numbering
  else if load && t.fenceAcquire && t.counts.loads != 0 then some .loadsDone
  else none

/-! ### Loads at issue -/

/-- LDS (R193 to R195). -/
def execLds (x : MWord) (s : State) : Host.Outcome State Fault Refusal :=
  issuePort (.lds x) (fun s k t =>
    let o := t.address x
    match loadWait t x.strong with
    | some w => .wait w
    | none => match (s.parcel k).bound o x.size x.size with
      | some r => .trap r
      | none => .stay (s.enterPort k ⟨t.tix, o.toNat, x.size, 0, 0⟩ (fun t => { t.inc .loads with fenceAcquire := false }))) s

/-- KLD waits until the older queued stores to its granule are performed (R216). -/
def execKld (x : MWord) (s : State) : Host.Outcome State Fault Refusal :=
  issuePort (.kld x) (fun s k t =>
    let o := t.address x
    match loadWait t false with
    | some w => .wait w
    | none => match (s.parcel k).bound o 16 16 with
      | some r => .trap r
      | none =>
        if t.storesIn o.toNat then .wait (.granule o.toNat)
        else .stay (s.enterPort k ⟨t.tix, o.toNat, 16, 0, 0⟩ (fun t => { t.inc .loads with fenceAcquire := false }))) s

/-! ### Stores at issue (R187, R195, R366) -/

/-- A store enters its thread's queue; a strong one is a release (R364). -/
def Thread.enqueue (t : Thread) (off : Nat) (bs : List Byte) (strong kst : Bool) : Thread :=
  let q : QStore := ⟨off, bs, strong, kst, t.detect.rc⟩
  { (t.inc .stores).passFence with
    storeQ := t.storeQ ++ [q], detect := if strong then t.detect.release.2 else t.detect }

/-- What keeps a store from issuing (R195, R206, R209). -/
def State.storeWait (s : State) (k : PKey) (t : Thread) : Option Wait :=
  if 62 ≤ t.storeQ.length then some .storeRoom else s.gate k t .stores

/-- The race check of a store at issue, after the thread's older stores (R191, R366): a granule that the thread's own
queue writes is its own. -/
def Parcel.storeRace (p : Parcel) (t : Thread) (off : Nat) (strong : Bool) : Option Trap :=
  if t.storesIn off then none
  else (p.checkWrite t off strong).map (fun e => .mmx e.1 (off / 16 * 16 : Nat) (some e.2))

/-- A store that passes its own checks: its thread, place and bytes. -/
structure Storing where
  tix : Nat
  off : Nat
  bytes : List Byte

/-- What an STS does in one thread before R187: it waits (`none`), traps or stores. -/
def State.storing (s : State) (k : PKey) (x : MWord) (tix : Nat) : Option (Except Trap Storing) :=
  match s.thread? k tix with
  | none => none
  | some t =>
    if (s.storeWait k t).isSome then none
    else
      let o := t.address x
      match firstTrap [(s.parcel k).bound o x.size x.size] with
      | some r => some (.error r)
      | none => match (s.parcel k).storeRace t o.toNat x.strong with
        | some r => some (.error r)
        | none => some (.ok ⟨tix, o.toNat, leBytes x.size (t.bits x.d false (widthType x.width))⟩)

/-- The byte a store writes at an offset. -/
def Storing.at? (q : Storing) (a : Nat) : Option Byte := if q.off ≤ a then q.bytes[a - q.off]? else none

/-- The store of the highest lane at an offset (R187). -/
def winner (qs : List Storing) (a : Nat) : Option Storing :=
  qs.foldl (fun w q => if (q.at? a).isNone then w else match w with
    | none => some q
    | some v => if v.tix % 32 < q.tix % 32 then some q else w) none

/-- The trap of a store that R187 denies: at the lowest byte for which it supplied another value than the winner. -/
def denied (qs : List Storing) (q : Storing) : Option Trap :=
  ((List.range q.bytes.length).filterMap (fun i => match winner qs (q.off + i) with
    | some w => if w.at? (q.off + i) != q.at? (q.off + i) then some (Trap.mmx 0x10 (q.off + i : Nat) (some w.tix)) else none
    | none => none)).head?

/-- The stores among what some threads do. -/
def storesOf (rs : List (Nat × Except Trap Storing)) : List Storing := rs.filterMap (fun r => match r.2 with
  | .ok q => some q
  | .error _ => none)

/-- A store instruction of a group takes its place behind those whose stores are queued (R183, R195). -/
def State.queueStores (s : State) (g : Group) (accs : List PAcc) : State :=
  if accs.isEmpty then s else s.modCore g.core (fun c => { c with stores := c.stores ++ [⟨g.key, accs, 0⟩] })

/-- STS (R187, R193 to R195): the checks of every thread are made on the state before the issue, and R187 is judged over
the stores that pass them. -/
def execSts (x : MWord) (s : State) : Host.Outcome State Fault Refusal :=
  let pre (g : Group) (tixs : List Nat) (s : State) : State × List (Nat × Except Trap Storing) :=
    let rs := tixs.filterMap (fun t => (s.storing g.key x t).map (fun r => (t, r)))
    let qs := storesOf rs
    (s.queueStores g ((qs.filter (fun q => (denied qs q).isNone)).map (fun q => ⟨q.tix, q.off, x.size, 0, 0⟩)), rs)
  issueWith (.sts x) pre (fun rs s k t =>
    match rs.find? (fun r => r.1 == t.tix) with
    | none => .wait ((s.storeWait k t).getD .storeRoom)
    | some (_, .error r) => .trap r
    | some (_, .ok q) => match denied (storesOf rs) q with
      | some r => .trap r
      | none => .next (s.modThread k t.tix (fun t => t.enqueue q.off q.bytes x.strong false))) (fun _ s => s) s

/-- What a KST does in one thread: it waits (`none`), traps or stores at an offset. -/
def State.kstoring (s : State) (k : PKey) (x : MWord) (tix : Nat) : Option (Except Trap Nat) :=
  match s.thread? k tix with
  | none => none
  | some t =>
    if (s.storeWait k t).isSome then none
    else
      let o := t.address x
      match (s.parcel k).bound o 16 16 with
      | some r => some (.error r)
      | none => match (s.parcel k).storeRace t o.toNat true with
        | some r => some (.error r)
        | none => some (.ok o.toNat)

/-- KST: a strong store at parcel scope that sets the tag when it is performed (R190, R216); the checks of every thread are
made on the state before the issue. -/
def execKst (x : MWord) (s : State) : Host.Outcome State Fault Refusal :=
  let pre (g : Group) (tixs : List Nat) (s : State) : State × List (Nat × Except Trap Nat) :=
    let rs := tixs.filterMap (fun t => (s.kstoring g.key x t).map (fun r => (t, r)))
    (s.queueStores g (rs.filterMap (fun r => match r.2 with
      | .ok o => some ⟨r.1, o, 16, 0, 0⟩
      | .error _ => none)), rs)
  issueWith (.kst x) pre (fun rs s k t =>
    match rs.find? (fun r => r.1 == t.tix) with
    | none => .wait ((s.storeWait k t).getD .storeRoom)
    | some (_, .error r) => .trap r
    | some (_, .ok o) => .next (s.modThread k t.tix (fun t =>
        t.enqueue o (leBytes 16 (t.cap (x.d.toNat % 8)).toNat) true true))) (fun _ s => s) s

/-! ### ATOMS and barrier instructions at issue -/

/-- An ATOMS at issue (R197, R198): the operand, and for `.cas` the compare value. -/
def atomsBody (x : MWord) : Body := fun s k t =>
  let o := t.address x
  let ty := widthType x.width
  match s.orderWait k t true with
  | some w => .wait w
  | none => match (s.parcel k).bound o x.size x.size with
    | some r => .trap r
    | none => .stay (s.enterPort k ⟨t.tix, o.toNat, x.size, BitVec.ofNat 128 (t.bits x.s false ty), BitVec.ofNat 128 (t.bits x.d false ty)⟩
        (fun t => { t.passFence with fenceAcquire := false }))

/-- ATOMS.add (R198). -/
def execAtomsAdd (x : MWord) (s : State) : Host.Outcome State Fault Refusal := issuePort (.atomsAdd x) (atomsBody x) s
/-- ATOMS.min (R198). -/
def execAtomsMin (x : MWord) (s : State) : Host.Outcome State Fault Refusal := issuePort (.atomsMin x) (atomsBody x) s
/-- ATOMS.max (R198). -/
def execAtomsMax (x : MWord) (s : State) : Host.Outcome State Fault Refusal := issuePort (.atomsMax x) (atomsBody x) s
/-- ATOMS.and (R198). -/
def execAtomsAnd (x : MWord) (s : State) : Host.Outcome State Fault Refusal := issuePort (.atomsAnd x) (atomsBody x) s
/-- ATOMS.or (R198). -/
def execAtomsOr (x : MWord) (s : State) : Host.Outcome State Fault Refusal := issuePort (.atomsOr x) (atomsBody x) s
/-- ATOMS.xor (R198). -/
def execAtomsXor (x : MWord) (s : State) : Host.Outcome State Fault Refusal := issuePort (.atomsXor x) (atomsBody x) s
/-- ATOMS.swap (R198). -/
def execAtomsSwap (x : MWord) (s : State) : Host.Outcome State Fault Refusal := issuePort (.atomsSwap x) (atomsBody x) s
/-- ATOMS.cas (R198). -/
def execAtomsCas (x : MWord) (s : State) : Host.Outcome State Fault Refusal := issuePort (.atomsCas x) (atomsBody x) s

/-- A barrier instruction at issue (R203, R204): a 16-byte access and its operand s. One that writes the object is checked
for a race as a strong write (R191, R366). -/
def barrierBody (x : MWord) (reads writes : Bool) : Body := fun s k t =>
  let o := t.address x
  match s.orderWait k t false with
  | some w => .wait w
  | none => match firstTrap [(s.parcel k).bound o 16 16, if writes then (s.parcel k).storeRace t o.toNat true else none] with
    | some r => .trap r
    | none => .stay (s.enterPort k ⟨t.tix, o.toNat, 16, if reads then BitVec.ofNat 128 (t.u x.s false) else 0, 0⟩ Thread.passFence)

/-- BINIT (R204). -/
def execBinit (x : MWord) (s : State) : Host.Outcome State Fault Refusal := issuePort (.binit x) (barrierBody x true true) s
/-- ARRIVE (R204). -/
def execArrive (x : MWord) (s : State) : Host.Outcome State Fault Refusal := issuePort (.arrive x) (barrierBody x false true) s
/-- EXPECT (R204). -/
def execExpect (x : MWord) (s : State) : Host.Outcome State Fault Refusal := issuePort (.expect x) (barrierBody x true true) s
/-- WAITPH (R204). -/
def execWaitph (x : MWord) (s : State) : Host.Outcome State Fault Refusal := issuePort (.waitph x) (barrierBody x true false) s
/-- TESTPH (R204). -/
def execTestph (x : MWord) (s : State) : Host.Outcome State Fault Refusal := issuePort (.testph x) (barrierBody x true false) s

/-! ### Service (R186, R190, R198, R204, R366) -/

/-- What serving an access does: it is done, it traps, or the thread has entered phase wait. -/
inductive Served where
  | done (s : State)
  | trap (r : Trap)
  | parked (s : State)

/-- The trap of a failed race check: the granule's offset (R367). -/
def raceTrap (off : Nat) (e : Nat × Nat) : Trap := .mmx e.1 (off / 16 * 16 : Nat) (some e.2)

/-- A result that is written a fixed time after the service (R185). -/
def State.later (s : State) (k : PKey) (tix : Nat) (ws : List Write) (load : Bool) : State :=
  s.modThread k tix (fun t => { t with deliver := t.deliver ++ [⟨ws, load⟩] })

/-- A load is served (R190, R195, R366): bytes of its own queued stores are forwarded. -/
def State.serveLds (s : State) (k : PKey) (t : Thread) (a : PAcc) (x : MWord) : Served :=
  let p := s.parcel k
  let ty := widthType x.width
  let own := t.forwards a.off a.size
  match if own then none else p.checkLoad t a.off x.strong with
  | some e => .trap (raceTrap a.off e)
  | none =>
    let v := leNat ((List.range a.size).map (fun i => p.loadByte t (a.off + i)))
    let s := s.modParcel k (fun p =>
      if own then p
      else (if x.strong then p.acquire t.tix a.off else p).noteRead a.off t.tix t.detect.rc)
    .done (s.later k t.tix (writesOf ty x.d.toNat v) true)

/-- A KLD is served: tag and bytes together (R216). -/
def State.serveKld (s : State) (k : PKey) (t : Thread) (a : PAcc) (x : MWord) : Served :=
  let p := s.parcel k
  if !(p.record a.off).tag then .trap (.capv 5 a.off)
  else match p.checkLoad t a.off false with
    | some e => .trap (raceTrap a.off e)
    | none =>
      let s := s.modParcel k (fun p => p.noteRead a.off t.tix t.detect.rc)
      .done (s.later k t.tix [⟨.c (x.d.toNat % 8), BitVec.ofNat 128 (p.nat a.off 16)⟩] true)

/-- The new value of an ATOMS (R198), on patterns of a type; `op` is the opcode less 0x188 (R77). -/
def atomsNew (op : Nat) (ty : TypeCode) (old y cmp : Nat) : Nat :=
  match op with
  | 0 => (old + y) % 2 ^ ty.bits
  | 1 => if ty.intValue old ≤ ty.intValue y then old else y
  | 2 => if ty.intValue old ≤ ty.intValue y then y else old
  | 3 => old &&& y
  | 4 => old ||| y
  | 5 => old ^^^ y
  | 6 => y
  | _ => if old = cmp then y else old

/-- A strong write of a thread is recorded; a release also advances its count (R190, R364). -/
def State.strongWrite (s : State) (k : PKey) (tix off : Nat) (release : Bool) : State :=
  s.modParcel k (fun p => match p.thread? tix with
    | some t =>
      let p := p.noteWrite off tix t.detect.rc true false
      if release then p.modThread tix (fun t => { t with detect := t.detect.release.2 }) else p
    | none => p)

/-- An ATOMS is served: checked as a load and then as a store; acquire, read-modify-write, release, wake event (R133,
R198, R366). -/
def State.serveAtoms (s : State) (k : PKey) (t : Thread) (a : PAcc) (op : Nat) (x : MWord) : Served :=
  let p := s.parcel k
  let ty := widthType x.width
  match p.checkLoad t a.off true with
  | some e => .trap (raceTrap a.off e)
  | none => match p.checkWrite t a.off true with
    | some e => .trap (raceTrap a.off e)
    | none =>
      let old := p.nat a.off a.size
      let new := atomsNew op ty old a.x.toNat a.y.toNat
      let s := s.modParcel k (fun p =>
        let p := p.acquire t.tix a.off
        if new != old || 6 ≤ op then { p with spad := Mem.write p.spad a.off (leBytes a.size new) } else p)
      let s := (s.strongWrite k t.tix a.off true).later k t.tix (writesOf ty x.d.toNat old) false
      .done (s.wake (k.thread t.tix))

/-- BINIT is served (R202, R204). -/
def State.serveBinit (s : State) (k : PKey) (t : Thread) (a : PAcc) : Served :=
  let p := s.parcel k
  let n := a.x.toNat
  if n < 1 || 1024 < n || p.hasWaiter a.off then .trap (.mmx 0x11 a.off)
  else
    let s := s.modParcel k (fun p => { p with
      spad := Mem.write p.spad a.off (leBytes 16 (n * 2 ^ 21 + n * 2 ^ 10)), phaseSums := Tbl.put 0 p.phaseSums a.off 0 })
    .done ((s.strongWrite k t.tix a.off true).wake (k.thread t.tix))

/-- An arrival of a thread in the current phase of a barrier (R204, R205, R364, R420). -/
def State.arriveAt (s : State) (k : PKey) (t : Thread) (off : Nat) (b : Barrier) : State :=
  let s := (s.strongWrite k t.tix off true).modThread k t.tix (fun t =>
    { t with detect := t.detect.insRing (.barrier off) b.phase t.detect.rc })
  let s := s.modParcel k (fun p => { p with phaseSums := Tbl.put 0 p.phaseSums off (Tbl.get 0 p.phaseSums off + t.retired) })
  (s.putBarrier k off { b with pend := b.pend - 1 }).wake (k.thread t.tix)

/-- ARRIVE is served. -/
def State.serveArrive (s : State) (k : PKey) (t : Thread) (a : PAcc) (x : MWord) : Served :=
  let b := (s.parcel k).barrier a.off
  if b.pend = 0 then .trap (.mmx 0x11 a.off)
  else .done ((s.arriveAt k t a.off b).later k t.tix (writes32 x.d.toNat b.phase.toNat) false)

/-- EXPECT is served; with a count above 0 it is a release and an arrival in the phase it counts (R204, R350). -/
def State.serveExpect (s : State) (k : PKey) (t : Thread) (a : PAcc) (x : MWord) : Served :=
  let b := (s.parcel k).barrier a.off
  let n := a.x.toNat
  if (2 ^ 31 - 1 : Int) < b.bytes + n then .trap (.mmx 0x11 a.off)
  else
    let s := (s.strongWrite k t.tix a.off (n != 0)).modThread k t.tix (fun t =>
      if n != 0 then { t with detect := t.detect.insRing (.barrier a.off) b.phase t.detect.rc } else t)
    .done ((s.putBarrier k a.off { b with bytes := b.bytes + n }).later k t.tix (writes32 x.d.toNat b.phase.toNat) false)

/-- WAITPH is served: it goes on, or the thread enters phase wait. -/
def State.serveWaitph (s : State) (k : PKey) (t : Thread) (a : PAcc) : Served :=
  let ph : Word := a.x.setWidth 32
  if ((s.parcel k).barrier a.off).done ph then
    .done (s.modThread k t.tix (fun t => { t with detect := t.detect.phaseAcquire (.barrier a.off) ph }))
  else .parked (s.modThread k t.tix (fun t => { t with status := .phase a.off ph }))

/-- TESTPH is served. -/
def State.serveTestph (s : State) (k : PKey) (t : Thread) (a : PAcc) (x : MWord) : Served :=
  let ph : Word := a.x.setWidth 32
  let ok := ((s.parcel k).barrier a.off).done ph
  let s := s.modThread k t.tix (fun t =>
    if ok then { t with detect := t.detect.phaseAcquire (.barrier a.off) ph } else t)
  .done (s.later k t.tix (writesPred x.d.toNat ok) false)

/-- One access is served. -/
def State.serveAccess (s : State) (k : PKey) (i : Instr) (a : PAcc) : Served :=
  match s.thread? k a.tix with
  | none => .parked s
  | some t =>
    match i with
    | .lds x => s.serveLds k t a x
    | .kld x => s.serveKld k t a x
    | .atomsAdd x => s.serveAtoms k t a 0 x
    | .atomsMin x => s.serveAtoms k t a 1 x
    | .atomsMax x => s.serveAtoms k t a 2 x
    | .atomsAnd x => s.serveAtoms k t a 3 x
    | .atomsOr x => s.serveAtoms k t a 4 x
    | .atomsXor x => s.serveAtoms k t a 5 x
    | .atomsSwap x => s.serveAtoms k t a 6 x
    | .atomsCas x => s.serveAtoms k t a 7 x
    | .binit _ => s.serveBinit k t a
    | .arrive x => s.serveArrive k t a x
    | .expect x => s.serveExpect k t a x
    | .waitph _ => s.serveWaitph k t a
    | .testph x => s.serveTestph k t a x
    | _ => .parked s

/-- Whether an instruction in the port is served only after the older queued stores of its threads (R198, R204). -/
def PortItem.followsStores (i : PortItem) : Bool :=
  match i.instr with
  | .lds _ | .kld _ => false
  | _ => true

/-- Whether the next pass of an instruction has to wait for queued stores of its threads. -/
def State.portWaits (s : State) (i : PortItem) : Bool :=
  i.followsStores && i.accs.any (fun a => match s.thread? i.key a.tix with
    | some t => !t.storeQ.isEmpty
    | none => false)

/-- Serve the accesses of a pass in ascending lane order (R186): the state and the threads that are done. A load that traps
leaves the loads class. -/
def serveAll (k : PKey) (i : Instr) : List PAcc → State → List Nat → State × List Nat
  | [], s, done => (s, done)
  | a :: rest, s, done =>
    match s.serveAccess k i a with
    | .done s => serveAll k i rest s (done ++ [a.tix])
    | .parked s => serveAll k i rest s done
    | .trap r =>
      let s := match i with
        | .lds _ | .kld _ => s.modThread k a.tix (fun t => t.dec .loads)
        | _ => s
      serveAll k i rest (s.trap k a.tix r) done

/-- The words that two or more loading lanes receive in one pass (R184). -/
def broadcasts (i : Instr) (accs : List PAcc) (chosen : List (Nat × Nat)) : Nat :=
  match i with
  | .lds _ | .kld _ => (chosen.filter (fun e => decide (2 ≤ (accs.filter (fun a => a.words.contains e.2)).length))).length
  | _ => 0

/-- SCRATCHPAD_PASS (R183 to R186): the port serves one pass of its first instruction; after its last pass the threads
served go on together. -/
def execScratchpadPass (core : Nat) (s : State) : Host.Outcome State Fault Refusal :=
  match (s.core core).port with
  | [] => .refused (.notEnabled "SCRATCHPAD_PASS")
  | i :: rest =>
    if s.portWaits i then .refused (.notEnabled "SCRATCHPAD_PASS")
    else
    let chosen := passWords (s.parcel i.key).xhash i.accs
    let now := passOf (s.parcel i.key).xhash i.accs
    let left := passLeft (s.parcel i.key).xhash i.accs
    let s := (s.count i.key.ctx 0x012 (bit (i.passes != 0))).count i.key.ctx 0x013 (broadcasts i.instr i.accs chosen)
    let s := s.modCore core (fun c => { c with
      port := { i with accs := left, passes := i.passes + 1 } :: rest,
      counts := { c.counts with spp := min (2 ^ 32 - 1) (c.counts.spp + 1) } })
    let r := serveAll i.key i.instr now s i.served
    let s := r.1
    let s :=
      if left.isEmpty then
        let s := s.modCore core (fun c => { c with port := c.port.filter (fun j => !(j.key == i.key && j.accs.isEmpty)) })
        r.2.foldl (fun s t => s.modParcel i.key (fun p =>
          (p.retire t (i.pc + 8)).modThread t (fun t => { t with status := .ready }))) s
      else s.modCore core (fun c => { c with port := c.port.map (fun j => if j.key = i.key then { j with served := r.2 } else j) })
    .next (s.refresh core)

/-! ### Results, stores, landings and counts -/

/-- LOAD_DELIVER (R185): the thread's oldest result of the port is written. -/
def execLoadDeliver (t : TRef) (s : State) : Host.Outcome State Fault Refusal :=
  match s.thread? t.parcelKey t.tix with
  | some th => match th.deliver with
    | v :: rest =>
      let s := s.modThread t.parcelKey t.tix (fun th =>
        let th := { th.writeAll v.writes with deliver := rest }
        if v.load then th.dec .loads else th)
      .next (s.refresh (s.coreOf t.parcelKey))
    | [] => .refused (.notEnabled "LOAD_DELIVER")
  | none => .refused (.notEnabled "LOAD_DELIVER")

/-- Whether the next pass of a core's queued stores serves a thread's oldest store (R183, R195). -/
def State.storesNow (s : State) (core : Nat) (t : TRef) : Bool :=
  match (s.core core).stores with
  | [] => false
  | i :: _ => i.key == t.parcelKey && (passOf (s.parcel i.key).xhash i.accs).any (fun a => a.tix == t.tix)

/-- STORE_PERFORM (R183, R186, R195): the pass that performs a thread's oldest queued store, with the other stores of its
instruction that the pass serves. -/
def execStorePerform (t : TRef) (s : State) : Host.Outcome State Fault Refusal :=
  let core := s.coreOf t.parcelKey
  if s.storesNow core t then .next ((s.storePass core).refresh core) else .refused (.notEnabled "STORE_PERFORM")

/-- Whether two landings write in one 64-byte chunk. -/
def Landing.shares (a b : Landing) : Bool :=
  a.res == b.res && a.pieces.any (fun x => b.pieces.any (fun y => x.1 / 64 == y.1 / 64))

/-- Whether a landing waits for an earlier one: those of one request are served in their order, and so are those of the index
context where they share a chunk (R228, R356); a copy context holds its units back itself. -/
def Core.landsAfter (c : Core) (l earlier : Landing) : Bool :=
  let job (x : Landing) : Bool := c.index.any (fun j => j.uid == x.req)
  earlier.req == l.req || (job earlier && job l && l.shares earlier)

/-- ENGINE_LANDING (R185, R190, R237): the bytes are written; their count waits for a later service. -/
def execEngineLanding (p : PKey) (k : Nat) (s : State) : Host.Outcome State Fault Refusal :=
  match s.parcel? p with
  | some q => match q.landings[k]? with
    | some l =>
      if (q.landings.take k).any ((s.core q.core).landsAfter l) then .refused (.notEnabled "ENGINE_LANDING")
      else
        let s := s.modParcel p (fun q =>
          let q := { q.land l with landings := dropAt q.landings k }
          match l.bar with
          | some b => if l.count = 0 then q else { q with counts := q.counts ++ [⟨b, l.count, 0, l.req, none⟩] }
          | none => q)
        .next (s.refresh q.core)
    | none => .refused (.notEnabled "ENGINE_LANDING")
  | none => .refused (.notEnabled "ENGINE_LANDING")

/-- ENGINE_BYTE_COUNT (R201, R338): a count is applied to its barrier; a Circle reply's count comes last (R345) and
ends its request for its thread (R206). -/
def execEngineByteCount (p : PKey) (k : Nat) (s : State) : Host.Outcome State Fault Refusal :=
  match s.parcel? p with
  | some q => match q.counts[k]? with
    | some c =>
      if c.reply.isSome && (q.counts.take k).any (fun d => d.req == c.req) then .refused (.notEnabled "ENGINE_BYTE_COUNT")
      else
      let s := s.modParcel p (fun q => { q with counts := dropAt q.counts k })
      let s := s.countBytes p c.bar c.n c.err
      let s := match c.reply with
        | some t => s.modThread p t (fun t => t.dec .circle)
        | none => s
      .next (s.refresh q.core)
    | none => .refused (.notEnabled "ENGINE_BYTE_COUNT")
  | none => .refused (.notEnabled "ENGINE_BYTE_COUNT")

/-- ENGINE_RESULT_WRITE (R151): the k-th pending result of a thread is written and its marks are cleared. -/
def execEngineResultWrite (t : TRef) (k : Nat) (s : State) : Host.Outcome State Fault Refusal :=
  match s.thread? t.parcelKey t.tix with
  | some th => match th.pend[k]? with
    | some e => match e.vals with
      | some ws => .next ((s.resolve t.parcelKey t.tix e.uid ws).refresh (s.coreOf t.parcelKey))
      | none => .refused (.notEnabled "ENGINE_RESULT_WRITE")
    | none => .refused (.notEnabled "ENGINE_RESULT_WRITE")
  | none => .refused (.notEnabled "ENGINE_RESULT_WRITE")

/-! ### WAITCNT and FENCE -/

/-- WAITCNT (R207). -/
def execWaitcnt (x : CWord) (s : State) : Host.Outcome State Fault Refusal :=
  issue (.waitcnt x) (fun s _ t =>
    let limits : Counts := ⟨x.loads.toNat, x.stores.toNat, x.copies.toNat, x.matrix.toNat, x.sets.toNat, x.circle.toNat⟩
    if t.counts.meets limits then .next s else .wait (.counts limits)) s

/-- FENCE (R208, R209): at thread scope it orders nothing; a full or release fence is a wake event (R133). -/
def execFence (x : SWord) (s : State) : Host.Outcome State Fault Refusal :=
  issue (.fence x) (fun s k t =>
    let kind := (x.mod.extractLsb' 3 2).toNat
    let scope := (x.mod.extractLsb' 0 3).toNat
    let rel := kind != 1
    let acq := kind != 2
    let wide := s.undecided k t.tix
    let s := s.modThread k t.tix (fun t =>
      if scope = 0 then t
      else { t with
        fenceRelease := t.fenceRelease || (rel && !t.storeQ.isEmpty),
        fenceNumber := t.fenceNumber || (rel && 5 ≤ scope && wide),
        fenceAcquire := t.fenceAcquire || (acq && t.counts.loads != 0) })
    .next (if rel then s.wake (k.thread t.tix) else s)) s

end Sys2Proof.Machine
end

