-- ==== Sys2Proof/Machine/System.lean ====
section
/-!
DEFINITION. System and trap instructions (R398 to R413): TRAP, BKPT, ERET, the special registers, clocks and counters; the
word that no opcode claims (R78), and the writing of arithmetic results (R152).
-/

namespace Sys2Proof

/-- The number in n12 of a system instruction (R410). -/
def SWord.n (x : SWord) : Nat := x.n12.toNat

end Sys2Proof

namespace Sys2Proof.Machine

/-! ### Special registers (R409) -/

/-- `%wsref` at a tick (R225). -/
def wsref (tb : Nat) : Nat := (2047 - tb % 2048) * 8 + tb / 2048 % 8

/-- The value of a special register. -/
def State.special (s : State) (k : PKey) (l : Launch) (t : Thread) (n : Nat) : Nat :=
  match n with
  | 0x000 => (l.tid k.pix t.tix).toNat
  | 0x001 => k.pix
  | 0x002 => t.tix
  | 0x003 => t.role
  | 0x004 => t.tix % 32
  | 0x005 => l.n % 2 ^ 32
  | 0x006 => l.p
  | 0x007 => k.launch
  | 0x008 => s.coreOf k
  | 0x010 => s.tb
  | 0x011 => s.clk
  | 0x012 => wsref s.tb
  | 0x013 => (s.parcel k).xhash.toNat
  | 0x014 => t.srseed.toNat
  | 0x020 => t.tcause.toNat
  | 0x021 => t.taddr.toNat
  | 0x022 => t.tpc.toNat
  | 0x023 => t.tsav0.toNat
  | 0x024 => t.tsav1.toNat
  | _ => t.tstate.toNat

/-- A write of a special register; the reserved bits of `%tcause` stay 0 (R400). -/
def Thread.setSpecial (t : Thread) (n v : Nat) : Thread :=
  match n with
  | 0x014 => { t with srseed := srStore (BitVec.ofNat 32 v) }
  | 0x020 => { t with tcause := BitVec.ofNat 32 (v % 2 ^ 27) }
  | 0x021 => { t with taddr := BitVec.ofNat 64 v }
  | 0x022 => { t with tpc := BitVec.ofNat 32 v }
  | 0x023 => { t with tsav0 := BitVec.ofNat 32 v }
  | 0x024 => { t with tsav1 := BitVec.ofNat 32 v }
  | _ => t

/-- Whether a special register is read and written as a pair. -/
def wideSpecial (n : Nat) : Bool := ((specialRegs n).getD (1, false)).1 == 2

/-- MFSR: the value, sampled at issue (R411). -/
def execMfsr (x : SWord) (s : State) : Host.Outcome State Fault Refusal :=
  issue (.mfsr x) (fun s k t =>
    match s.launch? k.launchKey with
    | none => .next s
    | some l =>
      let v := s.special k l t x.n
      .next (s.modThread k t.tix (fun t =>
        (if wideSpecial x.n then t.out64 x.d v else t.out32 x.d v).mark (Instr.mfsr x).sig))) s

/-- MTSR (R411). -/
def execMtsr (x : SWord) (s : State) : Host.Outcome State Fault Refusal :=
  issue (.mtsr x) (fun s k t =>
    let v := if wideSpecial x.n then t.d64 x.a x.za else t.u x.a x.za
    .next (s.modThread k t.tix (fun t => t.setSpecial x.n v))) s

/-! ### Traps -/

/-- TRAP completes and then traps (R411). -/
def execTrap (x : SWord) (s : State) : Host.Outcome State Fault Refusal :=
  issue (.trap x) (fun _ _ _ => .trap { kind := 0x08, addr := x.n, completes := true }) s

/-- BKPT completes and then traps; with BKREC each entry also writes a breakpoint record (R411, R416, R422). -/
def execBkpt (x : SWord) (s : State) : Host.Outcome State Fault Refusal :=
  issue (.bkpt x) (fun s k t =>
    let s' := s.trap k t.tix { kind := 0x07, addr := x.n, completes := true }
    let (s', c) := s'.debugRead k.ctx
    if dbgOk c && dbgField c 339 339 == 1 && (s'.thread? k t.tix).isSome then
      .stay (s'.faultRecord k.ctx { kind := 0x0F, code := x.n, launch := k.launch, pix := k.pix, tix := t.tix, pc := t.pc.toNat })
    else .stay s') s

/-- ERET (R403). -/
def execEret (x : SWord) (s : State) : Host.Outcome State Fault Refusal :=
  issue (.eret x) (fun s k t =>
    match (s.core (s.coreOf k)).branchFault k.launchKey t.tpc with
    | some r => .trap r
    | none => .jump (s.modThread k t.tix (fun t => { t with tstate := 0, reuse := none })) t.tpc) s

/-- UNASSIGNED_OPCODE: check 1 of R78. -/
def execUnassignedOpcode (w : DWord) (s : State) : Host.Outcome State Fault Refusal :=
  issue (.unassignedOpcode w) (fun _ _ t => .trap (.illegal 1 t.pc)) s

/-! ### Clocks and counters -/

/-- CLKRD; with `.sync` it waits for the thread's older effects (R412). -/
def execClkrd (x : SWord) (s : State) : Host.Outcome State Fault Refusal :=
  issue (.clkrd x) (fun s k t =>
    if x.mod.getLsbD 1 && !s.waitOver (s.coreOf k) k t .sync then .wait .sync
    else
      let v := if x.mod.getLsbD 0 then s.clk else s.tb
      .next (s.modThread k t.tix (fun t => (t.out64 x.d v).mark (Instr.clkrd x).sig))) s

/-- The value of a counter (R413). -/
def State.counter (s : State) (k : PKey) (t : Thread) (n : Nat) : Nat :=
  match n with
  | 0 => t.retired
  | 1 => (s.parcel k).retired
  | _ => Tbl.get 0 (s.ctx k.ctx).counters n

/-- PERFRD: the counters as they stand when the group issues (R413). -/
def execPerfrd (x : SWord) (s : State) : Host.Outcome State Fault Refusal :=
  issueWith (.perfrd x) (fun _ _ s => (s, s)) (fun at' s k t =>
    .next (s.modThread k t.tix (fun th => (th.out64 x.d (at'.counter k t x.n)).mark (Instr.perfrd x).sig))) (fun _ s => s) s

/-! ### ARITHMETIC_RESULT_WRITE -/

/-- The oldest arithmetic result of a thread that is still due reaches its readers (R152). -/
def execArithmeticResultWrite (t : TRef) (s : State) : Host.Outcome State Fault Refusal :=
  match s.thread? t.parcelKey t.tix with
  | some th =>
    if th.due.isEmpty then .refused (.notEnabled "ARITHMETIC_RESULT_WRITE")
    else .next ((s.modThread t.parcelKey t.tix (fun th => { th with due := th.due.drop 1 })).refresh (s.coreOf t.parcelKey))
  | none => .refused (.notEnabled "ARITHMETIC_RESULT_WRITE")

end Sys2Proof.Machine
end

