-- ==== Sys2Proof/Machine/Dispatch.lean ====
section
/-!
DEFINITION. One arm per constructor of `Instr`: the meaning it calls.
-/

namespace Sys2Proof.Machine

def exec (i : Instr) (s : State) : Host.Outcome State Fault Refusal :=
  match i with
  | .add x => Sys2Proof.Machine.execAdd x s
  | .addImm x => Sys2Proof.Machine.execAddImm x s
  | .addLong x => Sys2Proof.Machine.execAddLong x s
  | .sub x => Sys2Proof.Machine.execSub x s
  | .subImm x => Sys2Proof.Machine.execSubImm x s
  | .subLong x => Sys2Proof.Machine.execSubLong x s
  | .mul x => Sys2Proof.Machine.execMul x s
  | .mulImm x => Sys2Proof.Machine.execMulImm x s
  | .mulhi x => Sys2Proof.Machine.execMulhi x s
  | .mad x => Sys2Proof.Machine.execMad x s
  | .div x => Sys2Proof.Machine.execDiv x s
  | .rem x => Sys2Proof.Machine.execRem x s
  | .neg x => Sys2Proof.Machine.execNeg x s
  | .abs x => Sys2Proof.Machine.execAbs x s
  | .min x => Sys2Proof.Machine.execMin x s
  | .minImm x => Sys2Proof.Machine.execMinImm x s
  | .max x => Sys2Proof.Machine.execMax x s
  | .maxImm x => Sys2Proof.Machine.execMaxImm x s
  | .clamp x => Sys2Proof.Machine.execClamp x s
  | .addc x => Sys2Proof.Machine.execAddc x s
  | .subb x => Sys2Proof.Machine.execSubb x s
  | .sad x => Sys2Proof.Machine.execSad x s
  | .and x => Sys2Proof.Machine.execAnd x s
  | .andImm x => Sys2Proof.Machine.execAndImm x s
  | .andLong x => Sys2Proof.Machine.execAndLong x s
  | .or x => Sys2Proof.Machine.execOr x s
  | .orImm x => Sys2Proof.Machine.execOrImm x s
  | .orLong x => Sys2Proof.Machine.execOrLong x s
  | .xor x => Sys2Proof.Machine.execXor x s
  | .xorImm x => Sys2Proof.Machine.execXorImm x s
  | .xorLong x => Sys2Proof.Machine.execXorLong x s
  | .not x => Sys2Proof.Machine.execNot x s
  | .andn x => Sys2Proof.Machine.execAndn x s
  | .andnImm x => Sys2Proof.Machine.execAndnImm x s
  | .shl x => Sys2Proof.Machine.execShl x s
  | .shlImm x => Sys2Proof.Machine.execShlImm x s
  | .shr x => Sys2Proof.Machine.execShr x s
  | .shrImm x => Sys2Proof.Machine.execShrImm x s
  | .sar x => Sys2Proof.Machine.execSar x s
  | .sarImm x => Sys2Proof.Machine.execSarImm x s
  | .rot x => Sys2Proof.Machine.execRot x s
  | .rotImm x => Sys2Proof.Machine.execRotImm x s
  | .bfx x => Sys2Proof.Machine.execBfx x s
  | .bfi x => Sys2Proof.Machine.execBfi x s
  | .popc x => Sys2Proof.Machine.execPopc x s
  | .clz x => Sys2Proof.Machine.execClz x s
  | .ctz x => Sys2Proof.Machine.execCtz x s
  | .brev x => Sys2Proof.Machine.execBrev x s
  | .perm x => Sys2Proof.Machine.execPerm x s
  | .lut3 x => Sys2Proof.Machine.execLut3 x s
  | .fadd x => Sys2Proof.Machine.execFadd x s
  | .fsub x => Sys2Proof.Machine.execFsub x s
  | .fmul x => Sys2Proof.Machine.execFmul x s
  | .ffma x => Sys2Proof.Machine.execFfma x s
  | .fmin x => Sys2Proof.Machine.execFmin x s
  | .fmax x => Sys2Proof.Machine.execFmax x s
  | .fdiv x => Sys2Proof.Machine.execFdiv x s
  | .fsqrt x => Sys2Proof.Machine.execFsqrt x s
  | .frcp x => Sys2Proof.Machine.execFrcp x s
  | .frsq x => Sys2Proof.Machine.execFrsq x s
  | .fexp2 x => Sys2Proof.Machine.execFexp2 x s
  | .flog2 x => Sys2Proof.Machine.execFlog2 x s
  | .fsin x => Sys2Proof.Machine.execFsin x s
  | .fcos x => Sys2Proof.Machine.execFcos x s
  | .fclass x => Sys2Proof.Machine.execFclass x s
  | .fscale x => Sys2Proof.Machine.execFscale x s
  | .cvt x => Sys2Proof.Machine.execCvt x s
  | .pack x => Sys2Proof.Machine.execPack x s
  | .unpack x => Sys2Proof.Machine.execUnpack x s
  | .frnd x => Sys2Proof.Machine.execFrnd x s
  | .mov x => Sys2Proof.Machine.execMov x s
  | .sel x => Sys2Proof.Machine.execSel x s
  | .movi x => Sys2Proof.Machine.execMovi x s
  | .moviLong x => Sys2Proof.Machine.execMoviLong x s
  | .cmp x => Sys2Proof.Machine.execCmp x s
  | .cmpImm x => Sys2Proof.Machine.execCmpImm x s
  | .cmpLong x => Sys2Proof.Machine.execCmpLong x s
  | .fcmp x => Sys2Proof.Machine.execFcmp x s
  | .plop x => Sys2Proof.Machine.execPlop x s
  | .pmov x => Sys2Proof.Machine.execPmov x s
  | .bra x => Sys2Proof.Machine.execBra x s
  | .bru x => Sys2Proof.Machine.execBru x s
  | .brx x => Sys2Proof.Machine.execBrx x s
  | .call x => Sys2Proof.Machine.execCall x s
  | .callx x => Sys2Proof.Machine.execCallx x s
  | .ret x => Sys2Proof.Machine.execRet x s
  | .exit x => Sys2Proof.Machine.execExit x s
  | .yield x => Sys2Proof.Machine.execYield x s
  | .nop x => Sys2Proof.Machine.execNop x s
  | .ovld x => Sys2Proof.Machine.execOvld x s
  | .lds x => Sys2Proof.Machine.execLds x s
  | .sts x => Sys2Proof.Machine.execSts x s
  | .atomsAdd x => Sys2Proof.Machine.execAtomsAdd x s
  | .atomsMin x => Sys2Proof.Machine.execAtomsMin x s
  | .atomsMax x => Sys2Proof.Machine.execAtomsMax x s
  | .atomsAnd x => Sys2Proof.Machine.execAtomsAnd x s
  | .atomsOr x => Sys2Proof.Machine.execAtomsOr x s
  | .atomsXor x => Sys2Proof.Machine.execAtomsXor x s
  | .atomsSwap x => Sys2Proof.Machine.execAtomsSwap x s
  | .atomsCas x => Sys2Proof.Machine.execAtomsCas x s
  | .binit x => Sys2Proof.Machine.execBinit x s
  | .arrive x => Sys2Proof.Machine.execArrive x s
  | .expect x => Sys2Proof.Machine.execExpect x s
  | .waitph x => Sys2Proof.Machine.execWaitph x s
  | .testph x => Sys2Proof.Machine.execTestph x s
  | .waitcnt x => Sys2Proof.Machine.execWaitcnt x s
  | .fence x => Sys2Proof.Machine.execFence x s
  | .cnew x => Sys2Proof.Machine.execCnew x s
  | .cfree x => Sys2Proof.Machine.execCfree x s
  | .join x => Sys2Proof.Machine.execJoin x s
  | .leave x => Sys2Proof.Machine.execLeave x s
  | .elect x => Sys2Proof.Machine.execElect x s
  | .cbar x => Sys2Proof.Machine.execCbar x s
  | .cshfl x => Sys2Proof.Machine.execCshfl x s
  | .creduce x => Sys2Proof.Machine.execCreduce x s
  | .cscan x => Sys2Proof.Machine.execCscan x s
  | .cvote x => Sys2Proof.Machine.execCvote x s
  | .cpin x => Sys2Proof.Machine.execCpin x s
  | .cpout x => Sys2Proof.Machine.execCpout x s
  | .cpxg x => Sys2Proof.Machine.execCpxg x s
  | .cpxs x => Sys2Proof.Machine.execCpxs x s
  | .cpmc x => Sys2Proof.Machine.execCpmc x s
  | .cptx x => Sys2Proof.Machine.execCptx x s
  | .tlread x => Sys2Proof.Machine.execTlread x s
  | .tlwatch x => Sys2Proof.Machine.execTlwatch x s
  | .engq x => Sys2Proof.Machine.execEngq x s
  | .engres x => Sys2Proof.Machine.execEngres x s
  | .kld x => Sys2Proof.Machine.execKld x s
  | .kst x => Sys2Proof.Machine.execKst x s
  | .kderive x => Sys2Proof.Machine.execKderive x s
  | .krights x => Sys2Proof.Machine.execKrights x s
  | .kinfo x => Sys2Proof.Machine.execKinfo x s
  | .kchk x => Sys2Proof.Machine.execKchk x s
  | .obres x => Sys2Proof.Machine.execObres x s
  | .obfree x => Sys2Proof.Machine.execObfree x s
  | .obinfo x => Sys2Proof.Machine.execObinfo x s
  | .mshape x => Sys2Proof.Machine.execMshape x s
  | .mma x => Sys2Proof.Machine.execMma x s
  | .mmas x => Sys2Proof.Machine.execMmas x s
  | .mcommit x => Sys2Proof.Machine.execMcommit x s
  | .mdrop x => Sys2Proof.Machine.execMdrop x s
  | .azero x => Sys2Proof.Machine.execAzero x s
  | .amov x => Sys2Proof.Machine.execAmov x s
  | .aser x => Sys2Proof.Machine.execAser x s
  | .achk x => Sys2Proof.Machine.execAchk x s
  | .term x => Sys2Proof.Machine.execTerm x s
  | .adrain x => Sys2Proof.Machine.execAdrain x s
  | .ainfo x => Sys2Proof.Machine.execAinfo x s
  | .aflag x => Sys2Proof.Machine.execAflag x s
  | .snew x => Sys2Proof.Machine.execSnew x s
  | .sfree x => Sys2Proof.Machine.execSfree x s
  | .sins x => Sys2Proof.Machine.execSins x s
  | .sdel x => Sys2Proof.Machine.execSdel x s
  | .shas x => Sys2Proof.Machine.execShas x s
  | .scard x => Sys2Proof.Machine.execScard x s
  | .suni x => Sys2Proof.Machine.execSuni x s
  | .sint x => Sys2Proof.Machine.execSint x s
  | .sdif x => Sys2Proof.Machine.execSdif x s
  | .scpy x => Sys2Proof.Machine.execScpy x s
  | .sldl x => Sys2Proof.Machine.execSldl x s
  | .sstl x => Sys2Proof.Machine.execSstl x s
  | .snext x => Sys2Proof.Machine.execSnext x s
  | .srep x => Sys2Proof.Machine.execSrep x s
  | .shint x => Sys2Proof.Machine.execShint x s
  | .scost x => Sys2Proof.Machine.execScost x s
  | .crupd x => Sys2Proof.Machine.execCrupd x s
  | .crrd x => Sys2Proof.Machine.execCrrd x s
  | .crsnap x => Sys2Proof.Machine.execCrsnap x s
  | .crlap x => Sys2Proof.Machine.execCrlap x s
  | .crinfo x => Sys2Proof.Machine.execCrinfo x s
  | .trap x => Sys2Proof.Machine.execTrap x s
  | .eret x => Sys2Proof.Machine.execEret x s
  | .mfsr x => Sys2Proof.Machine.execMfsr x s
  | .mtsr x => Sys2Proof.Machine.execMtsr x s
  | .bkpt x => Sys2Proof.Machine.execBkpt x s
  | .clkrd x => Sys2Proof.Machine.execClkrd x s
  | .perfrd x => Sys2Proof.Machine.execPerfrd x s
  | .activeSetSwap core => Sys2Proof.Machine.execActiveSetSwap core s
  | .scratchpadPass core => Sys2Proof.Machine.execScratchpadPass core s
  | .loadDeliver t => Sys2Proof.Machine.execLoadDeliver t s
  | .storePerform t => Sys2Proof.Machine.execStorePerform t s
  | .engineLanding p k => Sys2Proof.Machine.execEngineLanding p k s
  | .engineByteCount p k => Sys2Proof.Machine.execEngineByteCount p k s
  | .engineResultWrite t k => Sys2Proof.Machine.execEngineResultWrite t k s
  | .yieldWake core l => Sys2Proof.Machine.execYieldWake core l s
  | .overlayResident core uid => Sys2Proof.Machine.execOverlayResident core uid s
  | .copyUnit core uid => Sys2Proof.Machine.execCopyUnit core uid s
  | .copyComplete core uid => Sys2Proof.Machine.execCopyComplete core uid s
  | .indexElement core => Sys2Proof.Machine.execIndexElement core s
  | .watchFire core k => Sys2Proof.Machine.execWatchFire core k s
  | .routeWalk die o unit => Sys2Proof.Machine.execRouteWalk die o unit s
  | .invalidateAck o agent => Sys2Proof.Machine.execInvalidateAck o agent s
  | .migrationPromote o unit newLoc => Sys2Proof.Machine.execMigrationPromote o unit newLoc s
  | .matrixRequestStart core => Sys2Proof.Machine.execMatrixRequestStart core s
  | .matrixGroupStep core => Sys2Proof.Machine.execMatrixGroupStep core s
  | .matrixRequestComplete core => Sys2Proof.Machine.execMatrixRequestComplete core s
  | .subnormalAssist core => Sys2Proof.Machine.execSubnormalAssist core s
  | .assistTimeout core => Sys2Proof.Machine.execAssistTimeout core s
  | .drainComplete core k => Sys2Proof.Machine.execDrainComplete core k s
  | .setRequestExecute core => Sys2Proof.Machine.execSetRequestExecute core s
  | .setBuildDone l index => Sys2Proof.Machine.execSetBuildDone l index s
  | .indexBlockSupply core l => Sys2Proof.Machine.execIndexBlockSupply core l s
  | .circleAdmit req => Sys2Proof.Machine.execCircleAdmit req s
  | .admissionDecision req => Sys2Proof.Machine.execAdmissionDecision req s
  | .spanAdmit req => Sys2Proof.Machine.execSpanAdmit req s
  | .spanPartAck req slice => Sys2Proof.Machine.execSpanPartAck req slice s
  | .circleRowPass o slice => Sys2Proof.Machine.execCircleRowPass o slice s
  | .lapEndReport o slice => Sys2Proof.Machine.execLapEndReport o slice s
  | .lapDeclare o => Sys2Proof.Machine.execLapDeclare o s
  | .lapStart o slice => Sys2Proof.Machine.execLapStart o slice s
  | .circleReplyLand k => Sys2Proof.Machine.execCircleReplyLand k s
  | .nodeDispatch ctx queue => Sys2Proof.Machine.execNodeDispatch ctx queue s
  | .nodeLaunch node => Sys2Proof.Machine.execNodeLaunch node s
  | .nodeTransform node => Sys2Proof.Machine.execNodeTransform node s
  | .nodeWeightFill node => Sys2Proof.Machine.execNodeWeightFill node s
  | .nodeWait node => Sys2Proof.Machine.execNodeWait node s
  | .nodeWaitSatisfied node => Sys2Proof.Machine.execNodeWaitSatisfied node s
  | .nodeSignal node => Sys2Proof.Machine.execNodeSignal node s
  | .nodeComplete node => Sys2Proof.Machine.execNodeComplete node s
  | .parcelPlace die => Sys2Proof.Machine.execParcelPlace die s
  | .scratchpadPrepare p => Sys2Proof.Machine.execScratchpadPrepare p s
  | .threadsStart p => Sys2Proof.Machine.execThreadsStart p s
  | .stealRequest die l => Sys2Proof.Machine.execStealRequest die l s
  | .stealReply die l => Sys2Proof.Machine.execStealReply die l s
  | .parcelFree p => Sys2Proof.Machine.execParcelFree p s
  | .launchEnd l => Sys2Proof.Machine.execLaunchEnd l s
  | .sliceExpiry ctx => Sys2Proof.Machine.execSliceExpiry ctx s
  | .deadlineMiss l => Sys2Proof.Machine.execDeadlineMiss l s
  | .preempt ctx => Sys2Proof.Machine.execPreempt ctx s
  | .haltComplete ctx => Sys2Proof.Machine.execHaltComplete ctx s
  | .saveComplete ctx written => Sys2Proof.Machine.execSaveComplete ctx written s
  | .parcelRestore die p => Sys2Proof.Machine.execParcelRestore die p s
  | .pcSample ctx => Sys2Proof.Machine.execPcSample ctx s
  | .layerMapOut stack layer => Sys2Proof.Machine.execLayerMapOut stack layer s
  | .heartbeat die master => Sys2Proof.Machine.execHeartbeat die master s
  | .masterTakeover die => Sys2Proof.Machine.execMasterTakeover die s
  | .fallbackRefresh die => Sys2Proof.Machine.execFallbackRefresh die s
  | .coldStart fails => Sys2Proof.Machine.execColdStart fails s
  | .warmStart fails => Sys2Proof.Machine.execWarmStart fails s
  | .unassignedOpcode w => Sys2Proof.Machine.execUnassignedOpcode w s
  | .arithmeticResultWrite t => Sys2Proof.Machine.execArithmeticResultWrite t s
  | .stationMasterRefresh die => Sys2Proof.Machine.execStationMasterRefresh die s
  | .contextEnable => Sys2Proof.Machine.execContextEnable s
  | .contextReset => Sys2Proof.Machine.execContextReset s
  | .queueEnable => Sys2Proof.Machine.execQueueEnable s
  | .doorbell => Sys2Proof.Machine.execDoorbell s
  | .queueStateClear => Sys2Proof.Machine.execQueueStateClear s
  | .objectTableWrite => Sys2Proof.Machine.execObjectTableWrite s
  | .objectInvalidate => Sys2Proof.Machine.execObjectInvalidate s
  | .objectDelete => Sys2Proof.Machine.execObjectDelete s
  | .leaseFaultBack => Sys2Proof.Machine.execLeaseFaultBack s
  | .leaseFaultRefuse => Sys2Proof.Machine.execLeaseFaultRefuse s
  | .migrationDemote => Sys2Proof.Machine.execMigrationDemote s
  | .hostLinkWrite => Sys2Proof.Machine.execHostLinkWrite s
  | .peerPortWrite => Sys2Proof.Machine.execPeerPortWrite s
  | .peerPortRead => Sys2Proof.Machine.execPeerPortRead s
  | .linkDown => Sys2Proof.Machine.execLinkDown s
  | .linkUp => Sys2Proof.Machine.execLinkUp s
  | .linkLaneError => Sys2Proof.Machine.execLinkLaneError s
  | .debugControlBlock => Sys2Proof.Machine.execDebugControlBlock s
  | .dump => Sys2Proof.Machine.execDump s
  | .registerWrite => Sys2Proof.Machine.execRegisterWrite s
  | .selfTest => Sys2Proof.Machine.execSelfTest s
  | .scrubRead => Sys2Proof.Machine.execScrubRead s
  | .attestationSign => Sys2Proof.Machine.execAttestationSign s
  | .counterLatch => Sys2Proof.Machine.execCounterLatch s
  | .budgetWindow => Sys2Proof.Machine.execBudgetWindow s
  | .wsRefreshWindow => Sys2Proof.Machine.execWsRefreshWindow s

end Sys2Proof.Machine
end

