-- ==== Sys2Proof/Machine/Step.lean ====
section
/-!
DEFINITION. One step of the device: the next move, and the state with one instruction placed for the next step.
-/

namespace Sys2Proof.Machine

/-- A step of the device that is not enabled does not happen. -/
def settleEvent (s : State) (r : Host.Outcome State Fault Refusal) : Host.Outcome State Fault Refusal :=
  match r with
  | .refused (.notEnabled _) => .next s
  | r => r

/-- One move. -/
def runMove (s : State) (m : Move) : Host.Outcome State Fault Refusal :=
  match m with
  | .issue core arith =>
    match s.select core arith with
    | none => .next s
    | some x => match x.what with
      | .error r => .next (s.trapGroup x.group r)
      | .ok i => exec i (s.begin x.group i arith)
  | .event i => if i.isStep then settleEvent s (exec i s) else .next s
  | m => .next (s.outside m)

/-- One step (R441: what comes next is data or a free value). -/
def step (s : State) : Host.Outcome State Fault Refusal := runMove s.nextMove.2 s.nextMove.1

/-- The state with an instruction stored where the next step fetches it. -/
def State.withFetchWord (s : State) (nbits w : Nat) : State := s.placeWord (w % 2 ^ nbits)

end Sys2Proof.Machine
end

