-- ==== Sys2Proof/Safety.lean ====
section
/-!
DEFINITION. What the statements call a safe state: every sparse memory and table is in its canonical form.
-/

namespace Sys2Proof.Machine

/-- A memory's canonical form: addresses strictly rise and no listed byte equals what an unlisted address reads as. -/
abbrev Memory.wf (m : Mem) : Bool := Mem.wf m

end Sys2Proof.Machine
end

