-- ==== Sys2Proof/WellFormed.lean ====
section
/-!
DEFINITION. Which instructions a word of the part can hold: the checks 1, 3, 4, 5 and 7 of R78 and the width rule of R62,
as the signatures of `Sys2Proof/Decode.lean` state them. A step of the device has no word (95_what_each_step_holds).
-/

namespace Sys2Proof

/-- The L forms obey R62 and R76; an unassigned word has an opcode of no row (R75). -/
def Instr.formOk : Instr → Bool
  | .addLong x | .subLong x | .andLong x | .orLong x | .xorLong x | .moviLong x | .cmpLong x => longOk x.ty x.imm64
  | .unassignedOpcode w => (shapeOf (w.extractLsb' 54 10).toNat).isNone
  | _ => true

/-- Well-formed instructions (R78). -/
def Instr.wellFormed (i : Instr) : Bool := i.sig.early.isNone && i.sig.check7 && i.formOk

end Sys2Proof
end

