-- ==== Sys2Proof/Certificates/Slice0/Obligations.lean ====
section
/-!
DEFINITION. The statements for the provers, and the words they are written in. A statement about an instruction is about
every state in which a group is about to execute it (`Goes`, `Alone`); a free value of the spec stands in it as the constant
of `Sys2Proof.Config` that nothing constrains.
-/

namespace Sys2Proof.Claims
open Machine

/-! ### Words of the statements about issue -/

/-- A group is about to execute an instruction in every one of its threads: its registers lie within the thread's budget (R78
check 8), its guard holds (R38), and no operand or destination of it is due or pending (R113, R151). -/
structure Goes (s : State) (g : Group) (i : Instr) : Prop where
  group : s.group = some g
  nodup : g.tixs.Nodup
  go : ∀ x ∈ g.tixs, ∃ t l, s.thread? g.key x = some t ∧ s.launch? g.key.launchKey = some l ∧ t.status = .ready
    ∧ t.readiness l i.sig = .go

/-- The count of retired instructions of a thread with one more, which saturates (R413). -/
def retiredNext (t : Thread) : Nat := min (2 ^ 64 - 1) (t.retired + 1)

/-- `exec` answers a next state in which every thread of the group stands at the next instruction, ready, and is related by
`post` to the thread it was, for every group whose threads meet `pre`. -/
def ComputesIf (i : Instr) (pre : Thread → Prop) (post : Thread → Thread → Prop) : Prop :=
  ∀ s g, Goes s g i → (∀ x ∈ g.tixs, ∀ t, s.thread? g.key x = some t → pre t) →
    ∃ u, exec i s = .next u ∧ ∀ x ∈ g.tixs, ∀ t, s.thread? g.key x = some t →
      ∃ t', u.thread? g.key x = some t' ∧ t'.pc = t.pc + BitVec.ofNat 32 g.size ∧ t'.retired = retiredNext t
        ∧ t'.status = .ready ∧ post t t'

/-- As `ComputesIf`, whatever the threads hold. -/
def Computes (i : Instr) (post : Thread → Thread → Prop) : Prop := ComputesIf i (fun _ => True) post

/-! ### Integer results (R39, R82, R83) -/

/-- The least value of an integer type. -/
def lowest (ty : TypeCode) : Int := if ty.signed then -(2 ^ (ty.bits - 1) : Nat) else 0
/-- The greatest value of an integer type. -/
def highest (ty : TypeCode) : Int := if ty.signed then (2 ^ (ty.bits - 1) : Nat) - 1 else (2 ^ ty.bits : Nat) - 1

/-- The destination of an integer instruction reads as the exact result `e`, saturated where V = 001 and wrapped to the
width otherwise; the bits of the register above a narrow type copy the sign, or are 0 (R83). -/
def Holds (t : Thread) (d : BitVec 9) (ty : TypeCode) (v : BitVec 3) (e : Int) : Prop :=
  let r := t.int d false ty
  let w := t.reg d.toNat
  (ty.bits < 32 → (if ty.signed then w.toInt else (w.toNat : Int)) = r) ∧
  if v = 1 then r = max (lowest ty) (min (highest ty) e)
  else lowest ty ≤ r ∧ r ≤ highest ty ∧ ((2 ^ ty.bits : Nat) : Int) ∣ r - e

/-- Format R with an integer type: `e` is the exact result. -/
def IntegerR (c : RWord → Instr) (e : RWord → Thread → Int) : Prop :=
  ∀ x : RWord, x.ty.isInt → Computes (c x) (fun t t' => Holds t' x.d x.ty x.v (e x t))

/-- Format I with an integer type: the second operand is the value of the immediate cut to the type. -/
def IntegerI (c : IWord → Instr) (e : Int → Int → Int) : Prop :=
  ∀ x : IWord, x.ty.isInt → Computes (c x) (fun t t' =>
    Holds t' x.d x.ty x.v (e (t.int x.a false x.ty) (x.ty.intValue ((x.imm21.signExtend 64).toNat % 2 ^ x.ty.bits))))

/-- The L form with an integer type of 32 or 64 bits. -/
def IntegerL (c : LWord → Instr) (e : Int → Int → Int) : Prop :=
  ∀ x : LWord, x.ty.isInt → Computes (c x) (fun t t' =>
    Holds t' x.d x.ty x.v (e (t.int x.a false x.ty) (x.ty.intValue (x.imm64.toNat % 2 ^ x.ty.bits))))

end Sys2Proof.Claims

open Sys2Proof Sys2Proof.Machine Sys2Proof.Claims

/-- R156: the results of ADD, SUB, MUL, MULHI, MAD, NEG, ABS, MIN, MAX, CLAMP and SAD, with their immediate and L forms. -/
def Sys2Proof.Claims.IntegerResultsAreExactThenSaturatedOrWrapped : Prop :=
  IntegerR .add (fun x t => t.int x.a x.za x.ty + t.int x.b x.zb x.ty) ∧
  IntegerR .sub (fun x t => t.int x.a x.za x.ty - t.int x.b x.zb x.ty) ∧
  IntegerR .mul (fun x t => t.int x.a x.za x.ty * t.int x.b x.zb x.ty) ∧
  IntegerR .mulhi (fun x t => t.int x.a x.za x.ty * t.int x.b x.zb x.ty / (2 ^ x.ty.bits : Nat)) ∧
  IntegerR .mad (fun x t => t.int x.a x.za x.ty * t.int x.b x.zb x.ty + t.int x.c x.zc x.ty) ∧
  IntegerR .neg (fun x t => -t.int x.a x.za x.ty) ∧
  IntegerR .abs (fun x t => |t.int x.a x.za x.ty|) ∧
  IntegerR .min (fun x t => min (t.int x.a x.za x.ty) (t.int x.b x.zb x.ty)) ∧
  IntegerR .max (fun x t => max (t.int x.a x.za x.ty) (t.int x.b x.zb x.ty)) ∧
  IntegerR .clamp (fun x t => min (max (t.int x.a x.za x.ty) (t.int x.b x.zb x.ty)) (t.int x.c x.zc x.ty)) ∧
  IntegerR .sad (fun x t => |t.int x.a x.za x.ty - t.int x.b x.zb x.ty| + t.int x.c x.zc x.ty) ∧
  IntegerI .addImm (· + ·) ∧ IntegerI .subImm (· - ·) ∧ IntegerI .mulImm (· * ·) ∧
  IntegerI .minImm min ∧ IntegerI .maxImm max ∧ IntegerL .addLong (· + ·) ∧ IntegerL .subLong (· - ·)

/-- R157: the quotient truncated toward zero and the remainder with the sign of the dividend, wrapped. -/
def Sys2Proof.Claims.DivisionTruncatesTowardZero : Prop :=
  ∀ x : RWord, x.ty.isInt →
    ComputesIf (.div x) (fun t => t.int x.b x.zb x.ty ≠ 0) (fun t t' =>
      ∃ q r : Int, t.int x.a x.za x.ty = t.int x.b x.zb x.ty * q + r ∧ |r| < |t.int x.b x.zb x.ty| ∧
        0 ≤ r * t.int x.a x.za x.ty ∧ Holds t' x.d x.ty 0 q) ∧
    ComputesIf (.rem x) (fun t => t.int x.b x.zb x.ty ≠ 0) (fun t t' =>
      ∃ q r : Int, t.int x.a x.za x.ty = t.int x.b x.zb x.ty * q + r ∧ |r| < |t.int x.b x.zb x.ty| ∧
        0 ≤ r * t.int x.a x.za x.ty ∧ Holds t' x.d x.ty 0 r)

/-- R158: the sum with carry in, the difference with borrow in, and the carry, borrow or signed overflow out. -/
def Sys2Proof.Claims.CarryAndBorrowChains : Prop :=
  ∀ x : RWord, x.ty.isLog →
    let p := (x.c.extractLsb' 0 4).toNat
    let cin (t : Thread) : Int := if t.pred p then 1 else 0
    let out (e : Int) : Bool := decide (e < lowest x.ty ∨ highest x.ty < e)
    Computes (.addc x) (fun t t' =>
      let e := t.int x.a x.za x.ty + t.int x.b x.zb x.ty + cin t
      Holds t' x.d x.ty 0 e ∧ t'.pred p = out e) ∧
    Computes (.subb x) (fun t t' =>
      let e := t.int x.a x.za x.ty - t.int x.b x.zb x.ty - cin t
      Holds t' x.d x.ty 0 e ∧ t'.pred p = out e)

namespace Sys2Proof.Claims
open Machine

/-! ### Logic and bit results: the pattern of the destination, bit by bit (R160 to R164) -/

/-- Format R at a logic type: `p` gives bit `j` of the result. -/
def BitsR (c : RWord → Instr) (p : RWord → Thread → Nat → Bool) : Prop :=
  ∀ x : RWord, Computes (c x) (fun t t' => ∀ j < x.ty.bits, (t'.bits x.d false x.ty).testBit j = p x t j)

/-- The immediate of format I as a number of 64 bits (R61). -/
def immOf (x : IWord) : Nat := (x.imm21.signExtend 64).toNat

/-- Format I at a logic type: `p` gives bit `j` of the result from those of the two operands. -/
def BitsI (c : IWord → Instr) (p : Bool → Bool → Bool) : Prop :=
  ∀ x : IWord, Computes (c x) (fun t t' => ∀ j < x.ty.bits,
    (t'.bits x.d false x.ty).testBit j = p ((t.bits x.a false x.ty).testBit j) ((immOf x).testBit j))

/-- The L form. -/
def BitsL (c : LWord → Instr) (p : Bool → Bool → Bool) : Prop :=
  ∀ x : LWord, Computes (c x) (fun t t' => ∀ j < x.ty.bits,
    (t'.bits x.d false x.ty).testBit j = p ((t.bits x.a false x.ty).testBit j) (x.imm64.getLsbD j))

/-- Bit `j` of the pattern in field a. -/
def bitA (x : RWord) (t : Thread) (j : Nat) : Bool := (t.bits x.a x.za x.ty).testBit j
/-- Bit `j` of the pattern in field b. -/
def bitB (x : RWord) (t : Thread) (j : Nat) : Bool := (t.bits x.b x.zb x.ty).testBit j

/-- Bit `j` of a pattern of `w` bits moved left by `k`, right by `k`, right with copies of the sign, and rotated left. -/
def shiftedLeft (w k : Nat) (u : Nat → Bool) (j : Nat) : Bool := decide (k ≤ j ∧ k < w) && u (j - k)
def shiftedRight (w k : Nat) (u : Nat → Bool) (j : Nat) : Bool := decide (j + k < w) && u (j + k)
def shiftedSigned (w k : Nat) (u : Nat → Bool) (j : Nat) : Bool := u (min (j + k) (w - 1))
def rotatedLeft (w k : Nat) (u : Nat → Bool) (j : Nat) : Bool := u ((j + (w - k % w)) % w)

/-- A shift by a register or by an immediate count, at a type of 32 or 64 bits (R159: counts are of 32 bits). -/
def Shifts (r : RWord → Instr) (i : IWord → Instr) (p : Nat → Nat → (Nat → Bool) → Nat → Bool) : Prop :=
  (∀ x : RWord, x.ty.isLog → Computes (r x) (fun t t' => ∀ j < x.ty.bits,
    (t'.bits x.d false x.ty).testBit j = p x.ty.bits (t.u x.b x.zb) (bitA x t) j)) ∧
  (∀ x : IWord, x.ty.isLog → Computes (i x) (fun t t' => ∀ j < x.ty.bits,
    (t'.bits x.d false x.ty).testBit j = p x.ty.bits (immOf x % 2 ^ 32) ((t.bits x.a false x.ty).testBit) j))

/-- The low bit and the length of the field that a control word names within `w` bits (R161). -/
def fieldOf (w ctl : Nat) : Nat × Nat :=
  let pos := ctl % 256
  let len := ctl / 256 % 256
  (pos, if w ≤ pos then 0 else min len (w - pos))

end Sys2Proof.Claims

/-- R160: AND, OR, XOR, NOT and ANDN, bit by bit, with their immediate and L forms. -/
def Sys2Proof.Claims.LogicWorksBitByBit : Prop :=
  BitsR .and (fun x t j => bitA x t j && bitB x t j) ∧
  BitsR .or (fun x t j => bitA x t j || bitB x t j) ∧
  BitsR .xor (fun x t j => bitA x t j ^^ bitB x t j) ∧
  BitsR .andn (fun x t j => bitA x t j && !bitB x t j) ∧
  BitsR .not (fun x t j => !bitA x t j) ∧
  BitsI .andImm (· && ·) ∧ BitsI .orImm (· || ·) ∧ BitsI .xorImm (· ^^ ·) ∧ BitsI .andnImm (fun a b => a && !b) ∧
  BitsL .andLong (· && ·) ∧ BitsL .orLong (· || ·) ∧ BitsL .xorLong (· ^^ ·)

/-- R160: SHL, SHR, SAR and ROT by every count, the width and more among them. -/
def Sys2Proof.Claims.ShiftsMoveEveryBit : Prop :=
  Shifts .shl .shlImm shiftedLeft ∧ Shifts .shr .shrImm shiftedRight ∧ Shifts .sar .sarImm shiftedSigned ∧
  Shifts .rot .rotImm rotatedLeft

/-- R161 to R164: fields, counts, the mirrored pattern, the bytes of PERM and the table of LUT3. -/
def Sys2Proof.Claims.BitFieldsCountsAndTables : Prop :=
  (∀ x : RWord, x.ty.isLog → Computes (.bfx x) (fun t t' => ∀ j < x.ty.bits,
    let f := fieldOf x.ty.bits (t.u x.b x.zb)
    (t'.bits x.d false x.ty).testBit j =
      (if j < f.2 then bitA x t (f.1 + j) else x.ty.signed && decide (0 < f.2) && bitA x t (f.1 + f.2 - 1)))) ∧
  (∀ x : RWord, x.ty.isLog → Computes (.bfi x) (fun t t' => ∀ j < x.ty.bits,
    let f := fieldOf x.ty.bits (t.u x.c x.zc)
    (t'.bits x.d false x.ty).testBit j = (if f.1 ≤ j ∧ j < f.1 + f.2 then bitA x t (j - f.1) else bitB x t j))) ∧
  (∀ x : RWord, Computes (.popc x) (fun t t' => (t'.reg x.d.toNat).toNat = (List.range x.ty.bits).countP (bitA x t))) ∧
  (∀ x : RWord, Computes (.clz x) (fun t t' =>
    let n := (t'.reg x.d.toNat).toNat
    n ≤ x.ty.bits ∧ (∀ j < x.ty.bits, x.ty.bits - n ≤ j → bitA x t j = false) ∧
      (n < x.ty.bits → bitA x t (x.ty.bits - 1 - n) = true))) ∧
  (∀ x : RWord, Computes (.ctz x) (fun t t' =>
    let n := (t'.reg x.d.toNat).toNat
    n ≤ x.ty.bits ∧ (∀ j < n, bitA x t j = false) ∧ (n < x.ty.bits → bitA x t n = true))) ∧
  (∀ x : RWord, Computes (.brev x) (fun t t' => ∀ j < x.ty.bits,
    (t'.bits x.d false x.ty).testBit j = bitA x t (x.ty.bits - 1 - j))) ∧
  (∀ x : RWord, Computes (.perm x) (fun t t' => ∀ b < 4,
    let s := t.u x.c x.zc / 16 ^ b % 16
    let v := (t.u x.a x.za + 2 ^ 32 * t.u x.b x.zb) / 256 ^ (s % 8) % 256
    (t'.reg x.d.toNat).toNat / 256 ^ b % 256 = (if s < 8 then v else if v < 128 then 0 else 255))) ∧
  (∀ x : RWord, Computes (.lut3 x) (fun t t' => ∀ j < x.ty.bits,
    (t'.bits x.d false x.ty).testBit j = x.c.getLsbD
      (4 * (bitA x t j).toNat + 2 * (bitB x t j).toNat + ((t.bits x.d false x.ty).testBit j).toNat)))

namespace Sys2Proof.Claims
open Machine

/-! ### Floating-point results (R85, R92, R166 to R169) -/

/-- Format R at a floating-point type: the pattern of the destination is the exact value `e` rounded once. -/
def FloatR (c : RWord → Instr) (e : RWord → Thread → Val) : Prop :=
  ∀ x : RWord, x.ty.isFp → Computes (c x) (fun t t' => t'.bits x.d false x.ty = x.ty.fmt.round x.mode (e x t))

/-- Format R at a floating-point type: the pattern of the destination is `p`, of the type's format, the mode and the value of
field a. -/
def FunctionR (c : RWord → Instr) (p : Fmt → RMode → Val → Nat) : Prop :=
  ∀ x : RWord, x.ty.isFp → Computes (c x) (fun t t' => t'.bits x.d false x.ty = p x.ty.fmt x.mode (t.numA x))

/-- `r` is the smaller (`larger` false) or the larger of two patterns that are no NaN, −0 being below +0. -/
def Chosen (f : Fmt) (larger : Bool) (a b r : Nat) : Prop :=
  (r = a ∨ r = b) ∧
  (if larger then (f.value a).le (f.value r) ∧ (f.value b).le (f.value r)
    else (f.value r).le (f.value a) ∧ (f.value r).le (f.value b)) ∧
  ((f.value a).isZero → (f.value b).isZero →
    (f.value r).isNeg = if larger then (f.value a).isNeg && (f.value b).isNeg else (f.value a).isNeg || (f.value b).isNeg)

/-- FMIN or FMAX. -/
def PicksR (c : RWord → Instr) (larger : Bool) : Prop :=
  ∀ x : RWord, x.ty.isFp → Computes (c x) (fun t t' =>
    let f := x.ty.fmt
    let a := t.bits x.a x.za x.ty
    let b := t.bits x.b x.zb x.ty
    let r := t'.bits x.d false x.ty
    if f.value a = .nan then r = (if f.value b = .nan then f.nan else b)
    else if f.value b = .nan then r = a
    else Chosen f larger a b r)

/-- The formats a rounding reaches (R84). -/
def formats : List Fmt := [.f64, .f32, .f16, .bf16, .e5m2, .e4m3, .e2m1, .xf32]

/-- The formats of the FP class. -/
def registerFormats : List Fmt := [.f64, .f32, .f16, .bf16]


end Sys2Proof.Claims

/-- R166: FADD, FSUB, FMUL, FFMA, FDIV, FSQRT, FRCP, FRSQ and FSCALE round the exact result once; FEXP2, FLOG2, FSIN and FCOS
write the pattern of the model's correctly rounded function. -/
def Sys2Proof.Claims.FloatingPointRoundsOnce : Prop :=
  FloatR .fadd (fun x t => Val.add x.down (t.numA x) (t.numB x)) ∧
  FloatR .fsub (fun x t => Val.add x.down (t.numA x) (t.numB x).neg) ∧
  FloatR .fmul (fun x t => (t.numA x).mul (t.numB x)) ∧
  FloatR .ffma (fun x t => Val.add x.down ((t.numA x).mul (t.numB x)) (t.numC x)) ∧
  FloatR .fdiv (fun x t => (t.numA x).div (t.numB x)) ∧
  FloatR .fsqrt (fun x t => (t.numA x).sqrt) ∧
  FloatR .frcp (fun x t => Val.one.div (t.numA x)) ∧
  FloatR .frsq (fun x t => (t.numA x).rsqrt) ∧
  FloatR .fscale (fun x t => (t.numA x).scale (signedOf (t.u x.b x.zb) 32)) ∧
  FunctionR .fexp2 roundExp2 ∧ FunctionR .flog2 roundLog2 ∧ FunctionR .fsin (roundSinCos 0) ∧ FunctionR .fcos (roundSinCos 1)

/-- R168, R169: FMIN and FMAX choose a pattern, with −0 below +0 and a NaN giving way; FCLASS writes one of nine classes, as
2^k. -/
def Sys2Proof.Claims.MinimumMaximumAndClass : Prop :=
  PicksR .fmin false ∧ PicksR .fmax true ∧
  (∀ x : RWord, x.ty.isFp → Computes (.fclass x) (fun t t' =>
    let f := x.ty.fmt
    let b := t.bits x.a x.za x.ty
    let tiny : Bool := bitsOf b (f.expBits + f.fracBits - 1) f.fracBits == 0
    (t'.reg x.d.toNat).toNat = 2 ^ (match f.value b with
      | .nan => 8
      | .inf neg => if neg then 0 else 7
      | .fin neg n _ =>
        if n = 0 then (if neg then 3 else 4)
        else match neg, tiny with
          | true, false => 1 | true, true => 2 | false, true => 5 | false, false => 6)))

/-- R92 for a finite magnitude within the format: rz takes the largest magnitude not above it; rp and rm the next one where it
lies between two and the direction asks for it; rne the nearer of the two, the even one of a tie. -/
def Sys2Proof.Claims.RoundingTakesANeighbour : Prop :=
  ∀ f ∈ formats, ∀ n d : Nat, 0 < n → 0 < d →
    let x : Val := .fin false n d
    let lo := f.round .rz x
    let half := (f.value lo).add false (f.value (lo + 1))
    let twice := x.add false x
    lo ≤ f.top ∧ (f.value lo).le x ∧
    (lo < f.top →
      x.lt (f.value (lo + 1)) ∧
      f.round .rm x = lo ∧
      f.round .rp x = (if (f.value lo).eq x then lo else lo + 1) ∧
      (twice.lt half → f.round .rne x = lo) ∧
      (half.lt twice → f.round .rne x = lo + 1) ∧
      (half.eq twice → f.round .rne x = if lo % 2 = 0 then lo else lo + 1))

/-- R92: a negative value rounds as its magnitude does, with rp and rm exchanged, and takes the sign. -/
def Sys2Proof.Claims.RoundingMirrorsTheSign : Prop :=
  ∀ f ∈ formats, ∀ n d : Nat, 0 < n → 0 < d →
    let x : Val := .fin false n d
    f.round .rz x.neg = f.sign true + f.round .rz x ∧ f.round .rne x.neg = f.sign true + f.round .rne x ∧
    f.round .rp x.neg = f.sign true + f.round .rm x ∧ f.round .rm x.neg = f.sign true + f.round .rp x ∧
    (∀ u, f.round (.sr u) x.neg = f.sign true + f.round (.sr u) x)

/-- R167: the special cases of the floating-point functions, on exact values and patterns, in each of the four modes. -/
def Sys2Proof.Claims.FloatingPointSpecialCases : Prop :=
  (∀ s down, Val.add down (.inf s) (.inf !s) = .nan) ∧
  (∀ s t d, Val.mul (.fin s 0 d) (.inf t) = .nan ∧ Val.mul (.inf t) (.fin s 0 d) = .nan) ∧
  (∀ s t d e, Val.div (.fin s 0 d) (.fin t 0 e) = .nan ∧ Val.div (.inf s) (.inf t) = .nan) ∧
  (∀ s t n d e, 0 < n → Val.div (.fin s n d) (.fin t 0 e) = .inf (s != t)) ∧
  (∀ s d, Val.sqrt (.fin s 0 d) = .fin s 0 1 ∧ Val.rsqrt (.fin s 0 d) = .inf s) ∧
  (∀ n d, 0 < n → Val.sqrt (.fin true n d) = .nan ∧ Val.rsqrt (.fin true n d) = .nan) ∧
  Val.sqrt (.inf false) = .inf false ∧ Val.sqrt (.inf true) = .nan ∧ Val.rsqrt (.inf false) = .fin false 0 1 ∧
  (∀ s down d, Val.add down (.fin s 0 d) (.fin s 0 d) = .fin s 0 1) ∧
  (∀ s down n d, 0 < n → 0 < d → Val.add down (.fin s n d) (.fin (!s) n d) = .fin down 0 1) ∧
  (∀ f ∈ registerFormats, ∀ mode ∈ [RMode.rne, .rz, .rp, .rm], ∀ d : Nat, 0 < d →
    (∀ g ∈ [roundExp2, roundLog2, roundSinCos 0, roundSinCos 1], g f mode .nan = f.nan) ∧
    roundExp2 f mode (.inf true) = 0 ∧ roundExp2 f mode (.inf false) = f.top + 1 ∧
    (∀ s, roundExp2 f mode (.fin s 0 d) = f.round mode .one) ∧
    (∀ s, roundLog2 f mode (.fin s 0 d) = f.sign true + (f.top + 1)) ∧ roundLog2 f mode (.inf false) = f.top + 1 ∧
    (∀ n, 0 < n → roundLog2 f mode (.fin true n d) = f.nan) ∧ roundLog2 f mode (.fin false d d) = 0 ∧
    (∀ s, roundSinCos 0 f mode (.inf s) = f.nan ∧ roundSinCos 1 f mode (.inf s) = f.nan) ∧
    (∀ s k, roundSinCos 0 f mode (.fin s (k * d) d) = f.sign s) ∧
    (∀ s, roundSinCos 1 f mode (.fin s 0 d) = f.round mode .one) ∧
    (∀ s k, roundSinCos 1 f mode (.fin s (2 * k + 1) 2) = 0))

namespace Sys2Proof.Claims
open Machine

/-! ### Conversions and moves (R93, R95, R171 to R175) -/

/-- The pattern `b` is the value `v` converted to a type: rounded to an integer and saturated, a NaN giving 0, or rounded to the
format. -/
def IsConversion (ty : TypeCode) (mode : RMode) (v : Val) (b : Nat) : Prop :=
  if ty.isInt then ty.intValue b = (match v with
    | .nan => 0
    | .inf neg => if neg then lowest ty else highest ty
    | .fin neg n d =>
      let k : Int := (mode.toNat neg n d : Nat)
      max (lowest ty) (min (highest ty) (if neg then -k else k)))
  else b = ty.fmt.round mode v

/-- The mode of one element: stochastic rounding takes the generator's next state (R94, R95). -/
def elementMode (v : BitVec 3) (seed : Word) : RMode := if v = 4 then .sr (srStep seed).toNat else RMode.ofCode v.toNat
/-- The generator after one element. -/
def nextSeed (v : BitVec 3) (seed : Word) : Word := if v = 4 then srStep seed else seed

/-! ### Conditions (R71, R177) -/

/-- The conditions of CMP by their code. -/
def Cond (v : Nat) (a b : Int) : Prop :=
  match v with
  | 0 => a = b
  | 1 => a ≠ b
  | 2 => a < b
  | 3 => a ≤ b
  | 4 => b < a
  | _ => b ≤ a

/-- The readings of FCMP by their code: `un` says that an operand is a NaN. -/
def reading (v : Nat) (un lt eq gt : Bool) : Bool :=
  match v with
  | 0 => eq
  | 1 => !eq
  | 2 => lt
  | 3 => lt || eq
  | 4 => gt
  | 5 => gt || eq
  | 6 => un
  | _ => !un

/-- The functions of PLOP by their code, as the four bits of a truth table: bit 2a + b is the result. -/
def plopTable (v : Nat) : Nat :=
  match v with
  | 0 => 0b1000 | 1 => 0b1110 | 2 => 0b0110 | 3 => 0b0100 | 4 => 0b1101 | 5 => 0b0111 | 6 => 0b0001 | _ => 0b1001

/-- The destination predicate of a word. -/
def predD (d : BitVec 9) (t : Thread) : Bool := t.pred (d.toNat % 16)

/-- The capability field of a word. -/
def capAt (f : BitVec 9) (t : Thread) : QWord := t.cap (f.toNat % 8)

end Sys2Proof.Claims

/-- R171 to R174: CVT, PACK, UNPACK and FRND. -/
def Sys2Proof.Claims.ConversionsRoundAndSaturate : Prop :=
  (∀ x : RWord, x.ty.code.toNat ≤ 13 → Computes (.cvt x) (fun t t' =>
    IsConversion x.ty (elementMode x.v t.srseed) (t.num x.a x.za x.srcType) (t'.bits x.d false x.ty) ∧
    t'.srseed = nextSeed x.v t.srseed)) ∧
  (∀ x : RWord, x.ty.isElement → Computes (.pack x) (fun t t' => ∃ v0 v1 : Nat,
    v0 < 2 ^ x.ty.bits ∧ v1 < 2 ^ x.ty.bits ∧
    IsConversion x.ty (elementMode x.v t.srseed) (t.num x.a x.za x.srcType) v0 ∧
    IsConversion x.ty (elementMode x.v (nextSeed x.v t.srseed)) (t.num x.b x.zb x.srcType) v1 ∧
    t'.srseed = nextSeed x.v (nextSeed x.v t.srseed) ∧
    (t'.reg x.d.toNat).toNat = (if x.ty.bits = 16 then 2 ^ 16 * v1 + v0
      else 2 ^ 16 * ((t.reg x.d.toNat).toNat % 2 ^ 16) + 2 ^ 8 * v1 + v0))) ∧
  (∀ x : RWord, x.srcType.isElement → (x.ty = .f32 ∨ x.ty = .i32 ∨ x.ty = .n32) → Computes (.unpack x) (fun t t' =>
    ∀ i < 2, IsConversion x.ty .rne
      (x.srcType.value (if x.srcType.bits = 16 then t.u x.a x.za / 2 ^ (16 * i) % 2 ^ 16
        else t.u x.a x.za / 2 ^ (8 * (2 * (t.u x.b x.zb % 2) + i)) % 2 ^ 8))
      (t'.reg (x.d.toNat + i)).toNat)) ∧
  FloatR .frnd (fun x t => match t.numA x with
    | .fin neg n d => .fin neg (x.mode.toNat neg n d) 1
    | v => v)

/-- R175: MOV, MOVI and SEL copy patterns unchanged. -/
def Sys2Proof.Claims.MovesCopyPatterns : Prop :=
  (∀ x : RWord, Computes (.mov x) (fun t t' => t'.bits x.d false x.ty = t.bits x.a x.za x.ty)) ∧
  (∀ x : IWord, Computes (.movi x) (fun _ t' => t'.bits x.d false x.ty = immOf x % 2 ^ x.ty.bits)) ∧
  (∀ x : LWord, Computes (.moviLong x) (fun _ t' => t'.bits x.d false x.ty = x.imm64.toNat % 2 ^ x.ty.bits)) ∧
  (∀ x : RWord, Computes (.sel x) (fun t t' => t'.bits x.d false x.ty =
    if t.pred (x.c.extractLsb' 0 4).toNat then t.bits x.a x.za x.ty else t.bits x.b x.zb x.ty))

/-- R177: CMP, FCMP, PLOP and PMOV. -/
def Sys2Proof.Claims.ComparesWritePredicates : Prop :=
  (∀ x : RWord, x.v.toNat ≤ 5 → Computes (.cmp x) (fun t t' =>
    (predD x.d t' = true ↔ Cond x.v.toNat (t.int x.a x.za x.ty) (t.int x.b x.zb x.ty)))) ∧
  (∀ x : IWord, x.v.toNat ≤ 5 → Computes (.cmpImm x) (fun t t' =>
    (predD x.d t' = true ↔ Cond x.v.toNat (t.int x.a false x.ty) (x.ty.intValue (immOf x % 2 ^ x.ty.bits))))) ∧
  (∀ x : LWord, x.v.toNat ≤ 5 → Computes (.cmpLong x) (fun t t' =>
    (predD x.d t' = true ↔ Cond x.v.toNat (t.int x.a false x.ty) (x.ty.intValue (x.imm64.toNat % 2 ^ x.ty.bits))))) ∧
  (∀ x : RWord, Computes (.fcmp x) (fun t t' =>
    let a := t.numA x
    let b := t.numB x
    predD x.d t' = reading x.v.toNat (decide (a = .nan ∨ b = .nan)) (a.lt b) (a.eq b) (b.lt a))) ∧
  (∀ x : RWord, Computes (.plop x) (fun t t' =>
    predD x.d t' = (plopTable x.v.toNat).testBit (2 * (predD x.a t).toNat + (predD x.b t).toNat))) ∧
  (∀ x : RWord, x.v = 0 → Computes (.pmov x) (fun t t' => (t'.reg x.d.toNat).toNat = (predD x.a t).toNat)) ∧
  (∀ x : RWord, x.v = 1 → Computes (.pmov x) (fun t t' => (predD x.d t' = true ↔ t.u x.a x.za ≠ 0)))

/-- R216: KDERIVE, KRIGHTS, KINFO and KCHK. -/
def Sys2Proof.Claims.CapabilitiesAreDerivedAndRead : Prop :=
  (∀ x : RWord, ComputesIf (.kderive x)
    (fun t => capObj (capAt x.a t) ≠ 0 ∧ (capRights (capAt x.a t)).testBit 4 = true ∧
      t.d64 x.b x.zb + t.d64 x.c x.zc ≤ capLen (capAt x.a t))
    (fun t t' =>
      let k := capAt x.a t
      let r := capAt x.d t'
      capObj r = capObj k ∧ capRights r = capRights k ∧ capBase r = (capBase k + t.d64 x.b x.zb) % 2 ^ 48 ∧
        capLen r = t.d64 x.c x.zc)) ∧
  (∀ x : RWord, Computes (.krights x) (fun t t' =>
    let k := capAt x.a t
    let r := capAt x.d t'
    capObj r = capObj k ∧ capBase r = capBase k ∧ capLen r = capLen k ∧
      ∀ j < 8, (capRights r).testBit j = ((capRights k).testBit j && (t.u x.b x.zb).testBit j))) ∧
  (∀ x : RWord, x.v.toNat ≤ 3 → Computes (.kinfo x) (fun t t' =>
    let k := capAt x.a t
    (x.v.toNat = 0 → (t'.reg x.d.toNat).toNat = capObj k) ∧ (x.v.toNat = 1 → (t'.reg x.d.toNat).toNat = capRights k) ∧
    (x.v.toNat = 2 → (t'.pair x.d.toNat).toNat = capBase k) ∧ (x.v.toNat = 3 → (t'.pair x.d.toNat).toNat = capLen k))) ∧
  (∀ x : RWord, Computes (.kchk x) (fun t t' =>
    let k := capAt x.a t
    let inb := capObj k ≠ 0 ∧ t.d64 x.b x.zb + t.d64 x.c x.zc ≤ capLen k
    ∃ b : Bool, (b = true ↔ inb) ∧ (t'.reg x.d.toNat).toNat =
      (if capObj k ≠ 0 then 512 else 0) + (if b then 256 + capRights k else 0)))

namespace Sys2Proof.Claims
open Machine

/-! ### Frames -/

/-- The instructions that each thread executes on its registers alone (R153, R216), whatever their guard. -/
def perThread : Instr → Bool
  | .add _ | .addImm _ | .addLong _ | .sub _ | .subImm _ | .subLong _ | .mul _ | .mulImm _ | .mulhi _ | .mad _ | .div _
  | .rem _ | .neg _ | .abs _ | .min _ | .minImm _ | .max _ | .maxImm _ | .clamp _ | .addc _ | .subb _ | .sad _ => true
  | .and _ | .andImm _ | .andLong _ | .or _ | .orImm _ | .orLong _ | .xor _ | .xorImm _ | .xorLong _ | .not _ | .andn _
  | .andnImm _ | .shl _ | .shlImm _ | .shr _ | .shrImm _ | .sar _ | .sarImm _ | .rot _ | .rotImm _ | .bfx _ | .bfi _
  | .popc _ | .clz _ | .ctz _ | .brev _ | .perm _ | .lut3 _ => true
  | .fadd _ | .fsub _ | .fmul _ | .ffma _ | .fmin _ | .fmax _ | .fdiv _ | .fsqrt _ | .frcp _ | .frsq _ | .fexp2 _
  | .flog2 _ | .fsin _ | .fcos _ | .fclass _ | .fscale _ => true
  | .cvt _ | .pack _ | .unpack _ | .frnd _ | .mov _ | .sel _ | .movi _ | .moviLong _ => true
  | .cmp _ | .cmpImm _ | .cmpLong _ | .fcmp _ | .plop _ | .pmov _ => true
  | .kderive _ | .krights _ | .kinfo _ | .kchk _ => true
  | _ => false

/-- The operands of such an instruction raise no trap in a thread (R157, R216). -/
def noTrap : Instr → Thread → Prop
  | .div x, t | .rem x, t => t.int x.b x.zb x.ty ≠ 0
  | .kderive x, t => capObj (capAt x.a t) ≠ 0 ∧ (capRights (capAt x.a t)).testBit 4 = true ∧
      t.d64 x.b x.zb + t.d64 x.c x.zc ≤ capLen (capAt x.a t)
  | _, _ => True

/-- What a register file holds outside some destinations is unchanged. -/
structure RegistersOutside (ds : List Dest) (t t' : Thread) : Prop where
  g : ∀ n, Dest.g n ∉ ds → t'.reg n = t.reg n
  p : ∀ n, n < 16 → Dest.p n ∉ ds → t'.pred n = t.pred n
  c : ∀ n, Dest.c n ∉ ds → t'.cap n = t.cap n

/-- A thread's special registers, queues, counters and detection state but for its generator, its reuse buffer and the marks of
results that are due. -/
structure SameRest (t t' : Thread) : Prop where
  tix : t'.tix = t.tix
  slot : t'.slot = t.slot
  role : t'.role = t.role
  traps : (t'.tcause, t'.taddr, t'.tpc, t'.tsav0, t'.tsav1, t'.tstate) = (t.tcause, t.taddr, t.tpc, t.tsav0, t.tsav1, t.tstate)
  pend : t'.pend = t.pend
  deliver : t'.deliver = t.deliver
  storeQ : t'.storeQ = t.storeQ
  counts : t'.counts = t.counts
  own : t'.own = t.own
  fences : (t'.fenceRelease, t'.fenceAcquire, t'.fenceNumber) = (t.fenceRelease, t.fenceAcquire, t.fenceNumber)
  farLaps : t'.farLaps = t.farLaps

/-- A thread that executes nothing keeps its registers and queues; a wait of it that is over ends (R113), a WAITPH among them,
which then retires. -/
structure Untouched (t t' : Thread) : Prop extends SameRest t t' where
  regs : (t'.g, t'.p, t'.c, t'.srseed) = (t.g, t.p, t.c, t.srseed)
  marks : t'.due = t.due
  still : (∀ off k, t.status ≠ .phase off k) → t'.pc = t.pc ∧ t'.retired = t.retired ∧ t'.detect = t.detect

/-- Everything of the device but its parcels, contexts and cores, and the group that has issued. -/
def outerParts (s : State) : State := { s with parcels := [], ctxs := [], cores := [], group := none }

/-- What the engines of a core hold, its port and its queued stores. -/
def coreParts (c : Core) : Core := { c with entries := [], wakes := [], counts := CoreCounts.zero }

/-- The engines, timelines, ports and queued stores of every core are unchanged. -/
def EnginesKept (s u : State) : Prop := ∀ n, coreParts (u.core n) = coreParts (s.core n)

/-- A parcel but for its threads and the count of what they retired: its scratchpad, records, slots, tables and requests. -/
def parcelParts (p : Parcel) : Parcel := { p with threads := [], retired := 0 }

/-- Memory, parcels, engines and contexts are unchanged: only threads, groups, retired counts and the counter of reused
operands (R59, R413) may differ. -/
structure OnlyThreads (s u : State) (core ctx : Nat) : Prop where
  outer : outerParts u = outerParts s
  parcels : ∀ k, (u.parcel? k).map parcelParts = (s.parcel? k).map parcelParts
  cores : ∀ n, { u.core n with entries := [] } = { s.core n with entries := [] }
  otherCores : ∀ n, n ≠ core → u.core n = s.core n
  contexts : ∀ n, { u.ctx n with counters := [] } = { s.ctx n with counters := [] }
  counters : ∀ n j, (n ≠ ctx ∨ j ≠ 0x010) → Tbl.get 0 (u.ctx n).counters j = Tbl.get 0 (s.ctx n).counters j

end Sys2Proof.Claims

/-- R38, R153, R216: an instruction of the integer, logic, floating-point, conversion and compare blocks, or one that forms or
reads a capability, writes its destinations and nothing else; other threads, memory, parcels and engines keep what they hold. -/
def Obligations.PerThreadArithmeticLeavesTheRestAlone : Prop :=
  ∀ i s g, perThread i = true → Goes s g i → (∀ x ∈ g.tixs, ∀ t, s.thread? g.key x = some t → noTrap i t) →
    ∃ u, exec i s = .next u ∧ OnlyThreads s u g.core g.key.ctx ∧
      (∀ x ∈ g.tixs, ∀ t, s.thread? g.key x = some t → ∃ t', u.thread? g.key x = some t' ∧
        RegistersOutside i.sig.targets t t' ∧ SameRest t t' ∧ t'.due = t.due ++ [i.sig.targets] ∧ t'.detect = t.detect) ∧
      (∀ k x, (k ≠ g.key ∨ x ∉ g.tixs) → ∀ t, s.thread? k x = some t → ∃ t', u.thread? k x = some t' ∧ Untouched t t')

namespace Sys2Proof.Claims
open Machine

/-- A group is about to issue an instruction whose guard holds in none of its threads (R38). -/
structure PassesOver (s : State) (g : Group) (i : Instr) : Prop where
  group : s.group = some g
  nodup : g.tixs.Nodup
  skip : ∀ x ∈ g.tixs, ∃ t l, s.thread? g.key x = some t ∧ s.launch? g.key.launchKey = some l ∧ t.status = .ready
    ∧ t.readiness l i.sig = .skip

end Sys2Proof.Claims

/-- R38: a thread whose guard is false retires the instruction, goes on behind it and keeps every register; nothing else of the
device changes: no memory, parcel or context, and no engine, port, queue or reservation of a core. -/
def Obligations.FalseGuardHasNoEffect : Prop :=
  ∀ i s g, i.isStep = false → PassesOver s g i →
    ∃ u, exec i s = .next u ∧ outerParts { u with nextUid := s.nextUid } = outerParts s ∧ EnginesKept s u ∧
      (∀ k, (u.parcel? k).map parcelParts = (s.parcel? k).map parcelParts) ∧
      (∀ n, (u.ctx n) = s.ctx n) ∧
      (∀ x ∈ g.tixs, ∀ t, s.thread? g.key x = some t → ∃ t', u.thread? g.key x = some t' ∧
        SameRest t t' ∧ t'.pc = t.pc + BitVec.ofNat 32 g.size ∧ t'.retired = retiredNext t ∧ t'.status = .ready ∧
        (t'.g, t'.p, t'.c, t'.srseed) = (t.g, t.p, t.c, t.srseed) ∧ t'.due = t.due ∧ t'.detect = t.detect) ∧
      (∀ k x, (k ≠ g.key ∨ x ∉ g.tixs) → ∀ t, s.thread? k x = some t → ∃ t', u.thread? k x = some t' ∧ Untouched t t')

namespace Sys2Proof.Claims
open Machine

/-! ### One thread issues -/

/-- A group of the one thread `t` is about to execute an instruction: nothing keeps it from executing (as `Goes`). -/
structure Alone (s : State) (g : Group) (i : Instr) (t : Thread) : Prop where
  group : s.group = some g
  alone : g.tixs = [t.tix]
  core : s.coreOf g.key = g.core
  thread : s.thread? g.key t.tix = some t
  ready : t.status = .ready
  go : ∃ l, s.launch? g.key.launchKey = some l ∧ t.readiness l i.sig = .go

/-- The thread has retired the instruction: it stands at `pc`, ready. -/
structure RetiredAt (u : State) (k : PKey) (t t' : Thread) (pc : Word) : Prop where
  thread : u.thread? k t.tix = some t'
  pc : t'.pc = pc
  ready : t'.status = .ready
  retired : t'.retired = retiredNext t

/-- Outside one thread and its parcel nothing changes but counters (R413), the counts of a core (R419) and the wake events it
has received (R133). `port` says whether the instruction may use the port of core `core`, `own` whether the parcel itself is
unchanged but for its threads. -/
structure Elsewhere (s u : State) (k : PKey) (tix : Nat) (own : Bool) : Prop where
  outer : outerParts { u with nextUid := s.nextUid } = outerParts s
  contexts : ∀ n, { u.ctx n with counters := [] } = { s.ctx n with counters := [] }
  parcels : ∀ k', (k' ≠ k ∨ own = true) → (u.parcel? k').map parcelParts = (s.parcel? k').map parcelParts
  threads : ∀ k' x, (k' ≠ k ∨ x ≠ tix) → ∀ t, s.thread? k' x = some t → ∃ t', u.thread? k' x = some t' ∧ Untouched t t'

/-- The instruction only moves the thread to `pc`, and writes the registers `ds`. -/
def Moves (i : Instr) (s : State) (g : Group) (t : Thread) (pc : Word) (ds : List Dest) (post : Thread → Prop) : Prop :=
  ∃ u t', exec i s = .next u ∧ RetiredAt u g.key t t' pc ∧ RegistersOutside ds t t' ∧ SameRest t t' ∧ t'.due = t.due ∧
    t'.detect = t.detect ∧ Elsewhere s u g.key t.tix true ∧ EnginesKept s u ∧ post t'

/-- A target that a branch may take (R131): aligned, and fetchable under R125 to R127. -/
def Reaches (s : State) (g : Group) (tgt : Word) : Prop :=
  tgt.toNat % 8 = 0 ∧ (s.core g.core).fetchable g.key.launchKey tgt = true

/-- A branch to `tgt t` that links `link`, if any. -/
def Branches (i : Instr) (tgt : Thread → Word) (link : Option Nat) : Prop :=
  ∀ s g t, Alone s g i t → Reaches s g (tgt t) →
    Moves i s g t (tgt t) (match link with | some d => [.g d] | none => []) (fun t' =>
      match link with
      | some d => t'.reg d = t.pc + 8
      | none => True)

/-- The effect of a trap that an instruction raises: the machine takes it, with no result written (R398 to R402). -/
def Traps (i : Instr) (s : State) (g : Group) (t : Thread) (r : Trap) : Prop :=
  exec i s = .next ((({ s with group := none }).trap g.key t.tix r).refresh g.core)

/-- Branch faults (R131): UNALIGNED before OVLMISS, both with the target as the fault address. -/
def BranchFaults (i : Instr) (tgt : Thread → Word) : Prop :=
  ∀ s g t, Alone s g i t →
    ((tgt t).toNat % 8 ≠ 0 → Traps i s g t { kind := 0x06, addr := (tgt t).toNat }) ∧
    ((tgt t).toNat % 8 = 0 → (s.core g.core).fetchable g.key.launchKey (tgt t) = false →
      Traps i s g t { kind := 0x04, addr := (tgt t).toNat })

/-- The 32-bit operand of a register target: 0 with the literal-zero flag. -/
def targetA (x : RWord) (t : Thread) : Word := if x.za then 0 else t.reg x.a.toNat

end Sys2Proof.Claims

/-- R131: the targets of BRA, BRU, BRX, CALL, CALLX and RET, and the links of CALL and CALLX. -/
def Sys2Proof.Claims.BranchesGoToTheirTargets : Prop :=
  (∀ x : BWord, Branches (.bra x) (fun t => t.pc + 8 * x.off32) none) ∧
  (∀ x : BWord, Branches (.bru x) (fun t => t.pc + 8 * x.off32) none) ∧
  (∀ x : BWord, Branches (.call x) (fun t => t.pc + 8 * x.off32) (some 1)) ∧
  (∀ x : RWord, Branches (.brx x) (targetA x) none) ∧
  (∀ x : RWord, Branches (.callx x) (targetA x) (some x.d.toNat)) ∧
  (∀ x : RWord, Branches (.ret x) (targetA x) none)

/-- R131: an unaligned target raises UNALIGNED, one that is not fetchable OVLMISS, at the branch. -/
def Sys2Proof.Claims.BranchTargetsAreChecked : Prop :=
  (∀ x : BWord, BranchFaults (.bra x) (fun t => t.pc + 8 * x.off32)) ∧
  (∀ x : BWord, BranchFaults (.bru x) (fun t => t.pc + 8 * x.off32)) ∧
  (∀ x : BWord, BranchFaults (.call x) (fun t => t.pc + 8 * x.off32)) ∧
  (∀ x : RWord, BranchFaults (.brx x) (targetA x)) ∧
  (∀ x : RWord, BranchFaults (.callx x) (targetA x)) ∧
  (∀ x : RWord, BranchFaults (.ret x) (targetA x))

/-- R132 to R134: NOP only advances; a YIELD's thread is yielded while another thread of its parcel is runnable, and ready at
once otherwise; EXIT ends the thread and its memberships, and touches nothing else where it is in no consist and not the last. -/
def Sys2Proof.Claims.NopYieldAndExit : Prop :=
  (∀ x s g t, Alone s g (.nop x) t → Moves (.nop x) s g t (t.pc + BitVec.ofNat 32 g.size) [] (fun _ => True)) ∧
  (∀ x s g t p, Alone s g (.yield x) t → s.parcel? g.key = some p → p.phase = .running → (s.core g.core).halting = false →
    ∃ u t', exec (.yield x) s = .next u ∧ u.thread? g.key t.tix = some t' ∧ t'.pc = t.pc + BitVec.ofNat 32 g.size ∧
      t'.retired = retiredNext t ∧ RegistersOutside [] t t' ∧ SameRest t t' ∧ Elsewhere s u g.key t.tix true ∧ EnginesKept s u ∧
      t'.status = (if p.threads.any (fun v => v.tix != t.tix && v.status.runnable) then .yielded s.clk else .ready)) ∧
  (∀ x s g t p, Alone s g (.exit x) t → s.parcel? g.key = some p → t.storeQ = [] →
    ∃ u t' p', exec (.exit x) s = .next u ∧ u.thread? g.key t.tix = some t' ∧ u.parcel? g.key = some p' ∧
      t'.status = .exited ∧ t'.retired = retiredNext t ∧ t'.due = [] ∧ t'.pend = [] ∧ t'.deliver = [] ∧
      (∀ c ∈ p'.consists, c.has t.tix = false) ∧
      ((∀ c ∈ p.consists, c.has t.tix = false) → (∃ v ∈ p.threads, v.tix ≠ t.tix ∧ v.exited = false) →
        Elsewhere s u g.key t.tix true))

namespace Sys2Proof.Claims
open Machine

/-! ### Scratchpad and barrier accesses at issue (R179, R183, R193 to R204) -/

/-- The place of an access lies in the allotment and is aligned (R179). -/
def InBounds (s : State) (k : PKey) (o : Int) (size : Nat) : Prop :=
  0 ≤ o ∧ o + size ≤ ((s.parcel k).spSize : Int) ∧ o.toNat % size = 0

/-- No fence of the thread is unsatisfied (R209). -/
def NoFence (t : Thread) : Prop := t.fenceRelease = false ∧ t.fenceNumber = false ∧ t.fenceAcquire = false

/-- No fence or full counter of the thread keeps an operation of a class from issuing (R206, R209). -/
def FreeToIssue (t : Thread) (cls : CntClass) : Prop := NoFence t ∧ t.counts.get cls < 62

/-- The counters of a thread with one more operation of a class. -/
def oneMore (t : Thread) (cls : CntClass) : Counts := t.counts.upd cls (· + 1)

/-- An instruction enters the port of its core: the thread waits there with its access, at its PC (R113, R183). -/
def EntersPort (i : Instr) (s : State) (g : Group) (t : Thread) (a : PAcc) (counts : Counts) : Prop :=
  ∃ u t', exec i s = .next u ∧ u.thread? g.key t.tix = some t' ∧ t'.status = .port ∧ t'.pc = t.pc ∧ t'.retired = t.retired ∧
    t'.counts = counts ∧ t'.storeQ = t.storeQ ∧ t'.deliver = t.deliver ∧ RegistersOutside [] t t' ∧
    (u.core g.core).port = [⟨g.key, g.pc, i, [a], [], 0⟩] ∧
    (∀ n, { coreParts (u.core n) with port := [] } = { coreParts (s.core n) with port := [] }) ∧
    Elsewhere s u g.key t.tix true

/-- The group is alone before an idle port. -/
structure AtPort (s : State) (g : Group) (i : Instr) (t : Thread) : Prop extends Alone s g i t where
  idle : (s.core g.core).port = []

/-- The effective address of a format M operand (R42). -/
def placeOf (x : MWord) (t : Thread) : Int := ((t.reg x.base.toNat).toNat : Int) + x.off16.toInt

/-- The bytes of a width (R63). -/
def widthBytes (x : MWord) : Nat := (widthType x.width).bits / 8

/-- An ATOMS at issue: the operand and, for `.cas`, the compare value are read with the access. -/
def IssuesAtoms (c : MWord → Instr) : Prop :=
  ∀ x s g t, AtPort s g (c x) t → NoFence t → InBounds s g.key (placeOf x t) (widthBytes x) →
    EntersPort (c x) s g t ⟨t.tix, (placeOf x t).toNat, widthBytes x, BitVec.ofNat 128 (t.bits x.s false (widthType x.width)),
      BitVec.ofNat 128 (t.bits x.d false (widthType x.width))⟩ t.counts

/-- The race check of a write passes (R366): the thread's own queue writes the granule, or the record lets it. -/
def NoRace (s : State) (k : PKey) (t : Thread) (off : Nat) (strong : Bool) : Prop :=
  t.storesIn off = true ∨ (s.parcel k).checkWrite t off strong = none

/-- A barrier instruction at issue: a 16-byte access with its operand; one that writes the object passes its race check
(R191). -/
def IssuesBarrier (c : MWord → Instr) (operand writes : Bool) : Prop :=
  ∀ x s g t, AtPort s g (c x) t → NoFence t → InBounds s g.key (placeOf x t) 16 →
    (writes = true → NoRace s g.key t (placeOf x t).toNat true) →
    EntersPort (c x) s g t ⟨t.tix, (placeOf x t).toNat, 16,
      if operand then BitVec.ofNat 128 (t.reg x.s.toNat).toNat else 0, 0⟩ t.counts

/-- The value of `%tcause` (R400). -/
def causeOf (kind sub : Nat) (other : Option Nat) : Nat :=
  kind + 256 * sub + (match other with
    | some x => 2 ^ 26 + x * 2 ^ 16
    | none => 0)

/-- A thread has taken a trap (R401): its routine, its saved registers and its state; its registers are as they were. -/
structure TrapTaken (u : State) (k : PKey) (t t' : Thread) (cause : Word) (addr : DWord) (tpc tstate routine : Word) : Prop where
  thread : u.thread? k t.tix = some t'
  pc : t'.pc = routine
  ready : t'.status = .ready
  tcause : t'.tcause = cause
  taddr : t'.taddr = addr
  tpc : t'.tpc = tpc
  tstate : t'.tstate = tstate
  regs : RegistersOutside [] t t'
  saved : (t'.tsav0, t'.tsav1, t'.srseed) = (t.tsav0, t.tsav1, t.srseed)

/-- The thread can take a trap with its handler at `h`, and nothing of it is under way (R401, R402). -/
def CanTrap (s : State) (k : PKey) (t : Thread) (h : Word) : Prop :=
  (∃ l, s.launch? k.launchKey = some l ∧ l.handler = some h) ∧ t.tstate.getLsbD 0 = false ∧ t.storeQ = [] ∧ t.deliver = []

/-- The memories of two states are the same. -/
def SameMemory (s u : State) : Prop := (u.hbm, u.lp, u.weight, u.link) = (s.hbm, s.lp, s.weight, s.link)

/-- A group is about to execute a BRU whose guard is true in some of its threads and false in others (R124). -/
structure Diverges (s : State) (g : Group) (x : BWord) (l : Launch) : Prop where
  group : s.group = some g
  core : s.coreOf g.key = g.core
  nodup : g.tixs.Nodup
  launch : s.launch? g.key.launchKey = some l
  threads : ∀ n ∈ g.tixs, ∃ t, s.thread? g.key n = some t ∧ t.pc = g.pc ∧ t.status = .ready ∧
    (t.readiness l (Instr.bru x).sig = .go ∨ t.readiness l (Instr.bru x).sig = .skip)
  someGo : ∃ n ∈ g.tixs, ∃ t, s.thread? g.key n = some t ∧ t.readiness l (Instr.bru x).sig = .go
  someSkip : ∃ n ∈ g.tixs, ∃ t, s.thread? g.key n = some t ∧ t.readiness l (Instr.bru x).sig = .skip

/-- The divergence counter of a context has grown by 1 (R124, R413). -/
def CountsDivergence (s u : State) (ctx : Nat) : Prop :=
  Tbl.get 0 (u.ctx ctx).counters 0x011 = min (2 ^ 64 - 1) (Tbl.get 0 (s.ctx ctx).counters 0x011 + 1)

/-- An access that R179 refuses: CAPV 4 outside the allotment, UNALIGNED within it. -/
def ChecksAccess (c : MWord → Instr) (size : MWord → Nat) : Prop :=
  ∀ x s g t h, AtPort s g (c x) t → FreeToIssue t .loads → CanTrap s g.key t h →
    let o := placeOf x t
    ((o < 0 ∨ ((s.parcel g.key).spSize : Int) < o + size x) →
      ∃ u t', exec (c x) s = .next u ∧ TrapTaken u g.key t t' 0x0402 (BitVec.ofInt 64 o) t.pc 1 h) ∧
    (0 ≤ o → o + size x ≤ ((s.parcel g.key).spSize : Int) → o.toNat % size x ≠ 0 →
      ∃ u t', exec (c x) s = .next u ∧ TrapTaken u g.key t t' 0x0006 (BitVec.ofInt 64 o) t.pc 1 h)

/-- An STS or KST that R179 refuses, as `ChecksAccess`; nothing is queued. -/
def ChecksStore (c : MWord → Instr) (size : MWord → Nat) : Prop :=
  ∀ x s g t h, Alone s g (c x) t → FreeToIssue t .stores → CanTrap s g.key t h →
    let o := placeOf x t
    ((o < 0 ∨ ((s.parcel g.key).spSize : Int) < o + size x) → ∃ u t', exec (c x) s = .next u ∧
      TrapTaken u g.key t t' 0x0402 (BitVec.ofInt 64 o) t.pc 1 h ∧ (t'.storeQ, t'.counts) = (t.storeQ, t.counts)) ∧
    (0 ≤ o → o + size x ≤ ((s.parcel g.key).spSize : Int) → o.toNat % size x ≠ 0 → ∃ u t', exec (c x) s = .next u ∧
      TrapTaken u g.key t t' 0x0006 (BitVec.ofInt 64 o) t.pc 1 h ∧ (t'.storeQ, t'.counts) = (t.storeQ, t.counts))

end Sys2Proof.Claims

/-- R124: a BRU whose guard differs within its group counts one divergence; with `nonunif=` 0 each thread goes where BRA would take
it, and with 1 every thread raises NONUNIF and none branches. -/
def Sys2Proof.Claims.DivergentBranchesPartOrTrap : Prop :=
  (∀ x s g l, Diverges s g x l → l.field 397 397 = 0 → Reaches s g (g.pc + 8 * x.off32) →
    ∃ u, exec (.bru x) s = .next u ∧ CountsDivergence s u g.key.ctx ∧ SameMemory s u ∧ EnginesKept s u ∧
      ∀ n ∈ g.tixs, ∀ t, s.thread? g.key n = some t → ∃ t', RetiredAt u g.key t t' (if t.readiness l (Instr.bru x).sig = .go
        then g.pc + 8 * x.off32 else g.pc + BitVec.ofNat 32 g.size) ∧ RegistersOutside [] t t' ∧ SameRest t t') ∧
  (∀ x s g l h, Diverges s g x l → l.field 397 397 = 1 → (∀ n ∈ g.tixs, ∀ t, s.thread? g.key n = some t → CanTrap s g.key t h) →
    ∃ u, exec (.bru x) s = .next u ∧ CountsDivergence s u g.key.ctx ∧ SameMemory s u ∧
      ∀ n ∈ g.tixs, ∀ t, s.thread? g.key n = some t → ∃ t', t'.retired = t.retired ∧
        TrapTaken u g.key t t' 0x0009 (BitVec.ofNat 64 (g.pc + 8 * x.off32).toNat) g.pc 1 h)

/-- R183, R193 to R195: LDS and KLD enter the port with their access and count in the loads class; a strong LDS needs an empty
store queue, a KLD no queued store in its granule. -/
def Sys2Proof.Claims.LoadsEnterThePort : Prop :=
  (∀ x s g t, AtPort s g (.lds x) t → FreeToIssue t .loads → (x.order = 0 ∨ t.storeQ = []) →
    InBounds s g.key (placeOf x t) (widthBytes x) →
    EntersPort (.lds x) s g t ⟨t.tix, (placeOf x t).toNat, widthBytes x, 0, 0⟩ (oneMore t .loads)) ∧
  (∀ x s g t, AtPort s g (.kld x) t → FreeToIssue t .loads → t.storesIn (placeOf x t).toNat = false →
    InBounds s g.key (placeOf x t) 16 →
    EntersPort (.kld x) s g t ⟨t.tix, (placeOf x t).toNat, 16, 0, 0⟩ (oneMore t .loads))

/-- R197, R203: the eight ATOMS and the five barrier instructions enter the port with the operands they read at issue. -/
def Sys2Proof.Claims.AtomicsAndBarriersEnterThePort : Prop :=
  IssuesAtoms .atomsAdd ∧ IssuesAtoms .atomsMin ∧ IssuesAtoms .atomsMax ∧ IssuesAtoms .atomsAnd ∧ IssuesAtoms .atomsOr ∧
  IssuesAtoms .atomsXor ∧ IssuesAtoms .atomsSwap ∧ IssuesAtoms .atomsCas ∧
  IssuesBarrier .binit true true ∧ IssuesBarrier .arrive false true ∧ IssuesBarrier .expect true true ∧
  IssuesBarrier .waitph true false ∧ IssuesBarrier .testph true false

namespace Sys2Proof.Claims
open Machine

/-- Every core but for its queued stores is unchanged, and on other cores than `core` those are too. -/
def OnlyStores (s u : State) (core : Nat) : Prop :=
  (∀ n, { coreParts (u.core n) with stores := [] } = { coreParts (s.core n) with stores := [] }) ∧
  ∀ n, n ≠ core → (u.core n).stores = (s.core n).stores

/-- A store retires into its thread's queue: its bytes in the queue's last entry, the counter of stores, the release count of a
strong one; it will be performed in the passes of its instruction, behind the stores queued before (R183); memory and records
are unchanged (R195). -/
def Queues (i : Instr) (s : State) (g : Group) (t : Thread) (q : QStore) : Prop :=
  ∃ u t', exec i s = .next u ∧ RetiredAt u g.key t t' (t.pc + BitVec.ofNat 32 g.size) ∧ t'.storeQ = t.storeQ ++ [q] ∧
    t'.counts = oneMore t .stores ∧ RegistersOutside [] t t' ∧ t'.deliver = t.deliver ∧
    t'.detect.rc = (if q.strong then t.detect.rc + 1 else t.detect.rc) ∧ Elsewhere s u g.key t.tix true ∧
    OnlyStores s u g.core ∧
    (u.core g.core).stores = (s.core g.core).stores ++ [⟨g.key, [⟨t.tix, q.off, q.bytes.length, 0, 0⟩], 0⟩]

end Sys2Proof.Claims

/-- R193 to R195, R216: STS queues the low bytes of d, least significant first, at the effective address, and KST the 16 bytes
of a capability as a strong store that will set the tag. -/
def Sys2Proof.Claims.StoresEnterTheQueue : Prop :=
  (∀ x s g t, Alone s g (.sts x) t → FreeToIssue t .stores → t.storeQ.length < 62 →
    InBounds s g.key (placeOf x t) (widthBytes x) → NoRace s g.key t (placeOf x t).toNat (x.order != 0) →
    ∃ bytes : List Byte, bytes.length = widthBytes x ∧
      (∀ j < widthBytes x, (bytes[j]?.getD 0).toNat = t.bits x.d false (widthType x.width) / 256 ^ j % 256) ∧
      Queues (.sts x) s g t ⟨(placeOf x t).toNat, bytes, x.order != 0, false, t.detect.rc⟩) ∧
  (∀ x s g t, Alone s g (.kst x) t → FreeToIssue t .stores → t.storeQ.length < 62 →
    InBounds s g.key (placeOf x t) 16 → NoRace s g.key t (placeOf x t).toNat true →
    ∃ bytes : List Byte, bytes.length = 16 ∧
      (∀ j < 16, (bytes[j]?.getD 0).toNat = (capAt x.d t).toNat / 256 ^ j % 256) ∧
      Queues (.kst x) s g t ⟨(placeOf x t).toNat, bytes, true, true, t.detect.rc⟩)

/-- R179: a scratchpad access outside the allotment raises CAPV with detail 4, an unaligned one within it UNALIGNED, with the
effective address as the fault address and nothing else changed in the thread. -/
def Sys2Proof.Claims.AccessesAreBoundAndAligned : Prop :=
  ChecksStore .sts widthBytes ∧ ChecksStore .kst (fun _ => 16) ∧ ChecksAccess .lds widthBytes ∧ ChecksAccess .kld (fun _ => 16) ∧
  ChecksAccess .atomsAdd widthBytes ∧ ChecksAccess .atomsMin widthBytes ∧ ChecksAccess .atomsMax widthBytes ∧ ChecksAccess .atomsAnd widthBytes ∧
  ChecksAccess .atomsOr widthBytes ∧ ChecksAccess .atomsXor widthBytes ∧ ChecksAccess .atomsSwap widthBytes ∧
  ChecksAccess .atomsCas widthBytes ∧
  ChecksAccess .binit (fun _ => 16) ∧ ChecksAccess .arrive (fun _ => 16) ∧ ChecksAccess .expect (fun _ => 16) ∧
  ChecksAccess .waitph (fun _ => 16) ∧ ChecksAccess .testph (fun _ => 16)

namespace Sys2Proof.Claims
open Machine

/-! ### Service at the port (R183 to R186, R198, R200 to R204) -/

/-- The port of a core holds one instruction of one thread, whose older stores are performed (R195). -/
structure Served1 (s : State) (core : Nat) (k : PKey) (i : Instr) (pc : Word) (a : PAcc) (p : Parcel) (t : Thread) : Prop where
  port : (s.core core).port = [⟨k, pc, i, [a], [], 0⟩]
  parcel : s.parcel? k = some p
  core : p.core = core
  thread : s.thread? k a.tix = some t
  status : t.status = .port
  queue : t.storeQ = []
  size : a.size = 1 ∨ a.size = 2 ∨ a.size = 4 ∨ a.size = 8 ∨ a.size = 16
  aligned : a.off % a.size = 0

/-! ### Same-instruction stores and race checks (R187, R365 to R367) -/

/-- The value of byte `a` in the store of a thread that executes an STS, if it writes that byte (R193). -/
def storedByte (x : MWord) (t : Thread) (a : Nat) : Option Nat :=
  let o := (placeOf x t).toNat
  if o ≤ a ∧ a < o + widthBytes x then some (t.bits x.d false (widthType x.width) / 256 ^ (a - o) % 256) else none

/-- A thread of the group writes a value to a byte. -/
def WritesByte (s : State) (g : Group) (x : MWord) (n a v : Nat) : Prop :=
  n ∈ g.tixs ∧ ∃ t, s.thread? g.key n = some t ∧ storedByte x t a = some v

/-- A thread is denied at a byte (R187): the highest lane that writes it, thread `w`, writes another value. -/
def DeniedAt (s : State) (g : Group) (x : MWord) (n a w : Nat) : Prop :=
  ∃ v v', WritesByte s g x n a v ∧ WritesByte s g x w a v' ∧ v ≠ v' ∧ ∀ m v'', WritesByte s g x m a v'' → m % 32 ≤ w % 32

/-- A group is about to execute an STS whose threads pass every other check. -/
structure StoresTogether (s : State) (g : Group) (x : MWord) (h : Word) : Prop where
  group : s.group = some g
  core : s.coreOf g.key = g.core
  lanes : g.tixs.Pairwise (fun n m => n % 32 ≠ m % 32)
  threads : ∀ n ∈ g.tixs, n < 1024 ∧ ∃ t l, s.thread? g.key n = some t ∧ s.launch? g.key.launchKey = some l ∧ t.status = .ready ∧
    t.readiness l (Instr.sts x).sig = .go ∧ FreeToIssue t .stores ∧ CanTrap s g.key t h ∧
    InBounds s g.key (placeOf x t) (widthBytes x) ∧ NoRace s g.key t (placeOf x t).toNat (x.order != 0)

/-- Checked order (R365). -/
def Ordered (d : Detect) (me t : Nat) (v : BitVec 4) (ring : List (PhaseObj × Word × BitVec 4)) : Prop :=
  t = me ∨ (∃ c, (t, c) ∈ d.acq ∧ c ≠ v) ∨
    ∃ e ∈ ring, e.2.2 ≠ v ∧ ∃ h ∈ d.ph, h.1 = e.1 ∧ (h.2 - e.2.1).toNat < 2 ^ 31

/-- An access is not in checked order with the granule's last write (R366). -/
def AfterWrite (p : Parcel) (t : Thread) (off : Nat) (strong : Bool) : Prop :=
  let r := p.record off
  r.wvalid = true ∧ r.wtix ≠ t.tix ∧ ¬ (r.strong = true ∧ strong = true) ∧ ¬ Ordered t.detect t.tix r.wtix r.wrel (p.ringOf r.wtix)

/-- A weak write is not in checked order with the granule's single reader (R366). -/
def AfterRead (p : Parcel) (t : Thread) (off : Nat) (strong : Bool) : Prop :=
  let r := p.record off
  strong = false ∧ r.rst = 1 ∧ r.rtix ≠ t.tix ∧ ¬ Ordered t.detect t.tix r.rtix r.rrel (p.ringOf r.rtix)

/-- The cause of a race with thread `x` (R366). -/
def raceCause (d : Detect) (x cause : Nat) : Nat := if d.evf.getLsbD (x % 64) = true ∨ d.pev = true then 0x04 else cause

/-- A thread has trapped with MMX at an offset, against another thread (R367, R400). -/
def MmxTaken (u : State) (k : PKey) (t t' : Thread) (off cause other : Nat) (h : Word) : Prop :=
  TrapTaken u k t t' (BitVec.ofNat 32 (causeOf 0x03 cause (some other))) (BitVec.ofNat 64 off) t.pc 1 h ∧ t'.storeQ = t.storeQ

/-- A store in a race traps at issue with cause 0x02 or 0x03, or 0x04 for it, and enters no queue (R191, R366). -/
def StoreRaces (c : MWord → Instr) (size : MWord → Nat) (strong : MWord → Bool) : Prop :=
  ∀ x s g t h p, Alone s g (c x) t → FreeToIssue t .stores → CanTrap s g.key t h → s.parcel? g.key = some p →
    InBounds s g.key (placeOf x t) (size x) → let off := (placeOf x t).toNat
    let r := p.record off
    (AfterWrite p t off (strong x) → ∃ u t', exec (c x) s = .next u ∧
      MmxTaken u g.key t t' (off / 16 * 16) (raceCause t.detect r.wtix 0x02) r.wtix h) ∧
    (¬ AfterWrite p t off (strong x) → AfterRead p t off (strong x) → ∃ u t', exec (c x) s = .next u ∧
      MmxTaken u g.key t t' (off / 16 * 16) (raceCause t.detect r.rtix 0x03) r.rtix h)

/-- A barrier instruction that writes its object is checked at issue as a strong write (R191, R366). -/
def BarrierRaces (c : MWord → Instr) : Prop :=
  ∀ x s g t h p, AtPort s g (c x) t → NoFence t → CanTrap s g.key t h → s.parcel? g.key = some p →
    InBounds s g.key (placeOf x t) 16 → let off := (placeOf x t).toNat
    AfterWrite p t off true → ∃ u t', exec (c x) s = .next u ∧
      MmxTaken u g.key t t' (off / 16 * 16) (raceCause t.detect (p.record off).wtix 0x02) (p.record off).wtix h

/-- A load, or the read of an ATOMS, in a race traps in the pass that would serve it, and changes no byte and no record (R366). -/
def LoadRaces (i : Instr) (strong tagged : Bool) : Prop :=
  ∀ s core k pc a p t h, Served1 s core k i pc a p t → CanTrap s k t h → (tagged = true → (p.record a.off).tag = true) → AfterWrite p t a.off strong →
    ∃ u t' p', exec (.scratchpadPass core) s = .next u ∧
      MmxTaken u k t t' (a.off / 16 * 16) (raceCause t.detect (p.record a.off).wtix 0x01) (p.record a.off).wtix h ∧
      u.parcel? k = some p' ∧ (p'.spad, p'.recs) = (p.spad, p.recs)

/-- The bytes of a parcel's scratchpad outside a range are unchanged. -/
def BytesOutside (p p' : Parcel) (off n : Nat) : Prop := ∀ a, (a < off ∨ off + n ≤ a) → Mem.byte p'.spad a = Mem.byte p.spad a

/-- After its last pass the thread goes on behind the instruction; the port is free. -/
structure PassDone (s u : State) (core : Nat) (k : PKey) (pc : Word) (t t' : Thread) (p p' : Parcel) : Prop where
  thread : RetiredAt u k t t' (pc + 8)
  parcel : u.parcel? k = some p'
  port : (u.core core).port = []
  regs : RegistersOutside [] t t'
  counts : t'.counts = t.counts
  engines : ∀ n, { coreParts (u.core n) with port := [] } = { coreParts (s.core n) with port := [] }

/-- The pass of an access that passes its checks under `ok`, with what it leaves in `post`. -/
def Serves (i : Instr) (ok : Parcel → Thread → PAcc → Prop) (post : Parcel → Parcel → Thread → Thread → PAcc → Prop) : Prop :=
  ∀ s core k pc a p t, Served1 s core k i pc a p t → ok p t a →
    ∃ u p' t', exec (.scratchpadPass core) s = .next u ∧ PassDone s u core k pc t t' p p' ∧ post p p' t t' a

/-- The pattern an access reads, least significant byte first. -/
def patternAt (p : Parcel) (a : PAcc) : Nat := Mem.nat p.spad a.off a.size

/-- The result of an access, not yet written (R185): `load` says that it counts in the loads class. -/
def Delivers (t t' : Thread) (ws : List Write) (load : Bool) : Prop := t'.deliver = t.deliver ++ [⟨ws, load⟩]

/-- The writes of a pattern of a type to a register or pair, extended as R83 says. -/
def resultWrites (ty : TypeCode) (d : Nat) (b : Nat) (ws : List Write) : Prop :=
  if ty.bits = 64 then ws.map (·.dest) = [.g d, .g (d + 1)] ∧ ws.map (·.val.toNat) = [b % 2 ^ 32, b / 2 ^ 32 % 2 ^ 32]
  else ws.map (·.dest) = [.g d] ∧ ws.map (·.val.toNat) = [(ty.extend b).toNat]

/-- An ATOMS: the old pattern is the result, and the bytes at its place hold `f` of the old pattern, the operand and the compare
value. -/
def ServesAtoms (c : MWord → Instr) (f : TypeCode → Nat → Nat → Nat → Nat) : Prop :=
  ∀ x : MWord, (widthType x.width).isLog →
    Serves (c x) (fun p t a => a.size = widthBytes x ∧ a.x.toNat < 2 ^ (8 * a.size) ∧ p.checkLoad t a.off true = none ∧
        p.checkWrite t a.off true = none)
      (fun p p' t t' a =>
        (∃ ws, Delivers t t' ws false ∧ resultWrites (widthType x.width) x.d.toNat (patternAt p a) ws) ∧
        patternAt p' a = f (widthType x.width) (patternAt p a) a.x.toNat a.y.toNat ∧ BytesOutside p p' a.off a.size)

/-- The smaller and the larger of two patterns of a type. -/
def lessOf (ty : TypeCode) (a b : Nat) : Nat := if ty.intValue b < ty.intValue a then b else a
def moreOf (ty : TypeCode) (a b : Nat) : Nat := if ty.intValue a < ty.intValue b then b else a

/-- The fields of a barrier object (R199). -/
def barrierIs (p : Parcel) (off : Nat) (err : Word) (bytes : Int) (phase : Word) (pend init : Nat) : Prop :=
  p.barrier off = ⟨err, bytes, phase, pend, init⟩

/-- The object `b` after the completion test of R200: a phase completes where INIT is 1 or more, no arrival is awaited and the
byte balance is 0. -/
def tested (b : Barrier) : Barrier :=
  if 1 ≤ b.init ∧ b.pend = 0 ∧ b.bytes = 0 then ⟨b.err, b.bytes, b.phase + 1, b.init, b.init⟩ else b

/-- Done(k) (R204). -/
def isDone (b : Barrier) (k : Word) : Prop := 1 ≤ (b.phase - k).toNat ∧ (b.phase - k).toNat ≤ 2 ^ 31

end Sys2Proof.Claims

/-- R187: of the threads of a group whose STS writes different values to a byte the highest lane keeps it; every other traps with MMX
cause 0x10 at its first such byte, and stores nothing; the others queue their stores. -/
def Sys2Proof.Claims.SameInstructionStoresAreJudged : Prop :=
  ∀ x s g h, StoresTogether s g x h → ∃ u, exec (.sts x) s = .next u ∧ ∀ n ∈ g.tixs, ∀ t, s.thread? g.key n = some t →
    (∀ a w, DeniedAt s g x n a w → (∀ b w', DeniedAt s g x n b w' → a ≤ b) →
      ∃ t', MmxTaken u g.key t t' a 0x10 w h ∧ t'.counts = t.counts) ∧
    ((∀ a w, ¬ DeniedAt s g x n a w) → ∃ t' q, RetiredAt u g.key t t' (t.pc + BitVec.ofNat 32 g.size) ∧ t'.storeQ = [q] ∧
      (q.off, q.bytes.length) = ((placeOf x t).toNat, widthBytes x) ∧
      ∀ j < widthBytes x, storedByte x t (q.off + j) = some (q.bytes[j]?.getD 0).toNat)

/-- R191, R365 to R367: the race checks of stores and of barrier instructions at issue, and of loads and ATOMS in the pass that serves
them; they pass exactly where the last write, and for a weak write the single reader, is in checked order. -/
def Sys2Proof.Claims.RacesAreReported : Prop :=
  StoreRaces .sts widthBytes (fun x => x.order != 0) ∧ StoreRaces .kst (fun _ => 16) (fun _ => true) ∧
  BarrierRaces .binit ∧ BarrierRaces .arrive ∧ BarrierRaces .expect ∧
  (∀ x : MWord, LoadRaces (.lds x) (x.order != 0) false ∧ LoadRaces (.kld x) false true ∧ LoadRaces (.atomsAdd x) true false ∧ LoadRaces (.atomsMin x) true false ∧
    LoadRaces (.atomsMax x) true false ∧ LoadRaces (.atomsAnd x) true false ∧ LoadRaces (.atomsOr x) true false ∧ LoadRaces (.atomsXor x) true false ∧
    LoadRaces (.atomsSwap x) true false ∧ LoadRaces (.atomsCas x) true false) ∧
  ∀ (p : Parcel) t off strong, (p.checkLoad t off strong = none ↔ ¬ AfterWrite p t off strong) ∧
    (p.checkWrite t off strong = none ↔ ¬ AfterWrite p t off strong ∧ ¬ AfterRead p t off strong)

/-- R185, R194, R195: a served LDS delivers the bytes at its place under the width's extension, a KLD the 16 bytes of a tagged
granule; memory is unchanged, and the result is written later. -/
def Sys2Proof.Claims.LoadsDeliverMemory : Prop :=
  (∀ x : MWord, Serves (.lds x) (fun p t a => a.size = widthBytes x ∧ p.checkLoad t a.off (x.order != 0) = none)
    (fun p p' t t' a => p'.spad = p.spad ∧
      ∃ ws, Delivers t t' ws true ∧ resultWrites (widthType x.width) x.d.toNat (patternAt p a) ws)) ∧
  (∀ x : MWord, Serves (.kld x) (fun p t a => a.size = 16 ∧ (p.record a.off).tag = true ∧ p.checkLoad t a.off false = none)
    (fun p p' t t' a => p'.spad = p.spad ∧
      ∃ w, Delivers t t' [w] true ∧ w.dest = .c (x.d.toNat % 8) ∧ w.val.toNat = patternAt p a))

/-- R198: each ATOMS reads the old pattern and leaves the new one, in one access, and no other byte changes. -/
def Sys2Proof.Claims.AtomicsReadAndModify : Prop :=
  ServesAtoms .atomsAdd (fun ty old y _ => (old + y) % 2 ^ ty.bits) ∧
  ServesAtoms .atomsMin (fun ty old y _ => lessOf ty old y) ∧ ServesAtoms .atomsMax (fun ty old y _ => moreOf ty y old) ∧
  ServesAtoms .atomsAnd (fun _ old y _ => old &&& y) ∧ ServesAtoms .atomsOr (fun _ old y _ => old ||| y) ∧
  ServesAtoms .atomsXor (fun _ old y _ => old ^^^ y) ∧ ServesAtoms .atomsSwap (fun _ _ y _ => y) ∧
  ServesAtoms .atomsCas (fun _ old y cmp => if old = cmp then y else old)

/-- R199, R200, R202, R204: BINIT, ARRIVE and EXPECT on a barrier object. -/
def Sys2Proof.Claims.BarriersCountArrivalsAndBytes : Prop :=
  (∀ x : MWord, Serves (.binit x)
    (fun p _ a => a.size = 16 ∧ 1 ≤ a.x.toNat ∧ a.x.toNat ≤ 1024 ∧ p.hasWaiter a.off = false)
    (fun p p' t t' a => barrierIs p' a.off 0 0 0 a.x.toNat a.x.toNat ∧ BytesOutside p p' a.off 16 ∧ t'.deliver = t.deliver)) ∧
  (∀ x : MWord, Serves (.arrive x)
    (fun p _ a => a.size = 16 ∧ (p.barrier a.off).pend ≠ 0)
    (fun p p' t t' a =>
      let b := p.barrier a.off
      p'.barrier a.off = tested ⟨b.err, b.bytes, b.phase, b.pend - 1, b.init⟩ ∧ BytesOutside p p' a.off 16 ∧
        ∃ ws, Delivers t t' ws false ∧ resultWrites .n32 x.d.toNat b.phase.toNat ws)) ∧
  (∀ x : MWord, Serves (.expect x)
    (fun p _ a => a.size = 16 ∧ a.x.toNat < 2 ^ 32 ∧ (p.barrier a.off).bytes + a.x.toNat ≤ 2 ^ 31 - 1)
    (fun p p' t t' a =>
      let b := p.barrier a.off
      p'.barrier a.off = tested ⟨b.err, b.bytes + a.x.toNat, b.phase, b.pend, b.init⟩ ∧ BytesOutside p p' a.off 16 ∧
        ∃ ws, Delivers t t' ws false ∧ resultWrites .n32 x.d.toNat b.phase.toNat ws))

/-- R204: WAITPH goes on if its phase is done and enters phase wait otherwise, where it stays until the phase is done; TESTPH
delivers whether it is. Neither changes memory. -/
def Sys2Proof.Claims.WaitsReadThePhase : Prop :=
  (∀ x : MWord, Serves (.waitph x) (fun p _ a => isDone (p.barrier a.off) (a.x.setWidth 32))
    (fun p p' t t' _ => p'.spad = p.spad ∧ t'.deliver = t.deliver)) ∧
  (∀ (x : MWord) s core k pc a p t, Served1 s core k (.waitph x) pc a p t → ¬ isDone (p.barrier a.off) (a.x.setWidth 32) →
    ∃ u p' t', exec (.scratchpadPass core) s = .next u ∧ u.parcel? k = some p' ∧ p'.spad = p.spad ∧
      u.thread? k a.tix = some t' ∧ t'.status = .phase a.off (a.x.setWidth 32) ∧ t'.pc = t.pc ∧ t'.retired = t.retired ∧
      RegistersOutside [] t t' ∧ (u.core core).port = []) ∧
  (∀ x : MWord, Serves (.testph x) (fun _ _ _ => True)
    (fun p p' t t' a => p'.spad = p.spad ∧ ∃ w, Delivers t t' [w] false ∧ w.dest = .p (x.d.toNat % 16) ∧
      (w.val.getLsbD 0 = true ↔ isDone (p.barrier a.off) (a.x.setWidth 32))))

namespace Sys2Proof.Claims
open Machine

/-! ### Results, stores and counts reach their place (R151, R185, R190, R195, R201) -/

/-- The registers of `t'` are those of `t` with some writes made in order. -/
def Wrote (t t' : Thread) (ws : List Write) : Prop :=
  (t'.g, t'.p, t'.c) = ((t.writeAll ws).g, (t.writeAll ws).p, (t.writeAll ws).c)

/-- A step of the device changes thread `k`, `t`, and its parcel only as `post` says; with `own` the parcel keeps its parts. -/
def Steps (i : Instr) (s : State) (k : PKey) (tix : Nat) (own : Bool) (t : Thread) (post : Parcel → Thread → Prop) : Prop :=
  ∃ u p' t', exec i s = .next u ∧ u.parcel? k = some p' ∧ u.thread? k tix = some t' ∧ t'.srseed = t.srseed ∧
    Elsewhere s u k tix own ∧ EnginesKept s u ∧ post p' t'

/-- A count at a barrier (R201): `n` bytes of an operation with error code `err`, or 0. -/
def counted (b : Barrier) (n : Nat) (err : Word) : Barrier :=
  let low : Int := -(2 ^ 31 : Nat)
  let bytes := max low (b.bytes - n)
  let code : Word := if err ≠ 0 then err else if b.bytes - n < low then 0x100 else 0
  tested ⟨if b.err = 0 then code else b.err, bytes, b.phase, b.pend, b.init⟩

/-- The pieces of a landing do not overlap. -/
def Disjoint (ps : List (Nat × List Byte)) : Prop := ps.Pairwise (fun a b => a.1 + a.2.length ≤ b.1 ∨ b.1 + b.2.length ≤ a.1)

/-- Every byte of the pieces is in the scratchpad, and every byte outside them as it was. -/
def Landed (p p' : Parcel) (ps : List (Nat × List Byte)) : Prop :=
  (∀ x ∈ ps, ∀ j < x.2.length, Mem.byte p'.spad (x.1 + j) = x.2[j]?.getD 0) ∧
  (∀ a, (∀ x ∈ ps, a < x.1 ∨ x.1 + x.2.length ≤ a) → Mem.byte p'.spad a = Mem.byte p.spad a)

end Sys2Proof.Claims

/-- R151, R152, R185: LOAD_DELIVER writes a thread's oldest scratchpad result, ENGINE_RESULT_WRITE a known engine result, and
ARITHMETIC_RESULT_WRITE clears the oldest marks; no other register, no memory and no other thread changes. That an arithmetic
mark is cleared at a step of its own is the model's choice (log entry 9). -/
def Obligations.ResultsReachTheirRegisters : Prop :=
  (∀ s (r : TRef) t v rest, s.thread? r.parcelKey r.tix = some t → t.deliver = v :: rest →
    Steps (.loadDeliver r) s r.parcelKey r.tix true t (fun _ t' => Wrote t t' v.writes ∧ t'.deliver = rest ∧ t'.due = t.due ∧
      t'.pend = t.pend ∧ t'.counts = if v.load then t.counts.upd .loads (· - 1) else t.counts)) ∧
  (∀ s (r : TRef) t k e ws, s.thread? r.parcelKey r.tix = some t → t.pend[k]? = some e → e.vals = some ws →
    Steps (.engineResultWrite r k) s r.parcelKey r.tix true t (fun _ t' => Wrote t t' ws ∧
      t'.pend = t.pend.filter (fun f => f.uid != e.uid) ∧ t'.counts = t.counts ∧ t'.deliver = t.deliver ∧ t'.due = t.due)) ∧
  (∀ s (r : TRef) t d rest, s.thread? r.parcelKey r.tix = some t → t.due = d :: rest →
    Steps (.arithmeticResultWrite r) s r.parcelKey r.tix true t (fun _ t' => Wrote t t' [] ∧ t'.due = rest ∧
      t'.pend = t.pend ∧ t'.counts = t.counts ∧ t'.deliver = t.deliver))

/-- R183, R190, R195: STORE_PERFORM, where the next pass of a core's first store instruction serves one thread alone, writes the
bytes of that thread's oldest queued store and no others, and the access record of its granule names the store; the thread has
one store less outstanding, and the instruction leaves with its last access. -/
def Sys2Proof.Claims.StoresArePerformedInOrder : Prop :=
  ∀ s (r : TRef) p t q rest i more a, s.parcel? r.parcelKey = some p → s.thread? r.parcelKey r.tix = some t →
    t.storeQ = q :: rest → t.tix < 1024 → (s.core p.core).stores = i :: more → i.key = r.parcelKey →
    passOf p.xhash i.accs = [a] → a.tix = r.tix →
    ∃ u p' t', exec (.storePerform r) s = .next u ∧ u.parcel? r.parcelKey = some p' ∧ u.thread? r.parcelKey r.tix = some t' ∧
      t'.srseed = t.srseed ∧ Elsewhere s u r.parcelKey r.tix false ∧ OnlyStores s u p.core ∧
      (u.core p.core).stores = (match passLeft p.xhash i.accs with
        | [] => more
        | left => { i with accs := left, passes := i.passes + 1 } :: more) ∧
      Landed p p' [(q.off, q.bytes)] ∧ t'.storeQ = rest ∧ t'.counts = t.counts.upd .stores (· - 1) ∧ Wrote t t' [] ∧
      p'.record q.off = { p.record q.off with
        tag := q.kst, strong := q.strong, wvalid := true, wrel := q.wrel, wtix := t.tix, rst := 0 } ∧
      (∀ o, o / 16 ≠ q.off / 16 → p'.record o = p.record o)

/-- R185, R190, R201, R228: ENGINE_LANDING, where no earlier landing of the same request waits, and none of another index job in a
chunk that this one's job writes, writes the pieces of the landing into the scratchpad, marks the records of their granules as
an engine's, and hands over the landing's byte count; a landing in a reservation leaves the scratchpad alone. -/
def Sys2Proof.Claims.EngineBytesLandAndAreCountedLater : Prop :=
  ∀ s k n p l, s.parcel? k = some p → p.landings[n]? = some l →
    (∀ m ∈ p.landings.take n, m.req ≠ l.req ∧ ((s.core p.core).index.all (fun j => j.uid != m.req) = true ∨
      (s.core p.core).index.all (fun j => j.uid != l.req) = true ∨
      (∀ x ∈ l.pieces, ∀ y ∈ m.pieces, l.res = m.res → x.1 / 64 ≠ y.1 / 64))) →
    ∃ u p', exec (.engineLanding k n) s = .next u ∧ u.parcel? k = some p' ∧ p'.landings = p.landings.take n ++ p.landings.drop (n + 1) ∧
      EnginesKept s u ∧ outerParts u = outerParts s ∧
      (∀ b, l.bar = some b → l.count ≠ 0 → p'.counts = p.counts ++ [⟨b, l.count, 0, l.req, none⟩]) ∧
      ((l.bar = none ∨ l.count = 0) → p'.counts = p.counts) ∧
      (l.res = none → Disjoint l.pieces → Landed p p' l.pieces ∧
        (∀ x ∈ l.pieces, ∀ j < x.2.length, p'.record (x.1 + j) = { p.record (x.1 + j) with
          tag := false, strong := false, wvalid := false, rst := 0 })) ∧
      (l.res ≠ none → p'.spad = p.spad ∧ p'.recs = p.recs)

/-- R200, R201, R338: ENGINE_BYTE_COUNT subtracts a count from its barrier's balance, down to −2^31; the first error code stays,
and a count below the floor is error 0x100; the count of a Circle reply ends its request for its thread. -/
def Sys2Proof.Claims.ByteCountsReachTheirBarrier : Prop :=
  ∀ s k n p c, s.parcel? k = some p → p.counts[n]? = some c →
    (c.reply = none ∨ (p.counts.take n).all (fun d => d.req != c.req) = true) →
    ∃ u p', exec (.engineByteCount k n) s = .next u ∧ u.parcel? k = some p' ∧
      p'.counts = p.counts.take n ++ p.counts.drop (n + 1) ∧ p'.barrier c.bar = counted (p.barrier c.bar) c.n c.err ∧
      BytesOutside p p' c.bar 16 ∧ EnginesKept s u ∧
      (∀ x t, s.thread? k x = some t → ∃ t', u.thread? k x = some t' ∧ RegistersOutside [] t t' ∧
        t'.counts = if c.reply = some x then t.counts.upd .circle (· - 1) else t.counts)

namespace Sys2Proof.Claims
open Machine

/-- The six limits of WAITCNT (R207): 63 waits for nothing. -/
def Meets (x : CWord) (c : Counts) : Prop :=
  (x.loads.toNat = 63 ∨ c.loads ≤ x.loads.toNat) ∧ (x.stores.toNat = 63 ∨ c.stores ≤ x.stores.toNat) ∧
  (x.copies.toNat = 63 ∨ c.copies ≤ x.copies.toNat) ∧ (x.matrix.toNat = 63 ∨ c.matrix ≤ x.matrix.toNat) ∧
  (x.sets.toNat = 63 ∨ c.sets ≤ x.sets.toNat) ∧ (x.circle.toNat = 63 ∨ c.circle ≤ x.circle.toNat)

end Sys2Proof.Claims

/-- R207: WAITCNT goes on where every counter is within its limit, and is in engine wait at its PC otherwise. -/
def Sys2Proof.Claims.WaitcntWaitsForItsLimits : Prop :=
  ∀ x s g t, Alone s g (.waitcnt x) t →
    (Meets x t.counts → Moves (.waitcnt x) s g t (t.pc + BitVec.ofNat 32 g.size) [] (fun _ => True)) ∧
    (¬ Meets x t.counts → ∃ u t' limits, exec (.waitcnt x) s = .next u ∧ u.thread? g.key t.tix = some t' ∧
      t'.status = .engine (.counts limits) ∧ t'.pc = t.pc ∧ t'.retired = t.retired ∧ RegistersOutside [] t t' ∧ SameRest t t' ∧
      Elsewhere s u g.key t.tix true ∧ EnginesKept s u)

/-- R133, R208, R209: a FENCE of release or full kind (mod[4:3] not 01) holds back later operations while older stores are queued,
and at die, device or system scope while requests are undecided; one of acquire or full kind (not 10) later loads while loads are
outstanding; thread scope (mod[2:0] 0) holds back nothing. A release or full FENCE is a wake event of its launch. -/
def Sys2Proof.Claims.FencesHoldBackLaterAccesses : Prop :=
  ∀ x s g t, Alone s g (.fence x) t →
    let kind := (x.mod.extractLsb' 3 2).toNat
    let scope := (x.mod.extractLsb' 0 3).toNat
    ∃ u t', exec (.fence x) s = .next u ∧ RetiredAt u g.key t t' (t.pc + BitVec.ofNat 32 g.size) ∧
      (t'.fenceRelease = true ↔ t.fenceRelease = true ∨ (scope ≠ 0 ∧ kind ≠ 1 ∧ t.storeQ ≠ [])) ∧
      (t'.fenceAcquire = true ↔ t.fenceAcquire = true ∨ (scope ≠ 0 ∧ kind ≠ 2 ∧ t.counts.loads ≠ 0)) ∧
      (t'.fenceNumber = true ↔ t.fenceNumber = true ∨ (5 ≤ scope ∧ kind ≠ 1 ∧ s.undecided g.key t.tix = true)) ∧
      RegistersOutside [] t t' ∧ t'.counts = t.counts ∧ t'.storeQ = t.storeQ ∧ Elsewhere s u g.key t.tix true ∧ EnginesKept s u ∧
      (kind ≠ 1 → ∀ p ∈ s.parcels, p.key.launchKey = g.key.launchKey → p.phase = .running →
        (⟨g.key.launchKey, g.key.thread t.tix, s.clk⟩ : Wake) ∈ (u.core p.core).wakes)

namespace Sys2Proof.Claims
open Machine

/-- A wake event of launch `l` may reach core `core`: it is an event of a thread of another core, or of an earlier cycle (R133). -/
def WakeDue (s : State) (core : Nat) (l : LKey) (w : Wake) : Prop :=
  w ∈ (s.core core).wakes ∧ w.launch = l ∧ (w.clk < s.clk ∨ s.coreOf w.actor.parcelKey ≠ core)

/-- A yielded thread of launch `l` on core `core` is woken: by the event of another thread, no earlier than the cycle in which
its YIELD retired (R133, R436). -/
def Woken (s : State) (core : Nat) (l : LKey) (k : PKey) (x : Nat) (t : Thread) : Prop :=
  k.launchKey = l ∧ ∃ w since, WakeDue s core l w ∧ w.actor ≠ k.thread x ∧ t.status = .yielded since ∧ since ≤ w.clk

/-- What holds of the PC table of a core on which at most 8 parcels stand, each in a place of its own (R19), with threads of
different numbers: a thread stands in one entry at most, and the active set holds at most 8 entries (R114, R118). -/
structure TableOrdered (s : State) (core : Nat) : Prop where
  few : (s.parcels.filter (fun p => p.core == core && p.placed)).length ≤ 8
  places : ((s.parcels.filter (fun p => p.core == core && p.placed)).map (fun p => p.place)).Nodup
  threads : ∀ p ∈ s.parcels, p.core = core → (p.threads.map (fun t => t.tix)).Nodup
  once : (s.core core).entries.Pairwise (fun e f => e.place = f.place → ∀ x ∈ e.tixs, x ∉ f.tixs)
  active : ((s.core core).entries.filter (fun e => e.active)).length ≤ 8

/-- The thread of an entry of a core's PC table: it may stand there, at the entry's address. -/
def StandsIn (u : State) (core : Nat) (e : Entry) (x : Nat) : Prop :=
  ∃ p ∈ u.parcels, p.core = core ∧ p.phase = .running ∧ p.place = e.place ∧
    ∃ t ∈ p.threads, t.tix = x ∧ t.status.grouped = true ∧ t.pc = e.pc

end Sys2Proof.Claims

/-- R133, R436: YIELD_WAKE takes away the wake events that reach the core and makes ready the threads they wake; every other
thread keeps what it holds. -/
def Sys2Proof.Claims.WakeEventsMakeYieldedThreadsReady : Prop :=
  ∀ s core l, (∃ w, WakeDue s core l w) →
    ∃ u, exec (.yieldWake core l) s = .next u ∧ outerParts u = outerParts s ∧
      (∀ w, w ∈ (u.core core).wakes ↔ w ∈ (s.core core).wakes ∧ ¬ WakeDue s core l w) ∧
      (∀ k p x t, s.parcel? k = some p → s.thread? k x = some t → p.core = core → p.phase = .running → Woken s core l k x t →
        ∃ t', u.thread? k x = some t' ∧ t'.status = .ready ∧ t'.pc = t.pc ∧ t'.retired = t.retired ∧
          RegistersOutside [] t t' ∧ SameRest t t') ∧
      (∀ k x t, s.thread? k x = some t → ¬ Woken s core l k x t → ∃ t', u.thread? k x = some t' ∧ Untouched t t')

/-- R115, R118 to R120: ACTIVE_SET_SWAP ends the cycle of a core, once in a cycle: every thread that may stand in an entry stands
in one at its address and no other thread in any; no thread, parcel or other core changes, but that waits which are over end.
The entry of each parcel's lowest runnable thread is then in the active set, which holds at most 8 entries, and so entries of at
most 8 parcels. -/
def Obligations.ActiveSetHoldsProtectedEntries : Prop :=
  ∀ s core, (s.core core).turn ≤ s.clk →
    ∃ u, exec (.activeSetSwap core) s = .next u ∧ { u with parcels := s.parcels, cores := s.cores } = s ∧
      (∀ k, (u.parcel? k).map parcelParts = (s.parcel? k).map parcelParts) ∧
      (∀ k x t, s.thread? k x = some t → ∃ t', u.thread? k x = some t' ∧ Untouched t t') ∧
      (∀ n, n ≠ core → u.core n = s.core n) ∧
      { u.core core with entries := [], turn := 0 } = { s.core core with entries := [], turn := 0 } ∧
      (u.core core).turn = s.clk + 1 ∧
      (TableOrdered s core →
        (∀ p ∈ u.parcels, p.core = core → p.phase = .running → ∀ t ∈ p.threads, t.status.grouped = true →
          ∃ e ∈ (u.core core).entries, e.place = p.place ∧ e.pc = t.pc ∧ t.tix ∈ e.tixs) ∧
        (∀ e ∈ (u.core core).entries, ∀ x ∈ e.tixs, StandsIn u core e x) ∧
        (∀ p ∈ u.parcels, p.core = core → p.phase = .running → ∀ t ∈ p.threads, t.status.runnable = true →
          (∀ v ∈ p.threads, v.status.runnable = true → t.tix ≤ v.tix) →
          ∀ e ∈ (u.core core).entries, e.place = p.place → t.tix ∈ e.tixs → e.active = true) ∧
        ((u.core core).entries.filter (fun e => e.active)).length ≤ 8 ∧
        ((((u.core core).entries.filter (fun e => e.active)).map (fun e => e.place)).dedup).length ≤ 8)

namespace Sys2Proof.Claims
open Machine

/-! ### Consists (R137 to R143) -/

/-- A core has room for one more consist of a launch, which takes index `i` with handle `h` (R142, R296, R300, R302). -/
def ConsistRoom (s : State) (k : PKey) (core : Nat) (h : Word) : Prop :=
  ∃ x i, s.launch? k.launchKey = some x ∧ s.freeIndex k.launchKey core = some i ∧ h = x.handleAt i ∧ s.nearRoom core = true ∧
    s.blocksUsed core + 2 ≤ 8192

/-- The parcel of a thread before and after, with the thread. -/
def ParcelStep (i : Instr) (s : State) (g : Group) (t : Thread) (p : Parcel) (post : State → Parcel → Thread → Prop) : Prop :=
  ∃ u p' t', exec i s = .next u ∧ u.parcel? g.key = some p' ∧ u.thread? g.key t.tix = some t' ∧ p'.spad = p.spad ∧
    p'.recs = p.recs ∧ post u p' t'

/-- The 32-bit operand in a field (R150). -/
def wordA (x : RWord) (t : Thread) : Word := if x.za then 0 else t.reg x.a.toNat
def wordB (x : RWord) (t : Thread) : Word := if x.zb then 0 else t.reg x.b.toNat
def wordC (x : RWord) (t : Thread) : Word := if x.zc then 0 else t.reg x.c.toNat

/-- The thread retired at the next instruction, its registers but `ds` and everything outside its parcel unchanged. -/
structure WentOn (s u : State) (g : Group) (t t' : Thread) (ds : List Dest) : Prop where
  at_ : RetiredAt u g.key t t' (t.pc + BitVec.ofNat 32 g.size)
  regs : RegistersOutside ds t t'
  rest : SameRest t t'
  memory : (u.hbm, u.lp, u.weight, u.link, u.regions, u.circle) = (s.hbm, s.lp, s.weight, s.link, s.regions, s.circle)
  engines : EnginesKept s u

/-- The members of a consist. -/
def MemberOf (c : Consist) (x : Nat) : Prop := c.members.getLsbD x = true

end Sys2Proof.Claims

/-- R142: CNEW makes a consist of no member, of the thread or of the executing group, and writes its handle; with no room it
makes none and writes 0. -/
def Sys2Proof.Claims.CnewMakesAConsist : Prop :=
  ∀ x s g t p, Alone s g (.cnew x) t → s.parcel? g.key = some p → t.tix < 1024 → x.v.toNat ≤ 2 →
    (∀ h, ConsistRoom s g.key g.core h → ParcelStep (.cnew x) s g t p (fun u p' t' =>
      WentOn s u g t t' [.g x.d.toNat] ∧ t'.reg x.d.toNat = h ∧
      ∃ c, p'.consists = p.consists ++ [c] ∧ c.handle = h ∧ c.open? = none ∧
        ∀ y, y < 1024 → (MemberOf c y ↔ x.v ≠ 0 ∧ y = t.tix))) ∧
    (s.indexLeft g.key.launchKey g.core = true → (¬ ∃ h, ConsistRoom s g.key g.core h) →
      ParcelStep (.cnew x) s g t p (fun u p' t' =>
        WentOn s u g t t' [.g x.d.toNat] ∧ t'.reg x.d.toNat = 0 ∧ p'.consists = p.consists))

/-- R140, R142: CFREE frees the consist, and the threads that wait on it trap with MMX 0x12; JOIN and LEAVE change the membership
of the thread, JOIN waits while an instance is open, and neither has an effect on a member or on a non-member. -/
def Sys2Proof.Claims.MembershipChanges : Prop :=
  (∀ x s g t p c, Alone s g (.cfree x) t → s.parcel? g.key = some p → s.consist? g.key (wordA x t) = some c →
    (∀ v ∈ p.threads, v.status ≠ .collective (wordA x t) ∧ v.status ≠ .membership (wordA x t)) →
    -- what it held is noted as freed in this cycle (R27)
    let s1 := s.noteFreed g.core { s.nothingFreed g.key.ctx with consists := 1 }
    ParcelStep (.cfree x) s g t p (fun u p' t' => WentOn s1 u g t t' [] ∧
      p'.consists = p.consists.filter (fun c => c.handle != wordA x t) ∧ u.consist? g.key (wordA x t) = none)) ∧
  (∀ x s g t p c v h, Alone s g (.cfree x) t → s.parcel? g.key = some p → s.consist? g.key (wordA x t) = some c →
    CanTrap s g.key v h → (p.threads.map (·.tix)).Nodup → p.thread? v.tix = some v → v.tix ≠ t.tix →
    (v.status = .collective (wordA x t) ∨ v.status = .membership (wordA x t)) →
    (∀ w ∈ p.threads, w.tix ≠ v.tix → w.status ≠ .collective (wordA x t) ∧ w.status ≠ .membership (wordA x t)) →
    ∃ u v', exec (.cfree x) s = .next u ∧ TrapTaken u g.key v v' 0x1203 ((wordA x t).setWidth 64) v.pc 1 h) ∧
  (∀ x s g t p c, Alone s g (.join x) t → s.parcel? g.key = some p → s.consist? g.key (wordA x t) = some c → t.tix < 1024 →
    (MemberOf c t.tix → ParcelStep (.join x) s g t p (fun u p' t' => WentOn s u g t t' [] ∧ p'.consists = p.consists)) ∧
    (¬ MemberOf c t.tix → c.open? = none → ParcelStep (.join x) s g t p (fun u _ t' => WentOn s u g t t' [] ∧
      ∃ c', u.consist? g.key (wordA x t) = some c' ∧ ∀ y, y < 1024 → (MemberOf c' y ↔ MemberOf c y ∨ y = t.tix))) ∧
    (¬ MemberOf c t.tix → c.open? ≠ none → ParcelStep (.join x) s g t p (fun _ p' t' =>
      t'.status = .membership (wordA x t) ∧ t'.pc = t.pc ∧ t'.retired = t.retired ∧ RegistersOutside [] t t' ∧
      p'.consists = p.consists))) ∧
  (∀ x s g t p c, Alone s g (.leave x) t → s.parcel? g.key = some p → s.consist? g.key (wordA x t) = some c → t.tix < 1024 →
    (¬ MemberOf c t.tix → ParcelStep (.leave x) s g t p (fun u p' t' => WentOn s u g t t' [] ∧ p'.consists = p.consists)) ∧
    (MemberOf c t.tix → c.open? = none → ParcelStep (.leave x) s g t p (fun u _ t' => WentOn s u g t t' [] ∧
      ∃ c', u.consist? g.key (wordA x t) = some c' ∧ ∀ y, y < 1024 → (MemberOf c' y ↔ MemberOf c y ∧ y ≠ t.tix))))

/-- R143: ELECT writes 1 in a thread that executes it alone and is a member of the consist it names, 0 otherwise. -/
def Sys2Proof.Claims.ElectChoosesAMember : Prop :=
  ∀ x s g t p, Alone s g (.elect x) t → s.parcel? g.key = some p →
    ParcelStep (.elect x) s g t p (fun u p' t' => WentOn s u g t t' [.p (x.d.toNat % 16)] ∧ p'.consists = p.consists ∧
      (predD x.d t' = true ↔ ∃ c, s.consist? g.key (wordA x t) = some c ∧ MemberOf c t.tix))

namespace Sys2Proof.Claims
open Machine

/-! ### Collectives (R138, R139, R144, R145) -/

/-- What a collective instruction names, and what its thread supplies at its arrival. -/
structure Supply where
  handle : Word
  kind : CollKind
  arrival : Arrival

/-- The supply of each collective. -/
def supplyOf (i : Instr) (t : Thread) : Option Supply :=
  match i with
  | .cbar x => some ⟨wordA x t, .cbar, ⟨t.tix, 0, 0, 0, false⟩⟩
  | .cshfl x => some ⟨wordC x t, .cshfl x.ty x.v,
      ⟨t.tix, x.d.toNat, BitVec.ofNat 64 (t.bits x.a x.za x.ty), wordB x t, false⟩⟩
  | .creduce x => some ⟨wordB x t, .creduce x.ty x.v, ⟨t.tix, x.d.toNat, BitVec.ofNat 64 (t.bits x.a x.za x.ty), 0, false⟩⟩
  | .cscan x => some ⟨wordB x t, .cscan x.ty x.v (x.c.getLsbD 4) (x.c.getLsbD 5),
      ⟨t.tix, x.d.toNat, BitVec.ofNat 64 (t.bits x.a x.za x.ty), 0, x.c.getLsbD 5 && t.pred (x.c.extractLsb' 0 4).toNat⟩⟩
  | .cvote x => some ⟨wordB x t, .cvote x.v, ⟨t.tix, x.d.toNat, if predD x.a t then 1 else 0, 0, false⟩⟩
  | _ => none

/-- A member whose older stores are performed is about to arrive at a consist whose open instance, if it has one, is of the same
kind and without it. -/
structure Arriving (s : State) (g : Group) (i : Instr) (t : Thread) (q : Supply) (p : Parcel) (c : Consist) : Prop where
  alone : Alone s g i t
  supply : supplyOf i t = some q
  parcel : s.parcel? g.key = some p
  consist : s.consist? g.key q.handle = some c
  member : MemberOf c t.tix
  stores : t.storeQ = []
  kind : ∀ o, c.open? = some o → o.kind = q.kind ∧ ∀ a ∈ o.arrivals, a.tix ≠ t.tix

/-- The arrivals at the open instance. -/
def arrivalsOf (c : Consist) : List Arrival := match c.open? with | some o => o.arrivals | none => []

/-- The arrivals in rank order, once every member has arrived. -/
def inRankOrder (c : Consist) (as : List Arrival) (sups : List Arrival) : Prop :=
  sups.map (·.tix) = (List.range 1024).filter (fun y => c.members.getLsbD y) ∧ ∀ a ∈ sups, as.find? (fun b => b.tix == a.tix) = some a

/-- Op(x, y) of R144. -/
def foldOf (ty : TypeCode) (v : Nat) (x y : Nat) : Nat :=
  if ty.isInt then
    match v with
    | 0 => (x + y) % 2 ^ ty.bits
    | 1 => lessOf ty x y
    | 2 => if ty.intValue x ≤ ty.intValue y then y else x
    | 3 => x &&& y
    | 4 => x ||| y
    | _ => x ^^^ y
  else match v with
    | 0 => ty.fmt.round .rne (Val.add false (ty.fmt.value x) (ty.fmt.value y))
    | 1 => pickBits ty false x y
    | _ => pickBits ty true x y

/-- A segmented or plain scan: the accumulator before rank `r` is the fold of its segment's earlier values. -/
def scanInclusive (ty : TypeCode) (v : Nat) (seg : Bool) (sups : List Arrival) (out : List Nat) : Prop :=
  out.length = sups.length ∧ ∀ r a, sups[r]? = some a →
    out[r]? = some (if r = 0 ∨ (seg = true ∧ a.seg = true) then a.val.toNat
      else foldOf ty v (out[r - 1]?.getD 0) a.val.toNat)

end Sys2Proof.Claims

/-- R139: while other members are awaited, an arriving member enters phase wait at its collective with its destination unwritten,
and its values stand in the instance. -/
def Sys2Proof.Claims.CollectivesWaitForEveryMember : Prop :=
  ∀ i s g t q p c, Arriving s g i t q p c → (∃ y < 1024, MemberOf c y ∧ y ≠ t.tix ∧ ∀ a ∈ arrivalsOf c, a.tix ≠ y) →
    ParcelStep i s g t p (fun u _ t' => t'.status = .collective q.handle ∧ t'.pc = t.pc ∧ t'.retired = t.retired ∧
      RegistersOutside [] t t' ∧ t'.detect.rc = t.detect.rc + 1 ∧ EnginesKept s u ∧ Elsewhere s u g.key t.tix false ∧
      ∃ c' o, u.consist? g.key q.handle = some c' ∧ c'.members = c.members ∧ c'.completed = c.completed ∧ c'.open? = some o ∧
        o.kind = q.kind ∧ o.arrivals = arrivalsOf c ++ [q.arrival])

/-- R139, R140: the arrival of the last member completes the instance: every member is ready behind its collective with its result
written, the threads in membership wait join, and the consist has no open instance and one phase more. -/
def Sys2Proof.Claims.CollectivesCompleteTogether : Prop :=
  ∀ i s g t q p c sups, Arriving s g i t q p c → inRankOrder c (arrivalsOf c ++ [q.arrival]) sups →
    (p.threads.map (·.tix)).Nodup → (∀ v ∈ p.threads, MemberOf c v.tix → v.status ≠ .membership q.handle) →
    ParcelStep i s g t p (fun u _ _ =>
      (∀ (r : Nat) (a : Arrival) v, sups[r]? = some a → p.thread? a.tix = some v →
        ∃ v' w, u.thread? g.key a.tix = some v' ∧ v'.status = .ready ∧ v'.pc = v.pc + 8 ∧ v'.retired = retiredNext v ∧
          w = q.kind.deliver a.d ((q.kind.results sups)[r]?.getD 0) v ∧ (v'.g, v'.p, v'.c) = (w.g, w.p, w.c)) ∧
      (∀ v ∈ p.threads, v.status = .membership q.handle → p.thread? v.tix = some v → v.tix < 1024 →
        ∃ v', u.thread? g.key v.tix = some v' ∧ v'.status = .ready ∧ v'.pc = v.pc + 8) ∧
      ∃ c', u.consist? g.key q.handle = some c' ∧ c'.open? = none ∧ c'.completed = c.completed + 1 ∧
        ∀ y, y < 1024 → (MemberOf c' y ↔ MemberOf c y ∨ ∃ v ∈ p.threads, v.tix = y ∧ v.status = .membership q.handle))

/-- R144, R145: the results of CSHFL, CREDUCE, CSCAN and CVOTE over the values supplied, in rank order. A NaN result is
canonical, but for the first value of a segment in an inclusive scan; that CREDUCE makes it so once, at the end of its fold, is the
model's reading (log entry 18). -/
def Obligations.CollectiveResultsInRankOrder : Prop :=
  (∀ ty (v : BitVec 3) sups (r : Nat) (a : Arrival), sups[r]? = some a → v.toNat ≤ 3 →
    let k : Int := match v.toNat with
      | 0 => a.aux.toNat
      | 1 => (r : Int) - a.aux.toNat
      | 2 => (r : Int) + a.aux.toNat
      | _ => (r ^^^ a.aux.toNat : Nat)
    ((CollKind.cshfl ty v).results sups)[r]? =
      some (if 0 ≤ k ∧ k < sups.length then ((sups[k.toNat]?).map (fun b => b.val.toNat)).getD 0 else a.val.toNat)) ∧
  (∀ ty (v : BitVec 3) sups (r : Nat) (a : Arrival) first rest, sups.map (fun b => b.val.toNat) = first :: rest → sups[r]? = some a →
    v.toNat ≤ 5 →
    let e := rest.foldl (foldOf ty v.toNat) first
    ((CollKind.creduce ty v).results sups)[r]? =
      some (if ty.isInt = false ∧ ty.fmt.value e = .nan then ty.fmt.nan else e)) ∧
  (∀ ty (v : BitVec 3) seg sups, v.toNat ≤ 5 → scanInclusive ty v.toNat seg sups ((CollKind.cscan ty v false seg).results sups)) ∧
  (∀ ty (v : BitVec 3) seg sups (r : Nat) (a : Arrival), v.toNat ≤ 5 → sups[r]? = some a →
    ((CollKind.cscan ty v true seg).results sups)[r]? =
      some (if r = 0 ∨ (seg = true ∧ a.seg = true) then foldIdentity ty v
        else
          let e := ((CollKind.cscan ty v false seg).results sups)[r - 1]?.getD 0
          if ty.isInt = false ∧ ty.fmt.value e = .nan then ty.fmt.nan else e)) ∧
  (∀ (v : BitVec 3) sups (r : Nat) (a : Arrival), sups[r]? = some a →
    let ones := sups.countP (fun b => b.val != 0)
    ((CollKind.cvote v).results sups)[r]? = some (match v.toNat with
      | 0 => if ones = sups.length then 1 else 0
      | 1 => if ones = 0 then 0 else 1
      | 2 => if ones = 0 ∨ ones = sups.length then 1 else 0
      | _ => ones)) ∧
  (∀ ty (v : BitVec 3), ty.isInt = true → foldIdentity ty v % 2 ^ ty.bits = foldIdentity ty v ∧
    (v.toNat = 0 → foldIdentity ty v = 0) ∧ (v.toNat = 1 → ty.intValue (foldIdentity ty v) = highest ty) ∧
    (v.toNat = 2 → ty.intValue (foldIdentity ty v) = lowest ty) ∧ (v.toNat = 3 → foldIdentity ty v = 2 ^ ty.bits - 1) ∧
    (v.toNat = 4 ∨ v.toNat = 5 → foldIdentity ty v = 0))

namespace Sys2Proof.Claims
open Machine

/-! ### Engine requests (R26, R206, R227, R228, R231) -/

/-- The thread may issue a request of a class to an engine context (R26, R206, R209), and its older stores are performed. -/
structure EngineFree (s : State) (g : Group) (t : Thread) (cls : CntClass) (ctx : Nat) : Prop where
  free : FreeToIssue t cls
  stores : t.storeQ = []
  room : (s.core g.core).load ctx < 64

/-- The number the next request of a context of a core takes (R227). -/
def nextNumber (s : State) (core ctx : Nat) : Nat := ((s.core core).timeline ctx).issued + 1

/-- A thread has issued a request: it goes on, its counter has grown, and it keeps the number (R206, R227). -/
structure Issued (s u : State) (g : Group) (t t' : Thread) (cls : CntClass) (ctx : Nat) : Prop where
  at_ : RetiredAt u g.key t t' (t.pc + BitVec.ofNat 32 g.size)
  regs : RegistersOutside [] t t'
  counts : t'.counts = oneMore t cls
  own : (Tbl.get 0 t'.own ctx).toNat = nextNumber s g.core ctx % 2 ^ 64

/-- The timeline of the context has one request more under way; the others are as they were. -/
def RunsOn (s u : State) (core ctx : Nat) : Prop :=
  let n := nextNumber s core ctx
  let tl := (s.core core).timeline ctx
  (u.core core).timeline ctx = ⟨n, tl.running ++ [n], tl.failN, tl.failC, tl.nFail, tl.recent⟩ ∧
    ∀ c, c ≠ ctx → (u.core core).timeline c = (s.core core).timeline c

/-- A core but for its timelines and its queues of requests. -/
def quietCore (c : Core) : Core :=
  let c1 := { coreParts c with timelines := [], copies := [], index := [], matrix := [] }
  { c1 with sets := [], watches := [], segments := [], jobCursors := [] }

/-- The instruction puts one request into its queue: `post` says which, given its serial number and its number. -/
def Enqueues (i : Instr) (s : State) (g : Group) (t : Thread) (cls : CntClass) (ctx : Nat)
    (post : State → Thread → Nat → Nat → Prop) : Prop :=
  ∃ u t', exec i s = .next u ∧ Issued s u g t t' cls ctx ∧ RunsOn s u g.core ctx ∧ Elsewhere s u g.key t.tix true ∧
    (∀ n, quietCore (u.core n) = quietCore (s.core n)) ∧ (∀ n, n ≠ g.core → coreParts (u.core n) = coreParts (s.core n)) ∧
    post u t' s.nextUid (nextNumber s g.core ctx)

/-- The 32-bit operand in a field of format E. -/
def at32 (t : Thread) (f : BitVec 9) : Nat := (t.reg f.toNat).toNat

/-- A parameter block of `n` bytes and a barrier lie in the allotment, aligned (R234). -/
def BlockAndBarrier (s : State) (k : PKey) (blk n bar : Nat) : Prop :=
  blk % 16 = 0 ∧ blk + n ≤ (s.parcel k).spSize ∧ 16 ≤ n ∧ bar % 16 = 0 ∧ bar + 16 ≤ (s.parcel k).spSize

/-- The block at an offset. -/
def blockAt (s : State) (k : PKey) (off n : Nat) : Nat := Mem.nat (s.parcel k).spad off n

/-- A capability grants a right on some ranges, and held leases cover them (R213, R222). -/
def Granted (s : State) (k : PKey) (cap : QWord) (right : Right) (ranges : List (Nat × Nat)) : Prop :=
  capTraps cap right ranges = none ∧ s.leaseFaults k cap right ranges = none

/-- A copy enters its context with nothing moved. -/
def CopyEnters (i : Instr) (s : State) (g : Group) (t : Thread) (ctx : Nat) (kind : CopyKind) (bar nominal units : Nat) : Prop :=
  Enqueues i s g t .copies ctx (fun u _ uid num =>
    (u.core g.core).copies = (s.core g.core).copies ++
      [⟨uid, ctx, num, false, g.key, t.tix, t.pc, kind, some bar, nominal, units, 0, 0, none, none, ⟨[], [], []⟩⟩] ∧
    (u.core g.core).index = (s.core g.core).index ∧ (u.core g.core).segments = (s.core g.core).segments)

/-- The 4 KiB units of a number of bytes (R237). -/
def unitsOf (n : Nat) : Nat := (n + 4095) / 4096

/-- A request is numbered and completes at once as failed: its count goes to the barrier with the code, and its timeline records
the failure (R201, R231, R232). -/
def FailsAtIssue (i : Instr) (s : State) (g : Group) (t : Thread) (ctx bar nominal : Nat) (code : Word) : Prop :=
  ∃ u t' p', exec i s = .next u ∧ RetiredAt u g.key t t' (t.pc + BitVec.ofNat 32 g.size) ∧ RegistersOutside [] t t' ∧
    t'.counts = t.counts ∧ (Tbl.get 0 t'.own ctx).toNat = nextNumber s g.core ctx % 2 ^ 64 ∧ u.parcel? g.key = some p' ∧
    p'.barrier bar = counted ((s.parcel g.key).barrier bar) nominal code ∧ BytesOutside (s.parcel g.key) p' bar 16 ∧
    (u.core g.core).copies = (s.core g.core).copies ∧
    (let n := nextNumber s g.core ctx
     let tl := (u.core g.core).timeline ctx
     tl.issued = n ∧ tl.failN = n ∧ tl.failC = code ∧ n ∈ tl.recent ∧ n ∉ tl.running)

/-- A box copy: its record, its origins, its capability (R229, R234, R235). -/
def boxOf (s : State) (g : Group) (t : Thread) (x : EWord) : BitVec 512 := BitVec.ofNat 512 (blockAt s g.key (at32 t x.p) 64)

end Sys2Proof.Claims

/-- R234 to R237: CPIN, CPOUT, CPTX and CPMC with a valid record, granted by capabilities and leases, take the next number of
their context and wait there with the nominal count and units of their box or length; a CPMC of LENGTH 0 completes at once. -/
def Sys2Proof.Claims.CopiesEnterTheirContext : Prop :=
  (∀ x s g t, Alone s g (.cpin x) t → EngineFree s g t .copies x.q.toNat →
    BlockAndBarrier s g.key (at32 t x.p) 64 (at32 t x.bar) →
    let b := boxOf s g t x
    let org := originsOf (t.pair x.x.toNat) (t.pair x.y.toNat)
    let cap := t.cap (recCap b)
    (s.parcel g.key).recCode b org .cpin (s.classOf ⟨g.key.ctx, capObj cap⟩) = 0 → Granted s g.key cap .r (recRanges b org) →
    CopyEnters (.cpin x) s g t x.q.toNat (.cpin b (t.pair x.x.toNat) (t.pair x.y.toNat) cap) (at32 t x.bar)
      (nominalOf b .cpin) (unitsOf (nominalOf b .cpin))) ∧
  (∀ x s g t, Alone s g (.cpout x) t → EngineFree s g t .copies x.q.toNat →
    BlockAndBarrier s g.key (at32 t x.p) 64 (at32 t x.bar) →
    let b := boxOf s g t x
    let org := originsOf (t.pair x.x.toNat) (t.pair x.y.toNat)
    let cap := t.cap (recCap b)
    (s.parcel g.key).recCode b org .cpout (s.classOf ⟨g.key.ctx, capObj cap⟩) = 0 → Granted s g.key cap .w (recRanges b org) →
    CopyEnters (.cpout x) s g t x.q.toNat (.cpout b (t.pair x.x.toNat) (t.pair x.y.toNat) cap) (at32 t x.bar)
      (nominalOf b .cpout) (unitsOf (nominalOf b .cpout))) ∧
  (∀ x s g t, Alone s g (.cptx x) t → EngineFree s g t .copies x.q.toNat →
    BlockAndBarrier s g.key (at32 t x.p) 128 (at32 t x.bar) →
    let bs := boxOf s g t x
    let bd : BitVec 512 := BitVec.ofNat 512 (blockAt s g.key (at32 t x.p + 64) 64)
    let os := t.pair x.x.toNat
    let od := t.pair x.y.toNat
    let capS := t.cap (recCap bs)
    let capD := t.cap (recCap bd)
    (s.parcel g.key).recCode bs (originsTx os) .txSource 0 = 0 →
    (∀ cls, cls = s.classOf ⟨g.key.ctx, capObj capS⟩ ∨ cls = s.classOf ⟨g.key.ctx, capObj capD⟩ →
      (s.parcel g.key).recCode bd (originsTx od) (.txDest bs) cls = 0) →
    Granted s g.key capS .r (recRanges bs (originsTx os)) → Granted s g.key capD .w (recRanges bd (originsTx od)) →
    CopyEnters (.cptx x) s g t x.q.toNat (.cptx bs bd os od capS capD) (at32 t x.bar)
      (nominalOf bd .cpout) (unitsOf (nominalOf bd .cpout))) ∧
  (∀ x s g t, Alone s g (.cpmc x) t → EngineFree s g t .copies x.q.toNat →
    BlockAndBarrier s g.key (at32 t x.p) 32 (at32 t x.bar) →
    let b : BitVec 256 := BitVec.ofNat 256 (blockAt s g.key (at32 t x.p) 32)
    let n := (b.extractLsb' 192 48).toNat
    let capS := t.cap (b.extractLsb' 0 3).toNat
    let capD := t.cap (b.extractLsb' 8 3).toNat
    linReserved b = false → Granted s g.key capS .r [((b.extractLsb' 64 48).toNat, n)] →
    Granted s g.key capD .w [((b.extractLsb' 128 48).toNat, n)] →
    (0 < n → CopyEnters (.cpmc x) s g t x.q.toNat (.cpmc b capS capD) (at32 t x.bar) n (unitsOf n)) ∧
    (n = 0 → ∃ u t', exec (.cpmc x) s = .next u ∧ RetiredAt u g.key t t' (t.pc + BitVec.ofNat 32 g.size) ∧
      RegistersOutside [] t t' ∧ t'.counts = t.counts ∧
      (Tbl.get 0 t'.own x.q.toNat).toNat = nextNumber s g.core x.q.toNat % 2 ^ 64 ∧ Elsewhere s u g.key t.tix true ∧
      (u.core g.core).copies = (s.core g.core).copies ∧
      (let tl := (u.core g.core).timeline x.q.toNat
       tl.issued = nextNumber s g.core x.q.toNat ∧ nextNumber s g.core x.q.toNat ∉ tl.running ∧
         tl.failN = ((s.core g.core).timeline x.q.toNat).failN)))

/-- R231, R232: a CPIN, CPOUT or CPMC with an invalid record is numbered and completes as failed with the code of its record. -/
def Sys2Proof.Claims.InvalidCopiesFailWithTheirCode : Prop :=
  (∀ x s g t, Alone s g (.cpin x) t → EngineFree s g t .copies x.q.toNat →
    BlockAndBarrier s g.key (at32 t x.p) 64 (at32 t x.bar) → s.parcel? g.key ≠ none →
    let b := boxOf s g t x
    ∀ code, code = (s.parcel g.key).recCode b (originsOf (t.pair x.x.toNat) (t.pair x.y.toNat)) .cpin
      (s.classOf ⟨g.key.ctx, capObj (t.cap (recCap b))⟩) → code ≠ 0 →
    FailsAtIssue (.cpin x) s g t x.q.toNat (at32 t x.bar) (nominalOf b .cpin) (BitVec.ofNat 32 code)) ∧
  (∀ x s g t, Alone s g (.cpout x) t → EngineFree s g t .copies x.q.toNat →
    BlockAndBarrier s g.key (at32 t x.p) 64 (at32 t x.bar) → s.parcel? g.key ≠ none →
    let b := boxOf s g t x
    ∀ code, code = (s.parcel g.key).recCode b (originsOf (t.pair x.x.toNat) (t.pair x.y.toNat)) .cpout
      (s.classOf ⟨g.key.ctx, capObj (t.cap (recCap b))⟩) → code ≠ 0 →
    FailsAtIssue (.cpout x) s g t x.q.toNat (at32 t x.bar) (nominalOf b .cpout) (BitVec.ofNat 32 code)) ∧
  (∀ x s g t, Alone s g (.cpmc x) t → EngineFree s g t .copies x.q.toNat →
    BlockAndBarrier s g.key (at32 t x.p) 32 (at32 t x.bar) → s.parcel? g.key ≠ none →
    let b : BitVec 256 := BitVec.ofNat 256 (blockAt s g.key (at32 t x.p) 32)
    linReserved b = true → FailsAtIssue (.cpmc x) s g t x.q.toNat (at32 t x.bar) (b.extractLsb' 192 48).toNat 0x09)

/-- R227: DONE is the largest number up to which no request of the context is under way. -/
def Obligations.DoneIsTheLastCompleteNumber : Prop :=
  ∀ tl : Timeline, (∀ r ∈ tl.running, 1 ≤ r ∧ r ≤ tl.issued) →
    tl.done ≤ tl.issued ∧ ∀ m, m ≤ tl.issued → (m ≤ tl.done ↔ ∀ r ∈ tl.running, m < r)

namespace Sys2Proof.Claims
open Machine

/-- A scoreboarded result whose values are known: the instruction goes on, and its destinations are pending (R151). -/
def Answers (i : Instr) (s : State) (g : Group) (t : Thread) (ws : List (Dest × Nat)) : Prop :=
  ∃ u t' e, exec i s = .next u ∧ RetiredAt u g.key t t' (t.pc + BitVec.ofNat 32 g.size) ∧ RegistersOutside [] t t' ∧
    t'.counts = t.counts ∧ t'.pend = t.pend ++ [e] ∧ e.uid = s.nextUid ∧ e.dests = ws.map (·.1) ∧
    (∃ vs, e.vals = some vs ∧ vs.map (fun w => (w.dest, w.val.toNat)) = ws) ∧ Elsewhere s u g.key t.tix true ∧ EnginesKept s u

/-- The two registers of a pair with the halves of a value. -/
def inPair (d v : Nat) : List (Dest × Nat) := [(.g d, v % 2 ^ 32), (.g (d + 1), v / 2 ^ 32 % 2 ^ 32)]

end Sys2Proof.Claims

/-- R242: TLREAD answers with DONE, ISSUED, the thread's own latest number, or FAILN in a pair, with FAILC or NFAIL in one register;
ENGQ answers with the state of a number and its cursor. -/
def Sys2Proof.Claims.TimelinesAreRead : Prop :=
  (∀ x s g t, Alone s g (.tlread x) t →
    let c := x.a.toNat % 16
    let tl := (s.core g.core).timeline c
    let d := x.d.toNat
    (x.v = 0 → Answers (.tlread x) s g t (inPair d tl.done)) ∧ (x.v = 1 → Answers (.tlread x) s g t (inPair d tl.issued)) ∧
    (x.v = 2 → Answers (.tlread x) s g t (inPair d (Tbl.get 0 t.own c).toNat)) ∧
    (x.v = 3 → Answers (.tlread x) s g t (inPair d tl.failN)) ∧
    (x.v = 4 → Answers (.tlread x) s g t [(.g d, tl.failC.toNat)]) ∧ (x.v = 5 → Answers (.tlread x) s g t [(.g d, tl.nFail.toNat)])) ∧
  (∀ x s g t, Alone s g (.engq x) t →
    let n := (t.pair x.y.toNat).toNat
    let c := s.core g.core
    let tl := c.timeline x.q.toNat
    ∃ state cursor, Answers (.engq x) s g t [(.g x.p.toNat, state), (.g (x.p.toNat + 1), cursor)] ∧
      (tl.issued < n → state = 5) ∧
      (n ≤ tl.issued → (∀ j ∈ c.index, x.q.toNat = 4 → j.num = n → j.restored = true ∨ j.suspended = 0) →
        state = if n ∈ tl.recent then 2 else if tl.done < n then 1 else 0) ∧
      (x.q.toNat ≠ 4 → (∀ r ∈ c.copies, r.ctx = x.q.toNat → r.num ≠ n) → cursor = 0xFFFFFFFF))

/-- R205, R242: a TLWATCH whose value DONE has reached arrives at its barrier at once; otherwise the core keeps the watch, with the
thread's next release count, and WATCH_FIRE makes the arrival once DONE has reached the value and drops the watch. -/
def Sys2Proof.Claims.WatchesArriveWhenDone : Prop :=
  (∀ x s g t p, Alone s g (.tlwatch x) t → s.parcel? g.key = some p → t.fenceNumber = false → t.storeQ = [] →
    at32 t x.bar % 16 = 0 → at32 t x.bar + 16 ≤ p.spSize →
    let v := t.pair x.y.toNat
    let bar := at32 t x.bar
    let b := p.barrier bar
    (v.toNat ≤ ((s.core g.core).timeline x.q.toNat).done → ∃ u t' p', exec (.tlwatch x) s = .next u ∧
      RetiredAt u g.key t t' (t.pc + BitVec.ofNat 32 g.size) ∧ RegistersOutside [] t t' ∧ t'.detect.rc = t.detect.rc + 1 ∧
      u.parcel? g.key = some p' ∧ BytesOutside p p' bar 16 ∧
      p'.barrier bar = (if b.pend = 0 then ⟨if b.err = 0 then 0x101 else b.err, b.bytes, b.phase, b.pend, b.init⟩
        else tested ⟨b.err, b.bytes, b.phase, b.pend - 1, b.init⟩)) ∧
    (((s.core g.core).timeline x.q.toNat).done < v.toNat → (s.core g.core).watches.length < 64 →
      ∃ u t', exec (.tlwatch x) s = .next u ∧ RetiredAt u g.key t t' (t.pc + BitVec.ofNat 32 g.size) ∧
        RegistersOutside [] t t' ∧ Elsewhere s u g.key t.tix true ∧
        (u.core g.core).watches = (s.core g.core).watches ++ [⟨g.key, t.tix, x.q.toNat, v, bar, t.detect.rc + 1⟩])) ∧
  (∀ s core k w p, (s.core core).watches[k]? = some w → w.value.toNat ≤ ((s.core core).timeline w.ctx).done →
    s.parcel? w.key = some p →
    let b := p.barrier w.bar
    ∃ u p', exec (.watchFire core k) s = .next u ∧ u.parcel? w.key = some p' ∧ BytesOutside p p' w.bar 16 ∧
      (u.core core).watches = (s.core core).watches.take k ++ (s.core core).watches.drop (k + 1) ∧
      p'.barrier w.bar = (if b.pend = 0 then ⟨if b.err = 0 then 0x101 else b.err, b.bytes, b.phase, b.pend, b.init⟩
        else tested ⟨b.err, b.bytes, b.phase, b.pend - 1, b.init⟩))

/-! ### Statements of several parts -/

/-- R156 to R158: integer arithmetic, division and the carry chains. -/
def Obligations.IntegerArithmetic : Prop :=
  Sys2Proof.Claims.IntegerResultsAreExactThenSaturatedOrWrapped ∧ Sys2Proof.Claims.DivisionTruncatesTowardZero ∧ Sys2Proof.Claims.CarryAndBorrowChains

/-- R159 to R164: logic, shifts, bit fields, counts and the three-input table. -/
def Obligations.LogicShiftsAndBitFields : Prop :=
  Sys2Proof.Claims.LogicWorksBitByBit ∧ Sys2Proof.Claims.ShiftsMoveEveryBit ∧ Sys2Proof.Claims.BitFieldsCountsAndTables

/-- R166, R168 and R169: floating-point results, minimum, maximum and class. -/
def Obligations.FloatingPointResults : Prop :=
  Sys2Proof.Claims.FloatingPointRoundsOnce ∧ Sys2Proof.Claims.MinimumMaximumAndClass

/-- R92: rounding takes a neighbour of the exact value, and treats the two signs alike. -/
def Obligations.RoundingTreatsTheSignsAlike : Prop :=
  Sys2Proof.Claims.RoundingTakesANeighbour ∧ Sys2Proof.Claims.RoundingMirrorsTheSign

/-- R175, R177 and R216: moves, comparisons and the reading of capabilities. -/
def Obligations.MovesComparesAndCapabilities : Prop :=
  Sys2Proof.Claims.MovesCopyPatterns ∧ Sys2Proof.Claims.ComparesWritePredicates ∧ Sys2Proof.Claims.CapabilitiesAreDerivedAndRead

/-- R131: branches, calls and returns, and the check of their targets. -/
def Obligations.BranchesAndTheirTargets : Prop :=
  Sys2Proof.Claims.BranchesGoToTheirTargets ∧ Sys2Proof.Claims.BranchTargetsAreChecked ∧ Sys2Proof.Claims.DivergentBranchesPartOrTrap

/-- R178 to R205: loads, atomics and barrier operations enter the scratchpad port. -/
def Obligations.AccessesEnterThePort : Prop :=
  Sys2Proof.Claims.LoadsEnterThePort ∧ Sys2Proof.Claims.AtomicsAndBarriersEnterThePort

/-- Stores, engine bytes and byte counts reach the scratchpad, each by its own step. -/
def Obligations.StoresLandingsAndCountsReachMemory : Prop :=
  Sys2Proof.Claims.StoresArePerformedInOrder ∧ Sys2Proof.Claims.EngineBytesLandAndAreCountedLater ∧ Sys2Proof.Claims.ByteCountsReachTheirBarrier

/-- R137 to R143: making, joining, leaving and freeing a consist, and its elected member; handles when room runs out midway are
log entry 57. -/
def Obligations.ConsistMembership : Prop :=
  Sys2Proof.Claims.CnewMakesAConsist ∧ Sys2Proof.Claims.MembershipChanges ∧ Sys2Proof.Claims.ElectChoosesAMember

namespace Sys2Proof.Claims
open Machine

/-! ### Copy steps and overlays (R135, R136, R228, R237) -/

/-- The request with a serial number on a core. -/
def requestOf (s : State) (core uid : Nat) : Option CopyReq := (s.core core).copies.find? (fun r => r.uid == uid)

/-- A unit of `n` bytes has been moved: the request stands one unit further, with `n` more bytes handed on, and holds `c` of its
data for a later unit. -/
def UnitMoved (u : State) (core : Nat) (r : CopyReq) (n : Nat) (c : Carry) : Prop :=
  requestOf u core r.uid = some { r with done := r.done + 1, counted := r.counted + n, evicts := none, carry := c }

/-- Who a request of a core reads and writes for. -/
def issuerOf (core : Nat) (r : CopyReq) : Issuer := ⟨r.key, r.tix, r.pc, core⟩

/-- The place of a box element in its local box, dim 0 fastest, with dims 0 and 1 exchanged where the copy transposes (R229,
R230). -/
def boxPlace (b : BitVec 512) (swap : Bool) (i : List Nat) : Nat :=
  let e0 := if swap then recB b 1 else recB b 0
  let e1 := if swap then recB b 0 else recB b 1
  let i0 := if swap then dimOf i 1 else dimOf i 0
  let i1 := if swap then dimOf i 0 else dimOf i 1
  i0 + e0 * (i1 + e1 * (dimOf i 2 + recB b 2 * (dimOf i 3 + recB b 3 * dimOf i 4)))

/-- The pattern of an element of an object's box in the bytes read of it (R229). -/
def elementIn (b : BitVec 512) (org : List Nat) (g : Gather) (i : List Nat) : Nat :=
  if fmtBits (recFmt b) = 4 then gatherNat g (elemAt b org i) 1 / 16 ^ ((dimOf org 0 + dimOf i 0) % 2) % 16
  else gatherNat g (elemAt b org i) (fmtBits (recFmt b) / 8)

/-- The pattern that a CPIN of transform 0, 1, 2 or 4 lands for an element: as it is, or expanded to .bf16 under its scales
(R230, R88 to R90). -/
def landedPattern (b : BitVec 512) (org : List Nat) (g : Gather) (i : List Nat) : Nat :=
  if recXf b = 2 ∨ recXf b = 4 then
    let e := elemNo b org i
    Fmt.bf16.round .rne (blockValue (recFmt b) (elementIn b org g i)
      (gatherNat g (recOff b + recS b 2 + e / fmtBlen (recFmt b)) 1)
      (if recFmt b = 15 then gatherNat g (recOff b + recS b 3 + 4 * (e / 16384)) 4 else 0))
  else elementIn b org g i

/-- The bytes of a pattern, least significant first. -/
def bytesOf (w v : Nat) : List Byte := (List.range w).map (fun j => BitVec.ofNat 8 (v / 256 ^ j))

/-- The bytes that the elements of a one-unit box write to an object, given each one's pattern (R229, R235). -/
def boxBytes (b : BitVec 512) (org : List Nat) (pattern : List Nat → Nat) : Gather :=
  joinData ((List.range (recVolume b)).map (fun n =>
    (elemAt b org (boxIndex b n), bytesOf (fmtBits (recFmt b) / 8) (pattern (boxIndex b n)))))

/-- A box of at least one element that one unit moves, of elements of whole bytes, with nothing moved yet. -/
structure OneUnit (b : BitVec 512) (r : CopyReq) : Prop where
  some : 0 < recVolume b
  bits : fmtBits (recFmt b) = 8 ∨ fmtBits (recFmt b) = 16 ∨ fmtBits (recFmt b) = 32 ∨ fmtBits (recFmt b) = 64
  fits : recVolume b * fmtBits (recFmt b) ≤ 32768
  units : r.units = 1
  fresh : r.done = 0 ∧ r.carry = ⟨[], [], []⟩ ∧ r.evicts = none

/-- The segments of a core once an OVLD begins: the one it takes the place of has gone, and a new one stands there (R136). -/
def begunSegments (segs : List Segment) (r : CopyReq) (addr o : Nat) (source : Option (Nat × Nat × Nat)) : List Segment :=
  match r.evicts with
  | none => segs
  | some v => segs.filter (fun g => !(g.launch == r.key.launchKey && g.order == v)) ++
      [⟨r.key.launchKey, addr, o, source, false, []⟩]

/-- A segment after a unit of its OVLD has landed in it: it holds the unit's bytes, and every other byte as before. -/
def UnitInSegment (g g' : Segment) (at' : Nat) (bs : List Byte) : Prop :=
  { g' with bytes := [] } = { g with bytes := [] } ∧ (∀ j < bs.length, Mem.byte g'.bytes (at' + j) = bs[j]?.getD 0) ∧
  ∀ a, (a < at' ∨ at' + bs.length ≤ a) → Mem.byte g'.bytes a = Mem.byte g.bytes a

/-- The unit of an OVLD has landed its bytes in the segment it fills, and in no other. -/
def OverlayLands (s u : State) (core : Nat) (r : CopyReq) (addr o : Nat) (source : Option (Nat × Nat × Nat)) (bs : List Byte) : Prop :=
  List.Forall₂ (fun g g' => if g.launch = r.key.launchKey ∧ g.order = o then UnitInSegment g g' (4096 * r.done) bs else g' = g)
    (begunSegments (s.core core).segments r addr o source) (u.core core).segments

/-- Some landing carries a byte for an address. -/
def Carries (ls : List Landing) (a : Nat) (b : Byte) : Prop := ∃ l ∈ ls, ∃ x ∈ l.pieces, x.1 ≤ a ∧ x.2[a - x.1]? = some b

/-- The count a request hands to its barrier. -/
def handed (bar : Option Nat) (n req : Nat) : List Count :=
  match bar with
  | some b => if n = 0 then [] else [⟨b, n, 0, req, none⟩]
  | none => []

/-- An OVLD that its checks let by: with f its range has the right X and a lease. -/
structure OverlayRequest (s : State) (g : Group) (t : Thread) (x : EWord) (l : Launch) : Prop extends Alone s g (.ovld x) t where
  engine : EngineFree s g t .copies (x.mod.extractLsb' 0 2).toNat
  barrier : at32 t x.bar % 16 = 0 ∧ at32 t x.bar + 16 ≤ (s.parcel g.key).spSize
  parcel : s.parcel? g.key ≠ none
  launch : s.launch? g.key.launchKey = some l
  fresh : ∀ r ∈ (s.core g.core).copies, r.uid ≠ s.nextUid
  granted : x.f = true → capTrap (t.cap (x.q.toNat % 8)) .x (t.pair x.x.toNat).toNat 16384 = none ∧
    s.leaseFault g.key (t.cap (x.q.toNat % 8)) .x (t.pair x.x.toNat).toNat 16384 = none

/-- The overlay list of the launch reads without an error, where the OVLD reads it (R423). -/
def ListReads (s : State) (x : EWord) (l : Launch) : Prop := x.f = false → s.overlayRead l = (s, 0)

/-- An address at which an overlay segment may lie (R126, R136). -/
def overlayAddress (a : Nat) : Prop := a % 16384 = 0 ∧ 262144 ≤ a ∧ a ≤ 2 ^ 32 - 16384

/-- What an OVLD copies from: the segment of the launch's overlay image, or the range of its capability. -/
def overlaySource (s : State) (t : Thread) (x : EWord) (l : Launch) (a : Nat) : Option (CopyKind × Option (Nat × Nat × Nat)) :=
  if x.f then
    let k := t.cap (x.q.toNat % 8)
    let off := capBase k + (t.pair x.x.toNat).toNat
    some (.ovldObject a (capObj k) off (x.q.toNat % 8), some (capObj k, off, x.q.toNat % 8))
  else match s.overlay? l a with
    | some d => some (.ovldList a (BitVec.ofNat 64 d), none)
    | none => none

/-- The OVLD is numbered and its request stands in its context, to fill a new segment. A free one is taken at once; otherwise the
segment it will take the place of, named by `evicts`, stays until the copy begins. -/
def LoadsOverlay (s : State) (g : Group) (t : Thread) (x : EWord) (l : Launch) (evicts : Option Nat) : Prop :=
  let a := at32 t x.p
  let ctx := (x.mod.extractLsb' 0 2).toNat
  ∀ kind source, overlaySource s t x l a = some (kind, source) →
    ∃ u t', exec (.ovld x) s = .next u ∧ Issued s u g t t' .copies ctx ∧ RunsOn s u g.core ctx ∧ SameMemory s u ∧
      (u.core g.core).copies = (s.core g.core).copies ++ [⟨s.nextUid, ctx, nextNumber s g.core ctx, false, g.key, t.tix, t.pc, kind,
        some (at32 t x.bar), 16384, 4, 0, 0, some l.segOrder, evicts, ⟨[], [], []⟩⟩] ∧
      (u.core g.core).segments = (s.core g.core).segments ++
        (match evicts with
          | none => [⟨l.key, a, l.segOrder, source, false, []⟩]
          | some _ => [])

end Sys2Proof.Claims

/-- R228, R237: COPY_UNIT moves the next unit of a request that is among the four oldest of its context, or ends the request as
failed; it hands on at most 4,096 bytes more where nothing was held for it and nothing is behind. A unit of CPMC reads its bytes, in
whole 64-byte units, writes them, and hands over their count; a unit of an untransformed CPIN leaves each element's pattern to the
landing at its place in the scratchpad box, and the unit's count to its last landing. -/
def Sys2Proof.Claims.CopyUnitsMoveTheirBytes : Prop :=
  (∀ s core uid r, requestOf s core uid = some r → s.unitReady core r = true → ∃ u, exec (.copyUnit core uid) s = .next u ∧
    (requestOf u core uid = none ∨ ∃ n c e,
      requestOf u core uid = some { r with done := r.done + 1, counted := r.counted + n, evicts := e, carry := c } ∧
      (r.carry.elems = [] → r.counted = 4096 * r.done → n ≤ 4096))) ∧
  (∀ s core uid r b capS capD p, requestOf s core uid = some r → r.kind = .cpmc b capS capD → s.unitReady core r = true →
    s.parcel? r.key = some p → r.carry = ⟨[], [], []⟩ → r.evicts = none →
    let x := linUnit b capS capD r.units r.done
    let a := capBase capS + (linSoff b + x.1)
    let d := capBase capD + (linDoff b + x.1)
    let lo := max (capBase capS) (a / 64 * 64)
    0 < x.2 → (r.units = r.done + 1 ∨ (a % 64 = 0 ∧ d % 64 = 0 ∧ linLength b % 64 = 0)) →
    ∀ s1 bs s2, s.readObject (dieOf core) ⟨r.key.ctx, capObj capS⟩ lo ((a + x.2 + 63) / 64 * 64 - lo) = (s1, .ok bs) →
      s1.writeRefused ⟨r.key.ctx, capObj capD⟩ = 0 →
      s1.writeObject (dieOf core) ⟨r.key.ctx, capObj capD⟩ d ((bs.drop (a - lo)).take x.2) = (s2, 0) →
      ∃ u p', exec (.copyUnit core uid) s = .next u ∧ SameMemory s2 u ∧ UnitMoved u core r x.2 ⟨[], [], []⟩ ∧ x.2 ≤ 4096 ∧
        u.parcel? r.key = some p' ∧ p'.counts = p.counts ++ handed r.bar x.2 r.uid ∧ p'.spad = p.spad) ∧
  (∀ s core uid r b o01 o2 cap p c, requestOf s core uid = some r → r.kind = .cpin b o01 o2 cap → s.unitReady core r = true →
    s.parcel? r.key = some p → p.boxCopy r.kind = some c → r.carry.elems = [] → r.carry.rest = [] → r.evicts = none →
    recXf b = 0 → recLkind b = false → fmtBlock (recFmt b) = false → recLoff b % 4 = 0 →
    fmtBits (recFmt b) = 8 ∨ fmtBits (recFmt b) = 16 ∨ fmtBits (recFmt b) = 32 ∨ fmtBits (recFmt b) = 64 →
    let w := fmtBits (recFmt b) / 8
    let org := originsOf o01 o2
    let n := r.done * (4096 / w)
    let k := min (4096 / w) (recVolume b - n)
    ∀ s1 got keep, s.unitSource (issuerOf core r) r.ctx (.object ⟨r.key.ctx, capObj cap⟩ (capBase cap)) r.carry.got (c.need r.done)
        (if n + k < recVolume b then c.sourceFrom (r.done + 1) else []) = (s1, .ok (got, keep)) →
      ∃ u p' new, exec (.copyUnit core uid) s = .next u ∧ SameMemory s1 u ∧ UnitMoved u core r (k * w) ⟨[], [], keep⟩ ∧
        u.parcel? r.key = some p' ∧ p'.landings = p.landings ++ new ∧ p'.spad = p.spad ∧ p'.counts = p.counts ∧
        (∀ l ∈ new, l.res = none ∧ l.bar = r.bar ∧ l.req = r.uid) ∧ (new.map (·.count)).sum = k * w ∧
        (∀ i < k, ∀ j < w, Carries new (recLoff b + (n + i) * w + j)
          (BitVec.ofNat 8 (gatherNat got (elemAt b org (boxIndex b (n + i))) w / 256 ^ j))))

/-- R228 to R230, R235, R237: the one unit of a small box. A CPIN into the scratchpad leaves every element to the landing at its
place, exchanged dims 0 and 1 with transform 1 or 4, expanded from a block format with transform 2 or 4; a CPOUT writes the
elements of the scratchpad box, and a CPTX those of its source box, to their places in the object, and both hand over the count. -/
def Sys2Proof.Claims.BoxUnitsMoveTheirElements : Prop :=
  (∀ s core uid r b o01 o2 cap p c, requestOf s core uid = some r → r.kind = .cpin b o01 o2 cap → s.unitReady core r = true →
    s.parcel? r.key = some p → p.boxCopy r.kind = some c → recLkind b = false → 0 < recVolume b →
    r.units = 1 → r.done = 0 → r.carry = ⟨[], [], []⟩ → r.evicts = none →
    (recXf b = 2 ∨ recXf b = 4 → fmtBlock (recFmt b) = true ∧ recVolume b ≤ 2048) →
    (recXf b ≠ 2 ∧ recXf b ≠ 4 → recXf b ≤ 1 ∧ fmtBlock (recFmt b) = false ∧ recVolume b * fmtBits (recFmt b) ≤ 32768 ∧
      (fmtBits (recFmt b) = 8 ∨ fmtBits (recFmt b) = 16 ∨ fmtBits (recFmt b) = 32 ∨ fmtBits (recFmt b) = 64)) →
    let w := if recXf b = 2 ∨ recXf b = 4 then 2 else fmtBits (recFmt b) / 8
    let swap := decide (recXf b = 1 ∨ recXf b = 4)
    ∀ s1 got keep, s.unitSource (issuerOf core r) r.ctx (.object ⟨r.key.ctx, capObj cap⟩ (capBase cap)) [] (c.need 0) [] =
        (s1, .ok (got, keep)) →
      ∃ u p' new, exec (.copyUnit core uid) s = .next u ∧ SameMemory s1 u ∧ UnitMoved u core r (recVolume b * w) ⟨[], [], keep⟩ ∧
        u.parcel? r.key = some p' ∧ p'.landings = p.landings ++ new ∧ p'.spad = p.spad ∧
        (new.map (·.count)).sum = recVolume b * w ∧
        (∀ n < recVolume b, ∀ j < w, Carries new (recLoff b + boxPlace b swap (boxIndex b n) * w + j)
          (BitVec.ofNat 8 (landedPattern b (originsOf o01 o2) got (boxIndex b n) / 256 ^ j)))) ∧
  (∀ s core uid r b o01 o2 cap p, requestOf s core uid = some r → r.kind = .cpout b o01 o2 cap → s.unitReady core r = true →
    s.parcel? r.key = some p → recLkind b = false → recXf b ≤ 1 → fmtBlock (recFmt b) = false → OneUnit b r →
    let w := fmtBits (recFmt b) / 8
    let o : OKey := ⟨r.key.ctx, capObj cap⟩
    let data := boxBytes b (originsOf o01 o2) (fun i => Mem.nat p.spad (recLoff b + boxPlace b (recXf b == 1) i * w) w)
    ∀ s2, s.scatter (issuerOf core r) r.ctx o (capBase cap) (recChk b == 1) data = (s2, 0) →
      ∃ u p', exec (.copyUnit core uid) s = .next u ∧ SameMemory s2 u ∧ UnitMoved u core r (recVolume b * w) ⟨[], [], []⟩ ∧
        u.parcel? r.key = some p' ∧ p'.counts = p.counts ++ handed r.bar (recVolume b * w) r.uid ∧ p'.spad = p.spad) ∧
  (∀ s core uid r bs bd os od capS capD p c, requestOf s core uid = some r → r.kind = .cptx bs bd os od capS capD →
    s.unitReady core r = true → s.parcel? r.key = some p → p.boxCopy r.kind = some c → recXf bd ≤ 1 → recFmt bs = recFmt bd →
    fmtBlock (recFmt bd) = false → OneUnit bd r →
    let w := fmtBits (recFmt bd) / 8
    let swapped (i : List Nat) : List Nat := if recXf bd = 1 then [dimOf i 1, dimOf i 0, dimOf i 2, dimOf i 3, dimOf i 4] else i
    ∀ s1 got keep s2, s.unitSource (issuerOf core r) r.ctx (.object ⟨r.key.ctx, capObj capS⟩ (capBase capS)) [] (c.need 0) [] =
        (s1, .ok (got, keep)) →
      s1.scatter (issuerOf core r) r.ctx ⟨r.key.ctx, capObj capD⟩ (capBase capD) (recChk bd == 1)
        (boxBytes bd (originsTx od) (fun i => elementIn bs (originsTx os) got (swapped i))) = (s2, 0) →
      ∃ u p', exec (.copyUnit core uid) s = .next u ∧ SameMemory s2 u ∧ UnitMoved u core r (recVolume bd * w) ⟨[], [], keep⟩ ∧
        u.parcel? r.key = some p' ∧ p'.counts = p.counts ++ handed r.bar (recVolume bd * w) r.uid ∧ p'.spad = p.spad)

/-- R136, R237: a unit of an OVLD reads its 4,096 bytes of the launch's overlay image, or of its object, into the segment it fills; the
first unit of one that takes the place of a segment removes that segment and puts the new one there. -/
def Sys2Proof.Claims.OverlayUnitsFillTheirSegment : Prop :=
  (∀ s core uid r addr dev o, requestOf s core uid = some r → r.kind = .ovldList addr dev → r.seg = some o →
    s.unitReady core r = true →
    ∀ s1 bs, (s.beginOverlay core r).readTier r.key.ctx .hbm (dev.toNat + 4096 * r.done) 4096 = (s1, .ok bs) →
      ∃ u n, exec (.copyUnit core uid) s = .next u ∧ SameMemory s1 u ∧ UnitMoved u core r n ⟨[], [], []⟩ ∧
        OverlayLands s u core r addr o none bs) ∧
  (∀ s core uid r addr obj off reg o, requestOf s core uid = some r → r.kind = .ovldObject addr obj off reg → r.seg = some o →
    s.unitReady core r = true → s.classOf ⟨r.key.ctx, obj⟩ ≠ 5 → s.classOf ⟨r.key.ctx, obj⟩ ≠ 6 →
    ∀ s1 got keep, (s.beginOverlay core r).unitSource (issuerOf core r) r.ctx (.object ⟨r.key.ctx, obj⟩ off) r.carry.got [(4096 * r.done, 4096)]
        [(4096 * (r.done + 1), 16384 - 4096 * (r.done + 1))] = (s1, .ok (got, keep)) →
      ∃ u n, exec (.copyUnit core uid) s = .next u ∧ SameMemory s1 u ∧ UnitMoved u core r n ⟨[], [], keep⟩ ∧
        OverlayLands s u core r addr o (some (obj, off, reg)) (gatherBytes got (4096 * r.done) 4096))

/-- R136, R228 to R230, R235 to R237: what the units of copies and overlay loads move. The order of a box's units and the
bytes held over to the next one are log entry 56, the numbering of the elements of block formats and their scales is log entry 22, and
the sign of a zero in an expansion is log entry 55: those clauses are the model's choices. -/
def Obligations.CopyUnitsMoveTheirBytes : Prop :=
  Sys2Proof.Claims.CopyUnitsMoveTheirBytes ∧ Sys2Proof.Claims.BoxUnitsMoveTheirElements ∧
  Sys2Proof.Claims.OverlayUnitsFillTheirSegment

/-- R127, R228: COPY_COMPLETE ends a request whose units are moved, landed and counted: its number is complete on its timeline and
its thread has one copy less outstanding. OVERLAY_RESIDENT makes the segment of an OVLD whose bytes are all there resident, so that
its addresses can be fetched, and hands over the last bytes of its count. -/
def Sys2Proof.Claims.CopiesCompleteAndOverlaysBecomeResident : Prop :=
  (∀ s core uid r t, requestOf s core uid = some r → r.units ≤ r.done → s.coreOf r.key = core →
    ((s.parcel r.key).landings.all (fun l => l.req != uid) && (s.parcel r.key).counts.all (fun c => c.req != uid)) = true →
    (∀ o, r.seg = some o → ∃ g ∈ (s.core core).segments, g.launch = r.key.launchKey ∧ g.order = o ∧ g.resident = true) →
    s.thread? r.key r.tix = some t →
    ∃ u t', exec (.copyComplete core uid) s = .next u ∧ requestOf u core uid = none ∧ SameMemory s u ∧
      u.thread? r.key r.tix = some t' ∧ t'.counts = t.counts.upd .copies (· - 1) ∧ RegistersOutside [] t t' ∧
      (let tl := (s.core core).timeline r.ctx
       (u.core core).timeline r.ctx = ⟨tl.issued, if r.restored then tl.running else tl.running.filter (fun n => n != r.num), tl.failN,
         tl.failC, tl.nFail, tl.recent⟩) ∧
      (∀ c, c ≠ r.ctx → (u.core core).timeline c = (s.core core).timeline c)) ∧
  (∀ s core uid r o p, requestOf s core uid = some r → r.seg = some o → r.units ≤ r.done → s.parcel? r.key = some p →
    (∀ g ∈ (s.core core).segments, g.launch = r.key.launchKey → g.order = o → g.resident = false) →
    ∃ u p', exec (.overlayResident core uid) s = .next u ∧ SameMemory s u ∧ u.parcel? r.key = some p' ∧
      p'.counts = p.counts ++ handed r.bar (r.nominal - r.counted) uid ∧
      (∀ g ∈ (s.core core).segments, g.launch = r.key.launchKey → g.order = o → ∀ a : Word, g.addr ≤ a.toNat →
        a.toNat < g.addr + 16384 → (u.core core).fetchable r.key.launchKey a = true) ∧
      (u.core core).segments.map (fun g => { g with resident := false }) =
        (s.core core).segments.map (fun g => { g with resident := false }))

/-- R136, R424: OVLD fails with 0x10 at an address at which no segment may lie, with the code of an error that its overlay list meets,
with 0x11 where the overlay image has none there, and with 0x12 where there is neither a free segment nor one to evict; it counts
16,384 bytes at once where the segment is resident; and
it loads into a free segment, or in the place of the earliest-loaded one that holds the PC of no thread of the launch. -/
def Sys2Proof.Claims.OverlaysAreLoaded : Prop :=
  (∀ s g t x l, OverlayRequest s g t x l → ¬ overlayAddress (at32 t x.p) →
    FailsAtIssue (.ovld x) s g t (x.mod.extractLsb' 0 2).toNat (at32 t x.bar) 16384 0x10) ∧
  (∀ s g t x l e, OverlayRequest s g t x l → overlayAddress (at32 t x.p) → x.f = false → (s.overlayRead l).2 = e → e ≠ 0 →
    FailsAtIssue (.ovld x) s g t (x.mod.extractLsb' 0 2).toNat (at32 t x.bar) 16384 (BitVec.ofNat 32 e)) ∧
  (∀ s g t x l, OverlayRequest s g t x l → overlayAddress (at32 t x.p) → x.f = false → ListReads s x l → s.overlay? l (at32 t x.p) = none →
    FailsAtIssue (.ovld x) s g t (x.mod.extractLsb' 0 2).toNat (at32 t x.bar) 16384 0x11) ∧
  (∀ s g t x l, OverlayRequest s g t x l → overlayAddress (at32 t x.p) → ListReads s x l →
    (overlaySource s t x l (at32 t x.p)).isSome = true →
    let a := at32 t x.p
    let c := s.core g.core
    (∀ h, c.segment? l.key a = some h → ∃ u t' p p', exec (.ovld x) s = .next u ∧
      Issued s u g t t' .copies (x.mod.extractLsb' 0 2).toNat ∧ (u.core g.core).segments = c.segments ∧
      s.parcel? g.key = some p ∧ u.parcel? g.key = some p' ∧ p'.counts = p.counts ++ [⟨at32 t x.bar, 16384, 0, s.nextUid, none⟩] ∧
      ∃ r ∈ (u.core g.core).copies, r.uid = s.nextUid ∧ r.units = 0 ∧ r.seg = none) ∧
    (c.segment? l.key a = none → c.segments.length < 16 → LoadsOverlay s g t x l none) ∧
    (c.segment? l.key a = none → 16 ≤ c.segments.length →
      (∀ v, s.victim g.core l.key = some v → LoadsOverlay s g t x l (some v.order)) ∧
      (s.victim g.core l.key = none →
        FailsAtIssue (.ovld x) s g t (x.mod.extractLsb' 0 2).toNat (at32 t x.bar) 16384 0x12)))

namespace Sys2Proof.Claims
open Machine

/-! ### The index engine (R238 to R242) -/

/-- A CPXG or CPXS whose operands lie in the allotment: the block, row and status places it reads. -/
structure IndexRequest (s : State) (g : Group) (t : Thread) (x : EWord) (i : Instr) (p : Parcel) : Prop extends Alone s g i t where
  engine : EngineFree s g t .copies 4
  block : BlockAndBarrier s g.key (at32 t x.p) 32 (at32 t x.bar)
  status : at32 t x.y % 16 = 0 ∧ at32 t x.y + 16 ≤ (s.parcel g.key).spSize
  parcel : s.parcel? g.key = some p

/-- The status record of a job (R240): its state, its cursor, its number. -/
def StatusAt (p : Parcel) (at' state cursor num : Nat) : Prop :=
  Mem.nat p.spad at' 16 = state * 2 ^ 96 + cursor % 2 ^ 32 * 2 ^ 64 + num % 2 ^ 64

/-- What an index request does: with a code it is numbered and fails, with an empty list it is numbered and completes, otherwise
its job enters the index context; so does one of the first two where an earlier job has still to write the unit of its status record
(R356). -/
def IndexEnters (c : EWord → Instr) (scatter : Bool) : Prop :=
  ∀ x s g t p, IndexRequest s g t x (c x) p →
    let b : BitVec 256 := BitVec.ofNat 256 (blockAt s g.key (at32 t x.p) 32)
    let cap := t.cap (ixCap b)
    let n := nextNumber s g.core 4
    let code := ixCode b (at32 t x.x) p.spSize (s.classOf ⟨g.key.ctx, capObj cap⟩)
    let job (uid num : Nat) : IndexJob :=
      ⟨uid, num, false, g.key, t.tix, t.pc, scatter, b, cap, at32 t x.x, at32 t x.y, at32 t x.bar, 0, 0, BitVec.ofNat 32 code⟩
    let waits := s.jobBehind g.core (job s.nextUid n)
    let granted := capTrap cap (if scatter then .w else .r) (ixToff b) 0 = none
    (code ≠ 0 → waits = false → ∃ u t' p', exec (c x) s = .next u ∧ RetiredAt u g.key t t' (t.pc + BitVec.ofNat 32 g.size) ∧ t'.counts = t.counts ∧
      u.parcel? g.key = some p' ∧ (u.core g.core).index = (s.core g.core).index ∧
      (let tl := (u.core g.core).timeline 4
       tl.issued = n ∧ tl.failN = n ∧ tl.failC = BitVec.ofNat 32 code ∧ n ∉ tl.running) ∧
      ((at32 t x.y + 16 ≤ at32 t x.bar ∨ at32 t x.bar + 16 ≤ at32 t x.y) → StatusAt p' (at32 t x.y) 2 0 n ∧
        p'.barrier (at32 t x.bar) = counted (p.barrier (at32 t x.bar)) (ixCount b * ixRow b) (BitVec.ofNat 32 code))) ∧
    (code = 0 → granted → ixCount b = 0 → waits = false →
      ∃ u t' p', exec (c x) s = .next u ∧ RetiredAt u g.key t t' (t.pc + BitVec.ofNat 32 g.size) ∧ t'.counts = t.counts ∧
        u.parcel? g.key = some p' ∧ StatusAt p' (at32 t x.y) 0 0 n ∧ BytesOutside p p' (at32 t x.y) 16 ∧
        (u.core g.core).index = (s.core g.core).index ∧ ((u.core g.core).timeline 4).issued = n ∧
        n ∉ ((u.core g.core).timeline 4).running) ∧
    ((code ≠ 0 ∧ waits = true) ∨ (code = 0 ∧ granted ∧ (ixCount b ≠ 0 ∨ waits = true)) →
      Enqueues (c x) s g t .copies 4 (fun u _ uid num =>
        (u.core g.core).index = (s.core g.core).index ++ [job uid num] ∧
        (u.core g.core).copies = (s.core g.core).copies))

/-- The index job whose turn it is, with its list index and the table byte of its row. -/
structure AtElement (s : State) (core : Nat) (j : IndexJob) (p : Parcel) (a : Nat) : Prop where
  job : s.nextJob core = some j
  runs : (s.core core).halting = false
  valid : j.code = 0
  left : j.cursor < ixCount j.blk
  parcel : s.parcel? j.key = some p
  place : a = ixToff j.blk + Mem.nat p.spad (ixList j.blk + 4 * j.cursor) 4 * ixStride j.blk

/-- The job with a serial number on a core. -/
def jobOf (s : State) (core uid : Nat) : Option IndexJob := (s.core core).index.find? (fun j => j.uid == uid)

/-- A job that moved a row stands at its next element. -/
def RowMoved (s u : State) (core : Nat) (j : IndexJob) : Prop :=
  ∀ k, jobOf s core j.uid = some k → jobOf u core j.uid = some { k with cursor := k.cursor + 1 }

end Sys2Proof.Claims

/-- R234, R238, R240: CPXG and CPXS at issue. -/
def Sys2Proof.Claims.IndexRequestsEnterTheirContext : Prop := IndexEnters .cpxg false ∧ IndexEnters .cpxs true

/-- R239 to R243, R356: INDEX_ELEMENT, on a core that does not halt, suspends a job at a row outside its capability (state 3) or its leases (state 4) with a status
record, or ends it where its parcel has no thread left; it moves a row that is granted, and ends a job whose rows are all counted, with state 0, and one whose
block failed its validation, with its code; ENGRES retries, skips or aborts a
suspended job and does nothing to another. -/
def Sys2Proof.Claims.IndexJobsTakeOneElementAtATime : Prop :=
  (∀ s core j p a, AtElement s core j p a → j.cursor < 2 ^ 32 →
    let n := ixRow j.blk
    let right : Right := if j.scatter then .w else .r
    let o : OKey := ⟨j.key.ctx, capObj j.cap⟩
    (capLen j.cap < a + n ∨ s.leased j.key (capObj j.cap) right (capBase j.cap + a) n = false →
      (∃ v ∈ p.threads, v.exited = false) →
      ∃ u p' st, exec (.indexElement core) s = .next u ∧ st = (if capLen j.cap < a + n then 3 else 4) ∧ u.parcel? j.key = some p' ∧
        StatusAt p' j.statusAt st j.cursor j.num ∧ BytesOutside p p' j.statusAt 16 ∧ SameMemory s u ∧
        (∀ k, jobOf s core j.uid = some k → jobOf u core j.uid = some { k with suspended := st })) ∧
    (capLen j.cap < a + n ∨ s.leased j.key (capObj j.cap) right (capBase j.cap + a) n = false →
      (∀ v ∈ p.threads, v.exited = true) → ∃ u, exec (.indexElement core) s = .next u ∧ jobOf u core j.uid = none) ∧
    (a + n ≤ capLen j.cap → s.leased j.key (capObj j.cap) right (capBase j.cap + a) n = true →
      (j.scatter = false → ∀ s1 bs, s.readObject (dieOf core) o (capBase j.cap + a) n = (s1, .ok bs) → bs.length = n →
        ∃ u p' new, exec (.indexElement core) s = .next u ∧ RowMoved s u core j ∧ u.parcel? j.key = some p' ∧
          p'.landings = p.landings ++ new ∧ (new.map (·.count)).sum = n ∧
          ∀ i < n, Carries new (j.rows + j.cursor * n + i) (bs[i]?.getD 0)) ∧
      (j.scatter = true → s.writeRefused o = 0 →
        ∀ s1, s.writeObject (dieOf core) o (capBase j.cap + a) (Mem.read p.spad (j.rows + j.cursor * n) n) = (s1, 0) →
        ∃ u p', exec (.indexElement core) s = .next u ∧ SameMemory s1 u ∧ RowMoved s u core j ∧ u.parcel? j.key = some p' ∧
          p'.counts = p.counts ++ handed (some j.bar) n j.uid))) ∧
  (∀ s core j, s.nextJob core = some j → (s.core core).halting = false → j.code ≠ 0 → s.coreOf j.key = core →
    ∃ u, exec (.indexElement core) s = .next u ∧ jobOf u core j.uid = none ∧ ((u.core core).timeline 4).failC = j.code) ∧
  (∀ s core j p t, s.nextJob core = some j → (s.core core).halting = false → j.code = 0 → ixCount j.blk ≤ j.cursor →
    s.parcel? j.key = some p → s.coreOf j.key = core →
    s.thread? j.key j.tix = some t →
    ∃ u p' t', exec (.indexElement core) s = .next u ∧ jobOf u core j.uid = none ∧ u.parcel? j.key = some p' ∧
      StatusAt p' j.statusAt 0 (ixCount j.blk) j.num ∧ u.thread? j.key j.tix = some t' ∧ t'.counts = t.counts.upd .copies (· - 1) ∧
      (j.restored = false → j.num ∉ ((u.core core).timeline 4).running)) ∧
  (∀ x s g t, Alone s g (.engres x) t →
    let n := (t.pair x.y.toNat).toNat
    let found := (s.core g.core).index.find? (fun j => j.num == n && !j.restored && j.suspended != 0)
    (found = none → Moves (.engres x) s g t (t.pc + BitVec.ofNat 32 g.size) [] (fun _ => True)) ∧
    (∀ j p, found = some j → s.parcel? j.key = some p →
      ∃ u t' p', exec (.engres x) s = .next u ∧ RetiredAt u g.key t t' (t.pc + BitVec.ofNat 32 g.size) ∧
        RegistersOutside [] t t' ∧ u.parcel? j.key = some p' ∧
        ((x.mod.extractLsb' 0 2).toNat = 0 → ∀ k, jobOf s g.core j.uid = some k →
          jobOf u g.core j.uid = some { k with suspended := 0 }) ∧
        ((x.mod.extractLsb' 0 2).toNat = 1 → (∀ k, jobOf s g.core j.uid = some k →
          jobOf u g.core j.uid = some { k with suspended := 0, cursor := k.cursor + 1 }) ∧
          p'.counts = p.counts ++ handed (some j.bar) (ixRow j.blk) j.uid) ∧
        (2 ≤ (x.mod.extractLsb' 0 2).toNat → jobOf u g.core j.uid = none ∧
          (s.coreOf j.key = g.core → ((u.core g.core).timeline 4).failC = if j.suspended = 4 then 0x31 else 0x30))))

namespace Sys2Proof.Claims
open Machine

/-! ### The operand buffer (R245 to R250) -/

/-- The 32-byte descriptor of an OBRES, which lies in the allotment, aligned. -/
structure Reserves (s : State) (g : Group) (t : Thread) (x : RWord) (p : Parcel) (w : BitVec 256) : Prop
    extends Alone s g (.obres x) t where
  parcel : s.parcel? g.key = some p
  stores : t.storeQ = []
  place : (wordA x t).toNat % 16 = 0 ∧ (wordA x t).toNat + 32 ≤ p.spSize
  word : w = BitVec.ofNat 256 (blockAt s g.key (wordA x t).toNat 32)

/-- An answer pending in one register, with nothing said of what else the instruction did. -/
def Answered (i : Instr) (s : State) (g : Group) (t : Thread) (d v : Nat) (post : State → Prop) : Prop :=
  ∃ u t' e w, exec i s = .next u ∧ RetiredAt u g.key t t' (t.pc + BitVec.ofNat 32 g.size) ∧ RegistersOutside [] t t' ∧
    t'.pend = t.pend ++ [e] ∧ e.dests = [.g d] ∧ e.vals = some [w] ∧ w.dest = .g d ∧ w.val.toNat = v ∧ post u

/-- The reservations whose records and granules are not allotted on a core in this cycle: those freed in it among them (R27). -/
def heldNow (s : State) (core : Nat) : List Reservation :=
  s.reservations core ++ ((s.core core).freed.filter (fun f => f.clk == s.clk)).flatMap (fun f => f.resv)

/-- Two reservations share no granule. -/
def Apart (r q : Reservation) : Prop :=
  rsvFirst r.word + rsvCount r.word ≤ rsvFirst q.word ∨ rsvFirst q.word + rsvCount q.word ≤ rsvFirst r.word

end Sys2Proof.Claims

/-- R249, R250: OBRES answers 0xFFFFFFFE for an invalid descriptor and 0xFFFFFFFF with no record or run free, and otherwise takes
the lowest free record and the lowest run, none of those freed in this cycle (R27); OBFREE answers 1 for a reservation the parcel does not hold, and otherwise 0 and frees
it, at once where no issued request names it; OBINFO reads a reservation, the longest free run or the free records. -/
def Sys2Proof.Claims.ReservationsAreMadeFreedAndRead : Prop :=
  (∀ s g t x p w, Reserves s g t x p w → rsvValid w = false → Answers (.obres x) s g t [(.g x.d.toNat, 0xFFFFFFFE)]) ∧
  (∀ s g t x p w, Reserves s g t x p w → rsvValid w = true →
    (freeRecord (heldNow s p.core) = none ∨ freeRun (heldNow s p.core) (rsvCount w) = none) →
    Answers (.obres x) s g t [(.g x.d.toNat, 0xFFFFFFFF)]) ∧
  (∀ s g t x p w n f, Reserves s g t x p w → rsvValid w = true → p.place < 8 →
    freeRecord (heldNow s p.core) = some n → freeRun (heldNow s p.core) (rsvCount w) = some f →
    Answered (.obres x) s g t x.d.toNat n (fun u => ∃ p' r, u.parcel? g.key = some p' ∧ p'.resv = p.resv ++ [r] ∧ r.num = n ∧
      r.freed = false ∧ r.bytes = [] ∧ rsvFirst r.word = f ∧ rsvCount r.word = rsvCount w ∧ rsvFmt r.word = rsvFmt w ∧
      rsvPitch r.word = rsvPitch w ∧ rsvShare r.word = rsvShare w ∧ f + rsvCount w ≤ 512 ∧ n < 64 ∧
      (∀ q ∈ heldNow s p.core, q.num ≠ n ∧ Apart r q) ∧
      (∀ m < n, ∃ q ∈ heldNow s p.core, q.num = m) ∧
      (∀ h < f, ∃ q ∈ heldNow s p.core, rsvFirst q.word < h + rsvCount w ∧ h < rsvFirst q.word + rsvCount q.word))) ∧
  (∀ s g t x p, Alone s g (.obfree x) t → s.parcel? g.key = some p →
    let n := (wordA x t).toNat
    (p.resv? n = none → Answers (.obfree x) s g t [(.g x.d.toNat, 1)]) ∧
    (∀ r, p.resv? n = some r → p.phase = .running →
      Answered (.obfree x) s g t x.d.toNat 0 (fun u => ∃ p', u.parcel? g.key = some p' ∧
        (∀ q ∈ p'.resv, q.serial = r.serial → q.freed = true ∧ s.resBusy g.key q.num = true) ∧
        (s.resBusy g.key n = true → ∃ q ∈ p'.resv, q.serial = r.serial ∧ q.num = n ∧ q.word = r.word)))) ∧
  (∀ s g t x p, Alone s g (.obinfo x) t → s.parcel? g.key = some p →
    let rs := s.reservations g.core
    (x.v = 0 → p.resv? (wordA x t).toNat = none → Answers (.obinfo x) s g t [(.g x.d.toNat, 0)]) ∧
    (x.v = 0 → ∀ r, p.resv? (wordA x t).toNat = some r → Answers (.obinfo x) s g t [(.g x.d.toNat,
      2 ^ 31 + (if s.resBusy g.key r.num then 2 ^ 18 else 0) + (if rsvShare r.word then 2 ^ 17 else 0) +
      (if rsvFlush r.word then 2 ^ 16 else 0) + (if rsvDir r.word then 2 ^ 15 else 0) + rsvFmt r.word * 2 ^ 10 + rsvCount r.word)]) ∧
    (x.v = 1 → ∃ n, Answers (.obinfo x) s g t [(.g x.d.toNat, n)] ∧ n ≤ 512 ∧
      (∀ m, (∃ f, f + m ≤ 512 ∧ ∀ h, f ≤ h → h < f + m → granuleTaken rs h = false) → m ≤ n) ∧
      ∃ f, f + n ≤ 512 ∧ ∀ h, f ≤ h → h < f + n → granuleTaken rs h = false) ∧
    (2 ≤ x.v.toNat → Answers (.obinfo x) s g t [(.g x.d.toNat, 64 - rs.length)]))

namespace Sys2Proof.Claims
open Machine

/-! ### Requests of the matrix context at issue (R251 to R288) -/

/-- A request takes its place at the end of matrix order, with the code of a check it failed at issue, or 0. -/
def EntersMatrix (i : Instr) (s : State) (g : Group) (t : Thread) (op : MatrixOp) (bar : Option Nat) (code : Word) : Prop :=
  Enqueues i s g t .matrix 5 (fun u _ uid num =>
    (u.core g.core).matrix = (s.core g.core).matrix ++ [⟨uid, num, false, g.key, t.tix, t.pc, op, bar, code, 0, []⟩] ∧
    (u.core g.core).copies = (s.core g.core).copies ∧ (u.core g.core).sets = (s.core g.core).sets)

/-- A query takes its place in matrix order, numbered by no timeline; its destinations are pending (R269). -/
def EntersAsQuery (i : Instr) (s : State) (g : Group) (t : Thread) (op : Nat → MatrixOp) (ds : List Dest) : Prop :=
  ∃ u t', exec i s = .next u ∧ RetiredAt u g.key t t' (t.pc + BitVec.ofNat 32 g.size) ∧ RegistersOutside [] t t' ∧
    t'.counts = t.counts ∧ t'.pend = t.pend ++ [⟨s.nextUid, ds, none⟩] ∧
    (u.core g.core).matrix = (s.core g.core).matrix ++ [⟨s.nextUid, 0, false, g.key, t.tix, t.pc, op s.nextUid, none, 0, 0, []⟩] ∧
    (u.core g.core).timelines = (s.core g.core).timelines ∧ Elsewhere s u g.key t.tix true ∧
    (∀ n, quietCore (u.core n) = quietCore (s.core n))

/-- The barrier a block instruction names: none with its no-barrier bit. -/
def barrierOf (t : Thread) (x : EWord) : Option Nat := if x.mod.getLsbD 0 then none else some (at32 t x.bar)

/-- A block of `n` bytes, and the barrier if one is named, lie in the allotment, aligned (R234, R276). -/
def BlockOk (s : State) (g : Group) (t : Thread) (x : EWord) (n : Nat) : Prop :=
  at32 t x.p % 16 = 0 ∧ at32 t x.p + n ≤ (s.parcel g.key).spSize ∧
    (x.mod.getLsbD 0 = true ∨ at32 t x.bar % 16 = 0 ∧ at32 t x.bar + 16 ≤ (s.parcel g.key).spSize)

/-- MMA and MMAS: checked blocks enter the context, others fail at once with their code. -/
def MmaEnters (c : EWord → Instr) (shadow : Bool) (op : EWord → BitVec 512 → QWord → QWord → MatrixOp) : Prop :=
  ∀ x s g t, Alone s g (c x) t → EngineFree s g t .matrix 5 → BlockOk s g t x 64 →
    let b : BitVec 512 := BitVec.ofNat 512 (blockAt s g.key (at32 t x.p) 64)
    let code := s.mmaCode g.key (s.slotsOf g.key) b shadow (s.directClass g.key t)
    (code = 0 → (∀ v ∈ s.directUses g.key t b, Granted s g.key v.1 .m v.2) →
      EntersMatrix (c x) s g t (op x b (t.cap (opdCap (mmaA b))) (t.cap (opdCap (mmaB b)))) (barrierOf t x) 0) ∧
    (code ≠ 0 → x.mod.getLsbD 0 = false → s.parcel? g.key ≠ none →
      FailsAtIssue (c x) s g t 5 (at32 t x.bar) (mmaBytes b) (BitVec.ofNat 32 code))

end Sys2Proof.Claims

/-- R254 to R262, R269 to R288: the requests and queries of the matrix context at issue. A TERM or ADRAIN that fails a check made at
issue stands in matrix order with its code. For TERM R278 says so; for ADRAIN it is
the model's reading (log entry 31). -/
def Obligations.MatrixRequestsEnterMatrixOrder : Prop :=
  MmaEnters .mma false (fun _ b ca cb => .mma b ca cb) ∧
  MmaEnters .mmas true (fun x b ca cb => .mmas b ca cb (x.q.setWidth 4) x.f) ∧
  (∀ x s g t, Alone s g (.mcommit x) t → EngineFree s g t .matrix 5 → EntersMatrix (.mcommit x) s g t (.mcommit x.a.toNat t.p) none 0) ∧
  (∀ x s g t, Alone s g (.mdrop x) t → EngineFree s g t .matrix 5 → EntersMatrix (.mdrop x) s g t (.mdrop x.a.toNat) none 0) ∧
  (∀ x s g t, Alone s g (.azero x) t → EngineFree s g t .matrix 5 →
    EntersMatrix (.azero x) s g t (.azero x.d.toNat (x.v == 1)) none 0) ∧
  (∀ x s g t, Alone s g (.amov x) t → EngineFree s g t .matrix 5 →
    EntersMatrix (.amov x) s g t (.amov x.d.toNat x.a.toNat (x.v == 1)) none 0) ∧
  (∀ x s g t, Alone s g (.achk x) t → EngineFree s g t .matrix 5 → EntersMatrix (.achk x) s g t (.achk x.a.toNat) none 0) ∧
  (∀ x s g t, Alone s g (.term x) t → EngineFree s g t .matrix 5 → BlockOk s g t x 32 →
    let b : BitVec 256 := BitVec.ofNat 256 (blockAt s g.key (at32 t x.p) 32)
    EntersMatrix (.term x) s g t (.term b) (barrierOf t x) (BitVec.ofNat 32 ((s.parcel g.key).termCode b (s.slotsOf g.key)))) ∧
  (∀ x s g t, Alone s g (.adrain x) t → EngineFree s g t .matrix 5 → BlockOk s g t x 32 →
    let b : BitVec 256 := BitVec.ofNat 256 (blockAt s g.key (at32 t x.p) 32)
    let cap := t.cap (drainField b 58 56)
    let code := (s.parcel g.key).drainCode b (s.slotsOf g.key) (s.classOf ⟨g.key.ctx, capObj cap⟩)
    let right : Right := if drainAdds b then .a else .w
    (code = 0 → drainKind b = 2 → capTrap cap right (drainDoff b) (drainSpan b) = none ∧
      s.leaseFault g.key cap right (drainDoff b) (drainSpan b) = none) →
    EntersMatrix (.adrain x) s g t (.adrain b cap) (barrierOf t x) (BitVec.ofNat 32 code)) ∧
  (∀ x s g t, Alone s g (.aser x) t →
    EntersAsQuery (.aser x) s g t (fun uid => .aser x.a.toNat x.b.toNat (wordC x t) uid x.d.toNat) [.g x.d.toNat]) ∧
  (∀ x s g t, Alone s g (.ainfo x) t → EntersAsQuery (.ainfo x) s g t (fun uid => .ainfo x.v.toNat x.a.toNat uid x.d.toNat)
    (if x.v = 0 then [.g x.d.toNat, .g (x.d.toNat + 1)] else [.g x.d.toNat])) ∧
  (∀ x s g t, Alone s g (.aflag x) t → EntersAsQuery (.aflag x) s g t (fun uid => .aflag x.v.toNat x.a.toNat uid x.d.toNat)
    (if x.v = 0 then [.g x.d.toNat] else [.p (x.d.toNat % 16)]))

/-- R263: MSHAPE writes the first failing code, or 0 with the execution cycles of R258 and R263 and a true predicate; a refused
capability is 0x50 and an uncovered lease 0x51; it issues nothing to the matrix context. -/
def Sys2Proof.Claims.ShapesAreJudgedWithoutExecution : Prop :=
  ∀ x s g t, Alone s g (.mshape x) t → t.storeQ = [] → at32 t x.p % 16 = 0 → at32 t x.p + 64 ≤ (s.parcel g.key).spSize →
    let b : BitVec 512 := BitVec.ofNat 512 (blockAt s g.key (at32 t x.p) 64)
    let shadow := mmaShadow b != 0
    let first := s.mmaCode g.key (s.slotsOf g.key) b shadow (s.directClass g.key t)
    let bad := shadowBad (s.shadowsAhead g.key) (mmaSlot b) (mmaPair b) (if shadow then some (mmaShadow b, none) else none)
    let refused := ∃ v ∈ s.directUses g.key t b, capTraps v.1 .m v.2 ≠ none
    let uncovered := ∃ v ∈ s.directUses g.key t b, s.leaseFaults g.key v.1 .m v.2 ≠ none
    let answer : Nat → Nat → Bool → Prop := fun (code cycles : Nat) (ok : Bool) => Answers (.mshape x) s g t
      [(.g x.x.toNat, code), (.g (x.x.toNat + 1), cycles), (.p (x.q.toNat % 16), if ok then 1 else 0)]
    let n := if mmaPair b then mmaK b * mmaM b * mmaN b / 512 else mmaK b / mmaG b
    (first ≠ 0 → first ≠ 0x23 → answer first 0 false) ∧
    ((first = 0 ∨ first = 0x23) → bad = true → answer 0x47 0 false) ∧
    (first = 0x23 → bad = false → answer 0x23 0 false) ∧
    (first = 0 → bad = false → refused → answer 0x50 0 false) ∧
    (first = 0 → bad = false → ¬ refused → uncovered → answer 0x51 0 false) ∧
    (first = 0 → bad = false → ¬ refused → ¬ uncovered →
      answer 0 (min (2 ^ 32 - 1) (48 + n + (if opdKind (mmaA b) = 1 ∨ opdKind (mmaB b) = 1 then 24 else 0)
        + (if opdKind (mmaA b) = 2 ∨ opdKind (mmaB b) = 2 then 300 else 0))) true)

namespace Sys2Proof.Claims
open Machine

/-! ### Matrix order (R256 to R294) -/

/-- The head of a core's matrix order, not started, which may start: the core does not halt, or the request is a query (R395); and
no earlier drain has yet to write its flag map (R228). -/
structure Head (s : State) (core : Nat) (r : MatrixReq) (rest : List MatrixReq) (p : Parcel) : Prop where
  order : (s.core core).matrix = r :: rest
  idle : (s.core core).run = none
  on : (s.core core).halting = false ∨ r.op.query = true
  map : s.mapBehind core r = false
  parcel : s.parcel? r.key = some p
  home : s.coreOf r.key = core

/-- The head has started and had its effect on its parcel: it stands complete but for its count. -/
def HeadRan (s : State) (core : Nat) (r : MatrixReq) (rest : List MatrixReq) (post : Parcel → Prop) : Prop :=
  ∃ u p', exec (.matrixRequestStart core) s = .next u ∧ u.parcel? r.key = some p' ∧ some p'.spad = (s.parcel? r.key).map (·.spad) ∧ SameMemory s u ∧
    (u.core core).matrix = { r with step := 1 } :: rest ∧ (u.core core).run = some ⟨false, s.clk⟩ ∧ post p'

/-- A request fails with a code: it is gone from matrix order, FAILN and FAILC record it, and its thread has one matrix operation
less outstanding. -/
def HeadFails (i : Instr) (s : State) (core : Nat) (r : MatrixReq) (rest : List MatrixReq) (code : Word) : Prop :=
  ∀ t, s.thread? r.key r.tix = some t → ∃ u t', exec i s = .next u ∧ (u.core core).matrix = rest ∧ (u.core core).run = none ∧
    ((u.core core).timeline 5).failN = r.num ∧ ((u.core core).timeline 5).failC = code ∧
    u.thread? r.key r.tix = some t' ∧ t'.counts = t.counts.upd .matrix (· - 1)

/-- The bytes of the accumulator store outside a slot position are unchanged. -/
def SlotsOutside (p p' : Parcel) (pos : Nat) : Prop := ∀ a, a / 65536 ≠ pos → Mem.byte p'.acc a = Mem.byte p.acc a

/-- One position holds what another held. -/
def SlotIs (p p' : Parcel) (dst src : Nat) : Prop := ∀ a < 65536, Mem.byte p'.acc (65536 * dst + a) = Mem.byte p.acc (65536 * src + a)

/-- A query answers with some writes: its values are known to ENGINE_RESULT_WRITE, and the order goes on. -/
def QueryAnswers (s : State) (core : Nat) (r : MatrixReq) (rest : List MatrixReq) (uid : Nat) (ws : List (Dest × Nat))
    (post : Parcel → Prop) : Prop :=
  ∀ t, s.thread? r.key r.tix = some t → ∃ u t' p', exec (.matrixRequestStart core) s = .next u ∧ (u.core core).matrix = rest ∧
    (u.core core).run = none ∧ u.thread? r.key r.tix = some t' ∧ u.parcel? r.key = some p' ∧ RegistersOutside [] t t' ∧
    (∀ e ∈ t.pend, e.uid = uid → ∃ e' ∈ t'.pend, e'.uid = uid ∧ e'.dests = e.dests ∧
      ∃ vs, e'.vals = some vs ∧ vs.map (fun (w : Write) => (w.dest, w.val.toNat)) = ws) ∧ post p'

end Sys2Proof.Claims

/-- R257, R262, R270 to R275, R285: MATRIX_REQUEST_START runs the head of matrix order: AZERO zeroes a slot, AMOV copies one, ACHK
copies one into its ring and advances its series, MCOMMIT exchanges a shadow with its target where its predicate holds and MDROP
drops it, each failing with its code; ASER, AINFO and AFLAG answer in order; an MMA begins; a request that failed a check made at
issue fails in its turn. For TERM R278
says the last; for ADRAIN it is the model's reading (log entry 31). -/
def Obligations.MatrixOrderRunsItsHead : Prop :=
  (∀ s core r rest p, Head s core r rest p → r.failed ≠ 0 → HeadFails (.matrixRequestStart core) s core r rest r.failed) ∧
  (∀ s core r rest p n, Head s core r rest p → r.failed = 0 → r.op = .azero n false →
    (shadowPending p.shadows n = true → HeadFails (.matrixRequestStart core) s core r rest 0x47) ∧
    (shadowPending p.shadows n = false → HeadRan s core r rest (fun p' => SlotsOutside p p' (p.position n) ∧
      (∀ a, a / 65536 = p.position n → Mem.byte p'.acc a = 0) ∧ p'.names = p.names ∧ p'.shadows = p.shadows))) ∧
  (∀ s core r rest p d n, Head s core r rest p → r.failed = 0 → r.op = .amov d n false → Mem.wf p.acc = true →
    shadowPending p.shadows n = false → shadowPending p.shadows d = false →
    HeadRan s core r rest (fun p' => SlotsOutside p p' (p.position d) ∧ SlotIs p p' (p.position d) (p.position n) ∧
      p'.names = p.names)) ∧
  (∀ s core r rest p n, Head s core r rest p → r.failed = 0 → r.op = .achk n → Mem.wf p.acc = true →
    let pos := p.position n
    let e := p.seriesAt pos
    (serValid e = false → HeadFails (.matrixRequestStart core) s core r rest 0x73) ∧
    (serValid e = true → shadowPending p.shadows n = false → p.posPending (serRing e + serHead e) = false → 1 ≤ serDepth e →
      HeadRan s core r rest (fun p' => SlotIs p p' (serRing e + serHead e) pos ∧ SlotsOutside p p' (serRing e + serHead e) ∧
        (let e' := p'.seriesAt pos
         serValid e' = true ∧ serHead e' = (serHead e + 1) % serDepth e ∧ serAvail e' = min (serAvail e + 1) (serDepth e) ∧
          serCnt e' = min (serCnt e + 1) 255 ∧ serStg e' = serStg e ∧ serPv e' = serPv e ∧ serDepth e' = serDepth e ∧
          serRing e' = serRing e ∧ serM e' = serM e ∧ serN e' = serN e)))) ∧
  (∀ s core r rest p n preds, Head s core r rest p → r.failed = 0 → r.op = .mcommit n preds →
    (shadowAt p.shadows n = none → HeadFails (.matrixRequestStart core) s core r rest 0x49) ∧
    (∀ w, shadowAt p.shadows n = some w → shadowPair w = false →
      HeadRan s core r rest (fun p' => shadowAt p'.shadows n = none ∧ p'.acc = p.acc ∧
        (if preds.getLsbD (w.extractLsb' 0 4).toNat != w.getLsbD 4
         then p'.position n = p.position (shadowTarget w) ∧ p'.position (shadowTarget w) = p.position n
         else p'.names = p.names)))) ∧
  (∀ s core r rest p n, Head s core r rest p → r.failed = 0 → r.op = .mdrop n →
    (shadowAt p.shadows n = none → HeadFails (.matrixRequestStart core) s core r rest 0x49) ∧
    (shadowAt p.shadows n ≠ none → HeadRan s core r rest (fun p' =>
      shadowAt p'.shadows n = none ∧ p'.acc = p.acc ∧ p'.names = p.names))) ∧
  (∀ s core r rest p a b control uid d, Head s core r rest p → r.failed = 0 → r.op = .aser a b control uid d →
    let n := (control.extractLsb' 0 3).toNat
    let h := (control.extractLsb' 3 8).toNat
    let w := (control.extractLsb' 11 8).toNat
    let bad := control.extractLsb' 19 13 ≠ 0 ∨ n ≠ 0 ∧ (h = 0 ∨ 128 < h ∨ w = 0 ∨ 128 < w)
    let pos := p.position a
    let ring := p.position b
    let beyond := n ≠ 0 ∧ (s.slotsOf r.key < ring + n ∨ ring ≤ pos ∧ pos < ring + n)
    (bad → QueryAnswers s core r rest uid [(.g d, 0x70)] (fun p' => p'.series = p.series)) ∧
    (¬ bad → beyond → QueryAnswers s core r rest uid [(.g d, 0x71)] (fun p' => p'.series = p.series)) ∧
    (¬ bad → ¬ beyond → shadowPending p.shadows a = false → (∀ i < n, p.posPending (ring + i) = false) → pos < 64 → ring < 64 →
      QueryAnswers s core r rest uid [(.g d, 0)] (fun p' =>
        (let e := p'.seriesAt pos
         serValid e = decide (n ≠ 0) ∧ serAvail e = 0 ∧ serHead e = 0 ∧ serCnt e = 0 ∧ serPv e = false ∧
          (n ≠ 0 → serDepth e = n ∧ serRing e = ring ∧ serM e = h ∧ serN e = w)) ∧
        Tbl.get 0 p'.flags pos = 0))) ∧
  (∀ s core r rest p what a uid d, Head s core r rest p → r.failed = 0 → r.op = .ainfo what a uid d →
    (what = 0 → QueryAnswers s core r rest uid (inPair d (p.seriesAt (p.position a)).toNat) (fun _ => True)) ∧
    (2 ≤ what → s.slotsOf r.key < 2 ^ 32 → QueryAnswers s core r rest uid [(.g d, s.slotsOf r.key)] (fun _ => True))) ∧
  (∀ s core r rest p what a uid d, Head s core r rest p → r.failed = 0 → r.op = .aflag what a uid d → what ≤ 6 →
    let w : Word := Tbl.get 0 p.flags (p.position a)
    QueryAnswers s core r rest uid (if what = 0 then [(.g d, w.toNat)] else
      [(.p (d % 16), if w.getLsbD ([0, 0, 1, 2, 4, 5, 7][what]?.getD 0) then 1 else 0)]) (fun _ => True)) ∧
  (∀ s core r rest p b ca cb, Head s core r rest p → r.failed = 0 → r.op = .mma b ca cb → r.step = 0 →
    (shadowBad p.shadows (mmaSlot b) (mmaPair b) none = true → HeadFails (.matrixRequestStart core) s core r rest 0x47) ∧
    (shadowBad p.shadows (mmaSlot b) (mmaPair b) none = false → ∃ u, exec (.matrixRequestStart core) s = .next u ∧
      (u.core core).matrix = r :: rest ∧ (u.core core).run = some ⟨false, s.clk⟩ ∧ (u.parcel? r.key).map (·.acc) = some p.acc))

namespace Sys2Proof.Claims
open Machine

/-- A running MMA or MMAS whose next step, reached at a cycle, has read its chunks: its block, the slot it writes, its operands'
records. Its core does not halt (R108). -/
structure StepReady (s : State) (core : Nat) (r r' : MatrixReq) (rest : List MatrixReq) (p : Parcel) (b : BitVec 512)
    (ca cb : QWord) (slot : Nat) (wa wb : BitVec 256) (k : Nat) (s1 : State) : Prop where
  order : (s.core core).matrix = r :: rest
  run : (s.core core).run = some ⟨false, k⟩
  on : (s.core core).halting = false
  op : r.op.mma? = some (b, ca, cb, slot)
  left : r.step < mmaSteps b
  held : s.stepHeld r = false
  fetched : (s.shareReads core r k).fetchChunks r = (s1, .ok r')
  parcel : s.parcel? r.key = some p
  opA : ∃ k v, s.operandOf r.key (mmaA b) = some (k, v) ∧ v.word = wa
  opB : ∃ k v, s.operandOf r.key (mmaB b) = some (k, v) ∧ v.word = wb
  sizes : mmaM b ≤ 128 ∧ mmaN b ≤ 128
  places : mmaPair b = true → p.position slot ≠ p.position (slot + 1)

/-- Row x of an operand in the step's K-group: its G values. -/
def groupOf (r : MatrixReq) (side : Nat) (d : DWord) (cap : QWord) (w : BitVec 256) (g x : Nat) : List Val :=
  (List.range g).map (fun (i : Nat) => chunkValue r.chunks side (opdBase d cap) w (opdOff d) x (r.step * g + i))

/-- Element (i, j) after the step: its old pattern, or zero in the first step of an overwrite, and the group's products. -/
def elementAfter (p : Parcel) (b : BitVec 512) (ca cb : QWord) (slot : Nat) (wa wb : BitVec 256) (r : MatrixReq) (i j : Nat) : Nat × Bool :=
  stepElem (mmaAccum b) (mmaSat b) (rsvFlush wa) (if mmaOvw b = true ∧ r.step = 0 then 0 else p.elem slot (mmaSize b) i j)
    (groupOf r 0 (mmaA b) ca wa (mmaG b) i) (groupOf r 1 (mmaB b) cb wb (mmaG b) j)

/-- The tile after the step, and every other byte of the store unchanged. -/
def TileStepped (p p' : Parcel) (b : BitVec 512) (ca cb : QWord) (slot : Nat) (wa wb : BitVec 256) (r : MatrixReq) : Prop :=
  (∀ i < mmaM b, ∀ j < mmaN b,
    p'.elem slot (mmaSize b) i j = (elementAfter p b ca cb slot wa wb r i j).1 % 256 ^ mmaSize b) ∧
  (∀ a, (∀ i < mmaM b, ∀ j < mmaN b, let e := p.elemPlace slot (mmaSize b) i j
      a < 65536 * e.1 + e.2 ∨ 65536 * e.1 + e.2 + mmaSize b ≤ a) → Mem.byte p'.acc a = Mem.byte p.acc a)

/-- Whether a step needs the signal box (R106). -/
def Assists (p : Parcel) (b : BitVec 512) (ca cb : QWord) (slot : Nat) (wa wb : BitVec 256) (r : MatrixReq) : Prop :=
  ∃ i < mmaM b, ∃ j < mmaN b, (elementAfter p b ca cb slot wa wb r i j).2 = true

/-- The head waits for the signal box. -/
structure AwaitsBox (s : State) (core : Nat) (r : MatrixReq) (rest : List MatrixReq) : Prop where
  order : (s.core core).matrix = r :: rest
  run : ∃ k, (s.core core).run = some ⟨true, k⟩
  home : s.coreOf r.key = core

end Sys2Proof.Claims

/-- R103: an INT32 element of a step is its old value and the sum of the exact products, wrapped, or saturated with SAT. -/
def Sys2Proof.Claims.IntegerStepsAreExact : Prop :=
  ∀ (sat flush : Bool) (old : Nat) (xs ys : List Int), xs.length = ys.length → xs ≠ [] →
    let e := signedOf old 32 + ((xs.zip ys).map (fun (v : Int × Int) => v.1 * v.2)).sum
    (stepElem .int32 sat flush old (xs.map Val.ofInt) (ys.map Val.ofInt)).2 = false ∧
    signedOf (stepElem .int32 sat flush old (xs.map Val.ofInt) (ys.map Val.ofInt)).1 32 =
      (if sat then max (-(2 ^ 31)) (min (2 ^ 31 - 1) e) else (e + 2 ^ 31) % 2 ^ 32 - 2 ^ 31)

namespace Sys2Proof.Claims
open Machine

/-- The number a finite value stands for. -/
def ratOf : Val → ℚ
  | .fin s n d => (if s then -1 else 1) * ((n : ℚ) / (d : ℚ))
  | _ => 0

/-- A value that is a number. -/
def Number (v : Val) : Prop := ∃ s n d, v = .fin s n d ∧ d ≠ 0

/-- −0. -/
def NegZero (v : Val) : Prop := ∃ d, v = .fin true 0 d

/-- A factor pair whose product is NaN (R101). -/
def NanProduct (e : Val × Val) : Prop :=
  e.1 = .nan ∨ e.2 = .nan ∨ (∃ s, e.1 = .inf s) ∧ e.2.isZero = true ∨ e.1.isZero = true ∧ ∃ s, e.2 = .inf s

/-- A factor pair whose product is infinite with a sign (R101). -/
def InfProduct (e : Val × Val) (neg : Bool) : Prop :=
  ¬ NanProduct e ∧ ((∃ s, e.1 = .inf s) ∨ ∃ s, e.2 = .inf s) ∧ (e.1.isNeg != e.2.isNeg) = neg

/-- R100, R101, R102 of one element of a format in one K-group, from the factors of its products: the sum of the old value and the
exact products, rounded once; and the special cases of IEEE 754, which need no signal box. -/
def GroupSums (acc : Accum) (f : Fmt) : Prop :=
  ∀ (sat flush : Bool) (old : Nat) (xs ys : List Val), xs.length = ys.length → xs ≠ [] →
    let es := xs.zip ys
    let v := f.value old
    let answers : Val → Prop := fun (w : Val) => stepElem acc sat flush old xs ys = (f.round .rne w, false)
    (((∃ e ∈ es, NanProduct e) ∨ v = .nan) → answers .nan) ∧
    ((∃ e ∈ es, InfProduct e true) → (∃ e ∈ es, InfProduct e false) → answers .nan) ∧
    (∀ neg, (∃ e ∈ es, InfProduct e neg) → (∀ e ∈ es, ¬ NanProduct e ∧ ¬ InfProduct e (!neg)) →
      (v = .inf (!neg) → answers .nan) ∧ (v = .inf neg ∨ Number v → answers (.inf neg))) ∧
    ((∀ e ∈ es, Number e.1 ∧ Number e.2) → ∀ neg, v = .inf neg → answers (.inf neg)) ∧
    ((∀ e ∈ es, Number e.1 ∧ Number e.2) → Number v → ∃ w, Number w ∧
      ratOf w = ratOf v + (es.map (fun (e : Val × Val) => ratOf e.1 * ratOf e.2)).sum ∧
      (w.isZero = true → (NegZero w ↔ NegZero v ∧ ∀ e ∈ es, NegZero (e.1.mul e.2))) ∧
      stepElem acc sat flush old xs ys = f.assisted flush .rne w)

end Sys2Proof.Claims

/-- R100, R101, R102, R103: an element of a K-group step from its old value and the factors of its products, by the rules' own
arithmetic: for FP32 and FP64 the rational sum rounded once, with the special cases of IEEE 754; for INT32 the exact integer sum,
wrapped or saturated. -/
def Obligations.IntegerStepsAreExact : Prop :=
  Claims.IntegerStepsAreExact ∧ Claims.GroupSums .fp32 .f32 ∧ Claims.GroupSums .fp64 .f64

/-- R100 to R107, R256, R264, R414: MATRIX_GROUP_STEP adds one K-group to every element of the tile and leaves the rest of the store;
a step with a subnormal rounding waits for the signal box, which SUBNORMAL_ASSIST completes and ASSIST_TIMEOUT fails with 0x48;
MATRIX_REQUEST_COMPLETE counts M × N elements' bytes on the barrier and completes the number. -/
def Obligations.MatrixStepsAccumulateAndComplete : Prop :=
  (∀ s core r r' rest p b ca cb slot wa wb k s1, StepReady s core r r' rest p b ca cb slot wa wb k s1 →
    (¬ Assists p b ca cb slot wa wb r' → ∃ u p', exec (.matrixGroupStep core) s = .next u ∧ u.parcel? r.key = some p' ∧
      TileStepped p p' b ca cb slot wa wb r' ∧ (u.core core).matrix = { r with step := r.step + 1, chunks := r'.chunks } :: rest ∧
      (u.core core).run = some ⟨false, s.clk⟩ ∧ p'.names = p.names ∧ p'.spad = p.spad ∧ p'.shadows = p.shadows) ∧
    (Assists p b ca cb slot wa wb r' → ∃ u, exec (.matrixGroupStep core) s = .next u ∧
      (u.parcel? r.key).map (·.acc) = some p.acc ∧ (u.core core).matrix = { r with chunks := r'.chunks } :: rest ∧
      (u.core core).run = some ⟨true, s.clk⟩)) ∧
  (∀ s core r rest p b ca cb slot, AwaitsBox s core r rest → s.parcel? r.key = some p → r.op.mma? = some (b, ca, cb, slot) →
    ∀ ka va kb vb, s.operandOf r.key (mmaA b) = some (ka, va) → s.operandOf r.key (mmaB b) = some (kb, vb) →
    mmaM b ≤ 128 → mmaN b ≤ 128 → (mmaPair b = true → p.position slot ≠ p.position (slot + 1)) →
    ∃ u p', exec (.subnormalAssist core) s = .next u ∧ u.parcel? r.key = some p' ∧
      TileStepped p p' b ca cb slot va.word vb.word r ∧ (u.core core).matrix = { r with step := r.step + 1 } :: rest ∧
      (u.core core).run = some ⟨false, s.clk⟩) ∧
  (∀ s core r rest, AwaitsBox s core r rest → HeadFails (.assistTimeout core) s core r rest 0x48) ∧
  (∀ s core r rest p b ca cb slot bar, (s.core core).matrix = r :: rest → (∃ k, (s.core core).run = some ⟨false, k⟩) →
    s.coreOf r.key = core → r.op.mma? = some (b, ca, cb, slot) → mmaSteps b ≤ r.step → s.parcel? r.key = some p → r.bar = some bar →
    ∀ t, s.thread? r.key r.tix = some t →
    ∃ u p' t', exec (.matrixRequestComplete core) s = .next u ∧ (u.core core).matrix = rest ∧ (u.core core).run = none ∧
      u.parcel? r.key = some p' ∧ p'.barrier bar = counted (p.barrier bar) (mmaM b * mmaN b * (if mmaPair b then 8 else 4)) 0 ∧
      BytesOutside p p' bar 16 ∧ p'.acc = p.acc ∧ u.thread? r.key r.tix = some t' ∧
      t'.counts = t.counts.upd .matrix (· - 1) ∧ (r.restored = false → r.num ∉ ((u.core core).timeline 5).running))

namespace Sys2Proof.Claims
open Machine

/-! ### The Terminus (R277 to R286) -/

/-- The value of window element x in the j-th newest checkpoint of a series. -/
def chkAt (p : Parcel) (e : BitVec 64) (j x : Nat) : Val :=
  Fmt.f32.value (p.accNat (serNewest e j) (4 * (128 * (x / serN e) + x % serN e)) 4)

/-- R280's table, one row down: row 0 is eps[−1], row k + 1 is eps[k]. -/
def epsAt (c : Nat → Val) : Nat → Nat → Val
  | 0, _ => .zero
  | 1, t => c t
  | k + 2, t => xf ((epsAt c k (t + 1)).add false (xf (Val.one.div (xf (vsub (epsAt c (k + 1) (t + 1)) (epsAt c (k + 1) t))))))

/-- An order of R280 succeeds on 2q + 1 checkpoints, oldest first: no divisor of its table is too small. -/
def EpsOk (theta : Nat) (c : Nat → Val) (q : Nat) : Prop :=
  ∀ k < 2 * q, ∀ t < 2 * q - k,
    smallAgainst theta (xf (vsub (epsAt c (k + 1) (t + 1)) (epsAt c (k + 1) t))) [epsAt c (k + 1) (t + 1), epsAt c (k + 1) t] = false

/-- The estimate and the order that R280 returns for an element whose j-th newest checkpoint is `c j`. -/
def EpsReturns (theta : Nat) (c : Nat → Val) (h : Nat) (v : Val) (order : Nat) : Prop :=
  let tries : Nat → Nat → Val := fun (q t : Nat) => c (2 * q - t)
  (∃ q, 1 ≤ q ∧ q ≤ h ∧ EpsOk theta (tries q) q ∧ (∀ j, q < j → j ≤ h → ¬ EpsOk theta (tries j) j) ∧
    v = epsAt (tries q) (2 * q + 1) 0 ∧ order = q) ∨
  ((∀ q, 1 ≤ q → q ≤ h → ¬ EpsOk theta (tries q) q) ∧ v = c 0 ∧ order = 0)

/-- The h of R279. -/
def termH (b : BitVec 256) (e : BitVec 64) : Nat :=
  if termMeth b = 0 then min (termOrd b) ((serAvail e - 1) / 2) else min (termOrd b) (serAvail e - 1)

/-- The estimates of a TERM with the order or depth that returned each: the epsilon method's by R280's table, the least-squares
method's by R281's algorithm on the newest h + 1 checkpoints. -/
def Estimates (p : Parcel) (b : BitVec 256) (e : BitVec 64) (est : Nat → Val × Nat) : Prop :=
  let n := serM e * serN e
  if termMeth b = 0 then ∀ x < n, EpsReturns (termTheta b) (fun j => chkAt p e j x) (termH b e) (est x).1 (est x).2
  else
    let r := lsqEstimate (termTheta b) (termRidge b)
      ((List.range (termH b e + 1)).map (fun j => (List.range n).map (fun x => chkAt p e (termH b e - j) x)))
    ∀ x < n, r.1[x]? = some (est x).1 ∧ (est x).2 = r.2

/-- What a TERM that runs has to hold: its series is one of ASER's, its destination a position of the store. -/
structure TermRuns (p : Parcel) (b : BitVec 256) : Prop where
  runs : p.termRun b = 0
  tile : let e := p.seriesAt (p.position (termSer b)); 1 ≤ serM e ∧ serM e ≤ 128 ∧ 1 ≤ serN e ∧ serN e ≤ 128
  dst : p.position (termDst b) < 64

/-- R279, R282, R283, R284: the parcel after a TERM, from its estimates. -/
structure TermDone (p p' : Parcel) (b : BitVec 256) (est : Nat → Val × Nat) : Prop where
  /-- Every out is at its place in DST, and no other byte of the store changes. -/
  outs : let e := p.seriesAt (p.position (termSer b))
    (∀ i < serM e, ∀ j < serN e, p'.accNat (p.position (termDst b)) (4 * (128 * i + j)) 4 =
      (Fmt.f32.assisted (termFlush b) .rne (est (serN e * i + j)).1).1 % 2 ^ 32) ∧
    (∀ a, (∀ i < serM e, ∀ j < serN e, let o := 65536 * p.position (termDst b) + 4 * (128 * i + j)
      a < o ∨ o + 4 ≤ a) → Mem.byte p'.acc a = Mem.byte p.acc a)
  /-- The series record: PV, LASTD and STG; its other fields stand. -/
  series : let e := p.seriesAt (p.position (termSer b))
    let e' := p'.seriesAt (p.position (termSer b))
    let most : Nat → Val := fun (j : Nat) => vmax ((List.range (serM e * serN e)).map (fun x => (xf (vsub (chkAt p e j x) (chkAt p e (j + 1) x))).abs))
    serPv e' = true ∧ serLastd e' = p.position (termDst b) ∧
    serStg e' = (if 3 ≤ serAvail e ∧ Val.lt .zero (most 1) = true ∧
        (Fmt.f32.value (termRho b)).le (xf ((most 0).div (most 1))) = true then min (serStg e + 1) 3 else 0) ∧
    (serValid e', serDepth e', serHead e', serAvail e', serRing e', serM e', serN e', serCnt e') =
      (true, serDepth e, serHead e, serAvail e, serRing e, serM e, serN e, serCnt e)
  /-- The flag word of the series slot, and the flag map where it is enabled. -/
  flags : let e := p.seriesAt (p.position (termSer b))
    let n := serM e * serN e
    let out : Nat → Nat := fun (x : Nat) => (Fmt.f32.assisted (termFlush b) .rne (est x).1).1
    let prev : Nat → Val := fun (x : Nat) =>
      if serPv e = true ∧ serLastd e = p.position (termDst b)
      then Fmt.f32.value (p.accNat (p.position (termDst b)) (4 * (128 * (x / serN e) + x % serN e)) 4) else chkAt p e 0 x
    let conv : Nat → Prop := fun (x : Nat) => (vsub (Fmt.f32.value (out x)) (prev x)).abs.le
      ((Fmt.f32.value (termTol b)).mul (Fmt.f32.value (out x)).abs) = true
    let w : Word := Tbl.get 0 p'.flags (p.position (termSer b))
    let used := (w.extractLsb' 8 4).toNat
    ((w.getLsbD 0 = true ↔ ∀ x < n, conv x) ∧ (w.getLsbD 1 = true ↔ ∃ x < n, conv x) ∧
      (w.getLsbD 2 = true ↔ ∃ x < n, (est x).2 = 0) ∧ (w.getLsbD 3 = true ↔ ∀ x < n, (est x).2 = 0) ∧
      (w.getLsbD 4 = true ↔ serStg (p'.seriesAt (p.position (termSer b))) = 3) ∧
      (w.getLsbD 5 = true ↔ ∃ x < n, out x / 2 ^ 23 % 256 = 255) ∧
      (w.getLsbD 6 = true ↔ termMeth b ≠ 0 ∧ used < termH b e) ∧ w.getLsbD 7 = true ∧
      (∀ x < n, used ≤ (est x).2) ∧ (∃ x < n, used = (est x).2) ∧ w.extractLsb' 12 20 = 0) ∧
    (termFmapen b = false → p'.spad = p.spad) ∧
    (termFmapen b = true → (∀ x < n, let y := Mem.byte p'.spad (termFmap b + x / 4)
      (y.getLsbD (2 * (x % 4)) = true ↔ conv x) ∧ (y.getLsbD (2 * (x % 4) + 1) = true ↔ (est x).2 = 0)) ∧
      (∀ x, n ≤ x → x < 4 * ceilDiv n 4 → let y := Mem.byte p'.spad (termFmap b + x / 4)
        y.getLsbD (2 * (x % 4)) = false ∧ y.getLsbD (2 * (x % 4) + 1) = false) ∧
      ∀ a, (a < termFmap b ∨ termFmap b + ceilDiv n 4 ≤ a) → Mem.byte p'.spad a = Mem.byte p.spad a)
  rest : p'.names = p.names ∧ p'.shadows = p.shadows

end Sys2Proof.Claims

/-- R278 to R284, R106, R107: a TERM at the head of matrix order fails with its code or has its effect; one with a subnormal rounding
waits for the signal box, which gives it the same effect; its completion counts its bytes and the map's. That a map whose place is
not a multiple of 16 does not lie in the allotment is log entry 23. -/
def Sys2Proof.Claims.TermRunsAtTheHead : Prop :=
  (∀ s core r rest p b, Head s core r rest p → r.failed = 0 → r.op = .term b →
    let e := p.seriesAt (p.position (termSer b))
    let fits := termFmapen b = true → termFmap b % 16 = 0 ∧ termFmap b + ceilDiv (serM e * serN e) 4 ≤ p.spSize
    let pending := shadowPending p.shadows (termSer b) = true ∨ shadowPending p.shadows (termDst b) = true ∨
      ∃ i < serDepth e, p.posPending (serRing e + i) = true
    let fails := HeadFails (.matrixRequestStart core) s core r rest
    (serValid e = false → fails 0x73) ∧
    (serValid e = true → serAvail e = 0 → fails 0x75) ∧
    (serValid e = true → serAvail e ≠ 0 → ¬ fits → fails 0x76) ∧
    (serValid e = true → serAvail e ≠ 0 → fits → pending → fails 0x47)) ∧
  (∀ s core r rest p b est, Head s core r rest p → r.failed = 0 → r.op = .term b → TermRuns p b →
    Estimates p b (p.seriesAt (p.position (termSer b))) est →
    let e := p.seriesAt (p.position (termSer b))
    let box := ∃ x < serM e * serN e, (Fmt.f32.assisted (termFlush b) .rne (est x).1).2 = true
    ∃ u p', exec (.matrixRequestStart core) s = .next u ∧ u.parcel? r.key = some p' ∧ SameMemory s u ∧
      (¬ box → TermDone p p' b est ∧ (u.core core).matrix = { r with step := 1 } :: rest ∧ (u.core core).run = some ⟨false, s.clk⟩) ∧
      (box → p' = p ∧ (u.core core).matrix = r :: rest ∧ (u.core core).run = some ⟨true, s.clk⟩)) ∧
  (∀ s core r rest p b est, AwaitsBox s core r rest → s.parcel? r.key = some p → r.op = .term b → TermRuns p b →
    Estimates p b (p.seriesAt (p.position (termSer b))) est →
    ∃ u p', exec (.subnormalAssist core) s = .next u ∧ u.parcel? r.key = some p' ∧ TermDone p p' b est ∧
      (u.core core).matrix = { r with step := 1 } :: rest ∧ (u.core core).run = some ⟨false, s.clk⟩) ∧
  (∀ s core r rest p b bar, (s.core core).matrix = r :: rest → (∃ k, (s.core core).run = some ⟨false, k⟩) →
    s.coreOf r.key = core → r.op = .term b → 1 ≤ r.step → s.parcel? r.key = some p → r.bar = some bar →
    termSer b < s.slotsOf r.key → serValid (p.seriesAt (p.position (termSer b))) = true → ∀ t, s.thread? r.key r.tix = some t →
    let e := p.seriesAt (p.position (termSer b))
    ∃ u p' t', exec (.matrixRequestComplete core) s = .next u ∧ (u.core core).matrix = rest ∧ (u.core core).run = none ∧
      u.parcel? r.key = some p' ∧ p'.barrier bar = counted (p.barrier bar)
        (4 * serM e * serN e + (if termFmapen b then ceilDiv (serM e * serN e) 4 else 0)) 0 ∧
      BytesOutside p p' bar 16 ∧ p'.acc = p.acc ∧ u.thread? r.key r.tix = some t' ∧
      t'.counts = t.counts.upd .matrix (· - 1) ∧ (r.restored = false → r.num ∉ ((u.core core).timeline 5).running))

namespace Sys2Proof.Claims
open Machine

/-- The k-th drain of a core, whose window goes to a scratchpad (R287, R289). -/
structure DrainsHere (s : State) (core k : Nat) (d : Drain) (b : BitVec 256) (cap : QWord) (p : Parcel) : Prop where
  drain : (s.core core).drains[k]? = some d
  op : d.req.op = .adrain b cap
  parcel : s.parcel? d.req.key = some p
  home : s.coreOf d.req.key = core
  kind : drainKind b = 0
  window : d.win.length = drainM b * drainN b
  rows : drainM b ≤ 1 ∨ drainN b * drainSize b ≤ drainPitch b
  size : drainSize b ≠ 0
  plain : d.journal = false
  first : ((s.core core).drains.take k).any (fun e => s.drainBehind e d) = false

end Sys2Proof.Claims

/-- R289, R292, R294: ADRAIN at its start reads its window of the slot and frees matrix order; DRAIN_COMPLETE writes the rounded
elements at their places and no other byte, hands over M × N elements' bytes, and completes the number once they are counted. -/
def Obligations.DrainsWriteTheirWindow : Prop :=
  (∀ s core r rest p b cap, Head s core r rest p → r.failed = 0 → r.op = .adrain b cap → (s.core core).drains.length < 2 →
    drainStype b < 2 → shadowPending p.shadows (drainSlot b) = false →
    ∃ u d, exec (.matrixRequestStart core) s = .next u ∧ (u.core core).matrix = rest ∧ (u.core core).run = none ∧
      (u.core core).drains = (s.core core).drains ++ [d] ∧ d.req = r ∧ d.stage = .unjudged ∧
      d.win.length = drainM b * drainN b ∧
      ∀ i < drainM b, ∀ j < drainN b, d.win[i * drainN b + j]? =
        some (p.elem (drainSlot b) 4 (drainField b 42 36 + i) (drainField b 49 43 + j))) ∧
  (∀ s core k d b cap p, DrainsHere s core k d b cap p → drainAdds b = false →
    d.stage = .unjudged → (∀ x ∈ d.win, (drainElem b 0 x).2 = false) →
    ∃ u p' d', exec (.drainComplete core k) s = .next u ∧ u.parcel? d.req.key = some p' ∧ (u.core core).drains[k]? = some d' ∧
      d'.stage = .written ∧ d'.req = d.req ∧ p'.counts = p.counts ++ handed d.req.bar (drainBytes b) d.req.uid ∧
      (∀ i < drainM b, ∀ j < drainN b, Mem.nat p'.spad (drainDoff b + i * drainPitch b + j * drainSize b) (drainSize b) =
        (drainElem b 0 (d.win[i * drainN b + j]?.getD 0)).1 % 256 ^ drainSize b) ∧
      (∀ a, (∀ i < drainM b, ∀ j < drainN b, let e := drainDoff b + i * drainPitch b + j * drainSize b
        a < e ∨ e + drainSize b ≤ a) → Mem.byte p'.spad a = Mem.byte p.spad a)) ∧
  (∀ s core k d b cap p, DrainsHere s core k d b cap p → drainAdds b = false → d.stage = .unjudged →
    (∃ x ∈ d.win, (drainElem b 0 x).2 = true) →
    ∃ u d', exec (.drainComplete core k) s = .next u ∧ (u.core core).drains[k]? = some d' ∧ d'.stage = .waiting ∧ d'.req = d.req ∧
      (u.parcel? d.req.key).map (·.spad) = some p.spad) ∧
  (∀ s core k d p t, (s.core core).drains[k]? = some d → d.stage = .written → s.parcel? d.req.key = some p →
    s.coreOf d.req.key = core → p.counts.all (fun c => c.req != d.req.uid) = true → s.thread? d.req.key d.req.tix = some t →
    ∃ u t', exec (.drainComplete core k) s = .next u ∧
      (u.core core).drains = (s.core core).drains.take k ++ (s.core core).drains.drop (k + 1) ∧
      u.thread? d.req.key d.req.tix = some t' ∧ t'.counts = t.counts.upd .matrix (· - 1) ∧
      (d.req.restored = false → d.req.num ∉ ((u.core core).timeline 5).running))

namespace Sys2Proof.Claims
open Machine

/-! ### Set instructions (R296 to R325) -/

/-- Runs in normal form: rising, none empty, no two that touch. -/
def NormalRuns : List (Nat × Nat) → Prop
  | [] => True
  | [r] => r.2 ≠ 0
  | r :: q :: rest => r.2 ≠ 0 ∧ r.1 + r.2 < q.1 ∧ NormalRuns (q :: rest)

/-- Membership in runs. -/
def InRuns (x : Nat) (r : List (Nat × Nat)) : Prop := ∃ p ∈ r, p.1 ≤ x ∧ x < p.1 + p.2

/-- Every class, batch and value a new set request stands with. -/
def AsksFor (i : Instr) (s : State) (g : Group) (t : Thread) (op : SetOp) (a b : Word) (bar : Option Nat) (ds : List Dest) (d : Nat) : Prop :=
  ∃ u t' r, exec i s = .next u ∧ Issued s u g t t' .sets 6 ∧ RunsOn s u g.core 6 ∧ Elsewhere s u g.key t.tix true ∧
    (∀ n, quietCore (u.core n) = quietCore (s.core n)) ∧ (u.core g.core).sets = (s.core g.core).sets ++ [r] ∧
    (r.num, r.core, r.restored, r.key, r.tix, r.pc, r.op) = (nextNumber s g.core 6, g.core, false, g.key, t.tix, t.pc, op) ∧
    (r.a, r.b, r.result, r.bar, r.d) = (a, b, 0, bar, d) ∧
    t'.pend = t.pend ++ (if ds = [] then [] else [⟨r.pendUid, ds, none⟩])

/-- A request that makes a set, with the handle `h` it has written: an entry of that index and generation stands pending. -/
def MakesSet (i : Instr) (s : State) (g : Group) (t : Thread) (op : SetOp) (a b : Word) (d : Nat) : Prop :=
  let l := g.key.launchKey
  (∀ x n, s.launch? l = some x → s.freeIndex l g.core = some n → ∃ u t' r e w x' y, exec i s = .next u ∧
    Issued s u g t t' .sets 6 ∧ RunsOn s u g.core 6 ∧ SameMemory s u ∧ (u.core g.core).sets = (s.core g.core).sets ++ [r] ∧
    (r.num, r.key, r.tix, r.op, r.a, r.b, r.result) = (nextNumber s g.core 6, g.key, t.tix, op, a, b, x.handleAt n) ∧
    t'.pend = t.pend ++ [e] ∧ e.dests = [.g d] ∧ e.vals = some [w] ∧ w.dest = .g d ∧ w.val.toNat = (x.handleAt n).toNat ∧
    u.launch? l = some x' ∧ x'.sets = x.sets ++ [y] ∧ y.index = n ∧ y.pending = true ∧ y.far = false ∧ y.home = g.core ∧
    y.owner = g.key.pix ∧ y.runs = []) ∧
  (s.freeIndex l g.core = none → s.indexLeft l g.core = true → ∃ u t' r e w, exec i s = .next u ∧ Issued s u g t t' .sets 6 ∧
    (u.core g.core).sets = (s.core g.core).sets ++ [r] ∧ r.op = op ∧ r.result = 0 ∧ t'.pend = t.pend ++ [e] ∧ e.dests = [.g d] ∧
    e.vals = some [w] ∧ w.val.toNat = 0 ∧ u.launch? l = s.launch? l) ∧
  (s.indexLeft l g.core = false → ∃ u t', exec i s = .next u ∧ u.thread? g.key t.tix = some t' ∧ t'.status = .engine (.setIndex s.clk) ∧
    t'.pc = t.pc ∧ t'.retired = t.retired ∧ RegistersOutside [] t t' ∧ (u.core g.core).sets = (s.core g.core).sets)

/-- A range of words in the scratchpad, aligned; one of no words is everywhere (R320, R322). -/
def ListAt (s : State) (k : PKey) (off n : Nat) : Prop := n = 0 ∨ off % 4 = 0 ∧ off + 4 * n ≤ (s.parcel k).spSize

end Sys2Proof.Claims

/-- R296, R317 to R325: each set instruction takes the next number of the set context with its operands; SNEW, SUNI, SINT, SDIF, SCPY
and SLDL also take the core's lowest free index and write its handle, write 0 where the die's range is used up, and wait for their
die's supply otherwise. -/
def Obligations.SetRequestsEnterSetOrder : Prop :=
  (∀ x s g t, Alone s g (.sfree x) t → EngineFree s g t .sets 6 → AsksFor (.sfree x) s g t .sfree (wordA x t) 0 none [] 0) ∧
  (∀ x s g t, Alone s g (.sins x) t → EngineFree s g t .sets 6 →
    AsksFor (.sins x) s g t (.sins (wordB x t)) (wordA x t) 0 none [] 0) ∧
  (∀ x s g t, Alone s g (.sdel x) t → EngineFree s g t .sets 6 →
    AsksFor (.sdel x) s g t (.sdel (wordB x t)) (wordA x t) 0 none [] 0) ∧
  (∀ x s g t, Alone s g (.shas x) t → EngineFree s g t .sets 6 →
    AsksFor (.shas x) s g t (.shas (wordB x t)) (wordA x t) 0 none [.p (x.d.toNat % 16)] x.d.toNat) ∧
  (∀ x s g t, Alone s g (.scard x) t → EngineFree s g t .sets 6 →
    AsksFor (.scard x) s g t .scard (wordA x t) 0 none [.g x.d.toNat, .g (x.d.toNat + 1)] x.d.toNat) ∧
  (∀ x s g t, Alone s g (.snext x) t → EngineFree s g t .sets 6 →
    AsksFor (.snext x) s g t (.snext (wordB x t)) (wordA x t) 0 none [.g x.d.toNat, .g (x.d.toNat + 1)] x.d.toNat) ∧
  (∀ x s g t, Alone s g (.srep x) t → EngineFree s g t .sets 6 →
    (x.v = 0 → AsksFor (.srep x) s g t .srep (wordA x t) 0 none [.g x.d.toNat] x.d.toNat) ∧
    (x.v = 1 → AsksFor (.srep x) s g t .slap (wordA x t) 0 none [.g x.d.toNat, .g (x.d.toNat + 1)] x.d.toNat)) ∧
  (∀ x s g t, Alone s g (.shint x) t → EngineFree s g t .sets 6 →
    AsksFor (.shint x) s g t (.shint (wordB x t)) (wordA x t) 0 none [.g x.d.toNat] x.d.toNat) ∧
  (∀ x s g t, Alone s g (.scost x) t → EngineFree s g t .sets 6 →
    AsksFor (.scost x) s g t (.scost x.v.toNat) (wordA x t) (wordB x t) none [.g x.d.toNat, .g (x.d.toNat + 1)] x.d.toNat) ∧
  (∀ x s g t, Alone s g (.sstl x) t → EngineFree s g t .sets 6 →
    let cap := (t.reg x.d.toNat).toNat
    let bar := (t.reg x.c.toNat).toNat
    ListAt s g.key (wordB x t).toNat cap → (x.zc = true ∨ bar % 16 = 0 ∧ bar + 16 ≤ (s.parcel g.key).spSize) →
    AsksFor (.sstl x) s g t (.sstl (wordB x t).toNat cap) (wordA x t) 0 (if x.zc then none else some bar) [.g x.d.toNat] x.d.toNat) ∧
  (∀ x s g t, Alone s g (.snew x) t → EngineFree s g t .sets 6 → MakesSet (.snew x) s g t .snew 0 0 x.d.toNat) ∧
  (∀ x s g t, Alone s g (.suni x) t → EngineFree s g t .sets 6 → MakesSet (.suni x) s g t .suni (wordA x t) (wordB x t) x.d.toNat) ∧
  (∀ x s g t, Alone s g (.sint x) t → EngineFree s g t .sets 6 → MakesSet (.sint x) s g t .sint (wordA x t) (wordB x t) x.d.toNat) ∧
  (∀ x s g t, Alone s g (.sdif x) t → EngineFree s g t .sets 6 → MakesSet (.sdif x) s g t .sdif (wordA x t) (wordB x t) x.d.toNat) ∧
  (∀ x s g t, Alone s g (.scpy x) t → EngineFree s g t .sets 6 → MakesSet (.scpy x) s g t .scpy (wordA x t) 0 x.d.toNat) ∧
  (∀ x s g t, Alone s g (.sldl x) t → EngineFree s g t .sets 6 → ListAt s g.key (wordA x t).toNat (wordB x t).toNat →
    MakesSet (.sldl x) s g t (.sldl (wordA x t).toNat (wordB x t).toNat) 0 0 x.d.toNat)

/-- R303, R320, R321: union, intersection, difference, insertion and deletion of sets have the members the rules give, and every
result is in normal form; of a set in normal form the next member is the least at or above x, and a list's first k are its least. -/
def Obligations.SetOperationsHaveTheirMembers : Prop :=
  (∀ a b : List (Nat × Nat),
    (∀ x, InRuns x (runsUnion a b) ↔ InRuns x a ∨ InRuns x b) ∧ NormalRuns (runsUnion a b) ∧
    (∀ x, InRuns x (runsInter a b) ↔ InRuns x a ∧ InRuns x b) ∧ NormalRuns (runsInter a b) ∧
    (∀ x, InRuns x (runsDiff a b) ↔ InRuns x a ∧ ¬ InRuns x b) ∧ NormalRuns (runsDiff a b)) ∧
  (∀ (a : List (Nat × Nat)) y, NormalRuns a →
    (∀ x, InRuns x (runsInsert y a) ↔ x = y ∨ InRuns x a) ∧ NormalRuns (runsInsert y a) ∧
    (∀ x, InRuns x (runsDelete y a) ↔ x ≠ y ∧ InRuns x a) ∧ NormalRuns (runsDelete y a)) ∧
  (∀ xs : List Nat, (∀ x, InRuns x (runsOf xs) ↔ x ∈ xs) ∧ NormalRuns (runsOf xs)) ∧
  (∀ (a : List (Nat × Nat)) x, NormalRuns a →
    (∀ m, runsNext x a = some m ↔ InRuns m a ∧ x ≤ m ∧ ∀ n, InRuns n a → x ≤ n → m ≤ n) ∧
    (runsNext x a = none ↔ ∀ n, InRuns n a → n < x)) ∧
  (∀ (a : List (Nat × Nat)) k, NormalRuns a → (runsTake k a).length = min k (runsCount a) ∧
    (runsTake k a).Pairwise (· < ·) ∧ (∀ x ∈ runsTake k a, InRuns x a) ∧
    (∀ x y, x ∈ runsTake k a → InRuns y a → y ∉ runsTake k a → x < y)) ∧
  (∀ b : BitVec 1024, ∀ x, InRuns x (runsOfBits 1024 b) ↔ x < 1024 ∧ b.getLsbD x = true)

namespace Sys2Proof.Claims
open Machine

/-- The first request of a core's set engine, which is to execute here: it waits for nothing, and a halt lets it execute (R328). -/
structure SetHead (s : State) (core : Nat) (r : SetReq) (rest : List SetReq) (t : Thread) : Prop where
  order : (s.core core).sets = r :: rest
  on : (s.core core).halting = false ∨ s.midBatch r.key.ctx = true
  home : s.coreOf r.key = core
  issued : r.core = core
  held : s.setHeld core r = false
  alone : ∀ q ∈ rest, q.uid ≠ r.uid
  thread : s.thread? r.key r.tix = some t

/-- It passes its checks and names only near sets of this core. -/
structure SetRuns (s : State) (core : Nat) (r : SetReq) (rest : List SetReq) (t : Thread) : Prop extends SetHead s core r rest t where
  code : s.setCode r = 0
  near : s.namesFar core r = false

/-- The request has executed: it is gone, its number is complete, its thread has one set operation less outstanding, and its
pending result is written. -/
def SetDone (s : State) (core : Nat) (r : SetReq) (rest : List SetReq) (t : Thread) (ws : List (Dest × Nat)) (post : State → Prop) : Prop :=
  ∃ u t', exec (.setRequestExecute core) s = .next u ∧ (u.core core).sets = rest ∧ u.thread? r.key r.tix = some t' ∧
    t'.counts = t.counts.upd .sets (· - 1) ∧ (r.restored = false → r.num ∉ ((u.core core).timeline 6).running) ∧
    ((∃ e ∈ t.pend, e.uid = r.pendUid) → ∃ vs, vs.map (fun (w : Write) => (w.dest, w.val.toNat)) = ws ∧ Wrote t t' vs ∧
      ∀ e ∈ t'.pend, e.uid ≠ r.pendUid) ∧ post u

/-- The request has failed with a code (R318). -/
def SetFails (s : State) (core : Nat) (r : SetReq) (rest : List SetReq) (t : Thread) (code : Word) (ws : List (Dest × Nat)) : Prop :=
  SetDone s core r rest t ws (fun u => ((u.core core).timeline 6).failN = r.num ∧ ((u.core core).timeline 6).failC = code)

/-- The writes of a failed request (R318). -/
def failedWrites (op : SetOp) (d : Nat) (code : Nat) : List (Dest × Nat) :=
  match op with
  | .shas _ => [(.p (d % 16), 0)]
  | .scard => [(.g d, 0xFFFFFFFF), (.g (d + 1), 0xFFFFFFFF)]
  | .snext _ | .slap => [(.g d, 0), (.g (d + 1), 0)]
  | .srep | .sstl _ _ => [(.g d, 0)]
  | .shint _ => [(.g d, code)]
  | .scost _ => [(.g d, 0xFF0000), (.g (d + 1), 0)]
  | _ => []

/-- Whether a set that holds some blocks, and is to be as `z` says, has room: near on its core, or in the far-set object (R302). -/
def HasRoom (s : State) (l : LKey) (old : Nat) (z : SetRec) (handleRoom : Bool) : Prop :=
  (handleRoom = true ∧ s.nearFits z old = true) ∨ s.farRoom l { z with far := true } = true

/-- A set-producing request executes: where its result has room, its set has the members in the representation of the policy, or the
request fails with 0x86 for want of an index; where there is no room, it fails with 0x82 and leaves a failed set (R302, R318, R320). -/
def Produces (s : State) (core : Nat) (r : SetReq) (rest : List SetReq) (t : Thread) (mem : Nat → Prop) : Prop :=
  let l := r.key.launchKey
  let y := (s.setRec? l r.result).getD (SetRec.new 0 0 core r.key.pix)
  let z : SetRec := { y.withView (buildView (policyOf (s.produced r).1) (s.produced r).1) with pending := false }
  let room := HasRoom s l 0 z (s.nearRoom y.home)
  y.failed = false → y.far = false →
    (room → s.setRec? l r.result ≠ none → SetDone s core r rest t [] (fun u => ∃ w, u.setRec? l r.result = some w ∧ w.pending = false ∧
      w.failed = false ∧ (∀ n, InRuns n w.runs ↔ mem n) ∧ w.rep = policyOf w.runs ∧ w.pin = y.pin)) ∧
    (room → s.setRec? l r.result = none → SetFails s core r rest t 0x86 []) ∧
    (¬ room → SetDone s core r rest t [] (fun u => ((u.core core).timeline 6).failN = r.num ∧ ((u.core core).timeline 6).failC = 0x82 ∧
      (s.setRec? l r.result ≠ none → r.result ≠ 0 → ∃ w, u.setRec? l r.result = some w ∧ w.pending = false ∧ w.failed = true)))

/-- The elements that the batch of a mutation still holds behind it (R307). -/
def behindIt (s : State) (r : SetReq) : List Nat := ((s.batchOf r).filter (fun q => q.uid != r.uid)).map (fun q => q.op.element)

/-- The set as the batch of a mutation found it, and the elements applied before it (R307). -/
def begunWith (s : State) (r : SetReq) (y : SetRec) : SetRec × List Nat := ((s.openBatch? r).map (fun b => (b.base, b.elems))).getD (y, [])

/-- The set as the whole batch of a mutation leaves it, with what R308 to R310 then do (R307). -/
def wholeBatch (s : State) (r : SetReq) (y : SetRec) (ins : Bool) (x : Nat) : SetRec :=
  { ((begunWith s r y).1.batch ins ((begunWith s r y).2 ++ [x] ++ behindIt s r)).set with far := y.far }

/-- The set as the mutations of a batch up to one leave it, which is not the last of them (R307). -/
def soFar (s : State) (r : SetReq) (y : SetRec) (ins : Bool) (x : Nat) : SetRec :=
  { ((begunWith s r y).1.partly ins ((begunWith s r y).2 ++ [x])).set with far := y.far }

/-- Whether a mutation has room: its whole batch, or before the last of it what has been applied (R302, R307; log entry 62). -/
def MutationFits (s : State) (r : SetReq) (y : SetRec) (ins : Bool) (x : Nat) : Prop :=
  HasRoom s r.key.launchKey y.blocks (wholeBatch s r y ins x) true ∨
    (behindIt s r ≠ [] ∧ HasRoom s r.key.launchKey y.blocks (soFar s r y ins x) true)

/-- What an open batch holds: the mutations it names, on the set as the batch found it, have left the set as it is. -/
def BatchStands (s : State) (r : SetReq) (y : SetRec) (ins : Bool) : Prop :=
  ∀ b, s.openBatch? r = some b → b.seen = y ∧ b.ins = ins ∧ NormalRuns b.base.runs ∧ b.base.conv = none ∧
    y.runs = (b.base.partly ins b.elems).set.runs

/-- Some thread of a launch waits on a core for an index since a cycle. -/
def WaitsForIndex (s : State) (l : LKey) (core n : Nat) : Prop :=
  ∃ p ∈ s.parcels, p.runsOn core = true ∧ p.key.launchKey = l ∧ ∃ t ∈ p.threads, t.status = .engine (.setIndex n)

end Sys2Proof.Claims

/-- R296, R298, R302, R307, R310, R318 to R324: the set engine executes its first request: SHAS, SCARD and SNEXT answer from the
members, SSTL stores the least members and hands their bytes over, SUNI, SINT, SDIF, SCPY and SLDL build their result in the
representation of the policy, SINS and SDEL change one member where the set as the batch leaves it has room and fail with 0x82
and no effect where it has none, SFREE makes the handle stale, and a stale handle fails with 0x80; a build ends, and the core
that asked first gets its die's next block of indices. That a mutation without room fails alone is log entry 32, and which of a
batch has none is log entry 62. -/
def Obligations.SetRequestsExecuteInOrder : Prop :=
  (∀ s core r rest t, SetHead s core r rest t → s.setCode r ≠ 0 → r.op.produces = false →
    SetFails s core r rest t (BitVec.ofNat 32 (s.setCode r)) (failedWrites r.op r.d (s.setCode r))) ∧
  (∀ (s : State) (r : SetReq), (∃ h ∈ r.handles, s.setRec? r.key.launchKey h = none ∧ s.consist? r.key h = none) → s.setCode r = 0x80) ∧
  (∀ s core r rest t x, SetRuns s core r rest t → r.op = .shas x → SetDone s core r rest t
    [(.p (r.d % 16), if runsHas x.toNat (s.setView r.key r.a).runs then 1 else 0)] (fun u => SameMemory s u)) ∧
  (∀ s core r rest t, SetRuns s core r rest t → r.op = .scard →
    SetDone s core r rest t (inPair r.d (runsCount (s.setView r.key r.a).runs)) (fun u => SameMemory s u)) ∧
  (∀ s core r rest t x, SetRuns s core r rest t → r.op = .snext x →
    (∀ m, runsNext x.toNat (s.setView r.key r.a).runs = some m → m < 2 ^ 32 → SetDone s core r rest t [(.g r.d, m), (.g (r.d + 1), 1)]
      (fun u => SameMemory s u)) ∧
    (runsNext x.toNat (s.setView r.key r.a).runs = none → SetDone s core r rest t [(.g r.d, 0), (.g (r.d + 1), 0)]
      (fun u => SameMemory s u))) ∧
  (∀ s core r rest t p off cap, SetRuns s core r rest t → r.op = .sstl off cap → s.parcel? r.key = some p →
    let xs := runsTake cap (s.setView r.key r.a).runs
    xs.length < 2 ^ 32 → SetDone s core r rest t [(.g r.d, xs.length)] (fun u => ∃ p', u.parcel? r.key = some p' ∧
      (∀ i, ∀ h : i < xs.length, Mem.nat p'.spad (off + 4 * i) 4 = xs[i] % 2 ^ 32) ∧ BytesOutside p p' off (4 * xs.length) ∧
      p'.counts = p.counts ++ handed r.bar (4 * xs.length) r.uid)) ∧
  (∀ s core r rest t, SetRuns s core r rest t → r.op = .suni → Produces s core r rest t (fun n =>
    InRuns n (s.setView r.key r.a).runs ∨ InRuns n (s.setView r.key r.b).runs)) ∧
  (∀ s core r rest t, SetRuns s core r rest t → r.op = .sint → Produces s core r rest t (fun n =>
    InRuns n (s.setView r.key r.a).runs ∧ InRuns n (s.setView r.key r.b).runs)) ∧
  (∀ s core r rest t, SetRuns s core r rest t → r.op = .sdif → Produces s core r rest t (fun n =>
    InRuns n (s.setView r.key r.a).runs ∧ ¬ InRuns n (s.setView r.key r.b).runs)) ∧
  (∀ s core r rest t, SetRuns s core r rest t → r.op = .scpy → Produces s core r rest t (fun n => InRuns n (s.setView r.key r.a).runs)) ∧
  (∀ s core r rest t, SetRuns s core r rest t → r.op = .snew → Produces s core r rest t (fun _ => False)) ∧
  (∀ s core r rest t off n, SetRuns s core r rest t → r.op = .sldl off n → Produces s core r rest t (fun m =>
    ∃ i < n, m = Mem.nat (s.parcel r.key).spad (off + 4 * i) 4)) ∧
  (∀ s core r rest t x y (ins : Bool), SetRuns s core r rest t → r.op = (if ins then .sins x else .sdel x) →
    s.liveSet? r.key.launchKey r.a = some y → NormalRuns y.runs → y.conv = none → BatchStands s r y ins →
    let room := MutationFits s r y ins x.toNat
    (room → SetDone s core r rest t [] (fun u => ∃ z, u.setRec? r.key.launchKey r.a = some z ∧
      ∀ n, InRuns n z.runs ↔ if ins then n = x.toNat ∨ InRuns n y.runs else n ≠ x.toNat ∧ InRuns n y.runs)) ∧
    (¬ room → SetDone s core r rest t [] (fun u => (∃ z, u.setRec? r.key.launchKey r.a = some z ∧ z.runs = y.runs ∧
      (s.openBatch? r = none ∨ behindIt s r ≠ [] → z = y)) ∧ ((u.core core).timeline 6).failN = r.num ∧ ((u.core core).timeline 6).failC = 0x82))) ∧
  (∀ s core r rest t x, SetRuns s core r rest t → r.op = .sfree → s.launch? r.key.launchKey = some x →
    SetDone s core r rest t [] (fun u => u.setRec? r.key.launchKey r.a = none ∧ ∃ x', u.launch? r.key.launchKey = some x' ∧
      (x'.handleAt (handleIndex r.a)).toNat / 2 ^ 20 = (Tbl.get 1 x.pool.gens (handleIndex r.a) + 1) % 4096)) ∧
  (∀ s core r rest t c, SetRuns s core r rest t → r.op = .shint c → ∀ y, s.liveSet? r.key.launchKey r.a = some y →
    c = 0 → y.far = false → s.nearFits { y with conv := none, pin := none, miss := 0, tgt := 0 } y.blocks = true →
    SetDone s core r rest t [(.g r.d, 0)] (fun u => ∃ z, u.setRec? r.key.launchKey r.a = some z ∧ z.pin = none ∧ z.conv = none ∧
      z.runs = y.runs ∧ z.rep = y.rep)) ∧
  (∀ s core r rest t y, SetRuns s core r rest t → r.op = .srep → s.liveSet? r.key.launchKey r.a = some y → y.conv = none → y.miss = 0 →
    y.pin = none → y.rep < 8 → SetDone s core r rest t
      [(.g r.d, 2 ^ 31 + (if y.far then 2 ^ 30 else 0) + (if y.failed then 2 ^ 26 else 0) + y.rep)] (fun u => SameMemory s u)) ∧
  (∀ s core r rest t, SetRuns s core r rest t → r.op = .slap → SetDone s core r rest t (inPair r.d (t.farLap r.a))
    (fun u => SameMemory s u)) ∧
  (∀ s core r rest t v, SetRuns s core r rest t → r.op = .scost v → (s.setView r.key r.a).rep < 8 → (s.setView r.key r.b).rep < 8 →
    let cost := pairCost v (s.setView r.key r.a) (s.setView r.key r.b)
    ∃ w, w / 2 ^ 16 = cost.1 ∧ SetDone s core r rest t [(.g r.d, w), (.g (r.d + 1), min (2 ^ 32 - 1) cost.2)] (fun u => SameMemory s u)) ∧
  (∀ s l index x, s.launch? l = some x → (∃ r ∈ x.sets, r.index = index ∧ ∃ c, r.conv = some c ∧ c.built = false) →
    ∃ u x', exec (.setBuildDone l index) s = .next u ∧ u.launch? l = some x' ∧ x'.sets.map (·.runs) = x.sets.map (·.runs) ∧
      ∀ r ∈ x'.sets, r.index = index → ∀ c, r.conv = some c → c.built = true) ∧
  (∀ s l core n, s.asksSince l core = some n ↔
    s.freeIndex l core = none ∧ WaitsForIndex s l core n ∧ ∀ m, WaitsForIndex s l core m → n ≤ m) ∧
  (∀ s core l x n, s.launch? l = some x → s.asksSince l core = some n → x.dieSpent (dieOf core) = false →
    (∀ i < 20, ∀ m, s.asksSince l (20 * dieOf core + i) = some m → n < m ∨ n = m ∧ core ≤ 20 * dieOf core + i) →
    ∃ u x', exec (.indexBlockSupply core l) s = .next u ∧ u.launch? l = some x' ∧
      x'.pool.blocks = x.pool.blocks ++ [(1024 * dieOf core + Tbl.get 0 x.pool.next (dieOf core), core)] ∧
      Tbl.get 0 x'.pool.next (dieOf core) = Tbl.get 0 x.pool.next (dieOf core) + 1)

namespace Sys2Proof.Claims
open Machine

/-! ### Circle requests at issue (R340, R341, R346) -/

/-- The checks of a Circle request that every one makes: record, barrier, capability, alignment, lease (R341). -/
structure CircleChecks (s : State) (g : Group) (t : Thread) (x : EWord) (right : Right) (n width reply : Nat) : Prop where
  free : FreeToIssue t .circle
  stores : t.storeQ = []
  parcel : s.parcel? g.key ≠ none
  address : at32 t x.p % 16 = 0 ∧ at32 t x.p + 16 ≤ (s.parcel g.key).spSize
  record : reply % 16 = 0 ∧ reply + 16 ≤ (s.parcel g.key).spSize
  barrier : at32 t x.bar % 16 = 0 ∧ at32 t x.bar + 16 ≤ (s.parcel g.key).spSize
  granted : capTrap (t.cap (x.q.toNat % 8)) right (t.pair x.x.toNat).toNat n = none
  leased : s.leaseFault g.key (t.cap (x.q.toNat % 8)) right (t.pair x.x.toNat).toNat n = none
  aligned : (capBase (t.cap (x.q.toNat % 8)) + (t.pair x.x.toNat).toNat) % width = 0

/-- The chunks of 1,024 bytes of an object that a range touches. -/
def chunksTouched (a n : Nat) (l : List Nat) : Prop := l.Nodup ∧ ∀ c, c ∈ l ↔ 1024 * c < a + n ∧ a < 1024 * c + 1024

/-- The request is on its way; its thread has one Circle operation more outstanding, and waits in the blocking form, or goes on with
its guard pending. -/
def SendsCircle (i : Instr) (s : State) (g : Group) (t : Thread) (x : EWord) (op : CircleOp) (n reply : Nat) (wakes : Bool) : Prop :=
  let a := capBase (t.cap (x.q.toNat % 8)) + (t.pair x.x.toNat).toNat
  ∃ u t' q, exec i s = .next u ∧ u.thread? g.key t.tix = some t' ∧ t'.counts = oneMore t .circle ∧ RegistersOutside [] t t' ∧
    SameMemory s u ∧ u.circle = s.circle ++ [q] ∧ q.id = s.nextUid ∧ q.obj = ⟨g.key.ctx, capObj (t.cap (x.q.toNat % 8))⟩ ∧
    (q.key, q.tix, q.core, q.op, q.off, q.reply, q.bar, q.blocking, q.stage, q.decided, q.drop) =
      (g.key, t.tix, g.core, op, a, reply, at32 t x.bar, x.f, .sent, false, false) ∧
    (1 ≤ n → chunksTouched a n q.left) ∧
    (if x.f then t'.status = .engine (.circle q.id) ∧ t'.pc = t.pc ∧ t'.retired = t.retired ∧ t'.pend = t.pend
     else RetiredAt u g.key t t' (t.pc + BitVec.ofNat 32 g.size) ∧ t'.pend = t.pend ++ [⟨q.pendUid, [.p q.guard], none⟩] ∧
      ∀ p, x.guard = .onTrue p → q.guard = p.toNat) ∧
    (wakes = false → EnginesKept s u ∧ ∀ c, (u.core c).wakes = (s.core c).wakes)

/-- The width of a Circle type (R340). -/
def typeBytes (ty : Nat) : Nat := if ty = 2 ∨ ty = 3 then 8 else 4

/-- A query writes a pair later (R341, R346). -/
def AnswersPair (i : Instr) (s : State) (g : Group) (t : Thread) (d v : Nat) : Prop :=
  ∃ u t' e, exec i s = .next u ∧ RetiredAt u g.key t t' (t.pc + BitVec.ofNat 32 g.size) ∧ RegistersOutside [] t t' ∧
    t'.counts = t.counts ∧ t'.pend = t.pend ++ [e] ∧ e.dests = [.g d, .g (d + 1)] ∧
    (∃ vs, e.vals = some vs ∧ vs.map (fun (w : Write) => (w.dest, w.val.toNat)) = inPair d v) ∧ Elsewhere s u g.key t.tix true ∧
    EnginesKept s u

end Sys2Proof.Claims

/-- R340, R341, R346: CRUPD, CRRD and CRSNAP send their request; CRLAP answers with the region's latest lap and CRINFO.slice with a
slice and its occupancy. Where the object is no region the answer is a free value (log entry 27). -/
def Obligations.CircleRequestsAreSent : Prop :=
  (∀ x s g t, Alone s g (.crupd x) t → let w := typeBytes x.circleType
    CircleChecks s g t x .c w w (at32 t x.p) →
    let v := t.circleOperand x.circleOp x.circleType x.y.toNat
    SendsCircle (.crupd x) s g t x (.update x.circleOp x.circleType v.1 v.2) w (at32 t x.p) true) ∧
  (∀ x s g t, Alone s g (.crrd x) t → let w := typeBytes x.circleType
    CircleChecks s g t x .q w w (at32 t x.p) → SendsCircle (.crrd x) s g t x (.read (w == 8)) w (at32 t x.p) false) ∧
  (∀ x s g t, Alone s g (.crsnap x) t → let n := at32 t x.y
    n % 4 = 0 → 4 ≤ n → n ≤ 65536 → CircleChecks s g t x .q n 4 (at32 t x.p + 16 * ((n + 15) / 16)) →
    SendsCircle (.crsnap x) s g t x (.snap n) n (at32 t x.p + 16 * ((n + 15) / 16)) false) ∧
  (∀ x s g t h, Alone s g (.crsnap x) t → FreeToIssue t .circle → t.storeQ = [] → CanTrap s g.key t h → let n := at32 t x.y
    (n % 4 ≠ 0 → ∃ u t', exec (.crsnap x) s = .next u ∧ TrapTaken u g.key t t' 0x0006 (BitVec.ofNat 64 n) t.pc 1 h) ∧
    (n % 4 = 0 → n < 4 ∨ 65536 < n → ∃ u t', exec (.crsnap x) s = .next u ∧ TrapTaken u g.key t t' 0x0302 (BitVec.ofNat 64 n) t.pc 1 h)) ∧
  (∀ x s g t, Alone s g (.crlap x) t → let k := t.cap (x.q.toNat % 8)
    capCheck k [.c, .q] 0 0 = none → ∀ e r, s.object? ⟨g.key.ctx, capObj k⟩ = some e → s.region? ⟨g.key.ctx, capObj k⟩ = some r →
    s.classOf ⟨g.key.ctx, capObj k⟩ = 2 → r.lap < 2 ^ 64 → AnswersPair (.crlap x) s g t x.p.toNat r.lap) ∧
  (∀ x s g t, Alone s g (.crinfo x) t → x.mod = 0 → let k := t.cap (x.q.toNat % 8)
    let o := (t.pair x.x.toNat).toNat
    capCheck k [.c, .q] o 0 = none → ∀ e r, s.object? ⟨g.key.ctx, capObj k⟩ = some e → s.region? ⟨g.key.ctx, capObj k⟩ = some r →
    s.classOf ⟨g.key.ctx, capObj k⟩ = 2 →
    let n := e.physical ((capBase k + o) / 1024 % e.sliceCount)
    n < 2 ^ 32 → (s.slice n).queue.length < 2 ^ 32 →
    AnswersPair (.crinfo x) s g t x.p.toNat (n * 2 ^ 32 + (s.slice n).queue.length)) ∧
  (∀ x s g t, Alone s g (.crinfo x) t → x.mod = 1 → capCheck (t.cap (x.q.toNat % 8)) [.c, .q] 0 0 = none →
    ∃ v, AnswersPair (.crinfo x) s g t x.p.toNat v)

namespace Sys2Proof.Claims
open Machine

/-! ### Admission, row passes and laps (R332 to R345) -/

/-- A request whose bytes lie in region slice `i` of a region, in physical slice `n`, and which no older one of its thread precedes. -/
structure AtSlice (s : State) (q : CircleReq) (r : Region) (i n : Nat) : Prop where
  request : s.circle? q.id = some q
  one : (s.entry q.obj).slicesOf q.left = [i]
  place : n = (s.entry q.obj).physical i
  code : s.circleCode q = 0
  region : s.region? q.obj = some r

/-- The entries of a queue that a request takes (R334): a set batch takes one for each of its requests (R326). -/
def entriesOf (q : CircleReq) : Nat :=
  match q.op with
  | .far uids _ => uids.length
  | _ => 1

/-- A request is admitted: a ticket for the lap after the slice's, and its entries at the end of the queue (R334). -/
def Admitted (s u : State) (q : CircleReq) (r : Region) (i n : Nat) : Prop :=
  (u.slice n).queue = (s.slice n).queue ++
      List.replicate (entriesOf q) ⟨q.id, q.obj, (s.entry q.obj).rowsOf q.left i, (r.slice i).lap + 1⟩ ∧
    u.circle? q.id = some { q with stage := .admitted, ticket := (r.slice i).lap + 1 } ∧ SameMemory s u

/-- The new value of a word (R340, R342). -/
def newWord (op ty old cmp v : Nat) : Nat :=
  let bits := 8 * typeBytes ty
  let code : TypeCode := if ty = 0 then .i32 else if ty = 1 then .n32 else if ty = 2 then .i64 else .n64
  match op with
  | 0 => (old + v) % 2 ^ bits
  | 1 => if ty = 4 then pickBits .f32 false old v else lessOf code old v
  | 2 => if ty = 4 then pickBits .f32 true old v else moreOf code old v
  | 3 => old &&& v
  | 4 => old ||| v
  | 5 => old ^^^ v
  | 6 => v
  | 7 => if old = cmp then v else old
  | 8 => old ||| 2 ^ v
  | _ => if old.testBit v then old - 2 ^ v else old

/-- A region slice about to pass a row with one due entry; the row's bytes lie at byte `a` of a tier. -/
structure RowDue (s : State) (o : OKey) (slice : Nat) (r : Region) (e : ObjEntry) (ent : SliceEntry) (q : CircleReq) (t : Tier) (a : Nat)
    (row : Mem) : Prop where
  region : s.region? o = some r
  object : s.object? o = some e
  bounds : slice < e.sliceCount ∧ (r.slice slice).cursor < e.rows
  runs : s.lapsRun o = true
  due : (s.slice (e.physical slice)).due o (r.slice slice).cursor (r.slice slice).lap = [ent]
  request : s.circle? ent.req = some q
  posted : q.drop = false
  place : e.chunkPlace ((r.slice slice).cursor * e.sliceCount + slice) = some (t, a)
  row : (s.readRow o ((r.slice slice).cursor * e.sliceCount + slice)).2 = .ok row

/-- The row pass moved the cursor on; entries of the row that were due are gone. -/
def RowPassed (u : State) (o : OKey) (slice : Nat) (r : Region) (e : ObjEntry) : Prop :=
  (∃ r', u.region? o = some r' ∧ (r'.slice slice).cursor = (r.slice slice).cursor + 1 ∧ r'.lap = r.lap ∧
    ∀ i, i ≠ slice → r'.slice i = r.slice i) ∧
  (u.slice (e.physical slice)).due o (r.slice slice).cursor (r.slice slice).lap = []

/-- One word of a tier's memory holds a value, and every byte outside it what it held. -/
def WordIs (s u : State) (t : Tier) (a w v : Nat) : Prop :=
  Mem.nat (u.tier t) a w = v % 256 ^ w ∧ (∀ b, (b < a ∨ a + w ≤ b) → Mem.byte (u.tier t) b = Mem.byte (s.tier t) b) ∧
    ∀ t', t' ≠ t → u.tier t' = s.tier t'

/-- A whole reply record on its way from a physical slice (R337, R338). -/
def RepliesWith (s u : State) (q : CircleReq) (slice lap value kind status : Nat) : Prop :=
  ∃ b, u.replies = s.replies ++ [⟨q.id, some slice, q.key, q.tix, q.reply, b, q.bar, 16, 0, true⟩] ∧ b.length = 16 ∧
    leNat b = value % 2 ^ 64 * 2 ^ 64 + lap % 2 ^ 48 * 2 ^ 16 + kind * 256 + status

end Sys2Proof.Claims

/-- R334, R326: CIRCLE_ADMIT admits a request that finds room with the ticket of the next lap, a set batch as one; with the queue full or waiters before it a
blocking request waits and another is refused; a freed entry goes to the oldest waiter. ADMISSION_DECISION tells the thread: a
refusal clears the guard and the counter, an admission sets the guard or lets the waiting thread go on. -/
def Obligations.CircleRequestsAreAdmittedOrRefused : Prop :=
  (∀ s q r i n, AtSlice s q r i n → q.stage = .sent → s.overtakes q = false → s.tooLate (s.slice n) q = false →
    (s.slice n).queue.length + entriesOf q ≤ 8192 →
    (s.slice n).waiters = [] → ∃ u, exec (.circleAdmit q.id) s = .next u ∧ Admitted s u q r i n ∧ (u.slice n).waiters = []) ∧
  (∀ s q r i n, AtSlice s q r i n → q.stage = .sent → s.overtakes q = false → s.tooLate (s.slice n) q = false →
    (8192 < (s.slice n).queue.length + entriesOf q ∨ (s.slice n).waiters ≠ []) → ∃ u, exec (.circleAdmit q.id) s = .next u ∧
      (u.slice n).queue = (s.slice n).queue ∧ (u.slice n).waiters = (s.slice n).waiters ++ (if q.blocking then [q.id] else []) ∧
      u.circle? q.id = some { q with stage := if q.blocking then .waiting else .refused }) ∧
  (∀ s q r i n rest, AtSlice s q r i n → q.stage = .waiting → (s.slice n).queue.length + entriesOf q ≤ 8192 → (s.slice n).waiters = q.id :: rest →
    ∃ u, exec (.circleAdmit q.id) s = .next u ∧ Admitted s u q r i n ∧ (u.slice n).waiters = rest) ∧
  (∀ s q t, s.circle? q.id = some q → (∀ b, q.op ≠ .host b) → (∀ b m, q.op ≠ .far b m) → q.decided = false →
    q.stage = .refused → s.thread? q.key q.tix = some t → (∃ e ∈ t.pend, e.uid = q.pendUid) → q.guard < 16 →
    ∃ u t', exec (.admissionDecision q.id) s = .next u ∧ u.circle? q.id = none ∧ u.thread? q.key q.tix = some t' ∧
      t'.pred q.guard = false ∧ RegistersOutside [.p q.guard] t t' ∧ t'.counts = t.counts.upd .circle (· - 1) ∧
      ∀ e ∈ t'.pend, e.uid ≠ q.pendUid) ∧
  (∀ s q t, s.circle? q.id = some q → (∀ b, q.op ≠ .host b) → (∀ b m, q.op ≠ .far b m) → q.decided = false → q.stage = .admitted →
    q.blocking = false → s.thread? q.key q.tix = some t → (∃ e ∈ t.pend, e.uid = q.pendUid) → q.guard < 16 →
    ∃ u t', exec (.admissionDecision q.id) s = .next u ∧ u.thread? q.key q.tix = some t' ∧ t'.pred q.guard = true ∧
      RegistersOutside [.p q.guard] t t' ∧ t'.counts = t.counts ∧ ∀ e ∈ t'.pend, e.uid ≠ q.pendUid) ∧
  (∀ s q t, s.circle? q.id = some q → (∀ b, q.op ≠ .host b) → (∀ b m, q.op ≠ .far b m) → q.decided = false → q.stage = .admitted →
    q.blocking = true → s.thread? q.key q.tix = some t → t.status = .engine (.circle q.id) →
    ∃ u t', exec (.admissionDecision q.id) s = .next u ∧ u.thread? q.key q.tix = some t' ∧ t'.status = .ready ∧ t'.pc = q.pc + 8 ∧
      t'.retired = retiredNext t ∧ RegistersOutside [] t t')

/-- R332, R337, R340, R342, R343: CIRCLE_ROW_PASS of a row with one due update writes the word's new value and no other byte, and
replies with the old one and the lap; an .f32 sum is rounded at the end of the pass; a due read is answered from the row; an idle
row only moves the cursor. -/
def Sys2Proof.Claims.RowPassesApplyTheirEntries : Prop :=
  (∀ s o slice r e, s.region? o = some r → s.object? o = some e → slice < e.sliceCount → (r.slice slice).cursor < e.rows →
    s.lapsRun o = true → (s.slice (e.physical slice)).due o (r.slice slice).cursor (r.slice slice).lap = [] →
    ∃ u, exec (.circleRowPass o slice) s = .next u ∧ RowPassed u o slice r e ∧ SameMemory s u ∧ u.replies = s.replies ∧
      u.slices = s.slices) ∧
  (∀ s o slice r e ent q t a row op ty cmp v, RowDue s o slice r e ent q t a row → q.op = .update op ty cmp v → ¬ (op = 0 ∧ ty = 4) →
    q.off % typeBytes ty = 0 → v.toNat < 2 ^ (8 * typeBytes ty) → (8 ≤ op → v.toNat < 8 * typeBytes ty) →
    let old := Mem.nat row (q.off % 1024) (typeBytes ty)
    ∃ u, exec (.circleRowPass o slice) s = .next u ∧ RowPassed u o slice r e ∧
      WordIs s u t (a + q.off % 1024) (typeBytes ty) (newWord op ty old cmp.toNat v.toNat) ∧
      RepliesWith s u q (e.physical slice) (r.slice slice).lap old 0 (if op = 7 ∧ old ≠ cmp.toNat then 1 else 0)) ∧
  (∀ s o slice r e ent q t a row cmp v, RowDue s o slice r e ent q t a row → q.op = .update 0 4 cmp v → q.off % 4 = 0 →
    let old := Fmt.f32.value (Mem.nat row (q.off % 1024) 4)
    ∃ u, exec (.circleRowPass o slice) s = .next u ∧ RowPassed u o slice r e ∧
      WordIs s u t (a + q.off % 1024) 4 (Fmt.f32.round .rne (xf (old.add false (Fmt.f32.value v.toNat)))) ∧
      RepliesWith s u q (e.physical slice) (r.slice slice).lap (Fmt.f32.round .rne old) 0 0) ∧
  (∀ s o slice r e ent q t a row wide, RowDue s o slice r e ent q t a row → q.op = .read wide →
    ∃ u, exec (.circleRowPass o slice) s = .next u ∧ RowPassed u o slice r e ∧ SameMemory s u ∧
      RepliesWith s u q (e.physical slice) (r.slice slice).lap (Mem.nat row (q.off % 1024) (if wide then 8 else 4)) 1 0)

/-- R332, R333, R335, R338, R428: a slice reports the end of its lap; the master declares the next lap once every slice has reported it,
1,000 ticks have passed and every snapshot's parts are acknowledged; a slice starts the declared lap at row 0; a snapshot of several
slices enters each at the lap after the one declared, and waits while no master serves the region (R428); a reply lands in the scratchpad and hands its bytes over, but not before an
earlier part of its request, nor before an earlier reply of one slice to its thread. -/
def Sys2Proof.Claims.LapsAndSnapshotsKeepTogether : Prop :=
  (∀ s o slice r e, s.region? o = some r → s.object? o = some e → slice < e.sliceCount → e.rows ≤ (r.slice slice).cursor →
    (r.slice slice).reported = false → ∃ u r', exec (.lapEndReport o slice) s = .next u ∧ u.region? o = some r' ∧
      (r'.slice slice).reported = true ∧ (r'.slice slice).shown = some (r.slice slice).occ ∧ r'.lap = r.lap) ∧
  (∀ s o r e, s.region? o = some r → s.object? o = some e →
    (∀ i < e.sliceCount, (r.slice i).lap = r.lap ∧ (r.slice i).reported = true) → r.declaredAt + 1000 ≤ s.tb →
    (let b := s.base (s.entry o).home; b.alive b.master = true ∧ s.tb < b.beat b.master + 512) →
    (∀ q ∈ s.circle, q.obj = o → q.parts = []) → ∃ u r', exec (.lapDeclare o) s = .next u ∧ u.region? o = some r' ∧
      r'.lap = r.lap + 1 ∧ r'.declaredAt = s.tb ∧ r'.slices = r.slices ∧ SameMemory s u) ∧
  (∀ s o slice r e, s.region? o = some r → s.object? o = some e → slice < e.sliceCount → (r.slice slice).lap < r.lap →
    s.lapsRun o = true → ∃ u r', exec (.lapStart o slice) s = .next u ∧ u.region? o = some r' ∧ (r'.slice slice).lap = r.lap ∧
      (r'.slice slice).cursor = 0 ∧ (r'.slice slice).reported = false ∧ r'.lap = r.lap) ∧
  (∀ s q r, s.circle? q.id = some q → q.stage = .sent → s.overtakes q = false → s.spans q = true → s.circleCode q = 0 →
    s.region? q.obj = some r → r.spanWait = [] → s.spanFull q = false →
    (let b := s.base (s.entry q.obj).home; b.alive b.master = true ∧ s.tb < b.beat b.master + 512) →
    let parts := (s.entry q.obj).slicesOf q.left
    (parts.map (s.entry q.obj).physical).Nodup →
    ∃ u, exec (.spanAdmit q.id) s = .next u ∧
      u.circle? q.id = some { q with stage := .admitted, ticket := r.lap + 1, parts := parts } ∧
      ∀ i ∈ parts, (u.slice ((s.entry q.obj).physical i)).queue = (s.slice ((s.entry q.obj).physical i)).queue ++
        [⟨q.id, q.obj, (s.entry q.obj).rowsOf q.left i, r.lap + 1⟩]) ∧
  (∀ s q, s.circle? q.id = some q → s.circleCode q = 0 →
    (let b := s.base (s.entry q.obj).home; b.alive b.master = false ∨ b.beat b.master + 512 ≤ s.tb) →
    ∀ u, exec (.spanAdmit q.id) s ≠ .next u) ∧
  (∀ s q slice, s.circle? q.id = some q → slice ∈ q.parts → ∃ u, exec (.spanPartAck q.id slice) s = .next u ∧
    u.circle? q.id = some { q with parts := q.parts.filter (fun n => n != slice) }) ∧
  (∀ s k r, s.replies[k]? = some r → (∃ x ∈ s.replies.take k, r.final = true ∧ x.req = r.req ∨
      x.key = r.key ∧ x.tix = r.tix ∧ r.slice.isSome = true ∧ x.slice = r.slice) → ∀ u, exec (.circleReplyLand k) s ≠ .next u) ∧
  (∀ s k r p, s.replies[k]? = some r → (∀ x ∈ s.replies.take k, ¬ (r.final = true ∧ x.req = r.req) ∧
      ¬ (x.key = r.key ∧ x.tix = r.tix ∧ r.slice.isSome = true ∧ x.slice = r.slice)) → s.parcel? r.key = some p → ∃ u p', exec (.circleReplyLand k) s = .next u ∧
      u.replies = s.replies.take k ++ s.replies.drop (k + 1) ∧ u.parcel? r.key = some p' ∧ Landed p p' [(r.off, r.bytes)] ∧
      p'.counts = p.counts ++ [⟨r.bar, r.count, r.err, r.req, if r.final then some r.tix else none⟩])

namespace Sys2Proof.Claims
open Machine

/-! ### Traps and system instructions (R398 to R413) -/

/-- A thread whose next instruction fails check 8 (R78): it is alone and ready. -/
structure AloneIllegal (s : State) (g : Group) (i : Instr) (t : Thread) : Prop where
  group : s.group = some g
  alone : g.tixs = [t.tix]
  core : s.coreOf g.key = g.core
  thread : s.thread? g.key t.tix = some t
  ready : t.status = .ready
  illegal : ∃ l, s.launch? g.key.launchKey = some l ∧ t.readiness l i.sig = .illegal

/-- A register read: `v` in one register, or in a pair, due as an arithmetic result; nothing else changes. -/
def ReadsOut (i : Instr) (s : State) (g : Group) (t : Thread) (d : Nat) (wide : Bool) (v : Nat) : Prop :=
  ∃ u t', exec i s = .next u ∧ RetiredAt u g.key t t' (t.pc + BitVec.ofNat 32 g.size) ∧
    RegistersOutside (if wide then [.g d, .g (d + 1)] else [.g d]) t t' ∧ SameRest t t' ∧
    (if wide then (t'.pair d).toNat = v % 2 ^ 64 else (t'.reg d).toNat = v % 2 ^ 32) ∧ t'.detect = t.detect ∧
    Elsewhere s u g.key t.tix true ∧ EnginesKept s u

/-- A write of a special register: `post` is what the registers hold, and every other register of the thread is kept. -/
def WritesSpecial (n : Nat) (post : SWord → Thread → Thread → Prop) : Prop :=
  ∀ x s g t, Alone s g (.mtsr x) t → x.n = n → ∃ u t', exec (.mtsr x) s = .next u ∧
    RetiredAt u g.key t t' (t.pc + BitVec.ofNat 32 g.size) ∧ (t'.g, t'.p, t'.c) = (t.g, t.p, t.c) ∧
    (t'.counts, t'.pend, t'.deliver, t'.storeQ, t'.due) = (t.counts, t.pend, t.deliver, t.storeQ, t.due) ∧
    t'.tstate = t.tstate ∧ post x t t' ∧ Elsewhere s u g.key t.tix true ∧ EnginesKept s u

/-- The 32-bit operand of a system instruction. -/
def wordS (x : SWord) (t : Thread) : Word := if x.za then 0 else t.reg x.a.toNat

/-- A trap that completes its instruction first (R411). -/
def CompletesAndTraps (i : Instr) (s : State) (g : Group) (t : Thread) (cause : Word) (addr : Nat) (h : Word) : Prop :=
  ∃ u t', exec i s = .next u ∧ TrapTaken u g.key t t' cause (BitVec.ofNat 64 addr) (t.pc + 8) 1 h ∧ t'.retired = retiredNext t

end Sys2Proof.Claims

/-- The queued stores of a core are those of one thread alone, each served in one pass (R183, R195). -/
def Sys2Proof.Claims.OwnStores (s : State) (k : PKey) (t : Thread) (p : Parcel) : Prop :=
  (s.core (s.coreOf k)).stores.length = t.storeQ.length ∧
  ∀ i ∈ (s.core (s.coreOf k)).stores, i.key = k ∧ ∃ a, i.accs = [a] ∧ a.tix = t.tix ∧ passOf p.xhash [a] = [a]

/-- R400, R401, R413: a trap saves cause, address and PC, enters the handler, or the loader for OVLMISS, writes the thread's older
loads and counts once; its registers and requests keep what they hold. It performs the thread's older stores: where the core queues
no others, those are its whole effect on memory, and other threads and parcels keep what they hold. -/
def Sys2Proof.Claims.TrapEntrySavesAndVectors : Prop :=
  ∀ (s : State) (k : PKey) tix (r : Trap) t l p h, s.thread? k tix = some t → s.launch? k.launchKey = some l → s.parcel? k = some p →
    (if r.kind = 4 then l.loader else l.handler) = some h → t.tstate.getLsbD 0 = false → r.completes = false →
    r.kind < 256 → r.sub < 256 → (∀ x, r.other = some x → x < 1024) →
    ∃ t' p', (s.trap k tix r).thread? k tix = some t' ∧ (s.trap k tix r).parcel? k = some p' ∧
      t'.tcause.toNat = causeOf r.kind r.sub r.other ∧ t'.taddr = BitVec.ofInt 64 r.addr ∧ t'.tpc = t.pc ∧
      t'.tstate = (if r.kind = 4 then 3 else 1) ∧ t'.pc = h ∧ t'.status = .ready ∧ t'.reuse = none ∧
      (∀ v ∈ t'.deliver, v.load = false) ∧
      Wrote t t' ((t.deliver.filter (fun v => v.load)).flatMap (fun v => v.writes)) ∧
      (t'.tsav0, t'.tsav1, t'.srseed, t'.pend, t'.detect, t'.own, t'.retired) =
        (t.tsav0, t.tsav1, t.srseed, t.pend, t.detect, t.own, t.retired) ∧
      (t'.counts.copies, t'.counts.matrix, t'.counts.sets, t'.counts.circle) =
        (t.counts.copies, t.counts.matrix, t.counts.sets, t.counts.circle) ∧
      Tbl.get 0 ((s.trap k tix r).ctx k.ctx).counters 0x01C = min (2 ^ 64 - 1) (Tbl.get 0 (s.ctx k.ctx).counters 0x01C + 1) ∧
      (t.storeQ = [] ∨ OwnStores s k t p → t'.storeQ = [] ∧
        (Disjoint (t.storeQ.map (fun q => (q.off, q.bytes))) → Landed p p' (t.storeQ.map (fun q => (q.off, q.bytes)))) ∧
        (∀ x, x ≠ tix → (s.trap k tix r).thread? k x = s.thread? k x) ∧
        (∀ k', k' ≠ k → (s.trap k tix r).parcel? k' = s.parcel? k'))

/-- R391, R402: a trap while H is 1, or with no routine of the kind it needs, ends the launch: it and its parcels are gone, and no
parcel of another launch is touched. -/
def Sys2Proof.Claims.DoubleFaultsEndTheLaunch : Prop :=
  ∀ (s : State) (k : PKey) tix (r : Trap) t l, s.thread? k tix = some t → s.launch? k.launchKey = some l →
    (t.tstate.getLsbD 0 = true ∨ (if r.kind = 4 then l.loader else l.handler) = none) →
    (s.trap k tix r).launch? k.launchKey = none ∧ (∀ p ∈ (s.trap k tix r).parcels, p.key.launchKey ≠ k.launchKey) ∧
    (∀ k', k'.launchKey ≠ k.launchKey → (s.trap k tix r).parcel? k' = s.parcel? k')

/-- R78, R403, R411: TRAP and BKPT retire and trap; ERET goes to `%tpc`, leaves handler mode and faults as a branch does; a word
that no opcode claims, and an instruction beyond the register budget, trap as ILLEGAL with the number of their check. -/
def Obligations.TrapsAreRaisedAndReturnedFrom : Prop :=
  (∀ x s g t h, Alone s g (.trap x) t → CanTrap s g.key t h → CompletesAndTraps (.trap x) s g t 0x0008 x.n h) ∧
  (∀ x s g t h, Alone s g (.bkpt x) t → CanTrap s g.key t h → CompletesAndTraps (.bkpt x) s g t 0x0007 x.n h) ∧
  (∀ w s g t h, Alone s g (.unassignedOpcode w) t → CanTrap s g.key t h →
    ∃ u t', exec (.unassignedOpcode w) s = .next u ∧ TrapTaken u g.key t t' 0x0101 (BitVec.ofNat 64 t.pc.toNat) t.pc 1 h) ∧
  (∀ i s g t h, i.isStep = false → AloneIllegal s g i t → CanTrap s g.key t h → (∀ y, i ≠ .cnew y) → (∀ y, i ≠ .elect y) →
    ∃ u t', exec i s = .next u ∧ TrapTaken u g.key t t' 0x0801 (BitVec.ofNat 64 t.pc.toNat) t.pc 1 h) ∧
  (∀ x s g t, Alone s g (.eret x) t → Reaches s g t.tpc → ∃ u t', exec (.eret x) s = .next u ∧
    RetiredAt u g.key t t' t.tpc ∧ t'.tstate = 0 ∧ RegistersOutside [] t t' ∧
    (t'.tcause, t'.taddr, t'.tpc, t'.tsav0, t'.tsav1, t'.srseed) = (t.tcause, t.taddr, t.tpc, t.tsav0, t.tsav1, t.srseed) ∧
    (t'.counts, t'.pend, t'.deliver, t'.storeQ) = (t.counts, t.pend, t.deliver, t.storeQ) ∧
    Elsewhere s u g.key t.tix true ∧ EnginesKept s u) ∧
  (∀ x : SWord, BranchFaults (.eret x) (fun t => t.tpc))

/-- R94, R110, R225, R409, R411 to R413: MFSR reads each special register, MTSR writes each writable one and no other, CLKRD
reads the time base or the cycle count, and PERFRD a counter. That a write of %tcause keeps bits [26:0], and that PERFRD of a
context counter answers before the group's own count, are the model's reading (log entry 19). -/
def Obligations.SpecialRegistersAreReadAndWritten : Prop :=
  (∀ x s g t l p, Alone s g (.mfsr x) t → s.launch? g.key.launchKey = some l → s.parcel? g.key = some p →
    let d := x.d.toNat
    let reads : Nat → Nat → Prop := fun (n v : Nat) => x.n = n → ReadsOut (.mfsr x) s g t d false v
    let pairs : Nat → Nat → Prop := fun (n v : Nat) => x.n = n → ReadsOut (.mfsr x) s g t d true v
    reads 0x000 (g.key.pix * l.p + t.tix) ∧ reads 0x001 g.key.pix ∧ reads 0x002 t.tix ∧ reads 0x003 t.role ∧ reads 0x004 (t.tix % 32) ∧
    reads 0x005 l.n ∧ reads 0x006 l.p ∧ reads 0x007 g.key.launch ∧ reads 0x008 g.core ∧ pairs 0x010 s.tb ∧ pairs 0x011 s.clk ∧
    reads 0x012 ((2047 - s.tb % 2048) * 8 + s.tb / 2048 % 8) ∧ pairs 0x013 p.xhash.toNat ∧ reads 0x014 t.srseed.toNat ∧
    reads 0x020 t.tcause.toNat ∧ pairs 0x021 t.taddr.toNat ∧ reads 0x022 t.tpc.toNat ∧ reads 0x023 t.tsav0.toNat ∧
    reads 0x024 t.tsav1.toNat ∧ reads 0x025 t.tstate.toNat) ∧
  WritesSpecial 0x014 (fun x t t' => t'.srseed = (if wordS x t = 0 then 1 else wordS x t) ∧
    (t'.tcause, t'.taddr, t'.tpc, t'.tsav0, t'.tsav1) = (t.tcause, t.taddr, t.tpc, t.tsav0, t.tsav1)) ∧
  WritesSpecial 0x020 (fun x t t' => t'.tcause.toNat = (wordS x t).toNat % 2 ^ 27 ∧
    (t'.srseed, t'.taddr, t'.tpc, t'.tsav0, t'.tsav1) = (t.srseed, t.taddr, t.tpc, t.tsav0, t.tsav1)) ∧
  WritesSpecial 0x021 (fun x t t' => t'.taddr = (if x.za then 0 else t.pair x.a.toNat) ∧
    (t'.srseed, t'.tcause, t'.tpc, t'.tsav0, t'.tsav1) = (t.srseed, t.tcause, t.tpc, t.tsav0, t.tsav1)) ∧
  WritesSpecial 0x022 (fun x t t' => t'.tpc = wordS x t ∧
    (t'.srseed, t'.tcause, t'.taddr, t'.tsav0, t'.tsav1) = (t.srseed, t.tcause, t.taddr, t.tsav0, t.tsav1)) ∧
  WritesSpecial 0x023 (fun x t t' => t'.tsav0 = wordS x t ∧
    (t'.srseed, t'.tcause, t'.taddr, t'.tpc, t'.tsav1) = (t.srseed, t.tcause, t.taddr, t.tpc, t.tsav1)) ∧
  WritesSpecial 0x024 (fun x t t' => t'.tsav1 = wordS x t ∧
    (t'.srseed, t'.tcause, t'.taddr, t'.tpc, t'.tsav0) = (t.srseed, t.tcause, t.taddr, t.tpc, t.tsav0)) ∧
  (∀ x s g t, Alone s g (.clkrd x) t →
    (x.mod.getLsbD 1 = false ∨ t.due = [] ∧ t.deliver = [] ∧ t.storeQ = [] ∧ s.undecided g.key t.tix = false) →
    ReadsOut (.clkrd x) s g t x.d.toNat true (if x.mod.getLsbD 0 then s.clk else s.tb)) ∧
  (∀ x s g t, Alone s g (.clkrd x) t → x.mod.getLsbD 1 = true →
    (t.due ≠ [] ∨ t.deliver ≠ [] ∨ t.storeQ ≠ [] ∨ s.undecided g.key t.tix = true) →
    ∃ u t', exec (.clkrd x) s = .next u ∧ u.thread? g.key t.tix = some t' ∧ t'.status = .engine .sync ∧ t'.pc = t.pc ∧
      t'.retired = t.retired ∧ RegistersOutside [] t t') ∧
  (∀ x s g t p, Alone s g (.perfrd x) t → s.parcel? g.key = some p →
    ReadsOut (.perfrd x) s g t x.d.toNat true (if x.n = 0 then t.retired else if x.n = 1 then p.retired
      else Tbl.get 0 (s.ctx g.key.ctx).counters x.n))

namespace Sys2Proof.Claims
open Machine

/-! ### Objects, routes, leases, migration, links (R217 to R224, R423 to R429) -/

/-- The fault ring of a context can take a record (R406). -/
def RingRoom (s : State) (ctx : Nat) : Prop :=
  let ring := (s.ctx ctx).fring
  let sz := s.dev (ring + 8) 1 % 32
  4 ≤ sz ∧ sz ≤ 16 ∧ (s.dev ring 4 + 2 ^ 32 - s.dev (ring + 4) 4) % 2 ^ 32 < 2 ^ sz

/-- A fault record of a kind stands in the ring of a context, at the place of the count that the ring had (R406). -/
def RecordIn (s v : State) (ctx kind x : Nat) : Prop :=
  let ring := (s.ctx ctx).fring
  let widx := s.dev ring 4
  x = v.dev (ring + 64 + 64 * (widx % 2 ^ (s.dev (ring + 8) 1 % 32))) 64 ∧ bitsOf x 511 448 = s.tb % 2 ^ 64 ∧
    bitsOf x 119 112 = kind ∧ bitsOf x 111 106 = ctx % 64 ∧ bitsOf x 63 32 = widx ∧ v.dev ring 4 = (widx + 1) % 2 ^ 32 ∧
    v.msix = s.msix ++ [(ctx, 0)]

/-- Nothing but the fault ring of a context differs in memory (R406). -/
def OnlyRing (s v : State) (ctx : Nat) : Prop :=
  let ring := (s.ctx ctx).fring
  (∀ b, (b < ring ∨ ring + 64 + 64 * 2 ^ (s.dev (ring + 8) 1 % 32) ≤ b) → Mem.byte v.hbm b = Mem.byte s.hbm b) ∧
    (v.lp, v.weight, v.link) = (s.lp, s.weight, s.link)

/-- The bits of an object-table entry that system software writes (R217). -/
def writable (i : Nat) : Prop := i < 256 ∨ (318 ≤ i ∧ i < 384) ∨ (400 ≤ i ∧ i < 448) ∨ (458 ≤ i ∧ i < 480)

/-- No lease of a context is faulted. -/
def NoneLeasing (s : State) (ctx : Nat) : Prop := ∀ x ∈ (s.ctx ctx).leases, leaseField x 187 184 ≠ 3

/-- The units that a descriptor names exist, in layers in service, and no other object and no migration holds one of them (R26,
R427). -/
def Places (s : State) (o : OKey) (d : BitVec 128) : Prop :=
  s.placeable (tierOf (extField d 63 62)) (extField d 55 0) (extField d 95 64) = true ∧
    s.unitsTaken (some o) (tierOf (extField d 63 62)) (extField d 55 0) (extField d 95 64) = false

/-- No memory error is pending, and no unit is poisoned. -/
def CleanMemory (s : State) : Prop := s.memFaults = [] ∧ s.poison = []

/-- Bytes stand in one tier's memory from byte `a` on, and every byte outside them is what it was. -/
def BytesAre (s u : State) (t : Tier) (a : Nat) (bs : List Byte) : Prop :=
  Mem.read (u.tier t) a bs.length = bs ∧ (∀ b, (b < a ∨ a + bs.length ≤ b) → Mem.byte (u.tier t) b = Mem.byte (s.tier t) b) ∧
    ∀ t', t' ≠ t → u.tier t' = s.tier t'

/-- A write of system software or of a peer chip falls in one backed unit of an ordinary object. -/
structure WriteLands (s : State) (o : OKey) (e : ObjEntry) (d : BitVec 128) (a : Nat) (bs : List Byte) : Prop where
  ready : s.boot = .ready
  object : s.object? o = some e
  ordinary : s.classOf o = 1
  one : 1 ≤ bs.length ∧ a / 65536 = (a + bs.length - 1) / 65536
  backed : e.extent? (a / 65536) = some d
  uncached : ∀ r ∈ s.routes, r.obj ≠ o
  up : s.linkDown d = false
  clean : CleanMemory s

/-- The object does not migrate, either. -/
structure WriteFits (s : State) (o : OKey) (e : ObjEntry) (d : BitVec 128) (a : Nat) (bs : List Byte) : Prop
    extends WriteLands s o e d a bs where
  still : ∀ m ∈ s.migrations, m.obj ≠ o

/-- Where that write goes. -/
def unitPlace (d : BitVec 128) (a : Nat) : Tier × Nat := ((extPlace d (a / 65536)).1, (extPlace d (a / 65536)).2 + a % 65536)

/-- A unit of an object may move: it lies at `place` under the descriptor `d`, which is not pinned, and its object is neither
pinned nor swept (R223, R330). -/
structure Movable (s : State) (o : OKey) (u : Nat) (e : ObjEntry) (d : BitVec 128) : Prop where
  object : s.object? o = some e
  live : s.classOf o ≠ 0
  extent : e.extent? u = some d
  small : u < 2 ^ 32 ∧ extField d 55 0 + (u - extField d 127 96) < 2 ^ 56
  movable : d.getLsbD 61 = false ∧ e.pinned = false ∧ swept e.cls = false

/-- A unit of the LP tier has been touched by requests, and the station master that moves it serves its die (R223, R428). -/
def Hot (s : State) (u : Nat) (d : BitVec 128) : Prop :=
  let loc := extField d 55 0 + (u - extField d 127 96)
  tierOf (extField d 63 62) = .lp ∧ Tbl.get 0 s.touched loc ≠ 0 ∧ s.mastered (moverDie .lp loc) = true

/-- A migration begins (R223): the unit keeps its place with MV set, its bytes stand in the new place too, and writes go to both. -/
def BeginsMove (s v : State) (o : OKey) (u : Nat) (d : BitVec 128) (t : Tier) (loc : Nat) : Prop :=
  v.migrations = s.migrations ++ [⟨o, u, t, loc, (extPlace d u).1, extField d 55 0 + (u - extField d 127 96), false⟩] ∧
    (∃ e' d', v.object? o = some e' ∧ e'.extent? u = some d' ∧ d'.getLsbD 60 = true ∧ extPlace d' u = extPlace d u) ∧
    BytesAre s v t (loc * 65536) (Mem.read (s.tier (extPlace d u).1) (extPlace d u).2 65536)

/-- A migration switches (R219, R223): the entry names the new place with MV clear, and the invalidation goes to the ACC agents; writes
go to both places until each of them has acknowledged it. -/
def EndsMove (s v : State) (o : OKey) (u : Nat) (e : ObjEntry) (t : Tier) (loc : Nat) : Prop :=
  SameMemory s v ∧
    ∃ e' d', v.object? o = some e' ∧ e'.extent? u = some d' ∧ d'.getLsbD 60 = false ∧ extPlace d' u = (t, loc * 65536) ∧ e'.acc = 0 ∧
      (∀ i, i ∈ e'.invalidating ↔ i ∈ e.invalidating ∨ (i < 32 ∧ e.acc.testBit i = true)) ∧
      (∀ m ∈ v.migrations, m.obj = o → m.unit = u → m.switched = true ∧ e'.invalidating ≠ []) ∧
      (e'.invalidating ≠ [] → ∃ m ∈ v.migrations, m.obj = o ∧ m.unit = u)

end Sys2Proof.Claims

/-- R217, R219, R333: OBJECT_TABLE_WRITE sets the entry's writable bits and keeps ACC, a region starts lap 1, a class of 0 frees the
entry, whose ACC bits stay until an invalidation clears them; a creation on units out of service, or on units that another object
holds, does nothing. ROUTE_WALK caches a descriptor and sets the die's ACC bit; OBJECT_INVALIDATE
clears ACC and waits for its agents; INVALIDATE_ACK drops what the agent cached; OBJECT_DELETE frees the entry no lease covers, and
reports that it is deferred where one does. -/
def Sys2Proof.Claims.ObjectsAndRoutesAreKept : Prop :=
  (∀ s : State, let c := s.command
    let o : OKey := ⟨c.ctx, c.obj⟩
    s.boot = .ready → c.obj ≠ 0 → c.ctx < 64 → swept (s.classOf o) = false → s.region? o = none → NoneLeasing s c.ctx →
    let cls := (c.word.extractLsb' 476 4).toNat
    (cls ≠ 0 → ∀ d ∈ entryLeaves c.word c.leaves, Places s o d) → ∃ v, exec .objectTableWrite s = .next v ∧ SameMemory s v ∧
      (∀ o', o' ≠ o → v.object? o' = s.object? o') ∧
      (if cls = 0 then v.classOf o = 0 ∧ (match s.object? o with
         | none => v.object? o = none
         | some e => if e.acc = 0 ∧ e.invalidating = [] then v.object? o = none else
           ∃ e', v.object? o = some e' ∧ e'.leaves = [] ∧ e'.acc = e.acc ∧ e'.invalidating = e.invalidating)
       else ∃ e', v.object? o = some e' ∧ e'.leaves = entryLeaves c.word c.leaves ∧ ∀ i < 512, (writable i → e'.word.getLsbD i = c.word.getLsbD i) ∧
         (¬ writable i → i < 480 → e'.word.getLsbD i = false) ∧
         (480 ≤ i → e'.word.getLsbD i = match s.object? o with
           | some e => e.word.getLsbD i
           | none => false)) ∧
      v.regions = s.regions ++ (if cls = 2 ∨ cls = 4 then [⟨o, 1, s.tb, [], []⟩] else [])) ∧
  (∀ s : State, let c := s.command
    s.boot = .ready → c.obj ≠ 0 → c.ctx < 64 → s.object? ⟨c.ctx, c.obj⟩ = none → (c.word.extractLsb' 476 4).toNat ≠ 0 →
    (∃ d ∈ entryLeaves c.word c.leaves, ¬ Places s ⟨c.ctx, c.obj⟩ d) → exec .objectTableWrite s = .next s) ∧
  (∀ (s : State) o o' e d t loc n, s.object? o' = some e → s.classOf o' ≠ 0 → some o' ≠ o → d ∈ e.leaves → tierOf (extField d 63 62) = t → t ≠ .link →
    extField d 55 0 < loc + n → loc < extField d 55 0 + extField d 95 64 → s.unitsTaken o t loc n = true) ∧
  (∀ s die o u e d, s.classOf o ≠ 0 → s.object? o = some e → e.extent? u = some d → die < 16 →
    (∀ r ∈ s.routes, ¬ (r.die = die ∧ r.obj = o ∧ extCovers u r.desc = true)) → ∃ v e', exec (.routeWalk die o u) s = .next v ∧
      v.routes = s.routes ++ [⟨die, o, u, d⟩] ∧ v.object? o = some e' ∧ e'.leaves = e.leaves ∧
      (∀ i, e'.word.getLsbD i = (e.word.getLsbD i || decide (i = 480 + die))) ∧ (∀ o', o' ≠ o → v.object? o' = s.object? o') ∧
      SameMemory s v) ∧
  (∀ (s : State) e, let o : OKey := ⟨s.command.ctx, s.command.obj⟩
    s.object? o = some e → ∃ v e', exec .objectInvalidate s = .next v ∧ v.object? o = some e' ∧ e'.leaves = e.leaves ∧
      (∀ i, e'.word.getLsbD i = (e.word.getLsbD i && decide (i < 480))) ∧ v.routes = s.routes ∧
      (∀ i, i ∈ e'.invalidating ↔ i ∈ e.invalidating ∨ (i < 32 ∧ e.word.getLsbD (480 + i) = true)) ∧ SameMemory s v) ∧
  (∀ s o agent e, s.object? o = some e → agent ∈ e.invalidating → ∃ v e', exec (.invalidateAck o agent) s = .next v ∧
    v.object? o = some e' ∧ e'.word = e.word ∧ (∀ i, i ∈ e'.invalidating ↔ i ∈ e.invalidating ∧ i ≠ agent) ∧
    (∀ r, r ∈ v.routes ↔ r ∈ s.routes ∧ ¬ (r.die = agent ∧ r.obj = o)) ∧ SameMemory s v) ∧
  (∀ (s : State) e, let o : OKey := ⟨s.command.ctx, s.command.obj⟩
    s.object? o = some e → ∃ v e', exec .objectDelete s = .next v ∧ v.object? o = some e' ∧ e'.leaves = e.leaves ∧
      (∀ i, e'.word.getLsbD i = (e.word.getLsbD i || decide (i = 472))) ∧
      v.classOf o = (if (s.ctx o.ctx).leasesObject o.obj then e.cls else 0) ∧
      v.reports = s.reports ++ (if (s.ctx o.ctx).leasesObject o.obj then [.deferred o] else []) ∧ SameMemory s v)

/-- R220, R221: a region entry within its capability takes a lease, held where every unit is backed and faulted where one is not, and
one outside it ends the launch; LEASE_FAULT_BACK backs a unit, which holds the lease, and its parcel may be placed once its last is
held; LEASE_FAULT_REFUSE ends the launch. -/
def Sys2Proof.Claims.LeasesAreTakenAndBacked : Prop :=
  (∀ (s : State) (l : Launch) (k : PKey) i, let e := l.region i
    let cap := l.cap e.cap
    s.classOf ⟨k.ctx, capObj cap⟩ ≠ 0 → e.offAt k.pix + e.lenAt k.pix ≤ (capLen cap : Int) → e.rights &&& capRights cap = e.rights →
    0 ≤ e.offAt k.pix → 0 ≤ e.lenAt k.pix → k.launch < 2 ^ 32 → k.pix < 2 ^ 32 → i < 16 → capBase cap + (e.offAt k.pix).toNat < 2 ^ 48 →
    ∃ x, (((s.takeLease l k i).ctx k.ctx).leases = (s.ctx k.ctx).leases ++ [x]) ∧ leaseField x 255 224 = k.launch ∧
      leaseField x 223 192 = k.pix ∧ leaseField x 191 188 = i ∧ leaseField x 183 176 = e.rights ∧ leaseField x 175 152 = capObj cap ∧
      leaseField x 151 104 = capBase cap + (e.offAt k.pix).toNat ∧ (leaseField x 103 56 : Int) = e.lenAt k.pix ∧
      leaseField x 187 184 = (if s.leaseBacked k.ctx x then 2 else 3) ∧ (s.takeLease l k i).parcels = s.parcels) ∧
  (∀ (s : State) (l : Launch) (k : PKey) i, l.key = k.launchKey → s.launch? l.key = some l → let e := l.region i
    let cap := l.cap e.cap
    (s.classOf ⟨k.ctx, capObj cap⟩ = 0 ∨ (capLen cap : Int) < e.offAt k.pix + e.lenAt k.pix ∨ e.rights &&& capRights cap ≠ e.rights) →
    (s.takeLease l k i).launch? l.key = none ∧ ∀ p ∈ (s.takeLease l k i).parcels, p.key.launchKey ≠ l.key) ∧
  (∀ (s : State) e, let c := s.command
    let o : OKey := ⟨c.ctx, c.obj⟩
    s.object? o = some e → e.extent? c.unit = none → s.placeable c.tier c.loc 1 = true →
    s.unitsTaken none c.tier c.loc 1 = false → c.unit < 2 ^ 32 →
    (∃ x ∈ (s.ctx c.ctx).leases, leaseField x 187 184 = 3 ∧ leaseField x 175 152 = c.obj ∧ c.unit ∈ leaseUnits x) →
    (∃ v e', exec .leaseFaultBack s = .next v ∧ v.object? o = some e' ∧ e'.word = e.word ∧
      e'.leaves = e.leaves ++ [extOf c.unit 1 (tierCode c.tier) false false c.loc]) ∧
    ∀ (k : PKey) l, k.ctx = c.ctx → (∀ x ∈ (s.ctx c.ctx).leases, leaseField x 187 184 = 3 → x ∈ s.leasesOf k) →
      s.launch? k.launchKey = some l → l.nreg ≤ (s.leasesOf k).length →
      (∀ x ∈ s.leasesOf k, leaseField x 187 184 = 2 ∨ (leaseField x 187 184 = 3 ∧ leaseField x 175 152 = c.obj ∧
        ∀ w ∈ leaseUnits x, w = c.unit ∨ (e.extent? w).isSome = true)) →
      ∃ v, exec .leaseFaultBack s = .next v ∧ v.allLeased l k = true ∧
        (∀ x ∈ v.leasesOf k, leaseField x 187 184 = 2) ∧ v.parcels = s.parcels ∧ SameMemory s v) ∧
  (∀ (s : State) x, let c := s.command
    x ∈ (s.ctx c.ctx).leases → leaseField x 187 184 = 3 → leaseField x 255 224 = c.launch → leaseField x 223 192 = c.pix →
    leaseField x 191 188 = c.reg → (s.launch? ⟨c.ctx, c.launch⟩).isSome = true → ∃ v, exec .leaseFaultRefuse s = .next v ∧
      v.launch? ⟨c.ctx, c.launch⟩ = none ∧ (∀ p ∈ v.parcels, p.key.launchKey ≠ ⟨c.ctx, c.launch⟩) ∧
      ∀ k : PKey, k.launchKey ≠ ⟨c.ctx, c.launch⟩ → v.parcel? k = s.parcel? k)

/-- R223, in the two steps of log entry 43: MIGRATION_PROMOTE, of a die whose station master serves it, moves a unit of the LP tier that
requests have touched to HBM in two steps, a copy with MV set and then the switch with its invalidation, and counts one that is
pinned, once each time it is touched (log entry 50); MIGRATION_DEMOTE moves one in the same way where system software says; writes go
to both places until the invalidation is complete. -/
def Sys2Proof.Claims.MigrationsCopyThenSwitch : Prop :=
  (∀ s o u e d loc, Movable s o u e d → Hot s u d → (∀ m ∈ s.migrations, ¬ (m.obj = o ∧ m.unit = u)) →
    s.placeable .hbm loc 1 = true → s.unitsTaken none .hbm loc 1 = false → s.memFaults = [] →
    ∃ v, exec (.migrationPromote o u loc) s = .next v ∧ BeginsMove s v o u d .hbm loc) ∧
  (∀ s o u e d loc, Movable s o u e d → tierOf (extField d 63 62) = .lp → loc < 2 ^ 56 →
    s.mastered (moverDie .lp (extField d 55 0 + (u - extField d 127 96))) = true →
    (∃ m, s.migrations.find? (fun m => m.obj == o && m.unit == u) = some m ∧ (m.tier, m.loc, m.switched) = (.hbm, loc, false)) →
    ∃ v, exec (.migrationPromote o u loc) s = .next v ∧ EndsMove s v o u e .hbm loc) ∧
  (∀ s o u e d loc, s.object? o = some e → s.classOf o ≠ 0 → e.extent? u = some d → Hot s u d →
    (d.getLsbD 61 = true ∨ e.pinned = true) → ∃ v, exec (.migrationPromote o u loc) s = .next v ∧ SameMemory s v ∧
      v.migrations = s.migrations ∧ v.object? o = some e ∧ Tbl.get 0 v.touched (extField d 55 0 + (u - extField d 127 96)) = 0 ∧
      let own := (e.word.extractLsb' 466 6).toNat
      Tbl.get 0 (v.ctx own).counters 0x019 = min (2 ^ 64 - 1) (Tbl.get 0 (s.ctx own).counters 0x019 + 1)) ∧
  (∀ (s : State) e d, let c := s.command
    let o : OKey := ⟨c.ctx, c.obj⟩
    Movable s o c.unit e d → (∀ m ∈ s.migrations, ¬ (m.obj = o ∧ m.unit = c.unit)) → s.placeable c.tier c.loc 1 = true →
    s.unitsTaken none c.tier c.loc 1 = false → s.memFaults = [] → ∃ v, exec .migrationDemote s = .next v ∧ BeginsMove s v o c.unit d c.tier c.loc) ∧
  (∀ (s : State) e d, let c := s.command
    let o : OKey := ⟨c.ctx, c.obj⟩
    Movable s o c.unit e d → c.loc < 2 ^ 56 → (∃ m, s.migrations.find? (fun m => m.obj == o && m.unit == c.unit) = some m ∧
      (m.tier, m.loc, m.switched) = (c.tier, c.loc, false)) →
    ∃ v, exec .migrationDemote s = .next v ∧ EndsMove s v o c.unit e c.tier c.loc) ∧
  (∀ s o agent e, s.object? o = some e → e.invalidating = [agent] → ∃ v, exec (.invalidateAck o agent) s = .next v ∧
    ∀ m, m ∈ v.migrations ↔ m ∈ s.migrations ∧ ¬ (m.obj = o ∧ m.switched = true)) ∧
  (∀ (s : State) e d m, let c := s.command
    let o : OKey := ⟨c.ctx, c.obj⟩
    WriteLands s o e d c.off c.bytes → c.obj ≠ 0 → c.link < 2 → c.link ∉ s.linksDown →
    s.migrations.find? (fun m => m.obj == o && m.unit == c.off / 65536) = some m → ∃ v, exec .hostLinkWrite s = .next v ∧
      Mem.read (v.tier m.oldTier) (m.oldLoc * 65536 + c.off % 65536) c.bytes.length = c.bytes ∧
      Mem.read (v.tier m.tier) (m.loc * 65536 + c.off % 65536) c.bytes.length = c.bytes)

/-- R219, R225, R339, R423 to R429: what arrives over a link is written where the object's extents put it, a weight object and a
leased region turn a host's write away, bytes that fail their check values are not written, start a test of a lane and leave a record of
kind 0x0D (R422); links and lanes
leave and return, a port with the number of the chip behind it; the errors of the weight-store bank in its refresh window are met as
reads meet them. The numbers of the links are log entry 49. -/
def Sys2Proof.Claims.LinksCarryWrites : Prop :=
  (∀ s : State, let c := s.command
    s.boot = .ready → c.link < 2 → c.link ∉ s.linksDown → CleanMemory s → c.obj = 0 → c.bytes ≠ [] →
    ∃ v, exec .hostLinkWrite s = .next v ∧ BytesAre s v .hbm c.off c.bytes ∧ v.reports = s.reports) ∧
  (∀ (s : State) e d, let c := s.command
    let o : OKey := ⟨c.ctx, c.obj⟩
    WriteFits s o e d c.off c.bytes → c.obj ≠ 0 → c.link < 2 → c.link ∉ s.linksDown → ∃ v, exec .hostLinkWrite s = .next v ∧
      BytesAre s v (unitPlace d c.off).1 (unitPlace d c.off).2 c.bytes ∧ v.reports = s.reports) ∧
  (∀ s : State, let c := s.command
    let o : OKey := ⟨c.ctx, c.obj⟩
    s.boot = .ready → c.link < 2 → c.link ∉ s.linksDown → c.obj ≠ 0 →
    (s.classOf o = 3 → ∃ v, exec .hostLinkWrite s = .next v ∧ SameMemory s v ∧ v.reports = s.reports ++ [.failed 0x24]) ∧
    (s.classOf o = 2 → (s.ctx c.ctx).leasesObject c.obj = true → ∃ v, exec .hostLinkWrite s = .next v ∧ SameMemory s v ∧
      v.circle = s.circle ∧ v.reports = s.reports ++ [.failed 0x91])) ∧
  (∀ (s : State) e d, let c := s.command
    let o : OKey := ⟨c.ctx, c.obj⟩
    WriteFits s o e d c.off c.bytes → isPeerPort c.link = true → c.link ∉ s.linksDown → c.good = true → ∃ v, exec .peerPortWrite s = .next v ∧
      BytesAre s v (unitPlace d c.off).1 (unitPlace d c.off).2 c.bytes) ∧
  (∀ s : State, let c := s.command
    let o : OKey := ⟨c.ctx, c.obj⟩
    s.boot = .ready → isPeerPort c.link = true → c.link ∉ s.linksDown → s.classOf o ≠ 0 →
    (c.good = true → s.classOf o ≠ 1 → ∃ v, exec .peerPortWrite s = .next v ∧ SameMemory s v) ∧
    (c.good = false → CleanMemory s → ∃ v x, exec .peerPortWrite s = .next v ∧ v.tests = s.tests ++ [x] ∧ x.unit = .peerLane ∧
      x.place = c.link ∧ OnlyRing s v c.ctx ∧ (RingRoom s c.ctx → ∃ y, RecordIn s v c.ctx 0x0D y ∧ bitsOf y 447 384 = c.off % 2 ^ 64 ∧
        bitsOf y 383 320 = c.bytes.length % 2 ^ 64 ∧ bitsOf y 255 232 = c.obj % 2 ^ 24 ∧ bitsOf y 183 152 = 0x21))) ∧
  (∀ (s : State) e, let c := s.command
    let o : OKey := ⟨c.ctx, c.obj⟩
    s.boot = .ready → isPeerPort c.link = true → c.link ∉ s.linksDown → s.classOf o ≠ 0 → s.object? o = some e → CleanMemory s →
    ∃ v e', exec .peerPortRead s = .next v ∧ SameMemory s v ∧ v.object? o = some e' ∧ e'.leaves = e.leaves ∧
      e'.word.getLsbD (496 + Tbl.get 0 s.chips c.link % 16) = true) ∧
  (∀ s : State, s.command.link < 10 → s.command.link ∉ s.linksDown →
    exec .linkDown s = .next { s with linksDown := s.linksDown ++ [s.command.link] }) ∧
  (∀ s : State, s.command.link ∈ s.linksDown → ∃ v, exec .linkUp s = .next v ∧ v = { s with linksDown := v.linksDown, chips := v.chips } ∧
    (∀ n, n ∈ v.linksDown ↔ n ∈ s.linksDown ∧ n ≠ s.command.link) ∧
    (if isPeerPort s.command.link then Tbl.get 0 v.chips s.command.link = s.command.place % 16 else v.chips = s.chips)) ∧
  (∀ s : State, (s.command.part = .hostLane ∧ s.command.link < 2 ∨ s.command.part = .peerLane ∧ isPeerPort s.command.link = true) → ∃ v t, exec .linkLaneError s = .next v ∧
    v.linksDown = s.linksDown ∧ (∀ x, x ∈ v.lanesDown ↔ x ∈ s.lanesDown ∨ x = (s.command.link, s.command.lane)) ∧
    v.tests = s.tests ++ [t] ∧ (t.unit, t.place, t.sub) = (s.command.part, s.command.link, s.command.lane)) ∧
  (∀ s : State, s.startedPast 6 = true →
    let mine (f : MemFault) : Prop := f.tier = .weight ∧ f.unit / 2 ^ 18 % 8 = s.tb / 2048 % 8 ∧ (Tier.weight, f.unit) ∉ s.poison
    let met (f : MemFault) : Prop := mine f ∧ s.memFaults.find? (fun g => g.tier == .weight && g.unit == f.unit) = some f
    ∃ v new, exec .wsRefreshWindow s = .next v ∧ SameMemory s v ∧ (∀ f, f ∈ v.memFaults ↔ f ∈ s.memFaults ∧ ¬ mine f) ∧
      v.tests = s.tests ++ new ∧ (∀ x, x ∈ new → x.unit = .weightStore) ∧
      (∀ f ∈ s.memFaults, met f → ∃ x ∈ new, x.place = f.unit / 2 ^ 21 ∧ x.row = f.unit / 16 % 2 ^ 17 ∧ x.cls = min f.kind 2) ∧
      (∀ p, p ∈ v.poison ↔ p ∈ s.poison ∨ ∃ f ∈ s.memFaults, met f ∧ (f.kind = 1 ∨ 3 ≤ f.kind) ∧ p = (Tier.weight, f.unit)))

namespace Sys2Proof.Claims
open Machine

/-! ### Contexts, queues, nodes and launches (R371 to R390, R406, R407) -/

/-- The fault ring of a context lies apart from the descriptor of a queue. -/
def RingApart (s : State) (ctx q : Nat) : Prop :=
  let ring := (s.ctx ctx).fring
  s.queueAt ctx q + 32 ≤ ring ∨ ring + 64 + 64 * 2 ^ (s.dev (ring + 8) 1 % 32) ≤ s.queueAt ctx q

/-- A queue's descriptor: ENABLE, STATE, HEAD and TAIL as given, every other field as it was (R374). -/
structure QueueIs (s v : State) (ctx q on st head tail : Nat) : Prop where
  enable : v.queueField ctx q 0 0 = on
  state : v.queueField ctx q 119 116 = st
  head : v.queueField ctx q 191 160 = head
  tail : v.queueField ctx q 159 128 = tail
  ring : v.queueField ctx q 255 192 = s.queueField ctx q 255 192
  size : v.queueField ctx q 127 120 = s.queueField ctx q 127 120
  reserved : v.queueField ctx q 115 1 = s.queueField ctx q 115 1

/-- Nothing but the descriptor of one queue differs in memory. -/
def OnlyDescriptor (s v : State) (ctx q : Nat) : Prop :=
  (∀ b, (b < s.queueAt ctx q ∨ s.queueAt ctx q + 32 ≤ b) → Mem.byte v.hbm b = Mem.byte s.hbm b) ∧
    (v.lp, v.weight, v.link) = (s.lp, s.weight, s.link)

/-- STATE of a queue as the device sets it: empty or serving, unless it is faulted or stopped (R374). -/
def servedState (st head tail : Nat) : Nat := if st < 2 then (if head = tail then 0 else 1) else st

/-- The fields of a queue's descriptor. -/
abbrev onOf (s : State) (ctx q : Nat) : Nat := s.queueField ctx q 0 0
abbrev stateOf (s : State) (ctx q : Nat) : Nat := s.queueField ctx q 119 116
abbrev headOf (s : State) (ctx q : Nat) : Nat := s.queueField ctx q 191 160
abbrev tailOf (s : State) (ctx q : Nat) : Nat := s.queueField ctx q 159 128

/-- A node of a kind, not begun, alone under its number, whose queue has started every earlier node (R375). -/
structure FreshNode (s : State) (n : Node) (kind : Nat) : Prop where
  here : s.nodes.filter (fun x => x.id == n.id) = [n]
  kind : n.kind = kind
  fresh : n.started = false
  turn : ∀ x ∈ s.nodes, x.ctx = n.ctx → x.queue = n.queue → x.id < n.id → x.started = true
  clean : CleanMemory s

/-- A node's completion or progress: it alone changes. -/
def NodeIs (s v : State) (n n' : Node) : Prop :=
  n'.id = n.id ∧ v.nodes = s.nodes.map (fun x => if x.id = n.id then n' else x)

/-- A node has failed (R379): it is gone, and its queue is faulted. -/
def NodeFailed (s v : State) (n : Node) : Prop :=
  v.nodes = s.nodes.filter (fun x => x.id != n.id) ∧ v.queueField n.ctx n.queue 119 116 = 2 ∧ v.launches = s.launches

/-- A node whose copy has moved one more of its units: it is done once it has moved them all. -/
def unitCopied (x : Node) (carry : Carry) (units : Nat) : Node :=
  { x with copied := x.copied + 1, satisfied := x.copied + 1 == units, carry := carry }

/-- A decremented dependency counter (R378). -/
def decremented (x : Nat) : Nat := if x = 2 ^ 63 then x else (x + 2 ^ 64 - 1) % 2 ^ 64

end Sys2Proof.Claims

/-- R406, R407: a fault record is written whole at its place with every field, WIDX advances and vector 0 is raised; a record that
finds no room is counted in LOST. One whose ring's words are bad is not written (log entry 63). The ring's address is a byte address of
HBM (log entry 7). -/
def Obligations.FaultRecordsEnterTheRing : Prop :=
  ∀ (s : State) ctx (r : FaultRec), let u := s.faultRecord ctx r
    let ring := (s.ctx ctx).fring
    let widx := s.dev ring 4
    let good := (s.verifyAll .hbm ring 16).2 = 0
    (good → RingRoom s ctx → let a := ring + 64 + 64 * (widx % 2 ^ (s.dev (ring + 8) 1 % 32))
      let x := u.dev a 64
      bitsOf x 511 448 = s.tb % 2 ^ 64 ∧ bitsOf x 447 384 = r.addr % 2 ^ 64 ∧ bitsOf x 383 320 = r.len % 2 ^ 64 ∧
      bitsOf x 319 288 = r.launch % 2 ^ 32 ∧ bitsOf x 287 256 = r.pix % 2 ^ 32 ∧ bitsOf x 255 232 = r.obj % 2 ^ 24 ∧
      bitsOf x 231 222 = r.tix % 2 ^ 10 ∧ bitsOf x 221 218 = r.queue % 16 ∧ bitsOf x 217 216 = 0 ∧ bitsOf x 215 184 = r.pc % 2 ^ 32 ∧
      bitsOf x 183 152 = r.code % 2 ^ 32 ∧ bitsOf x 151 120 = r.code2 % 2 ^ 32 ∧ bitsOf x 119 112 = r.kind % 256 ∧
      bitsOf x 111 106 = ctx % 64 ∧ bitsOf x 105 96 = 0 ∧ bitsOf x 95 64 = r.node % 2 ^ 32 ∧ bitsOf x 63 32 = widx ∧ bitsOf x 31 0 = 0 ∧
      u.dev ring 4 = (widx + 1) % 2 ^ 32 ∧ u.dev (ring + 4) 12 = s.dev (ring + 4) 12 ∧ u.msix = s.msix ++ [(ctx, 0)] ∧
      ∀ b, (b < ring ∨ ring + 4 ≤ b) → (b < a ∨ a + 64 ≤ b) → Mem.byte u.hbm b = Mem.byte s.hbm b) ∧
    (good → ¬ RingRoom s ctx → u.dev (ring + 12) 4 = min (2 ^ 32 - 1) (s.dev (ring + 12) 4 + 1) ∧ u.msix = s.msix ∧
      ∀ b, (b < ring + 12 ∨ ring + 16 ≤ b) → Mem.byte u.hbm b = Mem.byte s.hbm b) ∧
    (¬ good → SameMemory s u ∧ u.msix = s.msix)

/-- R378: a dependency counter is decremented, but not below −2^63; a decrement that finds it at 0 or below is counted in counter
0x01A and takes effect all the same. The counter's address is a byte address of HBM (log entry 7). -/
def Obligations.DependencyCountersAreDecremented : Prop :=
  ∀ (s : State) ctx a, let v := s.dev a 8
    let u := s.decrement ctx a
    signedOf (u.dev a 8) 64 = max (-(2 ^ 63)) (signedOf v 64 - 1) ∧
    Tbl.get 0 (u.ctx ctx).counters 0x01A = (if signedOf v 64 ≤ 0 then min (2 ^ 64 - 1) (Tbl.get 0 (s.ctx ctx).counters 0x01A + 1)
      else Tbl.get 0 (s.ctx ctx).counters 0x01A) ∧
    (∀ b, (b < a ∨ a + 8 ≤ b) → Mem.byte u.hbm b = Mem.byte s.hbm b) ∧ (u.lp, u.weight, u.link) = (s.lp, s.weight, s.link)

/-- R371 to R374, R384: CONTEXT_ENABLE sets ENABLE; CONTEXT_RESET ends and frees what the context holds, stops its queues and writes
one record of kind "reset" (what it keeps of the context and what it zeroes is log entry 35); BUDGET_WINDOW restarts the counts;
QUEUE_ENABLE and DOORBELL check the descriptor, DOORBELL refuses more nodes than the ring holds, and QUEUE_STATE_CLEAR writes STATE 0;
a queue whose descriptor's bytes are bad stays as it is (log entry 63). Device addresses are byte addresses of HBM (log entry 7). -/
def Obligations.ContextsAndQueuesAreServed : Prop :=
  (∀ s : State, let c := s.command
    s.boot = .ready → c.ctx < 64 → ∃ v, exec .contextEnable s = .next v ∧ v = { s with ctxs := v.ctxs } ∧
      (∀ n, n ≠ c.ctx → v.ctx n = s.ctx n) ∧ { v.ctx c.ctx with desc := 0 } = { s.ctx c.ctx with desc := 0 } ∧
      (v.ctx c.ctx).enabled = c.on ∧ ∀ i, 1 ≤ i → (v.ctx c.ctx).desc.getLsbD i = (s.ctx c.ctx).desc.getLsbD i) ∧
  (∀ s : State, let c := s.command
    s.boot = .ready → c.ctx < 64 → ∃ v, exec .contextReset s = .next v ∧
      ((v.ctx c.ctx).objects, (v.ctx c.ctx).leases, (v.ctx c.ctx).journal, (v.ctx c.ctx).counters, (v.ctx c.ctx).halt) =
        ([], [], [], [], .none) ∧
      (∀ n ∈ v.nodes, n.ctx ≠ c.ctx) ∧ (∀ r ∈ v.routes, r.obj.ctx ≠ c.ctx) ∧ (∀ m ∈ v.migrations, m.obj.ctx ≠ c.ctx) ∧
      (∀ i ∈ v.images, i.ctx ≠ c.ctx) ∧
      ((∀ r ∈ s.regions, r.obj.ctx ≠ c.ctx) → (∀ l ∈ v.launches, l.key.ctx ≠ c.ctx) ∧ (v.ctx c.ctx).enabled = (s.ctx c.ctx).enabled ∧
        (∀ p ∈ v.parcels, p ∈ s.parcels ∧ ∀ l ∈ s.launches, l.key.ctx = c.ctx → p.key.launchKey ≠ l.key) ∧
        (∀ k : PKey, k.ctx ≠ c.ctx → v.parcel? k = s.parcel? k) ∧
        (CleanMemory s → (∀ n, ∀ d ∈ (s.core n).drains, d.req.key.ctx = c.ctx → d.lasts = false) →
          (∀ q < 16, RingApart s c.ctx q) → let ring := (s.ctx c.ctx).fring
          let widx := s.dev ring 4
          (∀ q < 16, QueueIs s v c.ctx q (onOf s c.ctx q) 3 (headOf s c.ctx q) (tailOf s c.ctx q)) ∧
          (RingRoom s c.ctx → let x := v.dev (ring + 64 + 64 * (widx % 2 ^ (s.dev (ring + 8) 1 % 32))) 64
            bitsOf x 511 448 = s.tb % 2 ^ 64 ∧ bitsOf x 119 112 = 0x09 ∧ bitsOf x 111 106 = c.ctx ∧ bitsOf x 447 120 = 0 ∧
            bitsOf x 95 64 = 0 ∧ bitsOf x 63 32 = widx ∧ v.dev ring 4 = (widx + 1) % 2 ^ 32 ∧ v.msix = s.msix ++ [(c.ctx, 0)])))) ∧
  (∀ s : State, s.window ≠ s.tb / 10000 → (s.ctxs.map (fun e => e.1)).Nodup → ∃ v, exec .budgetWindow s = .next v ∧
    v = { s with window := s.tb / 10000, ctxs := v.ctxs } ∧ ∀ n, v.ctx n = { s.ctx n with hbmBytes := 0, energy := 0 }) ∧
  (∀ s : State, let c := s.command
    s.boot = .ready → c.ctx < 64 → c.queue < 16 → (s.verifyAll .hbm (s.queueAt c.ctx c.queue) 32).2 = 0 →
    (c.on = false → ∃ v, exec .queueEnable s = .next v ∧ OnlyDescriptor s v c.ctx c.queue ∧
      QueueIs s v c.ctx c.queue 0 (stateOf s c.ctx c.queue) (headOf s c.ctx c.queue) (tailOf s c.ctx c.queue)) ∧
    (c.on = true → queueInvalid (s.queueDesc c.ctx c.queue) = false → ∃ v, exec .queueEnable s = .next v ∧
      OnlyDescriptor s v c.ctx c.queue ∧
      QueueIs s v c.ctx c.queue 1 (servedState (stateOf s c.ctx c.queue) (headOf s c.ctx c.queue) (tailOf s c.ctx c.queue))
        (headOf s c.ctx c.queue) (tailOf s c.ctx c.queue)) ∧
    (c.on = true → queueInvalid (s.queueDesc c.ctx c.queue) = true → RingApart s c.ctx c.queue → ∃ v, exec .queueEnable s = .next v ∧
      QueueIs s v c.ctx c.queue 1 2 (headOf s c.ctx c.queue) (tailOf s c.ctx c.queue))) ∧
  (∀ s : State, let c := s.command
    let h := headOf s c.ctx c.queue
    s.boot = .ready → c.ctx < 64 → c.queue < 16 → (s.verifyAll .hbm (s.queueAt c.ctx c.queue) 32).2 = 0 →
    queueInvalid (s.queueDesc c.ctx c.queue) = false →
    ((c.tail.toNat + 2 ^ 32 - h) % 2 ^ 32 ≤ 2 ^ (s.queueField c.ctx c.queue 127 123) → ∃ v, exec .doorbell s = .next v ∧
      OnlyDescriptor s v c.ctx c.queue ∧ QueueIs s v c.ctx c.queue (onOf s c.ctx c.queue)
        (servedState (stateOf s c.ctx c.queue) h c.tail.toNat) h c.tail.toNat) ∧
    (2 ^ (s.queueField c.ctx c.queue 127 123) < (c.tail.toNat + 2 ^ 32 - h) % 2 ^ 32 → RingApart s c.ctx c.queue →
      ∃ v, exec .doorbell s = .next v ∧ QueueIs s v c.ctx c.queue (onOf s c.ctx c.queue) 2 h c.tail.toNat)) ∧
  (∀ s : State, let c := s.command
    s.boot = .ready → c.ctx < 64 → c.queue < 16 → (s.verifyAll .hbm (s.queueAt c.ctx c.queue) 32).2 = 0 →
    ∃ v, exec .queueStateClear s = .next v ∧ OnlyDescriptor s v c.ctx c.queue ∧
      QueueIs s v c.ctx c.queue (onOf s c.ctx c.queue) 0 (headOf s c.ctx c.queue) (tailOf s c.ctx c.queue)) ∧
  (∀ (s : State) i, let c := s.command
    i ∈ [Instr.queueEnable, Instr.doorbell, Instr.queueStateClear] → s.boot = .ready → c.ctx < 64 → c.queue < 16 →
    (s.verifyAll .hbm (s.queueAt c.ctx c.queue) 32).2 ≠ 0 → RingApart s c.ctx c.queue → ∃ v, exec i s = .next v ∧ OnlyRing s v c.ctx ∧
      QueueIs s v c.ctx c.queue (onOf s c.ctx c.queue) (stateOf s c.ctx c.queue) (headOf s c.ctx c.queue) (tailOf s c.ctx c.queue))

/-- R375, R377 to R379: NODE_DISPATCH takes the node at HEAD once its counter is 0 or below; a transform or fill node is checked
and then copies unit by unit; a wait ends when its word has reached VALUE; a signal writes VALUE; a completed node decrements
each successor's counter and raises its vector; what is malformed fails and faults the queue; a queue whose descriptor's bytes are bad
is not served (log entry 63). What a malformed transform, wait or signal node is, is the model's reading (log entries 36 and 51), and
device addresses are byte addresses of HBM (log entry 7). -/
def Obligations.NodesRunAndComplete : Prop :=
  (∀ s ctx queue, let head := headOf s ctx queue
    let slot := head % 2 ^ (s.queueField ctx queue 127 123)
    let w := s.dev (s.queueField ctx queue 255 192 + 64 * slot) 64
    CleanMemory s → s.queueServed ctx queue = true → head ≠ tailOf s ctx queue →
    (bitsOf w 383 320 = 0 ∨ signedOf (s.dev (bitsOf w 383 320) 8) 64 ≤ 0) →
    1 ≤ bitsOf w 3 0 → bitsOf w 3 0 ≤ 5 → bitsOf w 7 4 = 0 → bitsOf w 127 16 = 0 → bitsOf w 239 192 = 0 →
    ∃ v n, exec (.nodeDispatch ctx queue) s = .next v ∧ v.nodes = s.nodes ++ [n] ∧
      (n.id, n.ctx, n.queue, n.index, n.word.toNat, n.started, n.satisfied) = (s.nextUid, ctx, queue, slot, w, false, false) ∧
      OnlyDescriptor s v ctx queue ∧
      let h := (head + 1) % 2 ^ 32
      QueueIs s v ctx queue 1 (servedState (stateOf s ctx queue) h (tailOf s ctx queue)) h (tailOf s ctx queue)) ∧
  (∀ s ctx queue, (s.verifyAll .hbm (s.queueAt ctx queue) 32).2 ≠ 0 → ∀ v, exec (.nodeDispatch ctx queue) s = .next v →
    v.nodes = s.nodes) ∧
  (∀ s n, FreshNode s n 2 → n.copy = none → ∀ k units, s.nodeCopy n false = .ok (k, units) →
    ∃ v n', exec (.nodeTransform n.id) s = .next v ∧ NodeIs s v n n' ∧ SameMemory s v ∧
      (n'.started, n'.satisfied, n'.copy, n'.copied) = (true, units == 0, some k, n.copied)) ∧
  (∀ s n, FreshNode s n 2 → n.copy = none → ∀ code, s.nodeCopy n false = .error code →
    ∃ v, exec (.nodeTransform n.id) s = .next v ∧ NodeFailed s v n) ∧
  (∀ s n, FreshNode s n 3 → n.copy = none → ∀ k units, s.nodeCopy n true = .ok (k, units) →
    ∃ v n', exec (.nodeWeightFill n.id) s = .next v ∧ NodeIs s v n n' ∧ SameMemory s v ∧
      (n'.started, n'.satisfied, n'.copy, n'.copied) = (true, units == 0, some k, n.copied)) ∧
  (∀ s n (fill : Bool) k c s' carry, s.nodes.filter (fun x => x.id == n.id) = [n] → n.kind = (if fill then 3 else 2) → n.copy = some k →
    (Parcel.initial n.issuer.key).boxCopy k = some c → n.satisfied = false → s.nodeHeld n c = false →
    s.nodeUnit n c = (s', 0, carry) →
    ∃ v, exec (if fill then .nodeWeightFill n.id else .nodeTransform n.id) s = .next v ∧ SameMemory s' v ∧
      v.nodes = s'.nodes.map (fun x => if x.id = n.id then unitCopied x carry c.units else x)) ∧
  (∀ s n, FreshNode s n 4 → n.param % 8 = 0 → ∃ v, exec (.nodeWait n.id) s = .next v ∧ NodeIs s v n { n with started := true } ∧
    SameMemory s v) ∧
  (∀ s n, FreshNode s n 4 → n.param % 8 ≠ 0 → ∃ v, exec (.nodeWait n.id) s = .next v ∧ NodeFailed s v n) ∧
  (∀ s n, s.nodes.filter (fun x => x.id == n.id) = [n] → n.kind = 4 → n.started = true → n.satisfied = false →
    CleanMemory s → n.value ≤ s.dev n.param 8 → ∃ v, exec (.nodeWaitSatisfied n.id) s = .next v ∧ NodeIs s v n { n with satisfied := true } ∧
      SameMemory s v) ∧
  (∀ s n, FreshNode s n 5 → n.param % 8 = 0 → ∃ v, exec (.nodeSignal n.id) s = .next v ∧
    NodeIs s v n { n with started := true, satisfied := true } ∧ v.dev n.param 8 = n.value ∧
    ∀ b, (b < n.param ∨ n.param + 8 ≤ b) → Mem.byte v.hbm b = Mem.byte s.hbm b) ∧
  (∀ s n, s.nodes.filter (fun x => x.id == n.id) = [n] → n.satisfied = true → CleanMemory s →
    let count := n.field 255 240
    let list := n.field 319 256
    let at' : Nat → Nat := fun i => s.dev (list + 8 * i) 8
    (∀ i < count, ∀ j < count, i ≠ j → at' i + 8 ≤ at' j ∨ at' j + 8 ≤ at' i) →
    (∀ i < count, at' i + 8 ≤ list ∨ list + 8 * count ≤ at' i) →
    ∃ v, exec (.nodeComplete n.id) s = .next v ∧ v.nodes = s.nodes.filter (fun x => x.id != n.id) ∧
      (∀ i < count, v.dev (at' i) 8 = decremented (s.dev (at' i) 8)) ∧
      (∀ b, (∀ i < count, b < at' i ∨ at' i + 8 ≤ b) → Mem.byte v.hbm b = Mem.byte s.hbm b) ∧
      v.msix = s.msix ++ (if n.field 15 8 = 0xFF then [] else [(n.ctx, n.field 15 8)]))

namespace Sys2Proof.Claims
open Machine

/-! ### Launches and parcels (R27, R54, R109, R112, R220, R383 to R390) -/

/-- A resident parcel takes nothing that another parcel of its core holds (R22, R23, R178), nor what was freed there in this cycle
(R27). -/
structure PlacedApart (s : State) (p : Parcel) : Prop where
  place : p.place < 8 ∧ ∀ q ∈ s.residents p.core, q.place ≠ p.place
  late : ∀ f ∈ (s.core p.core).freed, f.clk = s.clk → f.place ≠ some p.place ∧
    (p.spBase + p.spSize ≤ f.spad.1 ∨ f.spad.1 + f.spad.2 ≤ p.spBase) ∧ (p.slotBase + p.slots ≤ f.slots.1 ∨ f.slots.1 + f.slots.2 ≤ p.slotBase)
  spad : p.spBase % 1024 = 0 ∧ p.spBase + p.spSize ≤ 1048576 ∧
    ∀ q ∈ s.residents p.core, p.spBase + p.spSize ≤ q.spBase ∨ q.spBase + q.spSize ≤ p.spBase
  slots : p.slotBase + p.slots ≤ 64 ∧
    ∀ q ∈ s.residents p.core, p.slotBase + p.slots ≤ q.slotBase ∨ q.slotBase + q.slots ≤ p.slotBase

/-- A parcel that a yard is about to put on a core: it is prepared. -/
structure Placing (s : State) (die : Nat) (l : Launch) (p : Parcel) (core : Nat) : Prop where
  chosen : s.placement die = some (l, [(p, core)])
  prepared : s.parcel? p.key = some p ∧ p.phase = .prepared
  launch : s.launch? l.key = some l
  deques : (l.deques.map (fun e => e.1)).Nodup
  clean : CleanMemory s

/-- Everything of a parcel but where it stands, its phase, its threads and its reservations. -/
def placedParts (p : Parcel) : Parcel :=
  { p with core := 0, place := 0, spBase := 0, slotBase := 0, threads := [], phase := .starting, resv := [] }

/-- The yard of a die places a parcel of a launch now, or prepares it (R386, R389). -/
def OwnerPlaces (s : State) (die : Nat) (l : LKey) (pix : Nat) : Prop :=
  (∃ q, s.parcel? ⟨l.ctx, l.launch, pix⟩ = some q ∧ q.phase = .preparing) ∨ ∃ x g, s.placement die = some (x, g) ∧ x.key = l ∧ ∃ q ∈ g, q.1.key.pix = pix

end Sys2Proof.Claims

/-- R383, R385, R387 to R389, R397: a launch that passes its checks takes the next id and stands in every die's deque by its
chunks; one that fails is refused and faults its queue; a missed deadline is counted once; a yard with an empty deque asks its
next victim, which gives the parcel at the back of its deque or answers "empty", as it does where its own yard places its last
entry now, or prepares it (log entry 53). A node's and a packet's addresses are byte addresses of HBM (log entry 7). -/
def Obligations.LaunchesAreDispatchedAndStolen : Prop :=
  (∀ s n, FreshNode s n 1 →
    (∀ l : Launch, l.key.ctx = n.ctx → l.packet.toNat = s.dev n.param 256 → l.regions = s.regionList l → s.launchCheck l = none) →
    ∃ v l n', exec (.nodeLaunch n.id) s = .next v ∧ v.launches = s.launches ++ [l] ∧ l.key = ⟨n.ctx, (s.ctx n.ctx).lastLaunch + 1⟩ ∧
      l.packet.toNat = s.dev n.param 256 ∧ l.regions = s.regionList l ∧
      (l.queue, l.node, l.nodeIndex, l.dispatched, l.missed) = (n.queue, n.id, n.index, n.at', false) ∧
      l.unfreed = l.parcels ∧ l.prio = s.queueField n.ctx n.queue 122 121 ∧ l.dl = (s.queueField n.ctx n.queue 120 120 == 1) ∧
      l.deadline = (if l.dl then n.field 511 448 else 0) ∧
      (∀ d < 16, Tbl.get [] l.deques d = (List.range l.parcels).filter (fun p => p / l.chunk % 16 == d)) ∧
      (v.ctx n.ctx).lastLaunch = (s.ctx n.ctx).lastLaunch + 1 ∧ NodeIs s v n n' ∧ n'.started = true ∧ n'.launch = some l.key ∧
      SameMemory s v) ∧
  (∀ s n, FreshNode s n 1 →
    (∀ l : Launch, l.key.ctx = n.ctx → l.packet.toNat = s.dev n.param 256 → l.regions = s.regionList l → s.launchCheck l ≠ none) →
    ∃ v, exec (.nodeLaunch n.id) s = .next v ∧ NodeFailed s v n ∧ (v.ctx n.ctx).lastLaunch = (s.ctx n.ctx).lastLaunch) ∧
  (∀ s l x, s.launch? l = some x → x.dl = true → x.deadline ≠ 0 → x.deadline ≤ s.tb → x.missed = false → x.unfreed ≠ 0 →
    ∃ v, exec (.deadlineMiss l) s = .next v ∧ v.launch? l = some { x with missed := true } ∧ SameMemory s v ∧
      Tbl.get 0 (v.ctx l.ctx).counters 0x01B = min (2 ^ 64 - 1) (Tbl.get 0 (s.ctx l.ctx).counters 0x01B + 1)) ∧
  (∀ s die l x i, s.launch? l = some x → die < 16 → x.front die = none → s.dieRoom x die = true →
    (∀ t ∈ s.steals, ¬ (t.die = die ∧ t.launch = l)) → i < 15 → (die + 1 + i) % 16 ∉ Tbl.get [] x.empties die →
    (∀ j < i, (die + 1 + j) % 16 ∈ Tbl.get [] x.empties die) →
    exec (.stealRequest die l) s = .next { s with steals := s.steals ++ [⟨die, l, (die + 1 + i) % 16⟩] }) ∧
  (∀ s die l x victim, s.steals.filter (fun t => t.die == die && t.launch == l) = [⟨die, l, victim⟩] → s.launch? l = some x →
    die ≠ victim → ∃ v x', exec (.stealReply die l) s = .next v ∧ v.launch? l = some x' ∧
      v.steals = s.steals.filter (fun t => !(t.die == die && t.launch == l)) ∧
      (Tbl.get [] x.deques victim = [] → x'.deques = x.deques ∧ Tbl.get [] x'.empties die = Tbl.get [] x.empties die ++ [victim]) ∧
      (∀ p, Tbl.get [] x.deques victim = [p] → OwnerPlaces s victim l p → x'.deques = x.deques ∧
        Tbl.get [] x'.empties die = Tbl.get [] x.empties die ++ [victim]) ∧
      ∀ front p, Tbl.get [] x.deques victim = front ++ [p] → (front ≠ [] ∨ ¬ OwnerPlaces s victim l p) → x'.empties = x.empties ∧
        Tbl.get [] x'.deques victim = front ∧ Tbl.get [] x'.deques die = Tbl.get [] x.deques die ++ [p] ∧
        ∀ d, d ≠ die → d ≠ victim → Tbl.get [] x'.deques d = Tbl.get [] x.deques d)

/-- R22, R27, R54, R109, R112, R178, R220, R386, R390: a parcel whose leases are held is prepared where it stands in its deque: its
scratchpad is the image followed by zeros, and then the bytes of its staged regions, a unit within 4 KiB of its object at a time; a
prepared one takes a place, a scratchpad range and slots that no other of its core holds, and that were not freed there in this cycle,
and leaves its deque; one with a lease that is not held stays there (log entry 53); its threads start ready at their role's entry, with
`%tstate` 0 (log entry 2); a freed parcel is gone and counted; a launch whose parcels are freed ends and its node is done. The image is
read at its address in HBM (log entry 7). -/
def Obligations.ParcelsArePlacedStartedAndFreed : Prop :=
  (∀ (l : Launch) pix, let p := l.newParcel pix
    p.key = ⟨l.key.ctx, l.key.launch, pix⟩ ∧ p.phase = .preparing ∧ p.prep = 0 ∧ p.spSize = roundUp l.scratch 1024 ∧
    p.slots = l.slotCount ∧ p.xhash = l.xhash ∧ p.threads.map (fun t => t.tix) = List.range (min l.p (l.n - pix * l.p)) ∧
    ∀ t ∈ p.threads, t.status = .ready ∧ t.pc.toNat = l.roleEntry (l.roleOf t.tix) ∧ t.g = [] ∧ t.p = 0 ∧
      t.tstate = 0 ∧ t.srseed = srInit (l.tid pix t.tix) ∧ ∀ k < 8, t.cap k = l.cap k) ∧
  (∀ s die l p core x, s.placement die = some (l, [(p, core)]) → s.parcel? p.key = none → let t := s.takeLeases p.key 17
    t.launch? l.key = some x → l.nreg ≤ (t.leasesOf p.key).length → x.nreg = l.nreg →
    (∀ e ∈ t.leasesOf p.key, leaseField e 187 184 = 2) →
    exec (.parcelPlace die) s = .next { t with parcels := t.parcels ++ [{ x.newParcel p.key.pix with core := 320 }] }) ∧
  (∀ s die l p core, Placing s die l p core → ∃ v p', exec (.parcelPlace die) s = .next v ∧ v.parcel? p.key = some p' ∧
    p'.core = core ∧ core / 20 = die ∧ p'.phase = .starting ∧ PlacedApart s p' ∧ placedParts p' = placedParts p ∧
    p'.threads.map (fun t => { t with slot := 0 }) = p.threads.map (fun t => { t with slot := 0 }) ∧
    (∀ t ∈ p'.threads, t.exited = false → t.slot % 32 = t.tix % 32) ∧
    (∃ l', v.launch? l.key = some l' ∧ ∀ d, Tbl.get [] l'.deques d = (Tbl.get [] l.deques d).filter (fun x => x != p.key.pix)) ∧
    (0 < l.imageSegments → (v.core core).hasImage l.key = true) ∧ SameMemory s v ∧
    ∀ k, k ≠ p.key → v.parcel? k = s.parcel? k) ∧
  (∀ s die l p core, s.placement die = some (l, [(p, core)]) → s.parcel? p.key = none →
    (∃ e ∈ (s.takeLeases p.key 17).leasesOf p.key, leaseField e 187 184 ≠ 2) →
    exec (.parcelPlace die) s = .next (s.takeLeases p.key 17) ∧ (s.takeLeases p.key 17).parcel? p.key = none) ∧
  (∀ s k p l, s.parcel? k = some p → s.launch? k.launchKey = some l → p.phase = .preparing → p.prep = 0 → CleanMemory s →
    ∃ v p', exec (.scratchpadPrepare k) s = .next v ∧ v.parcel? k = some p' ∧
      p'.phase = (if l.stagingUnits k = [] then .prepared else .preparing) ∧ p'.prep = 1 ∧ p'.recs = [] ∧ p'.threads = p.threads ∧
      SameMemory s v ∧ ∀ a, Mem.byte p'.spad a = (if a < l.sdLen then Mem.byte s.hbm (l.sdata + a) else 0)) ∧
  (∀ s k p l i r a n bs, s.parcel? k = some p → s.launch? k.launchKey = some l → p.phase = .preparing → p.prep = i + 1 →
    (l.stagingUnits k)[i]? = some (r, a, n) → s.inRefresh (l.regionAt k r).1 a n = false →
    (s.readObject (s.yardOf k) (l.regionAt k r).1 a n).2 = .ok bs → ∃ v p', exec (.scratchpadPrepare k) s = .next v ∧
      v.parcel? k = some p' ∧ p'.phase = (if (l.stagingUnits k).length = i + 1 then .prepared else .preparing) ∧ p'.prep = i + 2 ∧
      p'.threads = p.threads ∧ let at' := (l.region r).stage + (a - (l.regionAt k r).2.1)
      ∀ x, Mem.byte p'.spad x = (if at' ≤ x ∧ x < at' + bs.length then bs.getD (x - at') 0 else Mem.byte p.spad x)) ∧
  (∀ (l : Launch) k, (∀ u ∈ l.stagingUnits k, 0 < u.2.2 ∧ u.2.1 / 4096 = (u.2.1 + u.2.2 - 1) / 4096) ∧
    ∀ i < l.nreg, ∀ x, (∃ u ∈ l.stagingUnits k, u.1 = i ∧ u.2.1 ≤ x ∧ x < u.2.1 + u.2.2) ↔
      (l.region i).staged = true ∧ (l.regionAt k i).2.1 ≤ x ∧ x < (l.regionAt k i).2.1 + (l.regionAt k i).2.2) ∧
  (∀ s k p, s.parcel? k = some p → p.phase = .starting → (s.ctx k.ctx).halt = .none → (∀ t ∈ p.threads, t.status = .ready) →
    ∃ v p', exec (.threadsStart k) s = .next v ∧ v.parcel? k = some p' ∧ p'.phase = .running ∧ p'.threads = p.threads ∧
      SameMemory s v) ∧
  (∀ s k p l, s.parcel? k = some p → s.freeable p = true → s.launch? k.launchKey = some l → ∃ v l', exec (.parcelFree k) s = .next v ∧
    v.parcel? k = none ∧ v.launch? k.launchKey = some l' ∧ l'.unfreed = l.unfreed - 1 ∧ SameMemory s v ∧
    (∀ e ∈ (v.core p.core).entries, e.place ≠ p.place) ∧
    (∃ f ∈ (v.core p.core).freed, f.clk = s.clk ∧ f.place = some p.place ∧ f.spad = (p.spBase, p.spSize) ∧
      f.slots = (p.slotBase, p.slots) ∧ f.resv = p.resv) ∧
    ∀ k', k' ≠ k → (v.parcel? k').map parcelParts = (s.parcel? k').map parcelParts) ∧
  (∀ s l x, s.launch? l = some x → x.unfreed = 0 → ∃ v, exec (.launchEnd l) s = .next v ∧ v.launch? l = none ∧
    (∀ p ∈ v.parcels, p.key.launchKey ≠ l) ∧ (∀ e ∈ (v.ctx l.ctx).leases, leaseField e 255 224 ≠ l.launch) ∧
    ((∀ r ∈ (s.ctx l.ctx).journal, r.launch ≠ l.launch) → SameMemory s v ∧
      v.nodes = s.nodes.map (fun n => if n.id = x.node then { n with satisfied := true } else n) ∧
      ∀ l', l' ≠ l → v.launch? l' = s.launch? l'))

namespace Sys2Proof.Claims
open Machine

/-! ### Slices, pre-emption, save and restore (R28, R392 to R396) -/

/-- Everything of a parcel that its save image holds and its restore returns, but for where it stands (R396). -/
def keptParts (p : Parcel) : Parcel :=
  let q := { p with core := 0, place := 0, spBase := 0, slotBase := 0, threads := [], phase := .saved, before := .saved, savedBy := 0, recs := [] }
  { q with resv := [], savedCopies := [], savedJobs := [], savedMatrix := [], savedSets := [], savedWatches := [], savedSegs := [], savedIssued := [] }

/-- The reservations of a restored parcel are its own, each in granules that no parcel of its core holds, with its new place as OWNER
(R28, R245). -/
def RsvsReturn (s : State) (p p' : Parcel) : Prop :=
  p'.resv.map (fun r => { r with word := BitVec.ofNat 256 (setBits r.word.toNat 234 223 0) }) =
    p.resv.map (fun r => { r with word := BitVec.ofNat 256 (setBits r.word.toNat 234 223 0) }) ∧
  ∀ r ∈ p'.resv, bitsOf r.word.toNat 225 223 = p'.place ∧ ∀ h ∈ s.reservations p'.core, h.num ≠ r.num ∧
    (rsvFirst h.word + rsvCount h.word ≤ rsvFirst r.word ∨ rsvFirst r.word + rsvCount r.word ≤ rsvFirst h.word)

/-- The registers and the counters of a thread. -/
def registersOf (t : Thread) : Nat × Tbl Word × BitVec 16 × Tbl QWord × List Word × Counts :=
  (t.tix, t.g, t.p, t.c, [t.srseed, t.tcause, t.tpc, t.tsav0, t.tsav1, t.tstate], t.counts)

/-- A saved parcel that a yard is about to restore alone. -/
structure Restoring (s : State) (die : Nat) (k : PKey) (l : Launch) (p : Parcel) (core : Nat) : Prop where
  chosen : s.placement die = some (l, [(p, core)])
  parcel : s.parcel? k = some p
  saved : p.phase = .saved ∧ p.before = .running
  launch : l.key = k.launchKey ∧ s.launch? l.key = some l ∧ l.front die = some k.pix
  segments : p.savedSegs = []
  clean : CleanMemory s

end Sys2Proof.Claims

/-- R392, R393, R397: SLICE_EXPIRY starts a new slice, at the expiry of the last one, where no launch waits for the context's cores;
none is pre-empted for a launch that fits somewhere, nor with its launch complete but for the freeing of its last parcel; the context that is pre-empted is one
that qualifies, the one whose best running launch ranks lowest, then the one restored last; PREEMPT halts its cores. -/
def Sys2Proof.Claims.PreemptionChoosesTheLowestRank : Prop :=
  (∀ s ctx, s.resident ctx ≠ [] → s.expired ctx = true → (∀ l ∈ s.launches, s.waitsFor ctx l = false) →
    ∃ v, exec (.sliceExpiry ctx) s = .next v ∧ v = { s with ctxs := v.ctxs } ∧ (∀ n, n ≠ ctx → v.ctx n = s.ctx n) ∧
      v.ctx ctx = { s.ctx ctx with sliceEnd := (s.ctx ctx).sliceEnd + 1000 * max 10 ((s.ctx ctx).desc.extractLsb' 112 16).toNat }) ∧
  (∀ (s : State) c l, s.waitsFor c l = true → l.key.ctx ≠ c ∧ ∀ die < 16, ∀ pix, l.front die = some pix →
    s.place? l die (s.waitingParcel l pix) = none) ∧
  (∀ (s : State) c, s.chosen = some c → c < 64 ∧ s.qualifies c = true ∧ ∀ d < 64, s.qualifies d = true →
    s.bestGrade d < s.bestGrade c ∨ (s.bestGrade d = s.bestGrade c ∧ (s.ctx d).lastRestored ≤ (s.ctx c).lastRestored)) ∧
  (∀ s ctx, s.chosen = some ctx → s.restoring ctx = false → s.completing ctx = false → ∃ v, exec (.preempt ctx) s = .next v ∧ (v.ctx ctx).halt = .halting ∧
    v.parcels = s.parcels ∧ SameMemory s v ∧ (∀ p ∈ s.parcels, p.key.ctx = ctx → p.placed = true → (v.core p.core).halting = true) ∧
    ∀ n, (∀ p ∈ s.parcels, p.key.ctx = ctx → p.placed = true → p.core ≠ n) → v.core n = s.core n)

/-- R394 to R396, R348, R405, with log entries 12 and 39: HALT_COMPLETE comes once no Circle request is on its way, withdraws
the blocking ones that wait and empties the threads' issue state;
SAVE_COMPLETE takes every parcel off its core with all it holds, writes the core's image with fresh check values, and puts the parcel
at the front of its die's deque, where all saved ones stand in ascending `%pix`, or ends the context where the images cannot be written. -/
def Sys2Proof.Claims.HaltedContextsAreSavedWhole : Prop :=
  (∀ s ctx, (s.ctx ctx).halt = .halting → s.haltDone ctx = true → ∃ v, exec (.haltComplete ctx) s = .next v ∧
    (v.ctx ctx).halt = .halted ∧ SameMemory s v ∧ v.cores = s.cores ∧
    (∀ p ∈ v.parcels, p.key.ctx = ctx → p.placed = true → ∀ t ∈ p.threads, t.due = [] ∧ t.reuse = none ∧ ∀ ds, t.status ≠ .short ds) ∧
    ∀ q ∈ s.circle, q.key.ctx = ctx → (∃ p ∈ s.parcels, p.key = q.key ∧ p.placed = true) →
      (q.blocking = true → (q.stage = .waiting ∨ q.stage = .spanning) → v.circle? q.id = none) ∧ (q.drop = false → q.stage ≠ .sent)) ∧
  (∀ s ctx, (s.ctx ctx).halt = .halted → (s.parcels.map (fun p => p.key)).Nodup → (s.launches.map (fun l => l.key)).Nodup →
    Tbl.wf Core.initial s.cores = true → ∃ v, exec (.saveComplete ctx true) s = .next v ∧ (v.ctx ctx).halt = .none ∧
      (v.ctx ctx).dumping = false ∧ (∀ k : PKey, k.ctx ≠ ctx → v.parcel? k = s.parcel? k) ∧ (v.lp, v.weight, v.link) = (s.lp, s.weight, s.link) ∧
      (∀ b, (∀ n ∈ s.coresOf ctx, b < s.imageAt ctx n ∨ s.imageAt ctx n + imageBytes ≤ b) → Mem.byte v.hbm b = Mem.byte s.hbm b) ∧
      (∃ save, ∀ n ∈ s.coresOf ctx, ∀ i < imageBytes, Mem.byte v.hbm (s.imageAt ctx n + i) = Config.imageByte save n i) ∧
      ∀ p ∈ s.parcels, p.key.ctx = ctx → p.placed = true → p.core < 320 →
        (∃ p', v.parcel? p.key = some p' ∧ p'.phase = .saved ∧ p'.before = p.phase ∧ p'.threads = p.threads ∧ p'.recs = p.recs ∧
          p'.resv = p.resv ∧ keptParts p' = keptParts p ∧
          p'.savedSegs.map (fun g => g.addr) = ((s.core p.core).segments.filter (fun g =>
            g.launch == p.key.launchKey && decide (262144 ≤ g.addr) && g.resident)).map (fun g => g.addr)) ∧
        (∃ i ∈ v.images, i.ctx = ctx ∧ i.core = p.core) ∧ (∀ u, s.imageUnit ctx p.core u = true → (Tier.hbm, u) ∉ v.poison) ∧
        (v.core p.core).entries = [] ∧ (∀ g ∈ (v.core p.core).segments, g.launch.ctx ≠ ctx) ∧
        (∀ r ∈ (v.core p.core).copies, r.key ≠ p.key) ∧ (∀ r ∈ (v.core p.core).matrix, r.key ≠ p.key) ∧
        (∀ r ∈ (v.core p.core).sets, r.key ≠ p.key) ∧
        ∀ l, s.launch? p.key.launchKey = some l → ∃ l' front, v.launch? l.key = some l' ∧ p.key.pix ∈ front ∧ front.Pairwise (· ≤ ·) ∧
          (∀ x ∈ front, ∃ r ∈ v.parcels, r.key = ⟨l.key.ctx, l.key.launch, x⟩ ∧ r.phase = .saved) ∧
          Tbl.get [] l'.deques (p.core / 20) = front ++ (Tbl.get [] l.deques (p.core / 20)).filter (fun x =>
            !s.parcels.any (fun r => r.key == ⟨l.key.ctx, l.key.launch, x⟩ && r.phase == .saved))) ∧
  (∀ s ctx, (s.ctx ctx).halt = .halted → ∃ v, exec (.saveComplete ctx false) s = .next v ∧
    ((v.ctx ctx).objects, (v.ctx ctx).leases, (v.ctx ctx).counters, (v.ctx ctx).halt) = ([], [], [], .none) ∧
    (∀ n ∈ v.nodes, n.ctx ≠ ctx) ∧
    ((∀ r ∈ s.regions, r.obj.ctx ≠ ctx) → (v.ctx ctx).enabled = false ∧ ∀ l ∈ v.launches, l.key.ctx ≠ ctx))

/-- R28, R190, R243, R265: a restored parcel takes a place and ranges of its own and holds what it held, its records keep TAG only, its
requests stand behind those of the core; once they are done its timelines are raised and its threads go on. -/
def Sys2Proof.Claims.RestoredParcelsHoldWhatTheyHeld : Prop :=
  (∀ s die k l p core, Restoring s die k l p core → ∃ v p', exec (.parcelRestore die k) s = .next v ∧ v.parcel? k = some p' ∧
    p'.core = core ∧ core / 20 = die ∧ p'.phase = .restoring ∧ PlacedApart s p' ∧ keptParts p' = keptParts p ∧
    RsvsReturn s p p' ∧ p'.threads.map (fun t => (registersOf t, t.pc)) = p.threads.map (fun t => (registersOf t, t.pc)) ∧
    (Tbl.wf 0 p.recs = true → ∀ i, Tbl.get 0 p'.recs i = Tbl.get 0 p.recs i &&& (1#64 <<< 39)) ∧ (v.core core).matrix = (s.core core).matrix ++ p.savedMatrix ∧
    (v.core core).sets = (s.core core).sets ++ p.savedSets.map (fun r => if r.restored then { r with core := core } else r) ∧ (v.core core).index = (s.core core).index ++ p.savedJobs ∧
    SameMemory s v) ∧
  (∀ s die k p, s.parcel? k = some p → p.phase = .restoring → s.resumed p = true → p.savedWatches = [] →
    (∀ j ∈ (s.core p.core).index, j.key ≠ k) → ∃ v p', exec (.parcelRestore die k) s = .next v ∧ v.parcel? k = some p' ∧
      p'.phase = .running ∧ keptParts { p' with retired := p.retired } = keptParts p ∧ (p'.resv, p'.recs) = (p.resv, p.recs) ∧
      p'.threads.map registersOf = p.threads.map registersOf ∧ SameMemory s v ∧
      ∀ n < 7, ((v.core p.core).timeline n).issued = max ((s.core p.core).timeline n).issued ((p.savedIssued[n]?).getD 0).toNat)

namespace Sys2Proof.Claims
open Machine

/-! ### Debugging, integrity and start-up (R372, R406, R415 to R431) -/

/-- The error record that a step adds to the device error ring (R426): its fields but for those the spec leaves open. -/
def RecordsError (s v : State) (unit verdict place : Nat) (x : Nat) : Prop :=
  ∃ w : BitVec 256, v.errorRing = s.errorRing ++ [w] ∧ w.toNat = x ∧ bitsOf x 255 192 = s.tb % 2 ^ 64 ∧ bitsOf x 191 188 = unit ∧
    bitsOf x 183 180 = verdict ∧ bitsOf x 175 168 = place ∧ bitsOf x 31 0 = s.errorRing.length % 2 ^ 32

/-- A ring that a debugging function writes (R416). -/
structure RingOn (b : BitVec 512) (exponent size maxSize addr : Nat) : Prop where
  enabled : dbgField b 328 256 = 0 ∧ dbgField b 191 0 = 0
  exponent : 10 ≤ exponent ∧ exponent ≤ 24
  size : 4 ≤ size ∧ size ≤ maxSize
  aligned : addr % 64 = 0

/-- What a start leaves (R431): nothing runs, every table is empty, `%tb` goes on and `%clk` counts from 0; the images, the keys and the
fuses are as they were. -/
def Started (s v : State) : Prop :=
  (v.parcels, v.launches, v.ctxs, v.cores, v.regions) = ([], [], [], [], []) ∧ (v.circle, v.replies, v.nodes, v.routes) = ([], [], [], []) ∧
    v.slices = [] ∧ v.migrations = [] ∧ v.errorRing = [] ∧ v.tests = [] ∧ v.images = [] ∧ v.reports = [] ∧ v.tb = s.tb ∧ v.clk = 0 ∧
    v.link = s.link ∧ (v.firmware, v.vendorKey, v.fuseKey, v.fuseVersions) = (s.firmware, s.vendorKey, s.fuseKey, s.fuseVersions) ∧
    ∀ d < 16, (v.base d).alive0 = true ∧ (v.base d).alive1 = true ∧ (v.base d).capacity = 0x0010FFFF

/-- All memory is zeroed. -/
def Zeroed (v : State) : Prop := (v.hbm, v.lp, v.weight) = ([], [], []) ∧ v.poison = [] ∧ v.memFaults = []

/-- What a start that stops at a step leaves: the step's number, the links that its training has not reached, and memory that is
zeroed from step 7 on. -/
def StoppedAt (s v : State) (down : List Nat) (step : Nat) : Prop :=
  Started s v ∧ v.boot = .stopped ∧ v.bootStatus.toNat % 256 = step ∧
    (∀ n, n ∈ v.linksDown ↔ n ∈ down ∧ step ≤ (if isPeerPort n then 11 else 10)) ∧
    (if step ≤ 7 then SameMemory s v ∧ v.poison = s.poison ∧ v.memFaults = s.memFaults else Zeroed v)

/-- The steps at which a start verifies an image, with its type (R431). -/
def imageChecks : List (Nat × Nat) := [(2, 0), (4, 1), (8, 2)]

/-- A start that passes, one that stops at a step of those it runs, and one that meets an image that is not verified (R430, R431). -/
def Starts (i : Option (BitVec 8 × BitVec 8) → Instr) (s : State) (runs : Nat → Prop) (down : List Nat) : Prop :=
  ((∀ x ∈ imageChecks, s.verified x.2 = true) → ∃ v, exec (i none) s = .next v ∧ Started s v ∧ Zeroed v ∧ v.boot = .ready ∧
    v.linksDown = [] ∧ v.measurements = imageChecks.map (fun x => sha256 (Tbl.get [] s.firmware x.2))) ∧
  (∀ step cause : BitVec 8, 1 ≤ step.toNat → step.toNat ≤ 12 → runs step.toNat →
    (∀ x ∈ imageChecks, x.1 < step.toNat → s.verified x.2 = true) → ∃ v, exec (i (some (step, cause))) s = .next v ∧
      StoppedAt s v down step.toNat ∧ v.bootStatus.toNat / 256 = cause.toNat) ∧
  ∀ x ∈ imageChecks, s.verified x.2 = false → (∀ y ∈ imageChecks, y.1 < x.1 → s.verified y.2 = true) →
    ∃ v, exec (i none) s = .next v ∧ StoppedAt s v down x.1

end Sys2Proof.Claims

/-- R420, R421: an entry of a completed phase or instance is appended to the log while it has room, and counted as dropped behind it;
in check mode it is held against the first logged entry of its parcel, object and phase, and the first mismatch of a parcel writes one
record. A barrier's completed phase forms an entry with the sum of what its arriving threads had retired. -/
def Sys2Proof.Claims.ReplayEntriesAreRecordedAndChecked : Prop :=
  (∀ (s : State) (k : PKey) obj phase rsum con, let c := s.debugBlock k.ctx
    let buf := dbgField c 447 384
    let n := s.dev buf 4
    let u := s.replayEntry k obj phase rsum con
    let at' := buf + 64 + 32 * n
    let e (j : Nat) : Nat := s.dev (buf + 64 + 32 * j) 32
    let same (j : Nat) : Prop := bitsOf (e j) 223 192 = k.pix % 2 ^ 32 ∧ bitsOf (e j) 191 160 = obj % 2 ^ 32 ∧
      bitsOf (e j) 159 128 = phase % 2 ^ 32 ∧ bitsOf (e j) 0 0 = (if con then 1 else 0)
    let good : Prop := ∃ j < n, same j ∧ (∀ i < j, ¬ same i) ∧ bitsOf (e j) 127 64 = rsum % 2 ^ 64
    CleanMemory s → dbgField c 328 256 = 0 → dbgField c 191 0 = 0 → buf % 64 = 0 →
    (dbgField c 341 340 = 1 → n < dbgField c 383 352 → let x := u.dev at' 32
      bitsOf x 255 224 = k.launch % 2 ^ 32 ∧ bitsOf x 223 192 = k.pix % 2 ^ 32 ∧ bitsOf x 191 160 = obj % 2 ^ 32 ∧
      bitsOf x 159 128 = phase % 2 ^ 32 ∧ bitsOf x 127 64 = rsum % 2 ^ 64 ∧ bitsOf x 63 1 = 0 ∧ bitsOf x 0 0 = (if con then 1 else 0) ∧
      u.dev buf 4 = n + 1 ∧ ∀ b, (b < buf ∨ buf + 4 ≤ b) → (b < at' ∨ at' + 32 ≤ b) → Mem.byte u.hbm b = Mem.byte s.hbm b) ∧
    (dbgField c 341 340 = 1 → dbgField c 383 352 ≤ n → u.dev (buf + 4) 4 = (s.dev (buf + 4) 4 + 1) % 2 ^ 32 ∧
      ∀ b, (b < buf + 4 ∨ buf + 8 ≤ b) → Mem.byte u.hbm b = Mem.byte s.hbm b) ∧
    (dbgField c 341 340 = 2 → (good ∨ k ∈ (s.ctx k.ctx).mismatched) → u = s) ∧
    (dbgField c 341 340 = 2 → ¬ good → k ∉ (s.ctx k.ctx).mismatched → k ∈ (u.ctx k.ctx).mismatched ∧ ∃ v : State, v.hbm = s.hbm ∧
      v.tb = s.tb ∧ v.msix = s.msix ∧ v.parcels = s.parcels ∧ (v.ctx k.ctx).desc = (s.ctx k.ctx).desc ∧
      u = v.faultRecord k.ctx { kind := 0x0E, code := phase, code2 := rsum % 2 ^ 32, addr := obj, launch := k.launch, pix := k.pix }) ∧
    (dbgField c 341 340 = 0 → u = s)) ∧
  (∀ (s : State) k p off (b : Barrier), s.parcel? k = some p → 1 ≤ b.init → b.pend = 0 → b.bytes = 0 → ∃ v : State,
    s.putBarrier k off b = v.replayEntry k off b.phase.toNat (Tbl.get 0 p.phaseSums off) false ∧ (v.ctxs, v.hbm) = (s.ctxs, s.hbm))

/-- R372, R406, R415 to R419, R429: system software writes descriptors, RIDX, entries of a function's MSI-X table, words, and debug
control blocks, which stand in device memory; a sample tick and a latch tick write their records, each once; a dump halts its context.
Rings, logs and blocks stand at byte addresses of HBM (log entry 7), and the last tick of a ring is kept as `%tb` + 1 (log entry 2). -/
def Obligations.DebugStepsWriteTheirRings : Prop :=
  (∀ s : State, let c := s.command
    s.boot = .ready → c.ctx < 64 → ∃ v, exec .debugControlBlock s = .next v ∧ v = { s with ctxs := v.ctxs, hbm := v.hbm } ∧
      v.ctx c.ctx = { s.ctx c.ctx with debugAt := some c.off } ∧ (∀ n, n ≠ c.ctx → v.ctx n = s.ctx n) ∧ v.dev c.off 64 = c.word.toNat ∧
      (∀ b, (b < c.off ∨ c.off + 64 ≤ b) → Mem.byte v.hbm b = Mem.byte s.hbm b) ∧
      ∀ u : State, u.ctxs = v.ctxs → u.dev c.off 64 = (u.debugBlock c.ctx).toNat) ∧
  (∀ (s : State) ctx n x, let c := s.debugBlock ctx
    let j := dbgField c 346 342
    let size := dbgField c 351 347
    let ring := dbgField c 511 448
    CleanMemory s → RingOn c j size 20 ring → s.tb % 2 ^ j = 0 → (s.ctx ctx).sampledAt ≠ s.tb + 1 → s.coresOf ctx = [n] →
    pickSample (s.samples n ctx) (s.tb / 2 ^ j % 1024) = some x → ∃ v, exec (.pcSample ctx) s = .next v ∧
      (v.ctx ctx).sampledAt = s.tb + 1 ∧ v.dev ring 8 = (s.dev ring 8 + 1) % 2 ^ 64 ∧
      let a := ring + 64 + 32 * (s.dev ring 8 % 2 ^ size)
      let y := v.dev a 32
      bitsOf y 255 192 = s.tb % 2 ^ 64 ∧ bitsOf y 191 160 = x.thread.launch % 2 ^ 32 ∧ bitsOf y 159 128 = x.thread.pix % 2 ^ 32 ∧
      bitsOf y 127 118 = x.thread.tix % 1024 ∧ bitsOf y 117 116 = x.state % 4 ∧ bitsOf y 115 110 = x.thread.ctx % 64 ∧
      bitsOf y 109 105 = 0 ∧ bitsOf y 104 96 = n % 512 ∧ bitsOf y 95 64 = x.pc.toNat ∧ bitsOf y 63 56 = x.wait % 256 ∧
      bitsOf y 55 48 = x.h % 256 ∧ bitsOf y 47 0 = 0 ∧
      ∀ b, (b < ring ∨ ring + 8 ≤ b) → (b < a ∨ a + 32 ≤ b) → Mem.byte v.hbm b = Mem.byte s.hbm b) ∧
  (∀ s : State, let c := s.debugBlock 0
    let ring := dbgField c 255 192
    let size := dbgField c 333 329
    let period := 2 ^ dbgField c 338 334
    CleanMemory s → RingOn c (dbgField c 338 334) size 24 ring → s.tb % period = 0 → s.latched ≠ s.tb + 1 →
    ∃ v, exec .counterLatch s = .next v ∧ v.latched = s.tb + 1 ∧ v.latchedClk = s.clk ∧ v.dev ring 8 = (s.dev ring 8 + 320) % 2 ^ 64 ∧
      (∀ n, (v.core n).counts = CoreCounts.zero) ∧ v.parcels = s.parcels ∧
      ∀ n < 320, 320 ≤ n + 2 ^ size → let x := v.dev (ring + 64 + 64 * ((s.dev ring 8 + n) % 2 ^ size)) 64
        let k := (s.core n).counts
        bitsOf x 511 448 = s.tb % 2 ^ 64 ∧ bitsOf x 447 439 = n ∧ bitsOf x 431 416 = 0 ∧ bitsOf x 63 0 = 0 ∧
        (s.residents n = [] → bitsOf x 438 433 = 63 ∧ bitsOf x 432 432 = 0) ∧
        (∀ p rest, s.residents n = p :: rest → bitsOf x 438 433 = p.key.ctx % 64 ∧ bitsOf x 432 432 = 1) ∧
        bitsOf x 415 384 = min (2 ^ 32 - 1) (s.clk - s.latchedClk) ∧ bitsOf x 383 352 = k.issA % 2 ^ 32 ∧ bitsOf x 351 320 = k.issO % 2 ^ 32 ∧
        bitsOf x 319 288 = k.engw % 2 ^ 32 ∧ bitsOf x 287 256 = k.phw % 2 ^ 32 ∧ bitsOf x 255 224 = k.spp % 2 ^ 32 ∧
        bitsOf x 223 192 = k.fetch % 2 ^ 32 ∧ bitsOf x 191 160 = k.mxb % 2 ^ 32 ∧ bitsOf x 159 128 = k.cpb % 2 ^ 32 ∧
        bitsOf x 127 96 = k.setb % 2 ^ 32 ∧ bitsOf x 95 64 = k.crq % 2 ^ 32) ∧
  (∀ s : State, let ctx := s.command.ctx
    s.boot = .ready → ctx < 64 → (s.ctx ctx).dumping = false → ∃ v, exec .dump s = .next v ∧ (v.ctx ctx).dumping = true ∧
      v.parcels = s.parcels ∧ SameMemory s v ∧
      ((s.ctx ctx).halt = .none → s.restoring ctx = false → s.completing ctx = false → (v.ctx ctx).halt = .halting ∧
        ∀ p ∈ s.parcels, p.key.ctx = ctx → p.placed = true → (v.core p.core).halting = true)) ∧
  (∀ s : State, s.boot = .ready →
    (∀ ctx, s.command.target = .ctxDescriptor ctx → ctx < 64 → ∃ v, exec .registerWrite s = .next v ∧ v = { s with ctxs := v.ctxs } ∧
      { v.ctx ctx with desc := 0 } = { s.ctx ctx with desc := 0 } ∧ (v.ctx ctx).enabled = (s.ctx ctx).enabled ∧
      (∀ n, n ≠ ctx → v.ctx n = s.ctx n) ∧ ∀ i, 1 ≤ i → (v.ctx ctx).desc.getLsbD i =
        (s.command.word.getLsbD i && decide (100 ≤ i ∧ (i < 192 ∨ 200 ≤ i)))) ∧
    (∀ ctx, s.command.target = .faultRingRidx ctx → ctx < 64 → let a := (s.ctx ctx).fring + 4
      ∃ v, exec .registerWrite s = .next v ∧ v.dev a 4 = s.command.tail.toNat ∧
        ∀ b, (b < a ∨ a + 4 ≤ b) → Mem.byte v.hbm b = Mem.byte s.hbm b) ∧
    (∀ ctx e, s.command.target = .msixEntry ctx e → ctx < 64 → e < 256 → ∃ v, exec .registerWrite s = .next v ∧
      v = { s with msixTable := v.msixTable } ∧ Tbl.get 0 v.msixTable (256 * ctx + e) = s.command.word.extractLsb' 0 128 ∧
      ∀ i, i ≠ 256 * ctx + e → Tbl.get 0 v.msixTable i = Tbl.get 0 s.msixTable i) ∧
    (∀ a, s.command.target = .deviceWord a → ∃ v, exec .registerWrite s = .next v ∧
      v.dev a 8 = s.command.word.toNat % 2 ^ 64 ∧ ∀ b, (b < a ∨ a + 8 ≤ b) → Mem.byte v.hbm b = Mem.byte s.hbm b)) ∧
  Sys2Proof.Claims.ReplayEntriesAreRecordedAndChecked

/-- R424 to R428: SCRUB_READ meets the pending errors of a row; SELF_TEST ends a test with its record; LAYER_MAP_OUT takes a
layer with eight counted rows, each once, out of the capacity register, with an event that lists its objects, and retires it once it is
empty; HEARTBEAT, MASTER_TAKEOVER and the two refreshes, due every 800 ticks (log entry 30). Errors of memory come from the
outside (log entry 13); fields the spec gives no value are free (log entry 28). That a
master whose last heartbeat is 512 ticks old has missed two is log entry 40. -/
def Obligations.StationMastersKeepTheirDies : Prop :=
  (∀ s : State, let c := s.command
    s.startedPast 6 = true → (c.tier = .hbm ∧ c.unit / 2 ^ 28 < 16 ∧ s.mastered (c.unit / 2 ^ 28) = true) ∨
      (c.tier = .lp ∧ c.unit / 2 ^ 29 < 16 ∧ s.mastered (c.unit / 2 ^ 29) = true) → ∃ v, exec .scrubRead s = .next v ∧ SameMemory s v ∧
      (∀ f ∈ v.memFaults, f ∈ s.memFaults ∧ (f.tier = c.tier → f.unit / 4 = c.unit / 4 → s.poisoned c.tier f.unit = true)) ∧
      ∀ f ∈ s.memFaults, ¬ (f.tier = c.tier ∧ f.unit / 4 = c.unit / 4) → f ∈ v.memFaults) ∧
  (∀ s t, s.tests.find? s.testable = some t → let n := match s.command.result with
      | .passed => 0
      | .failedSpared => 1
      | .failedCounted => 2
    ∃ v x, exec .selfTest s = .next v ∧ v.tests = s.tests.erase t ∧ RecordsError s v t.unit.unitCode n (t.place % 256) x ∧
      bitsOf x 187 184 = t.cls % 16 ∧ bitsOf x 167 160 = t.sub % 256 ∧ bitsOf x 159 128 = t.row % 2 ^ 32 ∧
      bitsOf x 127 64 = t.addr % 2 ^ 64 ∧
      (∀ y, y ∈ (v.base t.place).counted ↔ y ∈ (s.base t.place).counted ∨ (t.unit = .hbmRow ∧ n = 2 ∧ y = (t.sub, t.row))) ∧
      (∀ l, l ∈ v.lanesDown ↔ l ∈ s.lanesDown ∧ ¬ ((t.unit = .hostLane ∨ t.unit = .peerLane) ∧ n = 0 ∧ l = (t.place, t.sub)))) ∧
  (∀ s stack layer, stack < 16 → layer < 16 → s.mastered stack = true → s.layerServes stack layer = true →
    8 ≤ ((s.base stack).counted.filter (fun y => y.1 == layer)).length → ∃ v, exec (.layerMapOut stack layer) s = .next v ∧
      (∃ objs, v.hotRemove = s.hotRemove ++ [⟨stack, layer, objs⟩] ∧ ∀ o, o ∈ objs ↔ ∃ c e d u, (o.ctx, c) ∈ s.ctxs ∧ e ∈ c.objects ∧
        e.obj = o.obj ∧ s.classOf o ≠ 0 ∧ d ∈ e.leaves ∧ tierOf (extField d 63 62) = .hbm ∧ extField d 55 0 ≤ u ∧ u < extField d 55 0 + extField d 95 64 ∧
        u / 2 ^ 20 = stack ∧ u / 2 ^ 16 % 16 = layer) ∧ v.layerServes stack layer = false ∧
      (∀ i < 16, i ≠ layer → v.layerServes stack i = s.layerServes stack i) ∧
      (v.base stack).capacity.extractLsb' 16 16 = (s.base stack).capacity.extractLsb' 16 16 - 1 ∧ SameMemory s v) ∧
  (∀ s stack layer, stack < 16 → layer < 16 → s.mastered stack = true → s.layerServes stack layer = false →
    (∃ e ∈ s.hotRemove, e.stack = stack ∧ e.layer = layer) → s.layerUsed stack layer = false →
    ∃ v x, exec (.layerMapOut stack layer) s = .next v ∧
      (∀ e, e ∈ v.hotRemove ↔ e ∈ s.hotRemove ∧ ¬ (e.stack = stack ∧ e.layer = layer)) ∧ RecordsError s v 0 3 stack x ∧ bitsOf x 167 160 = layer ∧ SameMemory s v) ∧
  (∀ s die master, s.startedPast 4 = true → die < 16 → master < 2 → (s.base die).alive master = true →
    (s.base die).beat master + 256 ≤ s.tb → s.tb < (s.base die).beat master + 512 →
    ∃ v, exec (.heartbeat die master) s = .next v ∧ (v.base die).beat master = s.tb ∧
      (∀ m < 2, m ≠ master → (v.base die).beat m = (s.base die).beat m) ∧ (v.base die).alive master = true ∧ v = { s with bases := v.bases }) ∧
  (∀ s die m, die < 16 → m < 2 → let b := s.base die
    b.alive m = true → b.beat m + 512 ≤ s.tb → b.alive (1 - m) = true → s.tb < b.beat (1 - m) + 512 →
    ∃ v x, exec (.masterTakeover die) s = .next v ∧ (v.base die).alive m = false ∧ (v.base die).alive (1 - m) = true ∧
      (v.base die).master = 1 - m ∧ (v.base die).fallback = false ∧ RecordsError s v 5 4 die x ∧ bitsOf x 187 184 = 3) ∧
  (∀ s die m, die < 16 → m < 2 → let b := s.base die
    b.alive m = true → b.beat m + 512 ≤ s.tb → (b.alive (1 - m) = false ∨ b.beat (1 - m) + 512 ≤ s.tb) →
    ∃ v, exec (.masterTakeover die) s = .next v ∧ v.mastered die = false ∧ (v.base die).fallback = true ∧
      ∃ w : BitVec 256, v.errorRing = s.errorRing ++ [w] ∧ bitsOf w.toNat 191 188 = 5 ∧ bitsOf w.toNat 187 184 = 3 ∧
        bitsOf w.toNat 175 168 = die) ∧
  (∀ s die, s.startedPast 6 = true → die < 16 → let b := s.base die
    b.refreshed / 800 < s.tb / 800 →
    (b.alive b.master = true → s.tb < b.beat b.master + 512 → ∃ v, exec (.stationMasterRefresh die) s = .next v ∧
      v.base die = { b with refreshed := s.tb, fallback := false } ∧ v = { s with bases := v.bases }) ∧
    ((b.alive b.master = false ∨ b.beat b.master + 256 < s.tb) → ∃ v, exec (.fallbackRefresh die) s = .next v ∧
      v.base die = { b with refreshed := s.tb, fallback := true } ∧ v = { s with bases := v.bases }))

/-- R7, R430, R431: a start that passes leaves the device ready with zeroed memory and three measurements; one that stops, at a step
that fails or at an image that is not verified, names its step; a warm start skips steps 3, 5 and 6 and the training of links that
stayed up; an image is verified only with its type, length and digest, a version that the fuses allow, and a key of which they hold
the digest (its layout is log entry 29); the identity key signs the measurement list. -/
def Sys2Proof.Claims.StartsClearTheDevice : Prop :=
  (∀ s : State, Starts .coldStart s (fun _ => True) (List.range 10)) ∧
  (∀ s : State, s.boot ≠ .off → Starts .warmStart s (fun n => n ≠ 3 ∧ n ≠ 5 ∧ n ≠ 6 ∧
    (n = 10 → ∃ x ∈ s.linksDown, isPeerPort x = false) ∧ (n = 11 → ∃ x ∈ s.linksDown, isPeerPort x = true)) s.linksDown) ∧
  (∀ (s : State) type, s.verified type = true → let image := Tbl.get [] s.firmware type
    let payload := (image.take (image.length - 7856)).drop 64
    headerField image 0 4 = type ∧ Tbl.get 0 s.fuseVersions type ≤ headerField image 4 4 ∧ headerField image 8 8 = payload.length ∧
      (image.drop 32).take 32 = sha256 payload ∧ sha256 s.vendorKey = s.fuseKey ∧
      slhVerify s.vendorKey (image.take (image.length - 7856)) (image.drop (image.length - 7856)) = true) ∧
  (∀ s : State, s.boot = .ready → ∃ v, exec .attestationSign s = .next v ∧ v = { s with signatures := v.signatures } ∧
    v.signatures = s.signatures ++ [slhSign (identityPart 0) (identityPart 1) (identityPart 2) (slhRoot (identityPart 0) (identityPart 2))
      ((List.range 16).map (Config.signatureRandom s.signatures.length)) s.measurements.flatten])

namespace Sys2Proof.Claims
open Machine

/-! ### Words, steps and what every step keeps -/

/-- A word decodes to an instruction, whatever follows it. -/
def Reads (w : DWord) (i : Instr) : Prop := ∀ second, decode w second = .ok i

/-- Every device memory is in its canonical form, and `%tb` is a 64-bit count. -/
structure Inv (s : State) : Prop where
  hbm : Memory.wf s.hbm = true
  lp : Memory.wf s.lp = true
  weight : Memory.wf s.weight = true
  link : Memory.wf s.link = true
  tb : s.tb < 2 ^ 64

end Sys2Proof.Claims

/-- R56 to R80: words written out from the formats of the spec decode to the instructions they stand for. -/
def Obligations.WordsOfTheSpecDecode : Prop :=
  Reads 0x0340020181002030 (.addc ⟨.always, 4, 6, 8, 2, 0, false, false, false, .n32, 0⟩) ∧
  Reads 0x14000382012E8030 (.lut3 ⟨.always, 7, 8, 9, 0xE8, 0, false, false, false, .n32, 0⟩) ∧
  Reads 0x20C00502C180D049 (.ffma ⟨.always, 10, 11, 12, 13, 0, false, false, false, .f32, 1⟩) ∧
  Reads 0x480001810000C812 (.cmpImm ⟨.always, 3, 4, 100, .i32, 2⟩) ∧
  Reads 0x50C0000000040000 (.call ⟨.always, 4, 0⟩) ∧
  Reads 0x714003FFFFFFF000 (.waitcnt ⟨.always, 0, 63, 63, 63, 63, 63⟩) ∧
  Reads 0xA040018280000400 (.kst ⟨.always, 3, 10, 0, 32, 0, 0⟩) ∧
  Reads 0x90000A058301A100 (.cpin ⟨.always, 20, 22, 24, 26, 1, false, 0⟩) ∧
  Reads 0xD1C003008060000 (.unassignedOpcode 0xD1C003008060000) ∧
  Reads 0xD1C0030080600000 (.sint ⟨.always, 6, 2, 3, 0, 0, false, false, false, .i8, 0⟩) ∧
  Reads 0xE023050100C0C001 (.crupd ⟨.onTrue 3, 10, 4, 6, 12, 0, false, 1⟩) ∧
  Reads 0xE0C0040000000000 (.crlap ⟨.always, 8, 0, 0, 0, 0, false, 0⟩)

/-- Decoding the words of a well-formed instruction gives it back, with every operand at every value; and what a word decodes to is
well-formed and has that word, and the second one where it uses it, as its encoding: no bit is dropped and none is free. -/
def Obligations.DecodingAndEncodingAgree : Prop :=
  (∀ i : Instr, i.isStep = false → i.wellFormed = true →
    (∃ w, encode i = [w] ∧ Reads w i) ∨ ∃ w w2, encode i = [w, w2] ∧ decode w (some w2) = .ok i) ∧
  (∀ w second i, decode w second = .ok i → i.isStep = false ∧ i.wellFormed = true ∧
    (encode i = [w] ∨ ∃ w2, second = some w2 ∧ encode i = [w, w2]))

/-- R56, R62, R78, R126 to R128, with the order of moves of log entry 1 and the cycle counts of log entry 10: when a core's
issue stage chooses a group and the words at its address decode to an instruction, the step is `exec` of it, with the group
named, its size known and the core's issue slot taken; a word that does not decode traps; a step of the device that is enabled
happens; any other move is the outside's, and with time the present cycle ends on every core. -/
def Obligations.AStepRunsTheDecodedInstruction : Prop :=
  (∀ (s : State) core arith rest x l i, s.schedule = .issue core arith :: rest → let s0 := { s with schedule := rest }
    s0.select core arith = some x → s0.launch? x.group.key.launchKey = some l →
    (s0.core core).fetchable l.key x.group.pc = true →
    decode ((s0.core core).codeWord l.key x.group.pc.toNat) ((s0.core core).secondWord l x.group.pc.toNat) = .ok i →
    ∃ u, step s = exec i u ∧ u.group = some { x.group with size := i.size } ∧ u.parcels = s.parcels ∧ SameMemory s u ∧
      u.launches = s.launches ∧ u.ctxs = s.ctxs ∧ (∀ n, n ≠ core → u.core n = s.core n) ∧ u.schedule = rest ∧
      (u.core core).entries.map (fun e => (e.place, e.pc, e.tixs, e.active)) =
        (s.core core).entries.map (fun e => (e.place, e.pc, e.tixs, e.active)) ∧
      quietCore { u.core core with arithFree := 0, otherFree := 0 } = quietCore { s.core core with arithFree := 0, otherFree := 0 }) ∧
  (∀ (s : State) core arith rest x l n, s.schedule = .issue core arith :: rest → let s0 := { s with schedule := rest }
    s0.select core arith = some x → s0.launch? x.group.key.launchKey = some l →
    (s0.core core).fetchable l.key x.group.pc = true →
    decode ((s0.core core).codeWord l.key x.group.pc.toNat) ((s0.core core).secondWord l x.group.pc.toNat) = .error n →
    step s = .next (s0.trapGroup x.group (Trap.illegal n x.group.pc))) ∧
  (∀ (s : State) core arith rest x l, s.schedule = .issue core arith :: rest → let s0 := { s with schedule := rest }
    s0.select core arith = some x → s0.launch? x.group.key.launchKey = some l →
    (s0.core core).fetchable l.key x.group.pc = false → step s = .next (s0.trapGroup x.group (Trap.ovlmiss x.group.pc))) ∧
  (∀ (s : State) core arith rest, s.schedule = .issue core arith :: rest →
    ({ s with schedule := rest } : State).select core arith = none → step s = .next { s with schedule := rest }) ∧
  (∀ (s : State) i rest v, s.schedule = .event i :: rest → i.isStep = true → exec i { s with schedule := rest } = .next v →
    step s = .next v) ∧
  (∀ (s : State) t c rest, s.schedule = .time t c :: rest → Tbl.wf Core.initial s.cores = true → ∃ v, step s = .next v ∧ v.tb = (s.tb + t) % 2 ^ 64 ∧ v.clk = s.clk + c ∧
    SameMemory s v ∧ (∀ n, { v.ctx n with sliceEnd := 0 } = { s.ctx n with sliceEnd := 0 }) ∧
    (c = 0 → v.parcels = s.parcels ∧ ∀ n, (v.core n).entries = (s.core n).entries) ∧
    (0 < c → ∀ p ∈ s.parcels, p.phase = .running → s.clk < (v.core p.core).turn))

/-- R232, R398, R405: the device never stops: from every state a step answers a next state. What cannot happen now does not
happen; what fails traps, fails its request or ends its launch. Which move comes next is the model's choice (log entry 1). -/
def Obligations.TheDeviceNeverStops : Prop := ∀ s : State, ∃ v, step s = .next v

/-- R2, R8, R178, R218, R409: from every state in which the device memories are canonical and `%tb` is a 64-bit count, a step gives
another. -/
def Obligations.EveryStepKeepsTheInvariant : Prop := ∀ s v : State, Inv s → step s = .next v → Inv v

/-- R206, R227, R371, R413, R427, R431 and log entries 2 and 8 (the model's choices for the time before a start): before its
start the device runs nothing, its memories read 0, its timelines, counters, queues and rings are empty, every context is disabled and
every layer in service; and the invariant of every step holds. -/
def Sys2Proof.Claims.ResetLeavesTheDeviceIdle : Prop :=
  (State.reset.parcels, State.reset.launches, State.reset.nodes, State.reset.circle, State.reset.replies) = ([], [], [], [], []) ∧
  (∀ t a, Mem.byte (State.reset.tier t) a = 0) ∧ (∀ n k, (State.reset.core n).timeline k = ⟨0, [], 0, 0, 0, []⟩) ∧
  (∀ c k, Tbl.get 0 (State.reset.ctx c).counters k = 0 ∧ (State.reset.ctx c).enabled = false) ∧
  (∀ stack layer, layer < 16 → State.reset.layerServes stack layer = true) ∧
  (State.reset.boot, State.reset.bootStatus.toNat, State.reset.errorRing.length) = (.off, 0, 0) ∧ Inv State.reset

/-! ### More statements of several parts -/

/-- R127, R136, R228: copies end, and overlays are loaded and become resident. The order of OVLD's checks, and when its victim
is chosen and goes, are the model's reading (log entry 20). -/
def Obligations.CopiesAndOverlaysComplete : Prop :=
  Sys2Proof.Claims.CopiesCompleteAndOverlaysBecomeResident ∧ Sys2Proof.Claims.OverlaysAreLoaded

/-- R238 to R242: index requests enter their context, and the index engine runs them. -/
def Obligations.IndexJobsAreQueuedAndRun : Prop :=
  Sys2Proof.Claims.IndexRequestsEnterTheirContext ∧ Sys2Proof.Claims.IndexJobsTakeOneElementAtATime

/-- R245 to R255: operand-buffer reservations, and shapes judged without execution. That GOFF and
GPITCH are multiples of 4, and that 0x47 goes before 0x23, is log entry 31; that the cycles of remote and direct operands are added once
for each kind is log entry 61. -/
def Obligations.ReservationsAndShapesAreJudged : Prop :=
  Sys2Proof.Claims.ReservationsAreMadeFreedAndRead ∧ Sys2Proof.Claims.ShapesAreJudgedWithoutExecution

/-- R113, R132 to R134, R436: NOP, YIELD and EXIT, and the wake events that end a yield. -/
def Obligations.YieldExitAndWaking : Prop :=
  Sys2Proof.Claims.NopYieldAndExit ∧ Sys2Proof.Claims.WakeEventsMakeYieldedThreadsReady

/-- R183 to R197: the passes of loads and atomics. -/
def Obligations.LoadsAndAtomicsReadMemory : Prop :=
  Sys2Proof.Claims.LoadsDeliverMemory ∧ Sys2Proof.Claims.AtomicsReadAndModify

/-- R199 to R205: the passes of barrier operations, and waits for a phase. -/
def Obligations.BarriersCountAndWaitsRead : Prop :=
  Sys2Proof.Claims.BarriersCountArrivalsAndBytes ∧ Sys2Proof.Claims.WaitsReadThePhase

/-- R332 to R343: the row passes and the laps of a region. -/
def Obligations.RowPassesAndLapsOfARegion : Prop :=
  Sys2Proof.Claims.RowPassesApplyTheirEntries ∧ Sys2Proof.Claims.LapsAndSnapshotsKeepTogether

/-- R227 to R236: copies enter their context, and invalid ones fail with their code. -/
def Obligations.CopiesAreCheckedAndQueued : Prop :=
  Sys2Proof.Claims.CopiesEnterTheirContext ∧ Sys2Proof.Claims.InvalidCopiesFailWithTheirCode

/-- R227, R241, R242: timelines are read and watched. -/
def Obligations.TimelinesAreReadAndWatched : Prop :=
  Sys2Proof.Claims.TimelinesAreRead ∧ Sys2Proof.Claims.WatchesArriveWhenDone

/-- R207 to R209: WAITCNT and FENCE. -/
def Obligations.CountersAndFencesHoldBack : Prop :=
  Sys2Proof.Claims.WaitcntWaitsForItsLimits ∧ Sys2Proof.Claims.FencesHoldBackLaterAccesses

/-- R400 to R402: taking a trap, and a trap with H set or with no routine. -/
def Obligations.TrapsEnterTheirRoutine : Prop :=
  Sys2Proof.Claims.TrapEntrySavesAndVectors ∧ Sys2Proof.Claims.DoubleFaultsEndTheLaunch

/-- R217 to R221: the object table, routes and leases. The leaves of an object stand as a list (log entry 6). -/
def Obligations.ObjectsRoutesAndLeases : Prop :=
  Sys2Proof.Claims.ObjectsAndRoutesAreKept ∧ Sys2Proof.Claims.LeasesAreTakenAndBacked

/-- R223 to R225, R423 to R429: migration, and what arrives over the links. Device addresses are bytes of HBM (log entry 7), and
errors of memory come from the outside (log entry 13). -/
def Obligations.MigrationsAndLinksMoveBytes : Prop :=
  Sys2Proof.Claims.MigrationsCopyThenSwitch ∧ Sys2Proof.Claims.LinksCarryWrites

/-- R28, R392 to R396: slices, pre-emption, halt, save and restore. A slice's length in ticks and the
comparison of contexts are log entry 37, and the order of launches of one deadline is log entry 52. -/
def Obligations.PreemptionSavesAndRestores : Prop :=
  Sys2Proof.Claims.PreemptionChoosesTheLowestRank ∧ Sys2Proof.Claims.HaltedContextsAreSavedWhole ∧ Sys2Proof.Claims.RestoredParcelsHoldWhatTheyHeld

/-- R427, R430, R431: the device before its start, and what a start leaves. What a start clears is log entry 40. The signature's key parts,
its random bytes and where it is placed are log entry 4. -/
def Obligations.ResetAndStartsClearTheDevice : Prop :=
  Sys2Proof.Claims.ResetLeavesTheDeviceIdle ∧ Sys2Proof.Claims.StartsClearTheDevice

/-- R139 to R141: a collective waits for every member, and completes for all together. -/
def Obligations.CollectivesWaitAndComplete : Prop :=
  Sys2Proof.Claims.CollectivesWaitForEveryMember ∧ Sys2Proof.Claims.CollectivesCompleteTogether

/-- R178 to R195, R365 to R367: stores enter their queue, and those of one instruction are judged; accesses are bound, aligned and
checked for races. -/
def Obligations.StoresAreQueuedAndAccessesChecked : Prop :=
  Sys2Proof.Claims.StoresEnterTheQueue ∧ Sys2Proof.Claims.AccessesAreBoundAndAligned ∧
    Sys2Proof.Claims.SameInstructionStoresAreJudged ∧ Sys2Proof.Claims.RacesAreReported

/-- R166 to R174: special cases of floating point, and conversions. -/
def Obligations.FloatingPointCasesAndConversions : Prop :=
  Sys2Proof.Claims.FloatingPointSpecialCases ∧ Sys2Proof.Claims.ConversionsRoundAndSaturate

/-- R106, R107, R278 to R284: a TERM runs at the head of matrix order. -/
def Obligations.TermRunsAtTheHead : Prop := Sys2Proof.Claims.TermRunsAtTheHead
end

