-- ==== Sys2Proof/Laws/State.lean ====
section
/-!
SUPPORT. What each named update of the state leaves alone: one lemma per field, true by unfolding the record update.
-/

namespace Sys2Proof.Machine

variable (s : State)


/-! ### State.setCore -/

@[simp] theorem State.setCore_schedule (c : Nat) (v : Core) : (s.setCore c v).schedule = s.schedule := rfl
@[simp] theorem State.setCore_choice (c : Nat) (v : Core) : (s.setCore c v).choice = s.choice := rfl
@[simp] theorem State.setCore_nextUid (c : Nat) (v : Core) : (s.setCore c v).nextUid = s.nextUid := rfl
@[simp] theorem State.setCore_group (c : Nat) (v : Core) : (s.setCore c v).group = s.group := rfl
@[simp] theorem State.setCore_command (c : Nat) (v : Core) : (s.setCore c v).command = s.command := rfl
@[simp] theorem State.setCore_tb (c : Nat) (v : Core) : (s.setCore c v).tb = s.tb := rfl
@[simp] theorem State.setCore_clk (c : Nat) (v : Core) : (s.setCore c v).clk = s.clk := rfl
@[simp] theorem State.setCore_boot (c : Nat) (v : Core) : (s.setCore c v).boot = s.boot := rfl
@[simp] theorem State.setCore_bootStatus (c : Nat) (v : Core) : (s.setCore c v).bootStatus = s.bootStatus := rfl
@[simp] theorem State.setCore_firmware (c : Nat) (v : Core) : (s.setCore c v).firmware = s.firmware := rfl
@[simp] theorem State.setCore_vendorKey (c : Nat) (v : Core) : (s.setCore c v).vendorKey = s.vendorKey := rfl
@[simp] theorem State.setCore_fuseKey (c : Nat) (v : Core) : (s.setCore c v).fuseKey = s.fuseKey := rfl
@[simp] theorem State.setCore_fuseVersions (c : Nat) (v : Core) : (s.setCore c v).fuseVersions = s.fuseVersions := rfl
@[simp] theorem State.setCore_measurements (c : Nat) (v : Core) : (s.setCore c v).measurements = s.measurements := rfl
@[simp] theorem State.setCore_signatures (c : Nat) (v : Core) : (s.setCore c v).signatures = s.signatures := rfl
@[simp] theorem State.setCore_hbm (c : Nat) (v : Core) : (s.setCore c v).hbm = s.hbm := rfl
@[simp] theorem State.setCore_lp (c : Nat) (v : Core) : (s.setCore c v).lp = s.lp := rfl
@[simp] theorem State.setCore_weight (c : Nat) (v : Core) : (s.setCore c v).weight = s.weight := rfl
@[simp] theorem State.setCore_link (c : Nat) (v : Core) : (s.setCore c v).link = s.link := rfl
@[simp] theorem State.setCore_memFaults (c : Nat) (v : Core) : (s.setCore c v).memFaults = s.memFaults := rfl
@[simp] theorem State.setCore_poison (c : Nat) (v : Core) : (s.setCore c v).poison = s.poison := rfl
@[simp] theorem State.setCore_parcels (c : Nat) (v : Core) : (s.setCore c v).parcels = s.parcels := rfl
@[simp] theorem State.setCore_launches (c : Nat) (v : Core) : (s.setCore c v).launches = s.launches := rfl
@[simp] theorem State.setCore_ctxs (c : Nat) (v : Core) : (s.setCore c v).ctxs = s.ctxs := rfl
@[simp] theorem State.setCore_regions (c : Nat) (v : Core) : (s.setCore c v).regions = s.regions := rfl
@[simp] theorem State.setCore_slices (c : Nat) (v : Core) : (s.setCore c v).slices = s.slices := rfl
@[simp] theorem State.setCore_circle (c : Nat) (v : Core) : (s.setCore c v).circle = s.circle := rfl
@[simp] theorem State.setCore_replies (c : Nat) (v : Core) : (s.setCore c v).replies = s.replies := rfl
@[simp] theorem State.setCore_nodes (c : Nat) (v : Core) : (s.setCore c v).nodes = s.nodes := rfl
@[simp] theorem State.setCore_routes (c : Nat) (v : Core) : (s.setCore c v).routes = s.routes := rfl
@[simp] theorem State.setCore_migrations (c : Nat) (v : Core) : (s.setCore c v).migrations = s.migrations := rfl
@[simp] theorem State.setCore_bases (c : Nat) (v : Core) : (s.setCore c v).bases = s.bases := rfl
@[simp] theorem State.setCore_steals (c : Nat) (v : Core) : (s.setCore c v).steals = s.steals := rfl
@[simp] theorem State.setCore_linksDown (c : Nat) (v : Core) : (s.setCore c v).linksDown = s.linksDown := rfl
@[simp] theorem State.setCore_chips (c : Nat) (v : Core) : (s.setCore c v).chips = s.chips := rfl
@[simp] theorem State.setCore_msixTable (c : Nat) (v : Core) : (s.setCore c v).msixTable = s.msixTable := rfl
@[simp] theorem State.setCore_touched (c : Nat) (v : Core) : (s.setCore c v).touched = s.touched := rfl
@[simp] theorem State.setCore_images (c : Nat) (v : Core) : (s.setCore c v).images = s.images := rfl
@[simp] theorem State.setCore_lanesDown (c : Nat) (v : Core) : (s.setCore c v).lanesDown = s.lanesDown := rfl
@[simp] theorem State.setCore_tests (c : Nat) (v : Core) : (s.setCore c v).tests = s.tests := rfl
@[simp] theorem State.setCore_errorRing (c : Nat) (v : Core) : (s.setCore c v).errorRing = s.errorRing := rfl
@[simp] theorem State.setCore_hotRemove (c : Nat) (v : Core) : (s.setCore c v).hotRemove = s.hotRemove := rfl
@[simp] theorem State.setCore_msix (c : Nat) (v : Core) : (s.setCore c v).msix = s.msix := rfl
@[simp] theorem State.setCore_reports (c : Nat) (v : Core) : (s.setCore c v).reports = s.reports := rfl
@[simp] theorem State.setCore_latched (c : Nat) (v : Core) : (s.setCore c v).latched = s.latched := rfl
@[simp] theorem State.setCore_latchedClk (c : Nat) (v : Core) : (s.setCore c v).latchedClk = s.latchedClk := rfl
@[simp] theorem State.setCore_window (c : Nat) (v : Core) : (s.setCore c v).window = s.window := rfl

/-! ### State.modCore -/

@[simp] theorem State.modCore_schedule (c : Nat) (f : Core → Core) : (s.modCore c f).schedule = s.schedule := rfl
@[simp] theorem State.modCore_choice (c : Nat) (f : Core → Core) : (s.modCore c f).choice = s.choice := rfl
@[simp] theorem State.modCore_nextUid (c : Nat) (f : Core → Core) : (s.modCore c f).nextUid = s.nextUid := rfl
@[simp] theorem State.modCore_group (c : Nat) (f : Core → Core) : (s.modCore c f).group = s.group := rfl
@[simp] theorem State.modCore_command (c : Nat) (f : Core → Core) : (s.modCore c f).command = s.command := rfl
@[simp] theorem State.modCore_tb (c : Nat) (f : Core → Core) : (s.modCore c f).tb = s.tb := rfl
@[simp] theorem State.modCore_clk (c : Nat) (f : Core → Core) : (s.modCore c f).clk = s.clk := rfl
@[simp] theorem State.modCore_boot (c : Nat) (f : Core → Core) : (s.modCore c f).boot = s.boot := rfl
@[simp] theorem State.modCore_bootStatus (c : Nat) (f : Core → Core) : (s.modCore c f).bootStatus = s.bootStatus := rfl
@[simp] theorem State.modCore_firmware (c : Nat) (f : Core → Core) : (s.modCore c f).firmware = s.firmware := rfl
@[simp] theorem State.modCore_vendorKey (c : Nat) (f : Core → Core) : (s.modCore c f).vendorKey = s.vendorKey := rfl
@[simp] theorem State.modCore_fuseKey (c : Nat) (f : Core → Core) : (s.modCore c f).fuseKey = s.fuseKey := rfl
@[simp] theorem State.modCore_fuseVersions (c : Nat) (f : Core → Core) : (s.modCore c f).fuseVersions = s.fuseVersions := rfl
@[simp] theorem State.modCore_measurements (c : Nat) (f : Core → Core) : (s.modCore c f).measurements = s.measurements := rfl
@[simp] theorem State.modCore_signatures (c : Nat) (f : Core → Core) : (s.modCore c f).signatures = s.signatures := rfl
@[simp] theorem State.modCore_hbm (c : Nat) (f : Core → Core) : (s.modCore c f).hbm = s.hbm := rfl
@[simp] theorem State.modCore_lp (c : Nat) (f : Core → Core) : (s.modCore c f).lp = s.lp := rfl
@[simp] theorem State.modCore_weight (c : Nat) (f : Core → Core) : (s.modCore c f).weight = s.weight := rfl
@[simp] theorem State.modCore_link (c : Nat) (f : Core → Core) : (s.modCore c f).link = s.link := rfl
@[simp] theorem State.modCore_memFaults (c : Nat) (f : Core → Core) : (s.modCore c f).memFaults = s.memFaults := rfl
@[simp] theorem State.modCore_poison (c : Nat) (f : Core → Core) : (s.modCore c f).poison = s.poison := rfl
@[simp] theorem State.modCore_parcels (c : Nat) (f : Core → Core) : (s.modCore c f).parcels = s.parcels := rfl
@[simp] theorem State.modCore_launches (c : Nat) (f : Core → Core) : (s.modCore c f).launches = s.launches := rfl
@[simp] theorem State.modCore_ctxs (c : Nat) (f : Core → Core) : (s.modCore c f).ctxs = s.ctxs := rfl
@[simp] theorem State.modCore_regions (c : Nat) (f : Core → Core) : (s.modCore c f).regions = s.regions := rfl
@[simp] theorem State.modCore_slices (c : Nat) (f : Core → Core) : (s.modCore c f).slices = s.slices := rfl
@[simp] theorem State.modCore_circle (c : Nat) (f : Core → Core) : (s.modCore c f).circle = s.circle := rfl
@[simp] theorem State.modCore_replies (c : Nat) (f : Core → Core) : (s.modCore c f).replies = s.replies := rfl
@[simp] theorem State.modCore_nodes (c : Nat) (f : Core → Core) : (s.modCore c f).nodes = s.nodes := rfl
@[simp] theorem State.modCore_routes (c : Nat) (f : Core → Core) : (s.modCore c f).routes = s.routes := rfl
@[simp] theorem State.modCore_migrations (c : Nat) (f : Core → Core) : (s.modCore c f).migrations = s.migrations := rfl
@[simp] theorem State.modCore_bases (c : Nat) (f : Core → Core) : (s.modCore c f).bases = s.bases := rfl
@[simp] theorem State.modCore_steals (c : Nat) (f : Core → Core) : (s.modCore c f).steals = s.steals := rfl
@[simp] theorem State.modCore_linksDown (c : Nat) (f : Core → Core) : (s.modCore c f).linksDown = s.linksDown := rfl
@[simp] theorem State.modCore_chips (c : Nat) (f : Core → Core) : (s.modCore c f).chips = s.chips := rfl
@[simp] theorem State.modCore_msixTable (c : Nat) (f : Core → Core) : (s.modCore c f).msixTable = s.msixTable := rfl
@[simp] theorem State.modCore_touched (c : Nat) (f : Core → Core) : (s.modCore c f).touched = s.touched := rfl
@[simp] theorem State.modCore_images (c : Nat) (f : Core → Core) : (s.modCore c f).images = s.images := rfl
@[simp] theorem State.modCore_lanesDown (c : Nat) (f : Core → Core) : (s.modCore c f).lanesDown = s.lanesDown := rfl
@[simp] theorem State.modCore_tests (c : Nat) (f : Core → Core) : (s.modCore c f).tests = s.tests := rfl
@[simp] theorem State.modCore_errorRing (c : Nat) (f : Core → Core) : (s.modCore c f).errorRing = s.errorRing := rfl
@[simp] theorem State.modCore_hotRemove (c : Nat) (f : Core → Core) : (s.modCore c f).hotRemove = s.hotRemove := rfl
@[simp] theorem State.modCore_msix (c : Nat) (f : Core → Core) : (s.modCore c f).msix = s.msix := rfl
@[simp] theorem State.modCore_reports (c : Nat) (f : Core → Core) : (s.modCore c f).reports = s.reports := rfl
@[simp] theorem State.modCore_latched (c : Nat) (f : Core → Core) : (s.modCore c f).latched = s.latched := rfl
@[simp] theorem State.modCore_latchedClk (c : Nat) (f : Core → Core) : (s.modCore c f).latchedClk = s.latchedClk := rfl
@[simp] theorem State.modCore_window (c : Nat) (f : Core → Core) : (s.modCore c f).window = s.window := rfl

/-! ### State.modParcel -/

@[simp] theorem State.modParcel_schedule (k : PKey) (f : Parcel → Parcel) : (s.modParcel k f).schedule = s.schedule := rfl
@[simp] theorem State.modParcel_choice (k : PKey) (f : Parcel → Parcel) : (s.modParcel k f).choice = s.choice := rfl
@[simp] theorem State.modParcel_nextUid (k : PKey) (f : Parcel → Parcel) : (s.modParcel k f).nextUid = s.nextUid := rfl
@[simp] theorem State.modParcel_group (k : PKey) (f : Parcel → Parcel) : (s.modParcel k f).group = s.group := rfl
@[simp] theorem State.modParcel_command (k : PKey) (f : Parcel → Parcel) : (s.modParcel k f).command = s.command := rfl
@[simp] theorem State.modParcel_tb (k : PKey) (f : Parcel → Parcel) : (s.modParcel k f).tb = s.tb := rfl
@[simp] theorem State.modParcel_clk (k : PKey) (f : Parcel → Parcel) : (s.modParcel k f).clk = s.clk := rfl
@[simp] theorem State.modParcel_boot (k : PKey) (f : Parcel → Parcel) : (s.modParcel k f).boot = s.boot := rfl
@[simp] theorem State.modParcel_bootStatus (k : PKey) (f : Parcel → Parcel) : (s.modParcel k f).bootStatus = s.bootStatus := rfl
@[simp] theorem State.modParcel_firmware (k : PKey) (f : Parcel → Parcel) : (s.modParcel k f).firmware = s.firmware := rfl
@[simp] theorem State.modParcel_vendorKey (k : PKey) (f : Parcel → Parcel) : (s.modParcel k f).vendorKey = s.vendorKey := rfl
@[simp] theorem State.modParcel_fuseKey (k : PKey) (f : Parcel → Parcel) : (s.modParcel k f).fuseKey = s.fuseKey := rfl
@[simp] theorem State.modParcel_fuseVersions (k : PKey) (f : Parcel → Parcel) : (s.modParcel k f).fuseVersions = s.fuseVersions := rfl
@[simp] theorem State.modParcel_measurements (k : PKey) (f : Parcel → Parcel) : (s.modParcel k f).measurements = s.measurements := rfl
@[simp] theorem State.modParcel_signatures (k : PKey) (f : Parcel → Parcel) : (s.modParcel k f).signatures = s.signatures := rfl
@[simp] theorem State.modParcel_hbm (k : PKey) (f : Parcel → Parcel) : (s.modParcel k f).hbm = s.hbm := rfl
@[simp] theorem State.modParcel_lp (k : PKey) (f : Parcel → Parcel) : (s.modParcel k f).lp = s.lp := rfl
@[simp] theorem State.modParcel_weight (k : PKey) (f : Parcel → Parcel) : (s.modParcel k f).weight = s.weight := rfl
@[simp] theorem State.modParcel_link (k : PKey) (f : Parcel → Parcel) : (s.modParcel k f).link = s.link := rfl
@[simp] theorem State.modParcel_memFaults (k : PKey) (f : Parcel → Parcel) : (s.modParcel k f).memFaults = s.memFaults := rfl
@[simp] theorem State.modParcel_poison (k : PKey) (f : Parcel → Parcel) : (s.modParcel k f).poison = s.poison := rfl
@[simp] theorem State.modParcel_launches (k : PKey) (f : Parcel → Parcel) : (s.modParcel k f).launches = s.launches := rfl
@[simp] theorem State.modParcel_ctxs (k : PKey) (f : Parcel → Parcel) : (s.modParcel k f).ctxs = s.ctxs := rfl
@[simp] theorem State.modParcel_cores (k : PKey) (f : Parcel → Parcel) : (s.modParcel k f).cores = s.cores := rfl
@[simp] theorem State.modParcel_regions (k : PKey) (f : Parcel → Parcel) : (s.modParcel k f).regions = s.regions := rfl
@[simp] theorem State.modParcel_slices (k : PKey) (f : Parcel → Parcel) : (s.modParcel k f).slices = s.slices := rfl
@[simp] theorem State.modParcel_circle (k : PKey) (f : Parcel → Parcel) : (s.modParcel k f).circle = s.circle := rfl
@[simp] theorem State.modParcel_replies (k : PKey) (f : Parcel → Parcel) : (s.modParcel k f).replies = s.replies := rfl
@[simp] theorem State.modParcel_nodes (k : PKey) (f : Parcel → Parcel) : (s.modParcel k f).nodes = s.nodes := rfl
@[simp] theorem State.modParcel_routes (k : PKey) (f : Parcel → Parcel) : (s.modParcel k f).routes = s.routes := rfl
@[simp] theorem State.modParcel_migrations (k : PKey) (f : Parcel → Parcel) : (s.modParcel k f).migrations = s.migrations := rfl
@[simp] theorem State.modParcel_bases (k : PKey) (f : Parcel → Parcel) : (s.modParcel k f).bases = s.bases := rfl
@[simp] theorem State.modParcel_steals (k : PKey) (f : Parcel → Parcel) : (s.modParcel k f).steals = s.steals := rfl
@[simp] theorem State.modParcel_linksDown (k : PKey) (f : Parcel → Parcel) : (s.modParcel k f).linksDown = s.linksDown := rfl
@[simp] theorem State.modParcel_chips (k : PKey) (f : Parcel → Parcel) : (s.modParcel k f).chips = s.chips := rfl
@[simp] theorem State.modParcel_msixTable (k : PKey) (f : Parcel → Parcel) : (s.modParcel k f).msixTable = s.msixTable := rfl
@[simp] theorem State.modParcel_touched (k : PKey) (f : Parcel → Parcel) : (s.modParcel k f).touched = s.touched := rfl
@[simp] theorem State.modParcel_images (k : PKey) (f : Parcel → Parcel) : (s.modParcel k f).images = s.images := rfl
@[simp] theorem State.modParcel_lanesDown (k : PKey) (f : Parcel → Parcel) : (s.modParcel k f).lanesDown = s.lanesDown := rfl
@[simp] theorem State.modParcel_tests (k : PKey) (f : Parcel → Parcel) : (s.modParcel k f).tests = s.tests := rfl
@[simp] theorem State.modParcel_errorRing (k : PKey) (f : Parcel → Parcel) : (s.modParcel k f).errorRing = s.errorRing := rfl
@[simp] theorem State.modParcel_hotRemove (k : PKey) (f : Parcel → Parcel) : (s.modParcel k f).hotRemove = s.hotRemove := rfl
@[simp] theorem State.modParcel_msix (k : PKey) (f : Parcel → Parcel) : (s.modParcel k f).msix = s.msix := rfl
@[simp] theorem State.modParcel_reports (k : PKey) (f : Parcel → Parcel) : (s.modParcel k f).reports = s.reports := rfl
@[simp] theorem State.modParcel_latched (k : PKey) (f : Parcel → Parcel) : (s.modParcel k f).latched = s.latched := rfl
@[simp] theorem State.modParcel_latchedClk (k : PKey) (f : Parcel → Parcel) : (s.modParcel k f).latchedClk = s.latchedClk := rfl
@[simp] theorem State.modParcel_window (k : PKey) (f : Parcel → Parcel) : (s.modParcel k f).window = s.window := rfl

/-! ### State.modThread -/

@[simp] theorem State.modThread_schedule (k : PKey) (x : Nat) (f : Thread → Thread) : (s.modThread k x f).schedule = s.schedule := rfl
@[simp] theorem State.modThread_choice (k : PKey) (x : Nat) (f : Thread → Thread) : (s.modThread k x f).choice = s.choice := rfl
@[simp] theorem State.modThread_nextUid (k : PKey) (x : Nat) (f : Thread → Thread) : (s.modThread k x f).nextUid = s.nextUid := rfl
@[simp] theorem State.modThread_group (k : PKey) (x : Nat) (f : Thread → Thread) : (s.modThread k x f).group = s.group := rfl
@[simp] theorem State.modThread_command (k : PKey) (x : Nat) (f : Thread → Thread) : (s.modThread k x f).command = s.command := rfl
@[simp] theorem State.modThread_tb (k : PKey) (x : Nat) (f : Thread → Thread) : (s.modThread k x f).tb = s.tb := rfl
@[simp] theorem State.modThread_clk (k : PKey) (x : Nat) (f : Thread → Thread) : (s.modThread k x f).clk = s.clk := rfl
@[simp] theorem State.modThread_boot (k : PKey) (x : Nat) (f : Thread → Thread) : (s.modThread k x f).boot = s.boot := rfl
@[simp] theorem State.modThread_bootStatus (k : PKey) (x : Nat) (f : Thread → Thread) : (s.modThread k x f).bootStatus = s.bootStatus := rfl
@[simp] theorem State.modThread_firmware (k : PKey) (x : Nat) (f : Thread → Thread) : (s.modThread k x f).firmware = s.firmware := rfl
@[simp] theorem State.modThread_vendorKey (k : PKey) (x : Nat) (f : Thread → Thread) : (s.modThread k x f).vendorKey = s.vendorKey := rfl
@[simp] theorem State.modThread_fuseKey (k : PKey) (x : Nat) (f : Thread → Thread) : (s.modThread k x f).fuseKey = s.fuseKey := rfl
@[simp] theorem State.modThread_fuseVersions (k : PKey) (x : Nat) (f : Thread → Thread) : (s.modThread k x f).fuseVersions = s.fuseVersions := rfl
@[simp] theorem State.modThread_measurements (k : PKey) (x : Nat) (f : Thread → Thread) : (s.modThread k x f).measurements = s.measurements := rfl
@[simp] theorem State.modThread_signatures (k : PKey) (x : Nat) (f : Thread → Thread) : (s.modThread k x f).signatures = s.signatures := rfl
@[simp] theorem State.modThread_hbm (k : PKey) (x : Nat) (f : Thread → Thread) : (s.modThread k x f).hbm = s.hbm := rfl
@[simp] theorem State.modThread_lp (k : PKey) (x : Nat) (f : Thread → Thread) : (s.modThread k x f).lp = s.lp := rfl
@[simp] theorem State.modThread_weight (k : PKey) (x : Nat) (f : Thread → Thread) : (s.modThread k x f).weight = s.weight := rfl
@[simp] theorem State.modThread_link (k : PKey) (x : Nat) (f : Thread → Thread) : (s.modThread k x f).link = s.link := rfl
@[simp] theorem State.modThread_memFaults (k : PKey) (x : Nat) (f : Thread → Thread) : (s.modThread k x f).memFaults = s.memFaults := rfl
@[simp] theorem State.modThread_poison (k : PKey) (x : Nat) (f : Thread → Thread) : (s.modThread k x f).poison = s.poison := rfl
@[simp] theorem State.modThread_launches (k : PKey) (x : Nat) (f : Thread → Thread) : (s.modThread k x f).launches = s.launches := rfl
@[simp] theorem State.modThread_ctxs (k : PKey) (x : Nat) (f : Thread → Thread) : (s.modThread k x f).ctxs = s.ctxs := rfl
@[simp] theorem State.modThread_cores (k : PKey) (x : Nat) (f : Thread → Thread) : (s.modThread k x f).cores = s.cores := rfl
@[simp] theorem State.modThread_regions (k : PKey) (x : Nat) (f : Thread → Thread) : (s.modThread k x f).regions = s.regions := rfl
@[simp] theorem State.modThread_slices (k : PKey) (x : Nat) (f : Thread → Thread) : (s.modThread k x f).slices = s.slices := rfl
@[simp] theorem State.modThread_circle (k : PKey) (x : Nat) (f : Thread → Thread) : (s.modThread k x f).circle = s.circle := rfl
@[simp] theorem State.modThread_replies (k : PKey) (x : Nat) (f : Thread → Thread) : (s.modThread k x f).replies = s.replies := rfl
@[simp] theorem State.modThread_nodes (k : PKey) (x : Nat) (f : Thread → Thread) : (s.modThread k x f).nodes = s.nodes := rfl
@[simp] theorem State.modThread_routes (k : PKey) (x : Nat) (f : Thread → Thread) : (s.modThread k x f).routes = s.routes := rfl
@[simp] theorem State.modThread_migrations (k : PKey) (x : Nat) (f : Thread → Thread) : (s.modThread k x f).migrations = s.migrations := rfl
@[simp] theorem State.modThread_bases (k : PKey) (x : Nat) (f : Thread → Thread) : (s.modThread k x f).bases = s.bases := rfl
@[simp] theorem State.modThread_steals (k : PKey) (x : Nat) (f : Thread → Thread) : (s.modThread k x f).steals = s.steals := rfl
@[simp] theorem State.modThread_linksDown (k : PKey) (x : Nat) (f : Thread → Thread) : (s.modThread k x f).linksDown = s.linksDown := rfl
@[simp] theorem State.modThread_chips (k : PKey) (x : Nat) (f : Thread → Thread) : (s.modThread k x f).chips = s.chips := rfl
@[simp] theorem State.modThread_msixTable (k : PKey) (x : Nat) (f : Thread → Thread) : (s.modThread k x f).msixTable = s.msixTable := rfl
@[simp] theorem State.modThread_touched (k : PKey) (x : Nat) (f : Thread → Thread) : (s.modThread k x f).touched = s.touched := rfl
@[simp] theorem State.modThread_images (k : PKey) (x : Nat) (f : Thread → Thread) : (s.modThread k x f).images = s.images := rfl
@[simp] theorem State.modThread_lanesDown (k : PKey) (x : Nat) (f : Thread → Thread) : (s.modThread k x f).lanesDown = s.lanesDown := rfl
@[simp] theorem State.modThread_tests (k : PKey) (x : Nat) (f : Thread → Thread) : (s.modThread k x f).tests = s.tests := rfl
@[simp] theorem State.modThread_errorRing (k : PKey) (x : Nat) (f : Thread → Thread) : (s.modThread k x f).errorRing = s.errorRing := rfl
@[simp] theorem State.modThread_hotRemove (k : PKey) (x : Nat) (f : Thread → Thread) : (s.modThread k x f).hotRemove = s.hotRemove := rfl
@[simp] theorem State.modThread_msix (k : PKey) (x : Nat) (f : Thread → Thread) : (s.modThread k x f).msix = s.msix := rfl
@[simp] theorem State.modThread_reports (k : PKey) (x : Nat) (f : Thread → Thread) : (s.modThread k x f).reports = s.reports := rfl
@[simp] theorem State.modThread_latched (k : PKey) (x : Nat) (f : Thread → Thread) : (s.modThread k x f).latched = s.latched := rfl
@[simp] theorem State.modThread_latchedClk (k : PKey) (x : Nat) (f : Thread → Thread) : (s.modThread k x f).latchedClk = s.latchedClk := rfl
@[simp] theorem State.modThread_window (k : PKey) (x : Nat) (f : Thread → Thread) : (s.modThread k x f).window = s.window := rfl

/-! ### State.modLaunch -/

@[simp] theorem State.modLaunch_schedule (l : LKey) (f : Launch → Launch) : (s.modLaunch l f).schedule = s.schedule := rfl
@[simp] theorem State.modLaunch_choice (l : LKey) (f : Launch → Launch) : (s.modLaunch l f).choice = s.choice := rfl
@[simp] theorem State.modLaunch_nextUid (l : LKey) (f : Launch → Launch) : (s.modLaunch l f).nextUid = s.nextUid := rfl
@[simp] theorem State.modLaunch_group (l : LKey) (f : Launch → Launch) : (s.modLaunch l f).group = s.group := rfl
@[simp] theorem State.modLaunch_command (l : LKey) (f : Launch → Launch) : (s.modLaunch l f).command = s.command := rfl
@[simp] theorem State.modLaunch_tb (l : LKey) (f : Launch → Launch) : (s.modLaunch l f).tb = s.tb := rfl
@[simp] theorem State.modLaunch_clk (l : LKey) (f : Launch → Launch) : (s.modLaunch l f).clk = s.clk := rfl
@[simp] theorem State.modLaunch_boot (l : LKey) (f : Launch → Launch) : (s.modLaunch l f).boot = s.boot := rfl
@[simp] theorem State.modLaunch_bootStatus (l : LKey) (f : Launch → Launch) : (s.modLaunch l f).bootStatus = s.bootStatus := rfl
@[simp] theorem State.modLaunch_firmware (l : LKey) (f : Launch → Launch) : (s.modLaunch l f).firmware = s.firmware := rfl
@[simp] theorem State.modLaunch_vendorKey (l : LKey) (f : Launch → Launch) : (s.modLaunch l f).vendorKey = s.vendorKey := rfl
@[simp] theorem State.modLaunch_fuseKey (l : LKey) (f : Launch → Launch) : (s.modLaunch l f).fuseKey = s.fuseKey := rfl
@[simp] theorem State.modLaunch_fuseVersions (l : LKey) (f : Launch → Launch) : (s.modLaunch l f).fuseVersions = s.fuseVersions := rfl
@[simp] theorem State.modLaunch_measurements (l : LKey) (f : Launch → Launch) : (s.modLaunch l f).measurements = s.measurements := rfl
@[simp] theorem State.modLaunch_signatures (l : LKey) (f : Launch → Launch) : (s.modLaunch l f).signatures = s.signatures := rfl
@[simp] theorem State.modLaunch_hbm (l : LKey) (f : Launch → Launch) : (s.modLaunch l f).hbm = s.hbm := rfl
@[simp] theorem State.modLaunch_lp (l : LKey) (f : Launch → Launch) : (s.modLaunch l f).lp = s.lp := rfl
@[simp] theorem State.modLaunch_weight (l : LKey) (f : Launch → Launch) : (s.modLaunch l f).weight = s.weight := rfl
@[simp] theorem State.modLaunch_link (l : LKey) (f : Launch → Launch) : (s.modLaunch l f).link = s.link := rfl
@[simp] theorem State.modLaunch_memFaults (l : LKey) (f : Launch → Launch) : (s.modLaunch l f).memFaults = s.memFaults := rfl
@[simp] theorem State.modLaunch_poison (l : LKey) (f : Launch → Launch) : (s.modLaunch l f).poison = s.poison := rfl
@[simp] theorem State.modLaunch_parcels (l : LKey) (f : Launch → Launch) : (s.modLaunch l f).parcels = s.parcels := rfl
@[simp] theorem State.modLaunch_ctxs (l : LKey) (f : Launch → Launch) : (s.modLaunch l f).ctxs = s.ctxs := rfl
@[simp] theorem State.modLaunch_cores (l : LKey) (f : Launch → Launch) : (s.modLaunch l f).cores = s.cores := rfl
@[simp] theorem State.modLaunch_regions (l : LKey) (f : Launch → Launch) : (s.modLaunch l f).regions = s.regions := rfl
@[simp] theorem State.modLaunch_slices (l : LKey) (f : Launch → Launch) : (s.modLaunch l f).slices = s.slices := rfl
@[simp] theorem State.modLaunch_circle (l : LKey) (f : Launch → Launch) : (s.modLaunch l f).circle = s.circle := rfl
@[simp] theorem State.modLaunch_replies (l : LKey) (f : Launch → Launch) : (s.modLaunch l f).replies = s.replies := rfl
@[simp] theorem State.modLaunch_nodes (l : LKey) (f : Launch → Launch) : (s.modLaunch l f).nodes = s.nodes := rfl
@[simp] theorem State.modLaunch_routes (l : LKey) (f : Launch → Launch) : (s.modLaunch l f).routes = s.routes := rfl
@[simp] theorem State.modLaunch_migrations (l : LKey) (f : Launch → Launch) : (s.modLaunch l f).migrations = s.migrations := rfl
@[simp] theorem State.modLaunch_bases (l : LKey) (f : Launch → Launch) : (s.modLaunch l f).bases = s.bases := rfl
@[simp] theorem State.modLaunch_steals (l : LKey) (f : Launch → Launch) : (s.modLaunch l f).steals = s.steals := rfl
@[simp] theorem State.modLaunch_linksDown (l : LKey) (f : Launch → Launch) : (s.modLaunch l f).linksDown = s.linksDown := rfl
@[simp] theorem State.modLaunch_chips (l : LKey) (f : Launch → Launch) : (s.modLaunch l f).chips = s.chips := rfl
@[simp] theorem State.modLaunch_msixTable (l : LKey) (f : Launch → Launch) : (s.modLaunch l f).msixTable = s.msixTable := rfl
@[simp] theorem State.modLaunch_touched (l : LKey) (f : Launch → Launch) : (s.modLaunch l f).touched = s.touched := rfl
@[simp] theorem State.modLaunch_images (l : LKey) (f : Launch → Launch) : (s.modLaunch l f).images = s.images := rfl
@[simp] theorem State.modLaunch_lanesDown (l : LKey) (f : Launch → Launch) : (s.modLaunch l f).lanesDown = s.lanesDown := rfl
@[simp] theorem State.modLaunch_tests (l : LKey) (f : Launch → Launch) : (s.modLaunch l f).tests = s.tests := rfl
@[simp] theorem State.modLaunch_errorRing (l : LKey) (f : Launch → Launch) : (s.modLaunch l f).errorRing = s.errorRing := rfl
@[simp] theorem State.modLaunch_hotRemove (l : LKey) (f : Launch → Launch) : (s.modLaunch l f).hotRemove = s.hotRemove := rfl
@[simp] theorem State.modLaunch_msix (l : LKey) (f : Launch → Launch) : (s.modLaunch l f).msix = s.msix := rfl
@[simp] theorem State.modLaunch_reports (l : LKey) (f : Launch → Launch) : (s.modLaunch l f).reports = s.reports := rfl
@[simp] theorem State.modLaunch_latched (l : LKey) (f : Launch → Launch) : (s.modLaunch l f).latched = s.latched := rfl
@[simp] theorem State.modLaunch_latchedClk (l : LKey) (f : Launch → Launch) : (s.modLaunch l f).latchedClk = s.latchedClk := rfl
@[simp] theorem State.modLaunch_window (l : LKey) (f : Launch → Launch) : (s.modLaunch l f).window = s.window := rfl

/-! ### State.modCtx -/

@[simp] theorem State.modCtx_schedule (c : Nat) (f : Ctx → Ctx) : (s.modCtx c f).schedule = s.schedule := rfl
@[simp] theorem State.modCtx_choice (c : Nat) (f : Ctx → Ctx) : (s.modCtx c f).choice = s.choice := rfl
@[simp] theorem State.modCtx_nextUid (c : Nat) (f : Ctx → Ctx) : (s.modCtx c f).nextUid = s.nextUid := rfl
@[simp] theorem State.modCtx_group (c : Nat) (f : Ctx → Ctx) : (s.modCtx c f).group = s.group := rfl
@[simp] theorem State.modCtx_command (c : Nat) (f : Ctx → Ctx) : (s.modCtx c f).command = s.command := rfl
@[simp] theorem State.modCtx_tb (c : Nat) (f : Ctx → Ctx) : (s.modCtx c f).tb = s.tb := rfl
@[simp] theorem State.modCtx_clk (c : Nat) (f : Ctx → Ctx) : (s.modCtx c f).clk = s.clk := rfl
@[simp] theorem State.modCtx_boot (c : Nat) (f : Ctx → Ctx) : (s.modCtx c f).boot = s.boot := rfl
@[simp] theorem State.modCtx_bootStatus (c : Nat) (f : Ctx → Ctx) : (s.modCtx c f).bootStatus = s.bootStatus := rfl
@[simp] theorem State.modCtx_firmware (c : Nat) (f : Ctx → Ctx) : (s.modCtx c f).firmware = s.firmware := rfl
@[simp] theorem State.modCtx_vendorKey (c : Nat) (f : Ctx → Ctx) : (s.modCtx c f).vendorKey = s.vendorKey := rfl
@[simp] theorem State.modCtx_fuseKey (c : Nat) (f : Ctx → Ctx) : (s.modCtx c f).fuseKey = s.fuseKey := rfl
@[simp] theorem State.modCtx_fuseVersions (c : Nat) (f : Ctx → Ctx) : (s.modCtx c f).fuseVersions = s.fuseVersions := rfl
@[simp] theorem State.modCtx_measurements (c : Nat) (f : Ctx → Ctx) : (s.modCtx c f).measurements = s.measurements := rfl
@[simp] theorem State.modCtx_signatures (c : Nat) (f : Ctx → Ctx) : (s.modCtx c f).signatures = s.signatures := rfl
@[simp] theorem State.modCtx_hbm (c : Nat) (f : Ctx → Ctx) : (s.modCtx c f).hbm = s.hbm := rfl
@[simp] theorem State.modCtx_lp (c : Nat) (f : Ctx → Ctx) : (s.modCtx c f).lp = s.lp := rfl
@[simp] theorem State.modCtx_weight (c : Nat) (f : Ctx → Ctx) : (s.modCtx c f).weight = s.weight := rfl
@[simp] theorem State.modCtx_link (c : Nat) (f : Ctx → Ctx) : (s.modCtx c f).link = s.link := rfl
@[simp] theorem State.modCtx_memFaults (c : Nat) (f : Ctx → Ctx) : (s.modCtx c f).memFaults = s.memFaults := rfl
@[simp] theorem State.modCtx_poison (c : Nat) (f : Ctx → Ctx) : (s.modCtx c f).poison = s.poison := rfl
@[simp] theorem State.modCtx_parcels (c : Nat) (f : Ctx → Ctx) : (s.modCtx c f).parcels = s.parcels := rfl
@[simp] theorem State.modCtx_launches (c : Nat) (f : Ctx → Ctx) : (s.modCtx c f).launches = s.launches := rfl
@[simp] theorem State.modCtx_cores (c : Nat) (f : Ctx → Ctx) : (s.modCtx c f).cores = s.cores := rfl
@[simp] theorem State.modCtx_regions (c : Nat) (f : Ctx → Ctx) : (s.modCtx c f).regions = s.regions := rfl
@[simp] theorem State.modCtx_slices (c : Nat) (f : Ctx → Ctx) : (s.modCtx c f).slices = s.slices := rfl
@[simp] theorem State.modCtx_circle (c : Nat) (f : Ctx → Ctx) : (s.modCtx c f).circle = s.circle := rfl
@[simp] theorem State.modCtx_replies (c : Nat) (f : Ctx → Ctx) : (s.modCtx c f).replies = s.replies := rfl
@[simp] theorem State.modCtx_nodes (c : Nat) (f : Ctx → Ctx) : (s.modCtx c f).nodes = s.nodes := rfl
@[simp] theorem State.modCtx_routes (c : Nat) (f : Ctx → Ctx) : (s.modCtx c f).routes = s.routes := rfl
@[simp] theorem State.modCtx_migrations (c : Nat) (f : Ctx → Ctx) : (s.modCtx c f).migrations = s.migrations := rfl
@[simp] theorem State.modCtx_bases (c : Nat) (f : Ctx → Ctx) : (s.modCtx c f).bases = s.bases := rfl
@[simp] theorem State.modCtx_steals (c : Nat) (f : Ctx → Ctx) : (s.modCtx c f).steals = s.steals := rfl
@[simp] theorem State.modCtx_linksDown (c : Nat) (f : Ctx → Ctx) : (s.modCtx c f).linksDown = s.linksDown := rfl
@[simp] theorem State.modCtx_chips (c : Nat) (f : Ctx → Ctx) : (s.modCtx c f).chips = s.chips := rfl
@[simp] theorem State.modCtx_msixTable (c : Nat) (f : Ctx → Ctx) : (s.modCtx c f).msixTable = s.msixTable := rfl
@[simp] theorem State.modCtx_touched (c : Nat) (f : Ctx → Ctx) : (s.modCtx c f).touched = s.touched := rfl
@[simp] theorem State.modCtx_images (c : Nat) (f : Ctx → Ctx) : (s.modCtx c f).images = s.images := rfl
@[simp] theorem State.modCtx_lanesDown (c : Nat) (f : Ctx → Ctx) : (s.modCtx c f).lanesDown = s.lanesDown := rfl
@[simp] theorem State.modCtx_tests (c : Nat) (f : Ctx → Ctx) : (s.modCtx c f).tests = s.tests := rfl
@[simp] theorem State.modCtx_errorRing (c : Nat) (f : Ctx → Ctx) : (s.modCtx c f).errorRing = s.errorRing := rfl
@[simp] theorem State.modCtx_hotRemove (c : Nat) (f : Ctx → Ctx) : (s.modCtx c f).hotRemove = s.hotRemove := rfl
@[simp] theorem State.modCtx_msix (c : Nat) (f : Ctx → Ctx) : (s.modCtx c f).msix = s.msix := rfl
@[simp] theorem State.modCtx_reports (c : Nat) (f : Ctx → Ctx) : (s.modCtx c f).reports = s.reports := rfl
@[simp] theorem State.modCtx_latched (c : Nat) (f : Ctx → Ctx) : (s.modCtx c f).latched = s.latched := rfl
@[simp] theorem State.modCtx_latchedClk (c : Nat) (f : Ctx → Ctx) : (s.modCtx c f).latchedClk = s.latchedClk := rfl
@[simp] theorem State.modCtx_window (c : Nat) (f : Ctx → Ctx) : (s.modCtx c f).window = s.window := rfl

/-! ### State.modBase -/

@[simp] theorem State.modBase_schedule (d : Nat) (f : Base → Base) : (s.modBase d f).schedule = s.schedule := rfl
@[simp] theorem State.modBase_choice (d : Nat) (f : Base → Base) : (s.modBase d f).choice = s.choice := rfl
@[simp] theorem State.modBase_nextUid (d : Nat) (f : Base → Base) : (s.modBase d f).nextUid = s.nextUid := rfl
@[simp] theorem State.modBase_group (d : Nat) (f : Base → Base) : (s.modBase d f).group = s.group := rfl
@[simp] theorem State.modBase_command (d : Nat) (f : Base → Base) : (s.modBase d f).command = s.command := rfl
@[simp] theorem State.modBase_tb (d : Nat) (f : Base → Base) : (s.modBase d f).tb = s.tb := rfl
@[simp] theorem State.modBase_clk (d : Nat) (f : Base → Base) : (s.modBase d f).clk = s.clk := rfl
@[simp] theorem State.modBase_boot (d : Nat) (f : Base → Base) : (s.modBase d f).boot = s.boot := rfl
@[simp] theorem State.modBase_bootStatus (d : Nat) (f : Base → Base) : (s.modBase d f).bootStatus = s.bootStatus := rfl
@[simp] theorem State.modBase_firmware (d : Nat) (f : Base → Base) : (s.modBase d f).firmware = s.firmware := rfl
@[simp] theorem State.modBase_vendorKey (d : Nat) (f : Base → Base) : (s.modBase d f).vendorKey = s.vendorKey := rfl
@[simp] theorem State.modBase_fuseKey (d : Nat) (f : Base → Base) : (s.modBase d f).fuseKey = s.fuseKey := rfl
@[simp] theorem State.modBase_fuseVersions (d : Nat) (f : Base → Base) : (s.modBase d f).fuseVersions = s.fuseVersions := rfl
@[simp] theorem State.modBase_measurements (d : Nat) (f : Base → Base) : (s.modBase d f).measurements = s.measurements := rfl
@[simp] theorem State.modBase_signatures (d : Nat) (f : Base → Base) : (s.modBase d f).signatures = s.signatures := rfl
@[simp] theorem State.modBase_hbm (d : Nat) (f : Base → Base) : (s.modBase d f).hbm = s.hbm := rfl
@[simp] theorem State.modBase_lp (d : Nat) (f : Base → Base) : (s.modBase d f).lp = s.lp := rfl
@[simp] theorem State.modBase_weight (d : Nat) (f : Base → Base) : (s.modBase d f).weight = s.weight := rfl
@[simp] theorem State.modBase_link (d : Nat) (f : Base → Base) : (s.modBase d f).link = s.link := rfl
@[simp] theorem State.modBase_memFaults (d : Nat) (f : Base → Base) : (s.modBase d f).memFaults = s.memFaults := rfl
@[simp] theorem State.modBase_poison (d : Nat) (f : Base → Base) : (s.modBase d f).poison = s.poison := rfl
@[simp] theorem State.modBase_parcels (d : Nat) (f : Base → Base) : (s.modBase d f).parcels = s.parcels := rfl
@[simp] theorem State.modBase_launches (d : Nat) (f : Base → Base) : (s.modBase d f).launches = s.launches := rfl
@[simp] theorem State.modBase_ctxs (d : Nat) (f : Base → Base) : (s.modBase d f).ctxs = s.ctxs := rfl
@[simp] theorem State.modBase_cores (d : Nat) (f : Base → Base) : (s.modBase d f).cores = s.cores := rfl
@[simp] theorem State.modBase_regions (d : Nat) (f : Base → Base) : (s.modBase d f).regions = s.regions := rfl
@[simp] theorem State.modBase_slices (d : Nat) (f : Base → Base) : (s.modBase d f).slices = s.slices := rfl
@[simp] theorem State.modBase_circle (d : Nat) (f : Base → Base) : (s.modBase d f).circle = s.circle := rfl
@[simp] theorem State.modBase_replies (d : Nat) (f : Base → Base) : (s.modBase d f).replies = s.replies := rfl
@[simp] theorem State.modBase_nodes (d : Nat) (f : Base → Base) : (s.modBase d f).nodes = s.nodes := rfl
@[simp] theorem State.modBase_routes (d : Nat) (f : Base → Base) : (s.modBase d f).routes = s.routes := rfl
@[simp] theorem State.modBase_migrations (d : Nat) (f : Base → Base) : (s.modBase d f).migrations = s.migrations := rfl
@[simp] theorem State.modBase_steals (d : Nat) (f : Base → Base) : (s.modBase d f).steals = s.steals := rfl
@[simp] theorem State.modBase_linksDown (d : Nat) (f : Base → Base) : (s.modBase d f).linksDown = s.linksDown := rfl
@[simp] theorem State.modBase_chips (d : Nat) (f : Base → Base) : (s.modBase d f).chips = s.chips := rfl
@[simp] theorem State.modBase_msixTable (d : Nat) (f : Base → Base) : (s.modBase d f).msixTable = s.msixTable := rfl
@[simp] theorem State.modBase_touched (d : Nat) (f : Base → Base) : (s.modBase d f).touched = s.touched := rfl
@[simp] theorem State.modBase_images (d : Nat) (f : Base → Base) : (s.modBase d f).images = s.images := rfl
@[simp] theorem State.modBase_lanesDown (d : Nat) (f : Base → Base) : (s.modBase d f).lanesDown = s.lanesDown := rfl
@[simp] theorem State.modBase_tests (d : Nat) (f : Base → Base) : (s.modBase d f).tests = s.tests := rfl
@[simp] theorem State.modBase_errorRing (d : Nat) (f : Base → Base) : (s.modBase d f).errorRing = s.errorRing := rfl
@[simp] theorem State.modBase_hotRemove (d : Nat) (f : Base → Base) : (s.modBase d f).hotRemove = s.hotRemove := rfl
@[simp] theorem State.modBase_msix (d : Nat) (f : Base → Base) : (s.modBase d f).msix = s.msix := rfl
@[simp] theorem State.modBase_reports (d : Nat) (f : Base → Base) : (s.modBase d f).reports = s.reports := rfl
@[simp] theorem State.modBase_latched (d : Nat) (f : Base → Base) : (s.modBase d f).latched = s.latched := rfl
@[simp] theorem State.modBase_latchedClk (d : Nat) (f : Base → Base) : (s.modBase d f).latchedClk = s.latchedClk := rfl
@[simp] theorem State.modBase_window (d : Nat) (f : Base → Base) : (s.modBase d f).window = s.window := rfl

/-! ### State.modSlice -/

@[simp] theorem State.modSlice_schedule (n : Nat) (f : Slice → Slice) : (s.modSlice n f).schedule = s.schedule := rfl
@[simp] theorem State.modSlice_choice (n : Nat) (f : Slice → Slice) : (s.modSlice n f).choice = s.choice := rfl
@[simp] theorem State.modSlice_nextUid (n : Nat) (f : Slice → Slice) : (s.modSlice n f).nextUid = s.nextUid := rfl
@[simp] theorem State.modSlice_group (n : Nat) (f : Slice → Slice) : (s.modSlice n f).group = s.group := rfl
@[simp] theorem State.modSlice_command (n : Nat) (f : Slice → Slice) : (s.modSlice n f).command = s.command := rfl
@[simp] theorem State.modSlice_tb (n : Nat) (f : Slice → Slice) : (s.modSlice n f).tb = s.tb := rfl
@[simp] theorem State.modSlice_clk (n : Nat) (f : Slice → Slice) : (s.modSlice n f).clk = s.clk := rfl
@[simp] theorem State.modSlice_boot (n : Nat) (f : Slice → Slice) : (s.modSlice n f).boot = s.boot := rfl
@[simp] theorem State.modSlice_bootStatus (n : Nat) (f : Slice → Slice) : (s.modSlice n f).bootStatus = s.bootStatus := rfl
@[simp] theorem State.modSlice_firmware (n : Nat) (f : Slice → Slice) : (s.modSlice n f).firmware = s.firmware := rfl
@[simp] theorem State.modSlice_vendorKey (n : Nat) (f : Slice → Slice) : (s.modSlice n f).vendorKey = s.vendorKey := rfl
@[simp] theorem State.modSlice_fuseKey (n : Nat) (f : Slice → Slice) : (s.modSlice n f).fuseKey = s.fuseKey := rfl
@[simp] theorem State.modSlice_fuseVersions (n : Nat) (f : Slice → Slice) : (s.modSlice n f).fuseVersions = s.fuseVersions := rfl
@[simp] theorem State.modSlice_measurements (n : Nat) (f : Slice → Slice) : (s.modSlice n f).measurements = s.measurements := rfl
@[simp] theorem State.modSlice_signatures (n : Nat) (f : Slice → Slice) : (s.modSlice n f).signatures = s.signatures := rfl
@[simp] theorem State.modSlice_hbm (n : Nat) (f : Slice → Slice) : (s.modSlice n f).hbm = s.hbm := rfl
@[simp] theorem State.modSlice_lp (n : Nat) (f : Slice → Slice) : (s.modSlice n f).lp = s.lp := rfl
@[simp] theorem State.modSlice_weight (n : Nat) (f : Slice → Slice) : (s.modSlice n f).weight = s.weight := rfl
@[simp] theorem State.modSlice_link (n : Nat) (f : Slice → Slice) : (s.modSlice n f).link = s.link := rfl
@[simp] theorem State.modSlice_memFaults (n : Nat) (f : Slice → Slice) : (s.modSlice n f).memFaults = s.memFaults := rfl
@[simp] theorem State.modSlice_poison (n : Nat) (f : Slice → Slice) : (s.modSlice n f).poison = s.poison := rfl
@[simp] theorem State.modSlice_parcels (n : Nat) (f : Slice → Slice) : (s.modSlice n f).parcels = s.parcels := rfl
@[simp] theorem State.modSlice_launches (n : Nat) (f : Slice → Slice) : (s.modSlice n f).launches = s.launches := rfl
@[simp] theorem State.modSlice_ctxs (n : Nat) (f : Slice → Slice) : (s.modSlice n f).ctxs = s.ctxs := rfl
@[simp] theorem State.modSlice_cores (n : Nat) (f : Slice → Slice) : (s.modSlice n f).cores = s.cores := rfl
@[simp] theorem State.modSlice_regions (n : Nat) (f : Slice → Slice) : (s.modSlice n f).regions = s.regions := rfl
@[simp] theorem State.modSlice_circle (n : Nat) (f : Slice → Slice) : (s.modSlice n f).circle = s.circle := rfl
@[simp] theorem State.modSlice_replies (n : Nat) (f : Slice → Slice) : (s.modSlice n f).replies = s.replies := rfl
@[simp] theorem State.modSlice_nodes (n : Nat) (f : Slice → Slice) : (s.modSlice n f).nodes = s.nodes := rfl
@[simp] theorem State.modSlice_routes (n : Nat) (f : Slice → Slice) : (s.modSlice n f).routes = s.routes := rfl
@[simp] theorem State.modSlice_migrations (n : Nat) (f : Slice → Slice) : (s.modSlice n f).migrations = s.migrations := rfl
@[simp] theorem State.modSlice_bases (n : Nat) (f : Slice → Slice) : (s.modSlice n f).bases = s.bases := rfl
@[simp] theorem State.modSlice_steals (n : Nat) (f : Slice → Slice) : (s.modSlice n f).steals = s.steals := rfl
@[simp] theorem State.modSlice_linksDown (n : Nat) (f : Slice → Slice) : (s.modSlice n f).linksDown = s.linksDown := rfl
@[simp] theorem State.modSlice_chips (n : Nat) (f : Slice → Slice) : (s.modSlice n f).chips = s.chips := rfl
@[simp] theorem State.modSlice_msixTable (n : Nat) (f : Slice → Slice) : (s.modSlice n f).msixTable = s.msixTable := rfl
@[simp] theorem State.modSlice_touched (n : Nat) (f : Slice → Slice) : (s.modSlice n f).touched = s.touched := rfl
@[simp] theorem State.modSlice_images (n : Nat) (f : Slice → Slice) : (s.modSlice n f).images = s.images := rfl
@[simp] theorem State.modSlice_lanesDown (n : Nat) (f : Slice → Slice) : (s.modSlice n f).lanesDown = s.lanesDown := rfl
@[simp] theorem State.modSlice_tests (n : Nat) (f : Slice → Slice) : (s.modSlice n f).tests = s.tests := rfl
@[simp] theorem State.modSlice_errorRing (n : Nat) (f : Slice → Slice) : (s.modSlice n f).errorRing = s.errorRing := rfl
@[simp] theorem State.modSlice_hotRemove (n : Nat) (f : Slice → Slice) : (s.modSlice n f).hotRemove = s.hotRemove := rfl
@[simp] theorem State.modSlice_msix (n : Nat) (f : Slice → Slice) : (s.modSlice n f).msix = s.msix := rfl
@[simp] theorem State.modSlice_reports (n : Nat) (f : Slice → Slice) : (s.modSlice n f).reports = s.reports := rfl
@[simp] theorem State.modSlice_latched (n : Nat) (f : Slice → Slice) : (s.modSlice n f).latched = s.latched := rfl
@[simp] theorem State.modSlice_latchedClk (n : Nat) (f : Slice → Slice) : (s.modSlice n f).latchedClk = s.latchedClk := rfl
@[simp] theorem State.modSlice_window (n : Nat) (f : Slice → Slice) : (s.modSlice n f).window = s.window := rfl

/-! ### State.setDev -/

@[simp] theorem State.setDev_schedule (a n v : Nat) : (s.setDev a n v).schedule = s.schedule := rfl
@[simp] theorem State.setDev_choice (a n v : Nat) : (s.setDev a n v).choice = s.choice := rfl
@[simp] theorem State.setDev_nextUid (a n v : Nat) : (s.setDev a n v).nextUid = s.nextUid := rfl
@[simp] theorem State.setDev_group (a n v : Nat) : (s.setDev a n v).group = s.group := rfl
@[simp] theorem State.setDev_command (a n v : Nat) : (s.setDev a n v).command = s.command := rfl
@[simp] theorem State.setDev_tb (a n v : Nat) : (s.setDev a n v).tb = s.tb := rfl
@[simp] theorem State.setDev_clk (a n v : Nat) : (s.setDev a n v).clk = s.clk := rfl
@[simp] theorem State.setDev_boot (a n v : Nat) : (s.setDev a n v).boot = s.boot := rfl
@[simp] theorem State.setDev_bootStatus (a n v : Nat) : (s.setDev a n v).bootStatus = s.bootStatus := rfl
@[simp] theorem State.setDev_firmware (a n v : Nat) : (s.setDev a n v).firmware = s.firmware := rfl
@[simp] theorem State.setDev_vendorKey (a n v : Nat) : (s.setDev a n v).vendorKey = s.vendorKey := rfl
@[simp] theorem State.setDev_fuseKey (a n v : Nat) : (s.setDev a n v).fuseKey = s.fuseKey := rfl
@[simp] theorem State.setDev_fuseVersions (a n v : Nat) : (s.setDev a n v).fuseVersions = s.fuseVersions := rfl
@[simp] theorem State.setDev_measurements (a n v : Nat) : (s.setDev a n v).measurements = s.measurements := rfl
@[simp] theorem State.setDev_signatures (a n v : Nat) : (s.setDev a n v).signatures = s.signatures := rfl
@[simp] theorem State.setDev_lp (a n v : Nat) : (s.setDev a n v).lp = s.lp := rfl
@[simp] theorem State.setDev_weight (a n v : Nat) : (s.setDev a n v).weight = s.weight := rfl
@[simp] theorem State.setDev_link (a n v : Nat) : (s.setDev a n v).link = s.link := rfl
@[simp] theorem State.setDev_memFaults (a n v : Nat) : (s.setDev a n v).memFaults = s.memFaults := rfl
@[simp] theorem State.setDev_poison (a n v : Nat) : (s.setDev a n v).poison = s.poison := rfl
@[simp] theorem State.setDev_parcels (a n v : Nat) : (s.setDev a n v).parcels = s.parcels := rfl
@[simp] theorem State.setDev_launches (a n v : Nat) : (s.setDev a n v).launches = s.launches := rfl
@[simp] theorem State.setDev_ctxs (a n v : Nat) : (s.setDev a n v).ctxs = s.ctxs := rfl
@[simp] theorem State.setDev_cores (a n v : Nat) : (s.setDev a n v).cores = s.cores := rfl
@[simp] theorem State.setDev_regions (a n v : Nat) : (s.setDev a n v).regions = s.regions := rfl
@[simp] theorem State.setDev_slices (a n v : Nat) : (s.setDev a n v).slices = s.slices := rfl
@[simp] theorem State.setDev_circle (a n v : Nat) : (s.setDev a n v).circle = s.circle := rfl
@[simp] theorem State.setDev_replies (a n v : Nat) : (s.setDev a n v).replies = s.replies := rfl
@[simp] theorem State.setDev_nodes (a n v : Nat) : (s.setDev a n v).nodes = s.nodes := rfl
@[simp] theorem State.setDev_routes (a n v : Nat) : (s.setDev a n v).routes = s.routes := rfl
@[simp] theorem State.setDev_migrations (a n v : Nat) : (s.setDev a n v).migrations = s.migrations := rfl
@[simp] theorem State.setDev_bases (a n v : Nat) : (s.setDev a n v).bases = s.bases := rfl
@[simp] theorem State.setDev_steals (a n v : Nat) : (s.setDev a n v).steals = s.steals := rfl
@[simp] theorem State.setDev_linksDown (a n v : Nat) : (s.setDev a n v).linksDown = s.linksDown := rfl
@[simp] theorem State.setDev_chips (a n v : Nat) : (s.setDev a n v).chips = s.chips := rfl
@[simp] theorem State.setDev_msixTable (a n v : Nat) : (s.setDev a n v).msixTable = s.msixTable := rfl
@[simp] theorem State.setDev_touched (a n v : Nat) : (s.setDev a n v).touched = s.touched := rfl
@[simp] theorem State.setDev_images (a n v : Nat) : (s.setDev a n v).images = s.images := rfl
@[simp] theorem State.setDev_lanesDown (a n v : Nat) : (s.setDev a n v).lanesDown = s.lanesDown := rfl
@[simp] theorem State.setDev_tests (a n v : Nat) : (s.setDev a n v).tests = s.tests := rfl
@[simp] theorem State.setDev_errorRing (a n v : Nat) : (s.setDev a n v).errorRing = s.errorRing := rfl
@[simp] theorem State.setDev_hotRemove (a n v : Nat) : (s.setDev a n v).hotRemove = s.hotRemove := rfl
@[simp] theorem State.setDev_msix (a n v : Nat) : (s.setDev a n v).msix = s.msix := rfl
@[simp] theorem State.setDev_reports (a n v : Nat) : (s.setDev a n v).reports = s.reports := rfl
@[simp] theorem State.setDev_latched (a n v : Nat) : (s.setDev a n v).latched = s.latched := rfl
@[simp] theorem State.setDev_latchedClk (a n v : Nat) : (s.setDev a n v).latchedClk = s.latchedClk := rfl
@[simp] theorem State.setDev_window (a n v : Nat) : (s.setDev a n v).window = s.window := rfl

/-! ### State.noteFreed -/

@[simp] theorem State.noteFreed_schedule (c : Nat) (f : Freed) : (s.noteFreed c f).schedule = s.schedule := rfl
@[simp] theorem State.noteFreed_choice (c : Nat) (f : Freed) : (s.noteFreed c f).choice = s.choice := rfl
@[simp] theorem State.noteFreed_nextUid (c : Nat) (f : Freed) : (s.noteFreed c f).nextUid = s.nextUid := rfl
@[simp] theorem State.noteFreed_group (c : Nat) (f : Freed) : (s.noteFreed c f).group = s.group := rfl
@[simp] theorem State.noteFreed_command (c : Nat) (f : Freed) : (s.noteFreed c f).command = s.command := rfl
@[simp] theorem State.noteFreed_tb (c : Nat) (f : Freed) : (s.noteFreed c f).tb = s.tb := rfl
@[simp] theorem State.noteFreed_clk (c : Nat) (f : Freed) : (s.noteFreed c f).clk = s.clk := rfl
@[simp] theorem State.noteFreed_boot (c : Nat) (f : Freed) : (s.noteFreed c f).boot = s.boot := rfl
@[simp] theorem State.noteFreed_bootStatus (c : Nat) (f : Freed) : (s.noteFreed c f).bootStatus = s.bootStatus := rfl
@[simp] theorem State.noteFreed_firmware (c : Nat) (f : Freed) : (s.noteFreed c f).firmware = s.firmware := rfl
@[simp] theorem State.noteFreed_vendorKey (c : Nat) (f : Freed) : (s.noteFreed c f).vendorKey = s.vendorKey := rfl
@[simp] theorem State.noteFreed_fuseKey (c : Nat) (f : Freed) : (s.noteFreed c f).fuseKey = s.fuseKey := rfl
@[simp] theorem State.noteFreed_fuseVersions (c : Nat) (f : Freed) : (s.noteFreed c f).fuseVersions = s.fuseVersions := rfl
@[simp] theorem State.noteFreed_measurements (c : Nat) (f : Freed) : (s.noteFreed c f).measurements = s.measurements := rfl
@[simp] theorem State.noteFreed_signatures (c : Nat) (f : Freed) : (s.noteFreed c f).signatures = s.signatures := rfl
@[simp] theorem State.noteFreed_hbm (c : Nat) (f : Freed) : (s.noteFreed c f).hbm = s.hbm := rfl
@[simp] theorem State.noteFreed_lp (c : Nat) (f : Freed) : (s.noteFreed c f).lp = s.lp := rfl
@[simp] theorem State.noteFreed_weight (c : Nat) (f : Freed) : (s.noteFreed c f).weight = s.weight := rfl
@[simp] theorem State.noteFreed_link (c : Nat) (f : Freed) : (s.noteFreed c f).link = s.link := rfl
@[simp] theorem State.noteFreed_memFaults (c : Nat) (f : Freed) : (s.noteFreed c f).memFaults = s.memFaults := rfl
@[simp] theorem State.noteFreed_poison (c : Nat) (f : Freed) : (s.noteFreed c f).poison = s.poison := rfl
@[simp] theorem State.noteFreed_parcels (c : Nat) (f : Freed) : (s.noteFreed c f).parcels = s.parcels := rfl
@[simp] theorem State.noteFreed_launches (c : Nat) (f : Freed) : (s.noteFreed c f).launches = s.launches := rfl
@[simp] theorem State.noteFreed_ctxs (c : Nat) (f : Freed) : (s.noteFreed c f).ctxs = s.ctxs := rfl
@[simp] theorem State.noteFreed_regions (c : Nat) (f : Freed) : (s.noteFreed c f).regions = s.regions := rfl
@[simp] theorem State.noteFreed_slices (c : Nat) (f : Freed) : (s.noteFreed c f).slices = s.slices := rfl
@[simp] theorem State.noteFreed_circle (c : Nat) (f : Freed) : (s.noteFreed c f).circle = s.circle := rfl
@[simp] theorem State.noteFreed_replies (c : Nat) (f : Freed) : (s.noteFreed c f).replies = s.replies := rfl
@[simp] theorem State.noteFreed_nodes (c : Nat) (f : Freed) : (s.noteFreed c f).nodes = s.nodes := rfl
@[simp] theorem State.noteFreed_routes (c : Nat) (f : Freed) : (s.noteFreed c f).routes = s.routes := rfl
@[simp] theorem State.noteFreed_migrations (c : Nat) (f : Freed) : (s.noteFreed c f).migrations = s.migrations := rfl
@[simp] theorem State.noteFreed_bases (c : Nat) (f : Freed) : (s.noteFreed c f).bases = s.bases := rfl
@[simp] theorem State.noteFreed_steals (c : Nat) (f : Freed) : (s.noteFreed c f).steals = s.steals := rfl
@[simp] theorem State.noteFreed_linksDown (c : Nat) (f : Freed) : (s.noteFreed c f).linksDown = s.linksDown := rfl
@[simp] theorem State.noteFreed_chips (c : Nat) (f : Freed) : (s.noteFreed c f).chips = s.chips := rfl
@[simp] theorem State.noteFreed_msixTable (c : Nat) (f : Freed) : (s.noteFreed c f).msixTable = s.msixTable := rfl
@[simp] theorem State.noteFreed_touched (c : Nat) (f : Freed) : (s.noteFreed c f).touched = s.touched := rfl
@[simp] theorem State.noteFreed_images (c : Nat) (f : Freed) : (s.noteFreed c f).images = s.images := rfl
@[simp] theorem State.noteFreed_lanesDown (c : Nat) (f : Freed) : (s.noteFreed c f).lanesDown = s.lanesDown := rfl
@[simp] theorem State.noteFreed_tests (c : Nat) (f : Freed) : (s.noteFreed c f).tests = s.tests := rfl
@[simp] theorem State.noteFreed_errorRing (c : Nat) (f : Freed) : (s.noteFreed c f).errorRing = s.errorRing := rfl
@[simp] theorem State.noteFreed_hotRemove (c : Nat) (f : Freed) : (s.noteFreed c f).hotRemove = s.hotRemove := rfl
@[simp] theorem State.noteFreed_msix (c : Nat) (f : Freed) : (s.noteFreed c f).msix = s.msix := rfl
@[simp] theorem State.noteFreed_reports (c : Nat) (f : Freed) : (s.noteFreed c f).reports = s.reports := rfl
@[simp] theorem State.noteFreed_latched (c : Nat) (f : Freed) : (s.noteFreed c f).latched = s.latched := rfl
@[simp] theorem State.noteFreed_latchedClk (c : Nat) (f : Freed) : (s.noteFreed c f).latchedClk = s.latchedClk := rfl
@[simp] theorem State.noteFreed_window (c : Nat) (f : Freed) : (s.noteFreed c f).window = s.window := rfl

/-! ### State.completeOn -/

@[simp] theorem State.completeOn_schedule (c : Nat) (k : PKey) (x e : Nat) (w : CntClass) (m : Nat) (r : Bool) : (s.completeOn c k x e w m r).schedule = s.schedule := rfl
@[simp] theorem State.completeOn_choice (c : Nat) (k : PKey) (x e : Nat) (w : CntClass) (m : Nat) (r : Bool) : (s.completeOn c k x e w m r).choice = s.choice := rfl
@[simp] theorem State.completeOn_nextUid (c : Nat) (k : PKey) (x e : Nat) (w : CntClass) (m : Nat) (r : Bool) : (s.completeOn c k x e w m r).nextUid = s.nextUid := rfl
@[simp] theorem State.completeOn_group (c : Nat) (k : PKey) (x e : Nat) (w : CntClass) (m : Nat) (r : Bool) : (s.completeOn c k x e w m r).group = s.group := rfl
@[simp] theorem State.completeOn_command (c : Nat) (k : PKey) (x e : Nat) (w : CntClass) (m : Nat) (r : Bool) : (s.completeOn c k x e w m r).command = s.command := rfl
@[simp] theorem State.completeOn_tb (c : Nat) (k : PKey) (x e : Nat) (w : CntClass) (m : Nat) (r : Bool) : (s.completeOn c k x e w m r).tb = s.tb := rfl
@[simp] theorem State.completeOn_clk (c : Nat) (k : PKey) (x e : Nat) (w : CntClass) (m : Nat) (r : Bool) : (s.completeOn c k x e w m r).clk = s.clk := rfl
@[simp] theorem State.completeOn_boot (c : Nat) (k : PKey) (x e : Nat) (w : CntClass) (m : Nat) (r : Bool) : (s.completeOn c k x e w m r).boot = s.boot := rfl
@[simp] theorem State.completeOn_bootStatus (c : Nat) (k : PKey) (x e : Nat) (w : CntClass) (m : Nat) (r : Bool) : (s.completeOn c k x e w m r).bootStatus = s.bootStatus := rfl
@[simp] theorem State.completeOn_firmware (c : Nat) (k : PKey) (x e : Nat) (w : CntClass) (m : Nat) (r : Bool) : (s.completeOn c k x e w m r).firmware = s.firmware := rfl
@[simp] theorem State.completeOn_vendorKey (c : Nat) (k : PKey) (x e : Nat) (w : CntClass) (m : Nat) (r : Bool) : (s.completeOn c k x e w m r).vendorKey = s.vendorKey := rfl
@[simp] theorem State.completeOn_fuseKey (c : Nat) (k : PKey) (x e : Nat) (w : CntClass) (m : Nat) (r : Bool) : (s.completeOn c k x e w m r).fuseKey = s.fuseKey := rfl
@[simp] theorem State.completeOn_fuseVersions (c : Nat) (k : PKey) (x e : Nat) (w : CntClass) (m : Nat) (r : Bool) : (s.completeOn c k x e w m r).fuseVersions = s.fuseVersions := rfl
@[simp] theorem State.completeOn_measurements (c : Nat) (k : PKey) (x e : Nat) (w : CntClass) (m : Nat) (r : Bool) : (s.completeOn c k x e w m r).measurements = s.measurements := rfl
@[simp] theorem State.completeOn_signatures (c : Nat) (k : PKey) (x e : Nat) (w : CntClass) (m : Nat) (r : Bool) : (s.completeOn c k x e w m r).signatures = s.signatures := rfl
@[simp] theorem State.completeOn_hbm (c : Nat) (k : PKey) (x e : Nat) (w : CntClass) (m : Nat) (r : Bool) : (s.completeOn c k x e w m r).hbm = s.hbm := rfl
@[simp] theorem State.completeOn_lp (c : Nat) (k : PKey) (x e : Nat) (w : CntClass) (m : Nat) (r : Bool) : (s.completeOn c k x e w m r).lp = s.lp := rfl
@[simp] theorem State.completeOn_weight (c : Nat) (k : PKey) (x e : Nat) (w : CntClass) (m : Nat) (r : Bool) : (s.completeOn c k x e w m r).weight = s.weight := rfl
@[simp] theorem State.completeOn_link (c : Nat) (k : PKey) (x e : Nat) (w : CntClass) (m : Nat) (r : Bool) : (s.completeOn c k x e w m r).link = s.link := rfl
@[simp] theorem State.completeOn_memFaults (c : Nat) (k : PKey) (x e : Nat) (w : CntClass) (m : Nat) (r : Bool) : (s.completeOn c k x e w m r).memFaults = s.memFaults := rfl
@[simp] theorem State.completeOn_poison (c : Nat) (k : PKey) (x e : Nat) (w : CntClass) (m : Nat) (r : Bool) : (s.completeOn c k x e w m r).poison = s.poison := rfl
@[simp] theorem State.completeOn_launches (c : Nat) (k : PKey) (x e : Nat) (w : CntClass) (m : Nat) (r : Bool) : (s.completeOn c k x e w m r).launches = s.launches := rfl
@[simp] theorem State.completeOn_ctxs (c : Nat) (k : PKey) (x e : Nat) (w : CntClass) (m : Nat) (r : Bool) : (s.completeOn c k x e w m r).ctxs = s.ctxs := rfl
@[simp] theorem State.completeOn_regions (c : Nat) (k : PKey) (x e : Nat) (w : CntClass) (m : Nat) (r : Bool) : (s.completeOn c k x e w m r).regions = s.regions := rfl
@[simp] theorem State.completeOn_slices (c : Nat) (k : PKey) (x e : Nat) (w : CntClass) (m : Nat) (r : Bool) : (s.completeOn c k x e w m r).slices = s.slices := rfl
@[simp] theorem State.completeOn_circle (c : Nat) (k : PKey) (x e : Nat) (w : CntClass) (m : Nat) (r : Bool) : (s.completeOn c k x e w m r).circle = s.circle := rfl
@[simp] theorem State.completeOn_replies (c : Nat) (k : PKey) (x e : Nat) (w : CntClass) (m : Nat) (r : Bool) : (s.completeOn c k x e w m r).replies = s.replies := rfl
@[simp] theorem State.completeOn_nodes (c : Nat) (k : PKey) (x e : Nat) (w : CntClass) (m : Nat) (r : Bool) : (s.completeOn c k x e w m r).nodes = s.nodes := rfl
@[simp] theorem State.completeOn_routes (c : Nat) (k : PKey) (x e : Nat) (w : CntClass) (m : Nat) (r : Bool) : (s.completeOn c k x e w m r).routes = s.routes := rfl
@[simp] theorem State.completeOn_migrations (c : Nat) (k : PKey) (x e : Nat) (w : CntClass) (m : Nat) (r : Bool) : (s.completeOn c k x e w m r).migrations = s.migrations := rfl
@[simp] theorem State.completeOn_bases (c : Nat) (k : PKey) (x e : Nat) (w : CntClass) (m : Nat) (r : Bool) : (s.completeOn c k x e w m r).bases = s.bases := rfl
@[simp] theorem State.completeOn_steals (c : Nat) (k : PKey) (x e : Nat) (w : CntClass) (m : Nat) (r : Bool) : (s.completeOn c k x e w m r).steals = s.steals := rfl
@[simp] theorem State.completeOn_linksDown (c : Nat) (k : PKey) (x e : Nat) (w : CntClass) (m : Nat) (r : Bool) : (s.completeOn c k x e w m r).linksDown = s.linksDown := rfl
@[simp] theorem State.completeOn_chips (c : Nat) (k : PKey) (x e : Nat) (w : CntClass) (m : Nat) (r : Bool) : (s.completeOn c k x e w m r).chips = s.chips := rfl
@[simp] theorem State.completeOn_msixTable (c : Nat) (k : PKey) (x e : Nat) (w : CntClass) (m : Nat) (r : Bool) : (s.completeOn c k x e w m r).msixTable = s.msixTable := rfl
@[simp] theorem State.completeOn_touched (c : Nat) (k : PKey) (x e : Nat) (w : CntClass) (m : Nat) (r : Bool) : (s.completeOn c k x e w m r).touched = s.touched := rfl
@[simp] theorem State.completeOn_images (c : Nat) (k : PKey) (x e : Nat) (w : CntClass) (m : Nat) (r : Bool) : (s.completeOn c k x e w m r).images = s.images := rfl
@[simp] theorem State.completeOn_lanesDown (c : Nat) (k : PKey) (x e : Nat) (w : CntClass) (m : Nat) (r : Bool) : (s.completeOn c k x e w m r).lanesDown = s.lanesDown := rfl
@[simp] theorem State.completeOn_tests (c : Nat) (k : PKey) (x e : Nat) (w : CntClass) (m : Nat) (r : Bool) : (s.completeOn c k x e w m r).tests = s.tests := rfl
@[simp] theorem State.completeOn_errorRing (c : Nat) (k : PKey) (x e : Nat) (w : CntClass) (m : Nat) (r : Bool) : (s.completeOn c k x e w m r).errorRing = s.errorRing := rfl
@[simp] theorem State.completeOn_hotRemove (c : Nat) (k : PKey) (x e : Nat) (w : CntClass) (m : Nat) (r : Bool) : (s.completeOn c k x e w m r).hotRemove = s.hotRemove := rfl
@[simp] theorem State.completeOn_msix (c : Nat) (k : PKey) (x e : Nat) (w : CntClass) (m : Nat) (r : Bool) : (s.completeOn c k x e w m r).msix = s.msix := rfl
@[simp] theorem State.completeOn_reports (c : Nat) (k : PKey) (x e : Nat) (w : CntClass) (m : Nat) (r : Bool) : (s.completeOn c k x e w m r).reports = s.reports := rfl
@[simp] theorem State.completeOn_latched (c : Nat) (k : PKey) (x e : Nat) (w : CntClass) (m : Nat) (r : Bool) : (s.completeOn c k x e w m r).latched = s.latched := rfl
@[simp] theorem State.completeOn_latchedClk (c : Nat) (k : PKey) (x e : Nat) (w : CntClass) (m : Nat) (r : Bool) : (s.completeOn c k x e w m r).latchedClk = s.latchedClk := rfl
@[simp] theorem State.completeOn_window (c : Nat) (k : PKey) (x e : Nat) (w : CntClass) (m : Nat) (r : Bool) : (s.completeOn c k x e w m r).window = s.window := rfl

/-! ### State.count -/

@[simp] theorem State.count_schedule (c n k : Nat) : (s.count c n k).schedule = s.schedule := by unfold State.count; split <;> rfl
@[simp] theorem State.count_choice (c n k : Nat) : (s.count c n k).choice = s.choice := by unfold State.count; split <;> rfl
@[simp] theorem State.count_nextUid (c n k : Nat) : (s.count c n k).nextUid = s.nextUid := by unfold State.count; split <;> rfl
@[simp] theorem State.count_group (c n k : Nat) : (s.count c n k).group = s.group := by unfold State.count; split <;> rfl
@[simp] theorem State.count_command (c n k : Nat) : (s.count c n k).command = s.command := by unfold State.count; split <;> rfl
@[simp] theorem State.count_tb (c n k : Nat) : (s.count c n k).tb = s.tb := by unfold State.count; split <;> rfl
@[simp] theorem State.count_clk (c n k : Nat) : (s.count c n k).clk = s.clk := by unfold State.count; split <;> rfl
@[simp] theorem State.count_boot (c n k : Nat) : (s.count c n k).boot = s.boot := by unfold State.count; split <;> rfl
@[simp] theorem State.count_bootStatus (c n k : Nat) : (s.count c n k).bootStatus = s.bootStatus := by unfold State.count; split <;> rfl
@[simp] theorem State.count_firmware (c n k : Nat) : (s.count c n k).firmware = s.firmware := by unfold State.count; split <;> rfl
@[simp] theorem State.count_vendorKey (c n k : Nat) : (s.count c n k).vendorKey = s.vendorKey := by unfold State.count; split <;> rfl
@[simp] theorem State.count_fuseKey (c n k : Nat) : (s.count c n k).fuseKey = s.fuseKey := by unfold State.count; split <;> rfl
@[simp] theorem State.count_fuseVersions (c n k : Nat) : (s.count c n k).fuseVersions = s.fuseVersions := by unfold State.count; split <;> rfl
@[simp] theorem State.count_measurements (c n k : Nat) : (s.count c n k).measurements = s.measurements := by unfold State.count; split <;> rfl
@[simp] theorem State.count_signatures (c n k : Nat) : (s.count c n k).signatures = s.signatures := by unfold State.count; split <;> rfl
@[simp] theorem State.count_hbm (c n k : Nat) : (s.count c n k).hbm = s.hbm := by unfold State.count; split <;> rfl
@[simp] theorem State.count_lp (c n k : Nat) : (s.count c n k).lp = s.lp := by unfold State.count; split <;> rfl
@[simp] theorem State.count_weight (c n k : Nat) : (s.count c n k).weight = s.weight := by unfold State.count; split <;> rfl
@[simp] theorem State.count_link (c n k : Nat) : (s.count c n k).link = s.link := by unfold State.count; split <;> rfl
@[simp] theorem State.count_memFaults (c n k : Nat) : (s.count c n k).memFaults = s.memFaults := by unfold State.count; split <;> rfl
@[simp] theorem State.count_poison (c n k : Nat) : (s.count c n k).poison = s.poison := by unfold State.count; split <;> rfl
@[simp] theorem State.count_parcels (c n k : Nat) : (s.count c n k).parcels = s.parcels := by unfold State.count; split <;> rfl
@[simp] theorem State.count_launches (c n k : Nat) : (s.count c n k).launches = s.launches := by unfold State.count; split <;> rfl
@[simp] theorem State.count_cores (c n k : Nat) : (s.count c n k).cores = s.cores := by unfold State.count; split <;> rfl
@[simp] theorem State.count_regions (c n k : Nat) : (s.count c n k).regions = s.regions := by unfold State.count; split <;> rfl
@[simp] theorem State.count_slices (c n k : Nat) : (s.count c n k).slices = s.slices := by unfold State.count; split <;> rfl
@[simp] theorem State.count_circle (c n k : Nat) : (s.count c n k).circle = s.circle := by unfold State.count; split <;> rfl
@[simp] theorem State.count_replies (c n k : Nat) : (s.count c n k).replies = s.replies := by unfold State.count; split <;> rfl
@[simp] theorem State.count_nodes (c n k : Nat) : (s.count c n k).nodes = s.nodes := by unfold State.count; split <;> rfl
@[simp] theorem State.count_routes (c n k : Nat) : (s.count c n k).routes = s.routes := by unfold State.count; split <;> rfl
@[simp] theorem State.count_migrations (c n k : Nat) : (s.count c n k).migrations = s.migrations := by unfold State.count; split <;> rfl
@[simp] theorem State.count_bases (c n k : Nat) : (s.count c n k).bases = s.bases := by unfold State.count; split <;> rfl
@[simp] theorem State.count_steals (c n k : Nat) : (s.count c n k).steals = s.steals := by unfold State.count; split <;> rfl
@[simp] theorem State.count_linksDown (c n k : Nat) : (s.count c n k).linksDown = s.linksDown := by unfold State.count; split <;> rfl
@[simp] theorem State.count_chips (c n k : Nat) : (s.count c n k).chips = s.chips := by unfold State.count; split <;> rfl
@[simp] theorem State.count_msixTable (c n k : Nat) : (s.count c n k).msixTable = s.msixTable := by unfold State.count; split <;> rfl
@[simp] theorem State.count_touched (c n k : Nat) : (s.count c n k).touched = s.touched := by unfold State.count; split <;> rfl
@[simp] theorem State.count_images (c n k : Nat) : (s.count c n k).images = s.images := by unfold State.count; split <;> rfl
@[simp] theorem State.count_lanesDown (c n k : Nat) : (s.count c n k).lanesDown = s.lanesDown := by unfold State.count; split <;> rfl
@[simp] theorem State.count_tests (c n k : Nat) : (s.count c n k).tests = s.tests := by unfold State.count; split <;> rfl
@[simp] theorem State.count_errorRing (c n k : Nat) : (s.count c n k).errorRing = s.errorRing := by unfold State.count; split <;> rfl
@[simp] theorem State.count_hotRemove (c n k : Nat) : (s.count c n k).hotRemove = s.hotRemove := by unfold State.count; split <;> rfl
@[simp] theorem State.count_msix (c n k : Nat) : (s.count c n k).msix = s.msix := by unfold State.count; split <;> rfl
@[simp] theorem State.count_reports (c n k : Nat) : (s.count c n k).reports = s.reports := by unfold State.count; split <;> rfl
@[simp] theorem State.count_latched (c n k : Nat) : (s.count c n k).latched = s.latched := by unfold State.count; split <;> rfl
@[simp] theorem State.count_latchedClk (c n k : Nat) : (s.count c n k).latchedClk = s.latchedClk := by unfold State.count; split <;> rfl
@[simp] theorem State.count_window (c n k : Nat) : (s.count c n k).window = s.window := by unfold State.count; split <;> rfl

/-! ### State.rolled -/

@[simp] theorem State.rolled_schedule : s.rolled.schedule = s.schedule := by unfold State.rolled; split <;> rfl
@[simp] theorem State.rolled_choice : s.rolled.choice = s.choice := by unfold State.rolled; split <;> rfl
@[simp] theorem State.rolled_nextUid : s.rolled.nextUid = s.nextUid := by unfold State.rolled; split <;> rfl
@[simp] theorem State.rolled_group : s.rolled.group = s.group := by unfold State.rolled; split <;> rfl
@[simp] theorem State.rolled_command : s.rolled.command = s.command := by unfold State.rolled; split <;> rfl
@[simp] theorem State.rolled_tb : s.rolled.tb = s.tb := by unfold State.rolled; split <;> rfl
@[simp] theorem State.rolled_clk : s.rolled.clk = s.clk := by unfold State.rolled; split <;> rfl
@[simp] theorem State.rolled_boot : s.rolled.boot = s.boot := by unfold State.rolled; split <;> rfl
@[simp] theorem State.rolled_bootStatus : s.rolled.bootStatus = s.bootStatus := by unfold State.rolled; split <;> rfl
@[simp] theorem State.rolled_firmware : s.rolled.firmware = s.firmware := by unfold State.rolled; split <;> rfl
@[simp] theorem State.rolled_vendorKey : s.rolled.vendorKey = s.vendorKey := by unfold State.rolled; split <;> rfl
@[simp] theorem State.rolled_fuseKey : s.rolled.fuseKey = s.fuseKey := by unfold State.rolled; split <;> rfl
@[simp] theorem State.rolled_fuseVersions : s.rolled.fuseVersions = s.fuseVersions := by unfold State.rolled; split <;> rfl
@[simp] theorem State.rolled_measurements : s.rolled.measurements = s.measurements := by unfold State.rolled; split <;> rfl
@[simp] theorem State.rolled_signatures : s.rolled.signatures = s.signatures := by unfold State.rolled; split <;> rfl
@[simp] theorem State.rolled_hbm : s.rolled.hbm = s.hbm := by unfold State.rolled; split <;> rfl
@[simp] theorem State.rolled_lp : s.rolled.lp = s.lp := by unfold State.rolled; split <;> rfl
@[simp] theorem State.rolled_weight : s.rolled.weight = s.weight := by unfold State.rolled; split <;> rfl
@[simp] theorem State.rolled_link : s.rolled.link = s.link := by unfold State.rolled; split <;> rfl
@[simp] theorem State.rolled_memFaults : s.rolled.memFaults = s.memFaults := by unfold State.rolled; split <;> rfl
@[simp] theorem State.rolled_poison : s.rolled.poison = s.poison := by unfold State.rolled; split <;> rfl
@[simp] theorem State.rolled_parcels : s.rolled.parcels = s.parcels := by unfold State.rolled; split <;> rfl
@[simp] theorem State.rolled_launches : s.rolled.launches = s.launches := by unfold State.rolled; split <;> rfl
@[simp] theorem State.rolled_cores : s.rolled.cores = s.cores := by unfold State.rolled; split <;> rfl
@[simp] theorem State.rolled_regions : s.rolled.regions = s.regions := by unfold State.rolled; split <;> rfl
@[simp] theorem State.rolled_slices : s.rolled.slices = s.slices := by unfold State.rolled; split <;> rfl
@[simp] theorem State.rolled_circle : s.rolled.circle = s.circle := by unfold State.rolled; split <;> rfl
@[simp] theorem State.rolled_replies : s.rolled.replies = s.replies := by unfold State.rolled; split <;> rfl
@[simp] theorem State.rolled_nodes : s.rolled.nodes = s.nodes := by unfold State.rolled; split <;> rfl
@[simp] theorem State.rolled_routes : s.rolled.routes = s.routes := by unfold State.rolled; split <;> rfl
@[simp] theorem State.rolled_migrations : s.rolled.migrations = s.migrations := by unfold State.rolled; split <;> rfl
@[simp] theorem State.rolled_bases : s.rolled.bases = s.bases := by unfold State.rolled; split <;> rfl
@[simp] theorem State.rolled_steals : s.rolled.steals = s.steals := by unfold State.rolled; split <;> rfl
@[simp] theorem State.rolled_linksDown : s.rolled.linksDown = s.linksDown := by unfold State.rolled; split <;> rfl
@[simp] theorem State.rolled_chips : s.rolled.chips = s.chips := by unfold State.rolled; split <;> rfl
@[simp] theorem State.rolled_msixTable : s.rolled.msixTable = s.msixTable := by unfold State.rolled; split <;> rfl
@[simp] theorem State.rolled_touched : s.rolled.touched = s.touched := by unfold State.rolled; split <;> rfl
@[simp] theorem State.rolled_images : s.rolled.images = s.images := by unfold State.rolled; split <;> rfl
@[simp] theorem State.rolled_lanesDown : s.rolled.lanesDown = s.lanesDown := by unfold State.rolled; split <;> rfl
@[simp] theorem State.rolled_tests : s.rolled.tests = s.tests := by unfold State.rolled; split <;> rfl
@[simp] theorem State.rolled_errorRing : s.rolled.errorRing = s.errorRing := by unfold State.rolled; split <;> rfl
@[simp] theorem State.rolled_hotRemove : s.rolled.hotRemove = s.hotRemove := by unfold State.rolled; split <;> rfl
@[simp] theorem State.rolled_msix : s.rolled.msix = s.msix := by unfold State.rolled; split <;> rfl
@[simp] theorem State.rolled_reports : s.rolled.reports = s.reports := by unfold State.rolled; split <;> rfl
@[simp] theorem State.rolled_latched : s.rolled.latched = s.latched := by unfold State.rolled; split <;> rfl
@[simp] theorem State.rolled_latchedClk : s.rolled.latchedClk = s.latchedClk := by unfold State.rolled; split <;> rfl
@[simp] theorem State.rolled_window : s.rolled.window = s.tb / 10000 := by unfold State.rolled; split <;> simp_all

/-! ### Updates of a thread -/

variable (t : Thread)

@[simp] theorem Thread.setReg_tix (n : Nat) (v : Word) : (t.setReg n v).tix = t.tix := rfl
@[simp] theorem Thread.setReg_slot (n : Nat) (v : Word) : (t.setReg n v).slot = t.slot := rfl
@[simp] theorem Thread.setReg_role (n : Nat) (v : Word) : (t.setReg n v).role = t.role := rfl
@[simp] theorem Thread.setReg_pc (n : Nat) (v : Word) : (t.setReg n v).pc = t.pc := rfl
@[simp] theorem Thread.setReg_status (n : Nat) (v : Word) : (t.setReg n v).status = t.status := rfl
@[simp] theorem Thread.setReg_p (n : Nat) (v : Word) : (t.setReg n v).p = t.p := rfl
@[simp] theorem Thread.setReg_c (n : Nat) (v : Word) : (t.setReg n v).c = t.c := rfl
@[simp] theorem Thread.setReg_srseed (n : Nat) (v : Word) : (t.setReg n v).srseed = t.srseed := rfl
@[simp] theorem Thread.setReg_tcause (n : Nat) (v : Word) : (t.setReg n v).tcause = t.tcause := rfl
@[simp] theorem Thread.setReg_taddr (n : Nat) (v : Word) : (t.setReg n v).taddr = t.taddr := rfl
@[simp] theorem Thread.setReg_tpc (n : Nat) (v : Word) : (t.setReg n v).tpc = t.tpc := rfl
@[simp] theorem Thread.setReg_tsav0 (n : Nat) (v : Word) : (t.setReg n v).tsav0 = t.tsav0 := rfl
@[simp] theorem Thread.setReg_tsav1 (n : Nat) (v : Word) : (t.setReg n v).tsav1 = t.tsav1 := rfl
@[simp] theorem Thread.setReg_tstate (n : Nat) (v : Word) : (t.setReg n v).tstate = t.tstate := rfl
@[simp] theorem Thread.setReg_due (n : Nat) (v : Word) : (t.setReg n v).due = t.due := rfl
@[simp] theorem Thread.setReg_pend (n : Nat) (v : Word) : (t.setReg n v).pend = t.pend := rfl
@[simp] theorem Thread.setReg_deliver (n : Nat) (v : Word) : (t.setReg n v).deliver = t.deliver := rfl
@[simp] theorem Thread.setReg_storeQ (n : Nat) (v : Word) : (t.setReg n v).storeQ = t.storeQ := rfl
@[simp] theorem Thread.setReg_counts (n : Nat) (v : Word) : (t.setReg n v).counts = t.counts := rfl
@[simp] theorem Thread.setReg_own (n : Nat) (v : Word) : (t.setReg n v).own = t.own := rfl
@[simp] theorem Thread.setReg_detect (n : Nat) (v : Word) : (t.setReg n v).detect = t.detect := rfl
@[simp] theorem Thread.setReg_fenceRelease (n : Nat) (v : Word) : (t.setReg n v).fenceRelease = t.fenceRelease := rfl
@[simp] theorem Thread.setReg_fenceAcquire (n : Nat) (v : Word) : (t.setReg n v).fenceAcquire = t.fenceAcquire := rfl
@[simp] theorem Thread.setReg_fenceNumber (n : Nat) (v : Word) : (t.setReg n v).fenceNumber = t.fenceNumber := rfl
@[simp] theorem Thread.setReg_retired (n : Nat) (v : Word) : (t.setReg n v).retired = t.retired := rfl
@[simp] theorem Thread.setReg_reuse (n : Nat) (v : Word) : (t.setReg n v).reuse = t.reuse := rfl
@[simp] theorem Thread.setReg_farLaps (n : Nat) (v : Word) : (t.setReg n v).farLaps = t.farLaps := rfl
@[simp] theorem Thread.setPred_tix (n : Nat) (b : Bool) : (t.setPred n b).tix = t.tix := rfl
@[simp] theorem Thread.setPred_slot (n : Nat) (b : Bool) : (t.setPred n b).slot = t.slot := rfl
@[simp] theorem Thread.setPred_role (n : Nat) (b : Bool) : (t.setPred n b).role = t.role := rfl
@[simp] theorem Thread.setPred_pc (n : Nat) (b : Bool) : (t.setPred n b).pc = t.pc := rfl
@[simp] theorem Thread.setPred_status (n : Nat) (b : Bool) : (t.setPred n b).status = t.status := rfl
@[simp] theorem Thread.setPred_g (n : Nat) (b : Bool) : (t.setPred n b).g = t.g := rfl
@[simp] theorem Thread.setPred_c (n : Nat) (b : Bool) : (t.setPred n b).c = t.c := rfl
@[simp] theorem Thread.setPred_srseed (n : Nat) (b : Bool) : (t.setPred n b).srseed = t.srseed := rfl
@[simp] theorem Thread.setPred_tcause (n : Nat) (b : Bool) : (t.setPred n b).tcause = t.tcause := rfl
@[simp] theorem Thread.setPred_taddr (n : Nat) (b : Bool) : (t.setPred n b).taddr = t.taddr := rfl
@[simp] theorem Thread.setPred_tpc (n : Nat) (b : Bool) : (t.setPred n b).tpc = t.tpc := rfl
@[simp] theorem Thread.setPred_tsav0 (n : Nat) (b : Bool) : (t.setPred n b).tsav0 = t.tsav0 := rfl
@[simp] theorem Thread.setPred_tsav1 (n : Nat) (b : Bool) : (t.setPred n b).tsav1 = t.tsav1 := rfl
@[simp] theorem Thread.setPred_tstate (n : Nat) (b : Bool) : (t.setPred n b).tstate = t.tstate := rfl
@[simp] theorem Thread.setPred_due (n : Nat) (b : Bool) : (t.setPred n b).due = t.due := rfl
@[simp] theorem Thread.setPred_pend (n : Nat) (b : Bool) : (t.setPred n b).pend = t.pend := rfl
@[simp] theorem Thread.setPred_deliver (n : Nat) (b : Bool) : (t.setPred n b).deliver = t.deliver := rfl
@[simp] theorem Thread.setPred_storeQ (n : Nat) (b : Bool) : (t.setPred n b).storeQ = t.storeQ := rfl
@[simp] theorem Thread.setPred_counts (n : Nat) (b : Bool) : (t.setPred n b).counts = t.counts := rfl
@[simp] theorem Thread.setPred_own (n : Nat) (b : Bool) : (t.setPred n b).own = t.own := rfl
@[simp] theorem Thread.setPred_detect (n : Nat) (b : Bool) : (t.setPred n b).detect = t.detect := rfl
@[simp] theorem Thread.setPred_fenceRelease (n : Nat) (b : Bool) : (t.setPred n b).fenceRelease = t.fenceRelease := rfl
@[simp] theorem Thread.setPred_fenceAcquire (n : Nat) (b : Bool) : (t.setPred n b).fenceAcquire = t.fenceAcquire := rfl
@[simp] theorem Thread.setPred_fenceNumber (n : Nat) (b : Bool) : (t.setPred n b).fenceNumber = t.fenceNumber := rfl
@[simp] theorem Thread.setPred_retired (n : Nat) (b : Bool) : (t.setPred n b).retired = t.retired := rfl
@[simp] theorem Thread.setPred_reuse (n : Nat) (b : Bool) : (t.setPred n b).reuse = t.reuse := rfl
@[simp] theorem Thread.setPred_farLaps (n : Nat) (b : Bool) : (t.setPred n b).farLaps = t.farLaps := rfl
@[simp] theorem Thread.setCap_tix (n : Nat) (k : QWord) : (t.setCap n k).tix = t.tix := rfl
@[simp] theorem Thread.setCap_slot (n : Nat) (k : QWord) : (t.setCap n k).slot = t.slot := rfl
@[simp] theorem Thread.setCap_role (n : Nat) (k : QWord) : (t.setCap n k).role = t.role := rfl
@[simp] theorem Thread.setCap_pc (n : Nat) (k : QWord) : (t.setCap n k).pc = t.pc := rfl
@[simp] theorem Thread.setCap_status (n : Nat) (k : QWord) : (t.setCap n k).status = t.status := rfl
@[simp] theorem Thread.setCap_g (n : Nat) (k : QWord) : (t.setCap n k).g = t.g := rfl
@[simp] theorem Thread.setCap_p (n : Nat) (k : QWord) : (t.setCap n k).p = t.p := rfl
@[simp] theorem Thread.setCap_srseed (n : Nat) (k : QWord) : (t.setCap n k).srseed = t.srseed := rfl
@[simp] theorem Thread.setCap_tcause (n : Nat) (k : QWord) : (t.setCap n k).tcause = t.tcause := rfl
@[simp] theorem Thread.setCap_taddr (n : Nat) (k : QWord) : (t.setCap n k).taddr = t.taddr := rfl
@[simp] theorem Thread.setCap_tpc (n : Nat) (k : QWord) : (t.setCap n k).tpc = t.tpc := rfl
@[simp] theorem Thread.setCap_tsav0 (n : Nat) (k : QWord) : (t.setCap n k).tsav0 = t.tsav0 := rfl
@[simp] theorem Thread.setCap_tsav1 (n : Nat) (k : QWord) : (t.setCap n k).tsav1 = t.tsav1 := rfl
@[simp] theorem Thread.setCap_tstate (n : Nat) (k : QWord) : (t.setCap n k).tstate = t.tstate := rfl
@[simp] theorem Thread.setCap_due (n : Nat) (k : QWord) : (t.setCap n k).due = t.due := rfl
@[simp] theorem Thread.setCap_pend (n : Nat) (k : QWord) : (t.setCap n k).pend = t.pend := rfl
@[simp] theorem Thread.setCap_deliver (n : Nat) (k : QWord) : (t.setCap n k).deliver = t.deliver := rfl
@[simp] theorem Thread.setCap_storeQ (n : Nat) (k : QWord) : (t.setCap n k).storeQ = t.storeQ := rfl
@[simp] theorem Thread.setCap_counts (n : Nat) (k : QWord) : (t.setCap n k).counts = t.counts := rfl
@[simp] theorem Thread.setCap_own (n : Nat) (k : QWord) : (t.setCap n k).own = t.own := rfl
@[simp] theorem Thread.setCap_detect (n : Nat) (k : QWord) : (t.setCap n k).detect = t.detect := rfl
@[simp] theorem Thread.setCap_fenceRelease (n : Nat) (k : QWord) : (t.setCap n k).fenceRelease = t.fenceRelease := rfl
@[simp] theorem Thread.setCap_fenceAcquire (n : Nat) (k : QWord) : (t.setCap n k).fenceAcquire = t.fenceAcquire := rfl
@[simp] theorem Thread.setCap_fenceNumber (n : Nat) (k : QWord) : (t.setCap n k).fenceNumber = t.fenceNumber := rfl
@[simp] theorem Thread.setCap_retired (n : Nat) (k : QWord) : (t.setCap n k).retired = t.retired := rfl
@[simp] theorem Thread.setCap_reuse (n : Nat) (k : QWord) : (t.setCap n k).reuse = t.reuse := rfl
@[simp] theorem Thread.setCap_farLaps (n : Nat) (k : QWord) : (t.setCap n k).farLaps = t.farLaps := rfl
@[simp] theorem Thread.setPair_tix (n : Nat) (v : DWord) : (t.setPair n v).tix = t.tix := rfl
@[simp] theorem Thread.setPair_slot (n : Nat) (v : DWord) : (t.setPair n v).slot = t.slot := rfl
@[simp] theorem Thread.setPair_role (n : Nat) (v : DWord) : (t.setPair n v).role = t.role := rfl
@[simp] theorem Thread.setPair_pc (n : Nat) (v : DWord) : (t.setPair n v).pc = t.pc := rfl
@[simp] theorem Thread.setPair_status (n : Nat) (v : DWord) : (t.setPair n v).status = t.status := rfl
@[simp] theorem Thread.setPair_p (n : Nat) (v : DWord) : (t.setPair n v).p = t.p := rfl
@[simp] theorem Thread.setPair_c (n : Nat) (v : DWord) : (t.setPair n v).c = t.c := rfl
@[simp] theorem Thread.setPair_srseed (n : Nat) (v : DWord) : (t.setPair n v).srseed = t.srseed := rfl
@[simp] theorem Thread.setPair_tcause (n : Nat) (v : DWord) : (t.setPair n v).tcause = t.tcause := rfl
@[simp] theorem Thread.setPair_taddr (n : Nat) (v : DWord) : (t.setPair n v).taddr = t.taddr := rfl
@[simp] theorem Thread.setPair_tpc (n : Nat) (v : DWord) : (t.setPair n v).tpc = t.tpc := rfl
@[simp] theorem Thread.setPair_tsav0 (n : Nat) (v : DWord) : (t.setPair n v).tsav0 = t.tsav0 := rfl
@[simp] theorem Thread.setPair_tsav1 (n : Nat) (v : DWord) : (t.setPair n v).tsav1 = t.tsav1 := rfl
@[simp] theorem Thread.setPair_tstate (n : Nat) (v : DWord) : (t.setPair n v).tstate = t.tstate := rfl
@[simp] theorem Thread.setPair_due (n : Nat) (v : DWord) : (t.setPair n v).due = t.due := rfl
@[simp] theorem Thread.setPair_pend (n : Nat) (v : DWord) : (t.setPair n v).pend = t.pend := rfl
@[simp] theorem Thread.setPair_deliver (n : Nat) (v : DWord) : (t.setPair n v).deliver = t.deliver := rfl
@[simp] theorem Thread.setPair_storeQ (n : Nat) (v : DWord) : (t.setPair n v).storeQ = t.storeQ := rfl
@[simp] theorem Thread.setPair_counts (n : Nat) (v : DWord) : (t.setPair n v).counts = t.counts := rfl
@[simp] theorem Thread.setPair_own (n : Nat) (v : DWord) : (t.setPair n v).own = t.own := rfl
@[simp] theorem Thread.setPair_detect (n : Nat) (v : DWord) : (t.setPair n v).detect = t.detect := rfl
@[simp] theorem Thread.setPair_fenceRelease (n : Nat) (v : DWord) : (t.setPair n v).fenceRelease = t.fenceRelease := rfl
@[simp] theorem Thread.setPair_fenceAcquire (n : Nat) (v : DWord) : (t.setPair n v).fenceAcquire = t.fenceAcquire := rfl
@[simp] theorem Thread.setPair_fenceNumber (n : Nat) (v : DWord) : (t.setPair n v).fenceNumber = t.fenceNumber := rfl
@[simp] theorem Thread.setPair_retired (n : Nat) (v : DWord) : (t.setPair n v).retired = t.retired := rfl
@[simp] theorem Thread.setPair_reuse (n : Nat) (v : DWord) : (t.setPair n v).reuse = t.reuse := rfl
@[simp] theorem Thread.setPair_farLaps (n : Nat) (v : DWord) : (t.setPair n v).farLaps = t.farLaps := rfl
@[simp] theorem Thread.out32_tix (d : BitVec 9) (b : Nat) : (t.out32 d b).tix = t.tix := rfl
@[simp] theorem Thread.out32_slot (d : BitVec 9) (b : Nat) : (t.out32 d b).slot = t.slot := rfl
@[simp] theorem Thread.out32_role (d : BitVec 9) (b : Nat) : (t.out32 d b).role = t.role := rfl
@[simp] theorem Thread.out32_pc (d : BitVec 9) (b : Nat) : (t.out32 d b).pc = t.pc := rfl
@[simp] theorem Thread.out32_status (d : BitVec 9) (b : Nat) : (t.out32 d b).status = t.status := rfl
@[simp] theorem Thread.out32_p (d : BitVec 9) (b : Nat) : (t.out32 d b).p = t.p := rfl
@[simp] theorem Thread.out32_c (d : BitVec 9) (b : Nat) : (t.out32 d b).c = t.c := rfl
@[simp] theorem Thread.out32_srseed (d : BitVec 9) (b : Nat) : (t.out32 d b).srseed = t.srseed := rfl
@[simp] theorem Thread.out32_tcause (d : BitVec 9) (b : Nat) : (t.out32 d b).tcause = t.tcause := rfl
@[simp] theorem Thread.out32_taddr (d : BitVec 9) (b : Nat) : (t.out32 d b).taddr = t.taddr := rfl
@[simp] theorem Thread.out32_tpc (d : BitVec 9) (b : Nat) : (t.out32 d b).tpc = t.tpc := rfl
@[simp] theorem Thread.out32_tsav0 (d : BitVec 9) (b : Nat) : (t.out32 d b).tsav0 = t.tsav0 := rfl
@[simp] theorem Thread.out32_tsav1 (d : BitVec 9) (b : Nat) : (t.out32 d b).tsav1 = t.tsav1 := rfl
@[simp] theorem Thread.out32_tstate (d : BitVec 9) (b : Nat) : (t.out32 d b).tstate = t.tstate := rfl
@[simp] theorem Thread.out32_due (d : BitVec 9) (b : Nat) : (t.out32 d b).due = t.due := rfl
@[simp] theorem Thread.out32_pend (d : BitVec 9) (b : Nat) : (t.out32 d b).pend = t.pend := rfl
@[simp] theorem Thread.out32_deliver (d : BitVec 9) (b : Nat) : (t.out32 d b).deliver = t.deliver := rfl
@[simp] theorem Thread.out32_storeQ (d : BitVec 9) (b : Nat) : (t.out32 d b).storeQ = t.storeQ := rfl
@[simp] theorem Thread.out32_counts (d : BitVec 9) (b : Nat) : (t.out32 d b).counts = t.counts := rfl
@[simp] theorem Thread.out32_own (d : BitVec 9) (b : Nat) : (t.out32 d b).own = t.own := rfl
@[simp] theorem Thread.out32_detect (d : BitVec 9) (b : Nat) : (t.out32 d b).detect = t.detect := rfl
@[simp] theorem Thread.out32_fenceRelease (d : BitVec 9) (b : Nat) : (t.out32 d b).fenceRelease = t.fenceRelease := rfl
@[simp] theorem Thread.out32_fenceAcquire (d : BitVec 9) (b : Nat) : (t.out32 d b).fenceAcquire = t.fenceAcquire := rfl
@[simp] theorem Thread.out32_fenceNumber (d : BitVec 9) (b : Nat) : (t.out32 d b).fenceNumber = t.fenceNumber := rfl
@[simp] theorem Thread.out32_retired (d : BitVec 9) (b : Nat) : (t.out32 d b).retired = t.retired := rfl
@[simp] theorem Thread.out32_reuse (d : BitVec 9) (b : Nat) : (t.out32 d b).reuse = t.reuse := rfl
@[simp] theorem Thread.out32_farLaps (d : BitVec 9) (b : Nat) : (t.out32 d b).farLaps = t.farLaps := rfl
@[simp] theorem Thread.out64_tix (d : BitVec 9) (b : Nat) : (t.out64 d b).tix = t.tix := rfl
@[simp] theorem Thread.out64_slot (d : BitVec 9) (b : Nat) : (t.out64 d b).slot = t.slot := rfl
@[simp] theorem Thread.out64_role (d : BitVec 9) (b : Nat) : (t.out64 d b).role = t.role := rfl
@[simp] theorem Thread.out64_pc (d : BitVec 9) (b : Nat) : (t.out64 d b).pc = t.pc := rfl
@[simp] theorem Thread.out64_status (d : BitVec 9) (b : Nat) : (t.out64 d b).status = t.status := rfl
@[simp] theorem Thread.out64_p (d : BitVec 9) (b : Nat) : (t.out64 d b).p = t.p := rfl
@[simp] theorem Thread.out64_c (d : BitVec 9) (b : Nat) : (t.out64 d b).c = t.c := rfl
@[simp] theorem Thread.out64_srseed (d : BitVec 9) (b : Nat) : (t.out64 d b).srseed = t.srseed := rfl
@[simp] theorem Thread.out64_tcause (d : BitVec 9) (b : Nat) : (t.out64 d b).tcause = t.tcause := rfl
@[simp] theorem Thread.out64_taddr (d : BitVec 9) (b : Nat) : (t.out64 d b).taddr = t.taddr := rfl
@[simp] theorem Thread.out64_tpc (d : BitVec 9) (b : Nat) : (t.out64 d b).tpc = t.tpc := rfl
@[simp] theorem Thread.out64_tsav0 (d : BitVec 9) (b : Nat) : (t.out64 d b).tsav0 = t.tsav0 := rfl
@[simp] theorem Thread.out64_tsav1 (d : BitVec 9) (b : Nat) : (t.out64 d b).tsav1 = t.tsav1 := rfl
@[simp] theorem Thread.out64_tstate (d : BitVec 9) (b : Nat) : (t.out64 d b).tstate = t.tstate := rfl
@[simp] theorem Thread.out64_due (d : BitVec 9) (b : Nat) : (t.out64 d b).due = t.due := rfl
@[simp] theorem Thread.out64_pend (d : BitVec 9) (b : Nat) : (t.out64 d b).pend = t.pend := rfl
@[simp] theorem Thread.out64_deliver (d : BitVec 9) (b : Nat) : (t.out64 d b).deliver = t.deliver := rfl
@[simp] theorem Thread.out64_storeQ (d : BitVec 9) (b : Nat) : (t.out64 d b).storeQ = t.storeQ := rfl
@[simp] theorem Thread.out64_counts (d : BitVec 9) (b : Nat) : (t.out64 d b).counts = t.counts := rfl
@[simp] theorem Thread.out64_own (d : BitVec 9) (b : Nat) : (t.out64 d b).own = t.own := rfl
@[simp] theorem Thread.out64_detect (d : BitVec 9) (b : Nat) : (t.out64 d b).detect = t.detect := rfl
@[simp] theorem Thread.out64_fenceRelease (d : BitVec 9) (b : Nat) : (t.out64 d b).fenceRelease = t.fenceRelease := rfl
@[simp] theorem Thread.out64_fenceAcquire (d : BitVec 9) (b : Nat) : (t.out64 d b).fenceAcquire = t.fenceAcquire := rfl
@[simp] theorem Thread.out64_fenceNumber (d : BitVec 9) (b : Nat) : (t.out64 d b).fenceNumber = t.fenceNumber := rfl
@[simp] theorem Thread.out64_retired (d : BitVec 9) (b : Nat) : (t.out64 d b).retired = t.retired := rfl
@[simp] theorem Thread.out64_reuse (d : BitVec 9) (b : Nat) : (t.out64 d b).reuse = t.reuse := rfl
@[simp] theorem Thread.out64_farLaps (d : BitVec 9) (b : Nat) : (t.out64 d b).farLaps = t.farLaps := rfl
@[simp] theorem Thread.outPred_tix (d : BitVec 9) (b : Bool) : (t.outPred d b).tix = t.tix := rfl
@[simp] theorem Thread.outPred_slot (d : BitVec 9) (b : Bool) : (t.outPred d b).slot = t.slot := rfl
@[simp] theorem Thread.outPred_role (d : BitVec 9) (b : Bool) : (t.outPred d b).role = t.role := rfl
@[simp] theorem Thread.outPred_pc (d : BitVec 9) (b : Bool) : (t.outPred d b).pc = t.pc := rfl
@[simp] theorem Thread.outPred_status (d : BitVec 9) (b : Bool) : (t.outPred d b).status = t.status := rfl
@[simp] theorem Thread.outPred_g (d : BitVec 9) (b : Bool) : (t.outPred d b).g = t.g := rfl
@[simp] theorem Thread.outPred_c (d : BitVec 9) (b : Bool) : (t.outPred d b).c = t.c := rfl
@[simp] theorem Thread.outPred_srseed (d : BitVec 9) (b : Bool) : (t.outPred d b).srseed = t.srseed := rfl
@[simp] theorem Thread.outPred_tcause (d : BitVec 9) (b : Bool) : (t.outPred d b).tcause = t.tcause := rfl
@[simp] theorem Thread.outPred_taddr (d : BitVec 9) (b : Bool) : (t.outPred d b).taddr = t.taddr := rfl
@[simp] theorem Thread.outPred_tpc (d : BitVec 9) (b : Bool) : (t.outPred d b).tpc = t.tpc := rfl
@[simp] theorem Thread.outPred_tsav0 (d : BitVec 9) (b : Bool) : (t.outPred d b).tsav0 = t.tsav0 := rfl
@[simp] theorem Thread.outPred_tsav1 (d : BitVec 9) (b : Bool) : (t.outPred d b).tsav1 = t.tsav1 := rfl
@[simp] theorem Thread.outPred_tstate (d : BitVec 9) (b : Bool) : (t.outPred d b).tstate = t.tstate := rfl
@[simp] theorem Thread.outPred_due (d : BitVec 9) (b : Bool) : (t.outPred d b).due = t.due := rfl
@[simp] theorem Thread.outPred_pend (d : BitVec 9) (b : Bool) : (t.outPred d b).pend = t.pend := rfl
@[simp] theorem Thread.outPred_deliver (d : BitVec 9) (b : Bool) : (t.outPred d b).deliver = t.deliver := rfl
@[simp] theorem Thread.outPred_storeQ (d : BitVec 9) (b : Bool) : (t.outPred d b).storeQ = t.storeQ := rfl
@[simp] theorem Thread.outPred_counts (d : BitVec 9) (b : Bool) : (t.outPred d b).counts = t.counts := rfl
@[simp] theorem Thread.outPred_own (d : BitVec 9) (b : Bool) : (t.outPred d b).own = t.own := rfl
@[simp] theorem Thread.outPred_detect (d : BitVec 9) (b : Bool) : (t.outPred d b).detect = t.detect := rfl
@[simp] theorem Thread.outPred_fenceRelease (d : BitVec 9) (b : Bool) : (t.outPred d b).fenceRelease = t.fenceRelease := rfl
@[simp] theorem Thread.outPred_fenceAcquire (d : BitVec 9) (b : Bool) : (t.outPred d b).fenceAcquire = t.fenceAcquire := rfl
@[simp] theorem Thread.outPred_fenceNumber (d : BitVec 9) (b : Bool) : (t.outPred d b).fenceNumber = t.fenceNumber := rfl
@[simp] theorem Thread.outPred_retired (d : BitVec 9) (b : Bool) : (t.outPred d b).retired = t.retired := rfl
@[simp] theorem Thread.outPred_reuse (d : BitVec 9) (b : Bool) : (t.outPred d b).reuse = t.reuse := rfl
@[simp] theorem Thread.outPred_farLaps (d : BitVec 9) (b : Bool) : (t.outPred d b).farLaps = t.farLaps := rfl
@[simp] theorem Thread.mark_tix (g : Sig) : (t.mark g).tix = t.tix := rfl
@[simp] theorem Thread.mark_slot (g : Sig) : (t.mark g).slot = t.slot := rfl
@[simp] theorem Thread.mark_role (g : Sig) : (t.mark g).role = t.role := rfl
@[simp] theorem Thread.mark_pc (g : Sig) : (t.mark g).pc = t.pc := rfl
@[simp] theorem Thread.mark_status (g : Sig) : (t.mark g).status = t.status := rfl
@[simp] theorem Thread.mark_g (g : Sig) : (t.mark g).g = t.g := rfl
@[simp] theorem Thread.mark_p (g : Sig) : (t.mark g).p = t.p := rfl
@[simp] theorem Thread.mark_c (g : Sig) : (t.mark g).c = t.c := rfl
@[simp] theorem Thread.mark_srseed (g : Sig) : (t.mark g).srseed = t.srseed := rfl
@[simp] theorem Thread.mark_tcause (g : Sig) : (t.mark g).tcause = t.tcause := rfl
@[simp] theorem Thread.mark_taddr (g : Sig) : (t.mark g).taddr = t.taddr := rfl
@[simp] theorem Thread.mark_tpc (g : Sig) : (t.mark g).tpc = t.tpc := rfl
@[simp] theorem Thread.mark_tsav0 (g : Sig) : (t.mark g).tsav0 = t.tsav0 := rfl
@[simp] theorem Thread.mark_tsav1 (g : Sig) : (t.mark g).tsav1 = t.tsav1 := rfl
@[simp] theorem Thread.mark_tstate (g : Sig) : (t.mark g).tstate = t.tstate := rfl
@[simp] theorem Thread.mark_pend (g : Sig) : (t.mark g).pend = t.pend := rfl
@[simp] theorem Thread.mark_deliver (g : Sig) : (t.mark g).deliver = t.deliver := rfl
@[simp] theorem Thread.mark_storeQ (g : Sig) : (t.mark g).storeQ = t.storeQ := rfl
@[simp] theorem Thread.mark_counts (g : Sig) : (t.mark g).counts = t.counts := rfl
@[simp] theorem Thread.mark_own (g : Sig) : (t.mark g).own = t.own := rfl
@[simp] theorem Thread.mark_detect (g : Sig) : (t.mark g).detect = t.detect := rfl
@[simp] theorem Thread.mark_fenceRelease (g : Sig) : (t.mark g).fenceRelease = t.fenceRelease := rfl
@[simp] theorem Thread.mark_fenceAcquire (g : Sig) : (t.mark g).fenceAcquire = t.fenceAcquire := rfl
@[simp] theorem Thread.mark_fenceNumber (g : Sig) : (t.mark g).fenceNumber = t.fenceNumber := rfl
@[simp] theorem Thread.mark_retired (g : Sig) : (t.mark g).retired = t.retired := rfl
@[simp] theorem Thread.mark_reuse (g : Sig) : (t.mark g).reuse = t.reuse := rfl
@[simp] theorem Thread.mark_farLaps (g : Sig) : (t.mark g).farLaps = t.farLaps := rfl
@[simp] theorem Thread.retire_tix (pc : Word) : (t.retire pc).tix = t.tix := rfl
@[simp] theorem Thread.retire_slot (pc : Word) : (t.retire pc).slot = t.slot := rfl
@[simp] theorem Thread.retire_role (pc : Word) : (t.retire pc).role = t.role := rfl
@[simp] theorem Thread.retire_status (pc : Word) : (t.retire pc).status = t.status := rfl
@[simp] theorem Thread.retire_g (pc : Word) : (t.retire pc).g = t.g := rfl
@[simp] theorem Thread.retire_p (pc : Word) : (t.retire pc).p = t.p := rfl
@[simp] theorem Thread.retire_c (pc : Word) : (t.retire pc).c = t.c := rfl
@[simp] theorem Thread.retire_srseed (pc : Word) : (t.retire pc).srseed = t.srseed := rfl
@[simp] theorem Thread.retire_tcause (pc : Word) : (t.retire pc).tcause = t.tcause := rfl
@[simp] theorem Thread.retire_taddr (pc : Word) : (t.retire pc).taddr = t.taddr := rfl
@[simp] theorem Thread.retire_tpc (pc : Word) : (t.retire pc).tpc = t.tpc := rfl
@[simp] theorem Thread.retire_tsav0 (pc : Word) : (t.retire pc).tsav0 = t.tsav0 := rfl
@[simp] theorem Thread.retire_tsav1 (pc : Word) : (t.retire pc).tsav1 = t.tsav1 := rfl
@[simp] theorem Thread.retire_tstate (pc : Word) : (t.retire pc).tstate = t.tstate := rfl
@[simp] theorem Thread.retire_due (pc : Word) : (t.retire pc).due = t.due := rfl
@[simp] theorem Thread.retire_pend (pc : Word) : (t.retire pc).pend = t.pend := rfl
@[simp] theorem Thread.retire_deliver (pc : Word) : (t.retire pc).deliver = t.deliver := rfl
@[simp] theorem Thread.retire_storeQ (pc : Word) : (t.retire pc).storeQ = t.storeQ := rfl
@[simp] theorem Thread.retire_counts (pc : Word) : (t.retire pc).counts = t.counts := rfl
@[simp] theorem Thread.retire_own (pc : Word) : (t.retire pc).own = t.own := rfl
@[simp] theorem Thread.retire_detect (pc : Word) : (t.retire pc).detect = t.detect := rfl
@[simp] theorem Thread.retire_fenceRelease (pc : Word) : (t.retire pc).fenceRelease = t.fenceRelease := rfl
@[simp] theorem Thread.retire_fenceAcquire (pc : Word) : (t.retire pc).fenceAcquire = t.fenceAcquire := rfl
@[simp] theorem Thread.retire_fenceNumber (pc : Word) : (t.retire pc).fenceNumber = t.fenceNumber := rfl
@[simp] theorem Thread.retire_reuse (pc : Word) : (t.retire pc).reuse = t.reuse := rfl
@[simp] theorem Thread.retire_farLaps (pc : Word) : (t.retire pc).farLaps = t.farLaps := rfl
@[simp] theorem Thread.inc_tix (k : CntClass) : (t.inc k).tix = t.tix := rfl
@[simp] theorem Thread.inc_slot (k : CntClass) : (t.inc k).slot = t.slot := rfl
@[simp] theorem Thread.inc_role (k : CntClass) : (t.inc k).role = t.role := rfl
@[simp] theorem Thread.inc_pc (k : CntClass) : (t.inc k).pc = t.pc := rfl
@[simp] theorem Thread.inc_status (k : CntClass) : (t.inc k).status = t.status := rfl
@[simp] theorem Thread.inc_g (k : CntClass) : (t.inc k).g = t.g := rfl
@[simp] theorem Thread.inc_p (k : CntClass) : (t.inc k).p = t.p := rfl
@[simp] theorem Thread.inc_c (k : CntClass) : (t.inc k).c = t.c := rfl
@[simp] theorem Thread.inc_srseed (k : CntClass) : (t.inc k).srseed = t.srseed := rfl
@[simp] theorem Thread.inc_tcause (k : CntClass) : (t.inc k).tcause = t.tcause := rfl
@[simp] theorem Thread.inc_taddr (k : CntClass) : (t.inc k).taddr = t.taddr := rfl
@[simp] theorem Thread.inc_tpc (k : CntClass) : (t.inc k).tpc = t.tpc := rfl
@[simp] theorem Thread.inc_tsav0 (k : CntClass) : (t.inc k).tsav0 = t.tsav0 := rfl
@[simp] theorem Thread.inc_tsav1 (k : CntClass) : (t.inc k).tsav1 = t.tsav1 := rfl
@[simp] theorem Thread.inc_tstate (k : CntClass) : (t.inc k).tstate = t.tstate := rfl
@[simp] theorem Thread.inc_due (k : CntClass) : (t.inc k).due = t.due := rfl
@[simp] theorem Thread.inc_pend (k : CntClass) : (t.inc k).pend = t.pend := rfl
@[simp] theorem Thread.inc_deliver (k : CntClass) : (t.inc k).deliver = t.deliver := rfl
@[simp] theorem Thread.inc_storeQ (k : CntClass) : (t.inc k).storeQ = t.storeQ := rfl
@[simp] theorem Thread.inc_own (k : CntClass) : (t.inc k).own = t.own := rfl
@[simp] theorem Thread.inc_detect (k : CntClass) : (t.inc k).detect = t.detect := rfl
@[simp] theorem Thread.inc_fenceRelease (k : CntClass) : (t.inc k).fenceRelease = t.fenceRelease := rfl
@[simp] theorem Thread.inc_fenceAcquire (k : CntClass) : (t.inc k).fenceAcquire = t.fenceAcquire := rfl
@[simp] theorem Thread.inc_fenceNumber (k : CntClass) : (t.inc k).fenceNumber = t.fenceNumber := rfl
@[simp] theorem Thread.inc_retired (k : CntClass) : (t.inc k).retired = t.retired := rfl
@[simp] theorem Thread.inc_reuse (k : CntClass) : (t.inc k).reuse = t.reuse := rfl
@[simp] theorem Thread.inc_farLaps (k : CntClass) : (t.inc k).farLaps = t.farLaps := rfl
@[simp] theorem Thread.dec_tix (k : CntClass) : (t.dec k).tix = t.tix := rfl
@[simp] theorem Thread.dec_slot (k : CntClass) : (t.dec k).slot = t.slot := rfl
@[simp] theorem Thread.dec_role (k : CntClass) : (t.dec k).role = t.role := rfl
@[simp] theorem Thread.dec_pc (k : CntClass) : (t.dec k).pc = t.pc := rfl
@[simp] theorem Thread.dec_status (k : CntClass) : (t.dec k).status = t.status := rfl
@[simp] theorem Thread.dec_g (k : CntClass) : (t.dec k).g = t.g := rfl
@[simp] theorem Thread.dec_p (k : CntClass) : (t.dec k).p = t.p := rfl
@[simp] theorem Thread.dec_c (k : CntClass) : (t.dec k).c = t.c := rfl
@[simp] theorem Thread.dec_srseed (k : CntClass) : (t.dec k).srseed = t.srseed := rfl
@[simp] theorem Thread.dec_tcause (k : CntClass) : (t.dec k).tcause = t.tcause := rfl
@[simp] theorem Thread.dec_taddr (k : CntClass) : (t.dec k).taddr = t.taddr := rfl
@[simp] theorem Thread.dec_tpc (k : CntClass) : (t.dec k).tpc = t.tpc := rfl
@[simp] theorem Thread.dec_tsav0 (k : CntClass) : (t.dec k).tsav0 = t.tsav0 := rfl
@[simp] theorem Thread.dec_tsav1 (k : CntClass) : (t.dec k).tsav1 = t.tsav1 := rfl
@[simp] theorem Thread.dec_tstate (k : CntClass) : (t.dec k).tstate = t.tstate := rfl
@[simp] theorem Thread.dec_due (k : CntClass) : (t.dec k).due = t.due := rfl
@[simp] theorem Thread.dec_pend (k : CntClass) : (t.dec k).pend = t.pend := rfl
@[simp] theorem Thread.dec_deliver (k : CntClass) : (t.dec k).deliver = t.deliver := rfl
@[simp] theorem Thread.dec_storeQ (k : CntClass) : (t.dec k).storeQ = t.storeQ := rfl
@[simp] theorem Thread.dec_own (k : CntClass) : (t.dec k).own = t.own := rfl
@[simp] theorem Thread.dec_detect (k : CntClass) : (t.dec k).detect = t.detect := rfl
@[simp] theorem Thread.dec_fenceRelease (k : CntClass) : (t.dec k).fenceRelease = t.fenceRelease := rfl
@[simp] theorem Thread.dec_fenceAcquire (k : CntClass) : (t.dec k).fenceAcquire = t.fenceAcquire := rfl
@[simp] theorem Thread.dec_fenceNumber (k : CntClass) : (t.dec k).fenceNumber = t.fenceNumber := rfl
@[simp] theorem Thread.dec_retired (k : CntClass) : (t.dec k).retired = t.retired := rfl
@[simp] theorem Thread.dec_reuse (k : CntClass) : (t.dec k).reuse = t.reuse := rfl
@[simp] theorem Thread.dec_farLaps (k : CntClass) : (t.dec k).farLaps = t.farLaps := rfl
@[simp] theorem Thread.passFence_tix  : (t.passFence).tix = t.tix := rfl
@[simp] theorem Thread.passFence_slot  : (t.passFence).slot = t.slot := rfl
@[simp] theorem Thread.passFence_role  : (t.passFence).role = t.role := rfl
@[simp] theorem Thread.passFence_pc  : (t.passFence).pc = t.pc := rfl
@[simp] theorem Thread.passFence_status  : (t.passFence).status = t.status := rfl
@[simp] theorem Thread.passFence_g  : (t.passFence).g = t.g := rfl
@[simp] theorem Thread.passFence_p  : (t.passFence).p = t.p := rfl
@[simp] theorem Thread.passFence_c  : (t.passFence).c = t.c := rfl
@[simp] theorem Thread.passFence_srseed  : (t.passFence).srseed = t.srseed := rfl
@[simp] theorem Thread.passFence_tcause  : (t.passFence).tcause = t.tcause := rfl
@[simp] theorem Thread.passFence_taddr  : (t.passFence).taddr = t.taddr := rfl
@[simp] theorem Thread.passFence_tpc  : (t.passFence).tpc = t.tpc := rfl
@[simp] theorem Thread.passFence_tsav0  : (t.passFence).tsav0 = t.tsav0 := rfl
@[simp] theorem Thread.passFence_tsav1  : (t.passFence).tsav1 = t.tsav1 := rfl
@[simp] theorem Thread.passFence_tstate  : (t.passFence).tstate = t.tstate := rfl
@[simp] theorem Thread.passFence_due  : (t.passFence).due = t.due := rfl
@[simp] theorem Thread.passFence_pend  : (t.passFence).pend = t.pend := rfl
@[simp] theorem Thread.passFence_deliver  : (t.passFence).deliver = t.deliver := rfl
@[simp] theorem Thread.passFence_storeQ  : (t.passFence).storeQ = t.storeQ := rfl
@[simp] theorem Thread.passFence_counts  : (t.passFence).counts = t.counts := rfl
@[simp] theorem Thread.passFence_own  : (t.passFence).own = t.own := rfl
@[simp] theorem Thread.passFence_detect  : (t.passFence).detect = t.detect := rfl
@[simp] theorem Thread.passFence_fenceAcquire  : (t.passFence).fenceAcquire = t.fenceAcquire := rfl
@[simp] theorem Thread.passFence_retired  : (t.passFence).retired = t.retired := rfl
@[simp] theorem Thread.passFence_reuse  : (t.passFence).reuse = t.reuse := rfl
@[simp] theorem Thread.passFence_farLaps  : (t.passFence).farLaps = t.farLaps := rfl
@[simp] theorem Thread.out_tix (d : BitVec 9) (ty : TypeCode) (b : Nat) : (t.out d ty b).tix = t.tix := by unfold Thread.out; split <;> rfl
@[simp] theorem Thread.out_slot (d : BitVec 9) (ty : TypeCode) (b : Nat) : (t.out d ty b).slot = t.slot := by unfold Thread.out; split <;> rfl
@[simp] theorem Thread.out_role (d : BitVec 9) (ty : TypeCode) (b : Nat) : (t.out d ty b).role = t.role := by unfold Thread.out; split <;> rfl
@[simp] theorem Thread.out_pc (d : BitVec 9) (ty : TypeCode) (b : Nat) : (t.out d ty b).pc = t.pc := by unfold Thread.out; split <;> rfl
@[simp] theorem Thread.out_status (d : BitVec 9) (ty : TypeCode) (b : Nat) : (t.out d ty b).status = t.status := by unfold Thread.out; split <;> rfl
@[simp] theorem Thread.out_p (d : BitVec 9) (ty : TypeCode) (b : Nat) : (t.out d ty b).p = t.p := by unfold Thread.out; split <;> rfl
@[simp] theorem Thread.out_c (d : BitVec 9) (ty : TypeCode) (b : Nat) : (t.out d ty b).c = t.c := by unfold Thread.out; split <;> rfl
@[simp] theorem Thread.out_srseed (d : BitVec 9) (ty : TypeCode) (b : Nat) : (t.out d ty b).srseed = t.srseed := by unfold Thread.out; split <;> rfl
@[simp] theorem Thread.out_tcause (d : BitVec 9) (ty : TypeCode) (b : Nat) : (t.out d ty b).tcause = t.tcause := by unfold Thread.out; split <;> rfl
@[simp] theorem Thread.out_taddr (d : BitVec 9) (ty : TypeCode) (b : Nat) : (t.out d ty b).taddr = t.taddr := by unfold Thread.out; split <;> rfl
@[simp] theorem Thread.out_tpc (d : BitVec 9) (ty : TypeCode) (b : Nat) : (t.out d ty b).tpc = t.tpc := by unfold Thread.out; split <;> rfl
@[simp] theorem Thread.out_tsav0 (d : BitVec 9) (ty : TypeCode) (b : Nat) : (t.out d ty b).tsav0 = t.tsav0 := by unfold Thread.out; split <;> rfl
@[simp] theorem Thread.out_tsav1 (d : BitVec 9) (ty : TypeCode) (b : Nat) : (t.out d ty b).tsav1 = t.tsav1 := by unfold Thread.out; split <;> rfl
@[simp] theorem Thread.out_tstate (d : BitVec 9) (ty : TypeCode) (b : Nat) : (t.out d ty b).tstate = t.tstate := by unfold Thread.out; split <;> rfl
@[simp] theorem Thread.out_due (d : BitVec 9) (ty : TypeCode) (b : Nat) : (t.out d ty b).due = t.due := by unfold Thread.out; split <;> rfl
@[simp] theorem Thread.out_pend (d : BitVec 9) (ty : TypeCode) (b : Nat) : (t.out d ty b).pend = t.pend := by unfold Thread.out; split <;> rfl
@[simp] theorem Thread.out_deliver (d : BitVec 9) (ty : TypeCode) (b : Nat) : (t.out d ty b).deliver = t.deliver := by unfold Thread.out; split <;> rfl
@[simp] theorem Thread.out_storeQ (d : BitVec 9) (ty : TypeCode) (b : Nat) : (t.out d ty b).storeQ = t.storeQ := by unfold Thread.out; split <;> rfl
@[simp] theorem Thread.out_counts (d : BitVec 9) (ty : TypeCode) (b : Nat) : (t.out d ty b).counts = t.counts := by unfold Thread.out; split <;> rfl
@[simp] theorem Thread.out_own (d : BitVec 9) (ty : TypeCode) (b : Nat) : (t.out d ty b).own = t.own := by unfold Thread.out; split <;> rfl
@[simp] theorem Thread.out_detect (d : BitVec 9) (ty : TypeCode) (b : Nat) : (t.out d ty b).detect = t.detect := by unfold Thread.out; split <;> rfl
@[simp] theorem Thread.out_fenceRelease (d : BitVec 9) (ty : TypeCode) (b : Nat) : (t.out d ty b).fenceRelease = t.fenceRelease := by unfold Thread.out; split <;> rfl
@[simp] theorem Thread.out_fenceAcquire (d : BitVec 9) (ty : TypeCode) (b : Nat) : (t.out d ty b).fenceAcquire = t.fenceAcquire := by unfold Thread.out; split <;> rfl
@[simp] theorem Thread.out_fenceNumber (d : BitVec 9) (ty : TypeCode) (b : Nat) : (t.out d ty b).fenceNumber = t.fenceNumber := by unfold Thread.out; split <;> rfl
@[simp] theorem Thread.out_retired (d : BitVec 9) (ty : TypeCode) (b : Nat) : (t.out d ty b).retired = t.retired := by unfold Thread.out; split <;> rfl
@[simp] theorem Thread.out_reuse (d : BitVec 9) (ty : TypeCode) (b : Nat) : (t.out d ty b).reuse = t.reuse := by unfold Thread.out; split <;> rfl
@[simp] theorem Thread.out_farLaps (d : BitVec 9) (ty : TypeCode) (b : Nat) : (t.out d ty b).farLaps = t.farLaps := by unfold Thread.out; split <;> rfl

end Sys2Proof.Machine
end

