-- ==== Sys2Proof/Laws/Tables.lean ====
section
/-!
SUPPORT. Sparse tables and memories: a read after a write, and that every memory operation keeps the canonical form.
-/

namespace Sys2Proof.Machine

section Tbl
variable {α : Type} {d : α} {t : Tbl α} {i j : Nat} {v : α}

/-- Every key of a table is above a bound. -/
def Tbl.above (n : Nat) (t : Tbl α) : Prop := ∀ e ∈ t, n < e.1

/-- The canonical form as a property of a list: rising keys, no default. -/
def Tbl.canon (d : α) : Tbl α → Prop
  | [] => True
  | (k, v) :: rest => v ≠ d ∧ Tbl.above k rest ∧ Tbl.canon d rest

theorem Tbl.canon_of_wf [DecidableEq α] : ∀ {t : Tbl α}, Tbl.wf d t = true → Tbl.canon d t
  | [], _ => trivial
  | [(k, v)], h => ⟨by simpa [Tbl.wf] using h, by simp [Tbl.above], trivial⟩
  | (k, v) :: (k', v') :: rest, h => by
    simp only [Tbl.wf, Bool.and_eq_true, decide_eq_true_eq] at h
    have hr := Tbl.canon_of_wf h.2
    refine ⟨h.1.2, ?_, hr⟩
    intro e he
    rcases List.mem_cons.mp he with rfl | he
    · exact h.1.1
    · exact Nat.lt_trans h.1.1 (hr.2.1 e he)

theorem Tbl.wf_of_canon [DecidableEq α] : ∀ {t : Tbl α}, Tbl.canon d t → Tbl.wf d t = true
  | [], _ => rfl
  | [(k, v)], h => by simpa [Tbl.wf] using h.1
  | (k, v) :: (k', v') :: rest, h => by
    simp only [Tbl.wf, Bool.and_eq_true, decide_eq_true_eq]
    exact ⟨⟨h.2.1 (k', v') (by simp), h.1⟩, Tbl.wf_of_canon h.2.2⟩

theorem Tbl.wf_iff_canon [DecidableEq α] : Tbl.wf d t = true ↔ Tbl.canon d t := ⟨Tbl.canon_of_wf, Tbl.wf_of_canon⟩

theorem Tbl.get_above {n : Nat} (h : Tbl.above n t) (hi : i ≤ n) : Tbl.get d t i = d := by
  induction t with
  | nil => rfl
  | cons e rest ih =>
    have h1 := h e (by simp)
    have hne : ¬ e.1 = i := by omega
    simp only [Tbl.get, if_neg hne]
    exact ih (fun x hx => h x (by simp [hx]))

theorem Tbl.ins_above {n : Nat} (h : Tbl.above n t) (hi : n < i) : Tbl.above n (Tbl.ins i v t) := by
  induction t with
  | nil => intro e he; simp [Tbl.ins] at he; subst he; exact hi
  | cons e rest ih =>
    obtain ⟨k, w⟩ := e
    have hr : Tbl.above n rest := fun x hx => h x (by simp [hx])
    have hk : n < k := h (k, w) (by simp)
    unfold Tbl.ins
    split
    · intro e he; rcases List.mem_cons.mp he with rfl | he
      · exact hi
      · exact h e he
    · split
      · intro e he; rcases List.mem_cons.mp he with rfl | he
        · exact hi
        · exact hr e he
      · intro e he; rcases List.mem_cons.mp he with rfl | he
        · exact hk
        · exact ih hr e he

theorem Tbl.del_above {n : Nat} (h : Tbl.above n t) : Tbl.above n (Tbl.del i t) := by
  induction t with
  | nil => exact h
  | cons e rest ih =>
    obtain ⟨k, w⟩ := e
    have hr : Tbl.above n rest := fun x hx => h x (by simp [hx])
    unfold Tbl.del
    split
    · exact ih hr
    · intro e he; rcases List.mem_cons.mp he with rfl | he
      · exact h _ (by simp)
      · exact ih hr e he

theorem Tbl.ins_canon (h : Tbl.canon d t) (hv : v ≠ d) : Tbl.canon d (Tbl.ins i v t) := by
  induction t with
  | nil => exact ⟨hv, by simp [Tbl.above], trivial⟩
  | cons e rest ih =>
    obtain ⟨k, w⟩ := e
    unfold Tbl.ins
    split
    · rename_i hlt
      refine ⟨hv, ?_, h⟩
      intro e he; rcases List.mem_cons.mp he with rfl | he
      · exact hlt
      · exact Nat.lt_trans hlt (h.2.1 e he)
    · split
      · rename_i _ heq; subst heq; exact ⟨hv, h.2.1, h.2.2⟩
      · exact ⟨h.1, Tbl.ins_above h.2.1 (by omega), ih h.2.2⟩

theorem Tbl.del_canon (h : Tbl.canon d t) : Tbl.canon d (Tbl.del i t) := by
  induction t with
  | nil => exact h
  | cons e rest ih =>
    obtain ⟨k, w⟩ := e
    unfold Tbl.del
    split
    · exact ih h.2.2
    · exact ⟨h.1, Tbl.del_above h.2.1, ih h.2.2⟩

theorem Tbl.put_canon [DecidableEq α] (h : Tbl.canon d t) : Tbl.canon d (Tbl.put d t i v) := by
  unfold Tbl.put
  split
  · exact Tbl.del_canon h
  · exact Tbl.ins_canon h ‹_›

/-- A write keeps the canonical form. -/
theorem Tbl.put_wf [DecidableEq α] (h : Tbl.wf d t = true) : Tbl.wf d (Tbl.put d t i v) = true :=
  Tbl.wf_of_canon (Tbl.put_canon (Tbl.canon_of_wf h))

theorem Tbl.get_ins_same : Tbl.get d (Tbl.ins i v t) i = v := by
  induction t with
  | nil => simp [Tbl.ins, Tbl.get]
  | cons e rest ih =>
    obtain ⟨k, w⟩ := e
    unfold Tbl.ins
    split
    · simp [Tbl.get]
    · split
      · simp [Tbl.get]
      · have : ¬ k = i := by omega
        simp [Tbl.get, this, ih]

theorem Tbl.get_ins_other (h : j ≠ i) : Tbl.get d (Tbl.ins i v t) j = Tbl.get d t j := by
  induction t with
  | nil => simp [Tbl.ins, Tbl.get, Ne.symm h]
  | cons e rest ih =>
    obtain ⟨k, w⟩ := e
    unfold Tbl.ins
    split
    · simp [Tbl.get, Ne.symm h]
    · split
      · rename_i _ heq; subst heq; simp [Tbl.get, Ne.symm h]
      · simp [Tbl.get, ih]

theorem Tbl.get_del_same : Tbl.get d (Tbl.del i t) i = d := by
  induction t with
  | nil => rfl
  | cons e rest ih =>
    obtain ⟨k, w⟩ := e
    unfold Tbl.del
    split
    · exact ih
    · rename_i hne; simp [Tbl.get, hne, ih]

theorem Tbl.get_del_other (h : j ≠ i) : Tbl.get d (Tbl.del i t) j = Tbl.get d t j := by
  induction t with
  | nil => rfl
  | cons e rest ih =>
    obtain ⟨k, w⟩ := e
    unfold Tbl.del
    split
    · rename_i heq; subst heq; simp [Tbl.get, Ne.symm h, ih]
    · simp [Tbl.get, ih]

/-- A read after a write to the same key. -/
@[simp] theorem Tbl.get_put_same [DecidableEq α] : Tbl.get d (Tbl.put d t i v) i = v := by
  unfold Tbl.put
  split
  · rename_i hv; rw [Tbl.get_del_same, hv]
  · exact Tbl.get_ins_same

/-- A write leaves every other key alone. -/
theorem Tbl.get_put_other [DecidableEq α] (h : j ≠ i) : Tbl.get d (Tbl.put d t i v) j = Tbl.get d t j := by
  unfold Tbl.put
  split
  · exact Tbl.get_del_other h
  · exact Tbl.get_ins_other h

end Tbl

section Mem
variable {m : Mem} {a b : Nat}

theorem Mem.setByte_wf {x : Byte} (h : Mem.wf m = true) : Mem.wf (Mem.setByte m a x) = true := Tbl.put_wf h

/-- Writing bytes keeps the canonical form. -/
theorem Mem.write_wf : ∀ (bs : List Byte) {m : Mem} {a : Nat}, Mem.wf m = true → Mem.wf (Mem.write m a bs) = true
  | [], _, _, h => h
  | _ :: bs, _, _, h => Mem.write_wf bs (Mem.setByte_wf h)

/-- Writing a number keeps the canonical form. -/
theorem Mem.setNat_wf {n v : Nat} (h : Mem.wf m = true) : Mem.wf (Mem.setNat m a n v) = true := Mem.write_wf _ h

theorem Mem.byte_setByte_same {x : Byte} : Mem.byte (Mem.setByte m a x) a = x := Tbl.get_put_same

theorem Mem.byte_setByte_other {x : Byte} (h : b ≠ a) : Mem.byte (Mem.setByte m a x) b = Mem.byte m b :=
  Tbl.get_put_other h

/-- Bytes outside those written read as before. -/
theorem Mem.byte_write_outside : ∀ (bs : List Byte) {m : Mem} {a : Nat}, (b < a ∨ a + bs.length ≤ b) →
    Mem.byte (Mem.write m a bs) b = Mem.byte m b
  | [], _, _, _ => rfl
  | x :: bs, m, a, h => by
    simp only [List.length_cons] at h
    rw [Mem.write, Mem.byte_write_outside bs (by omega), Mem.byte_setByte_other (by omega)]

/-- The bytes written are read back. -/
theorem Mem.byte_write_inside : ∀ (bs : List Byte) {m : Mem} {a i : Nat}, (hi : i < bs.length) →
    Mem.byte (Mem.write m a bs) (a + i) = bs[i]
  | x :: bs, m, a, 0, _ => by
    rw [Mem.write, Mem.byte_write_outside bs (by omega)]
    simpa using Mem.byte_setByte_same
  | x :: bs, m, a, i + 1, hi => by
    have := Mem.byte_write_inside bs (m := Mem.setByte m a x) (a := a + 1) (i := i) (by simpa using hi)
    rw [Mem.write, show a + (i + 1) = a + 1 + i by omega, this]; simp

@[simp] theorem leBytes_length : ∀ (n v : Nat), (leBytes n v).length = n
  | 0, _ => rfl
  | n + 1, v => by simp [leBytes, leBytes_length n]

/-- The bytes of a number hold the number. -/
theorem leNat_leBytes : ∀ (n v : Nat), leNat (leBytes n v) = v % 256 ^ n
  | 0, v => by simp [leBytes, leNat, Nat.mod_one]
  | n + 1, v => by
    simp only [leBytes, leNat, leNat_leBytes n, BitVec.toNat_ofNat]
    have e : (256 : Nat) ^ (n + 1) = 256 * 256 ^ n := by rw [Nat.pow_succ, Nat.mul_comm]
    rw [e, Nat.mod_mul]

theorem Mem.read_write_same {bs : List Byte} : Mem.read (Mem.write m a bs) a bs.length = bs := by
  apply List.ext_getElem
  · simp [Mem.read]
  · intro i h1 h2
    simp [Mem.read, Mem.byte_write_inside bs h2]

theorem Mem.nat_setNat_same {n v : Nat} : Mem.nat (Mem.setNat m a n v) a n = v % 256 ^ n := by
  unfold Mem.nat Mem.setNat
  have := Mem.read_write_same (m := m) (a := a) (bs := leBytes n v)
  rw [leBytes_length] at this
  rw [this, leNat_leBytes]

theorem Mem.read_write_outside {bs : List Byte} {n : Nat} (h : b + n ≤ a ∨ a + bs.length ≤ b) :
    Mem.read (Mem.write m a bs) b n = Mem.read m b n := by
  apply List.map_congr_left
  intro i hi
  have : i < n := List.mem_range.mp hi
  exact Mem.byte_write_outside bs (by omega)

theorem Mem.nat_setNat_outside {n v k : Nat} (h : b + k ≤ a ∨ a + n ≤ b) : Mem.nat (Mem.setNat m a n v) b k = Mem.nat m b k := by
  unfold Mem.nat Mem.setNat
  rw [Mem.read_write_outside (by simpa using h)]

end Mem

end Sys2Proof.Machine
end

