-- ==== Sys2Proof/Laws/Lookup.lean ====
section
/-!
SUPPORT. What is found under a name after an update: cores, parcels, threads, launches, contexts; and what the
re-evaluation of waits and the the entries of a core leave alone (R113 to R115).
-/

namespace Sys2Proof.Machine

section Find
variable {α : Type} {p : α → Bool} {g : α → α}

theorem find?_map_key (h : ∀ x, p (g x) = p x) : ∀ l : List α, (l.map g).find? p = (l.find? p).map g
  | [] => rfl
  | x :: l => by
    simp only [List.map_cons, List.find?_cons, h]
    cases p x
    · simpa using find?_map_key h l
    · rfl

end Find

variable {s : State}

/-! ### Parcels and threads -/

theorem State.parcel?_key {k : PKey} {p : Parcel} (h : s.parcel? k = some p) : p.key = k := by
  simpa using List.find?_some h

theorem Parcel.thread?_tix {p : Parcel} {x : Nat} {t : Thread} (h : p.thread? x = some t) : t.tix = x := by
  simpa using List.find?_some h

theorem State.thread?_tix {k : PKey} {x : Nat} {t : Thread} (h : s.thread? k x = some t) : t.tix = x := by
  unfold State.thread? at h
  split at h
  · exact Parcel.thread?_tix h
  · cases h

theorem State.thread?_eq {k : PKey} {p : Parcel} (h : s.parcel? k = some p) (x : Nat) : s.thread? k x = p.thread? x := by
  simp [State.thread?, h]

theorem State.thread?_parcel {k : PKey} {x : Nat} {t : Thread} (h : s.thread? k x = some t) :
    ∃ p, s.parcel? k = some p ∧ p.thread? x = some t := by
  unfold State.thread? at h
  split at h
  · exact ⟨_, ‹_›, h⟩
  · cases h

theorem State.parcel_eq {k : PKey} {p : Parcel} (h : s.parcel? k = some p) : s.parcel k = p := by simp [State.parcel, h]

theorem State.parcel?_modParcel {k : PKey} {f : Parcel → Parcel} (hf : ∀ p, (f p).key = p.key) :
    (s.modParcel k f).parcel? k = (s.parcel? k).map f := by
  unfold State.parcel? State.modParcel
  rw [find?_map_key]
  · cases h : s.parcels.find? (fun p => p.key == k) with
    | none => rfl
    | some p =>
      have : p.key = k := by simpa using List.find?_some h
      simp [this]
  · intro p; split <;> simp [hf]

theorem State.parcel?_modParcel_other {k k' : PKey} {f : Parcel → Parcel} (hf : ∀ p, (f p).key = p.key) (h : k' ≠ k) :
    (s.modParcel k f).parcel? k' = s.parcel? k' := by
  unfold State.parcel? State.modParcel
  rw [find?_map_key]
  · cases e : s.parcels.find? (fun p => p.key == k') with
    | none => rfl
    | some p =>
      have : p.key = k' := by simpa using List.find?_some e
      have : ¬ p.key = k := by rw [this]; exact h
      simp [this]
  · intro p; split <;> simp [hf]

theorem Parcel.thread?_modThread {p : Parcel} {x : Nat} {f : Thread → Thread} (hf : ∀ t, t.tix = x → (f t).tix = x) :
    (p.modThread x f).thread? x = (p.thread? x).map f := by
  unfold Parcel.thread? Parcel.modThread
  rw [find?_map_key]
  · cases h : p.threads.find? (fun t => t.tix == x) with
    | none => rfl
    | some t =>
      have : t.tix = x := by simpa using List.find?_some h
      simp [this]
  · intro t; split
    · rename_i h; simp [hf t h, h]
    · rfl

theorem Parcel.thread?_modThread_other {p : Parcel} {x y : Nat} {f : Thread → Thread} (hf : ∀ t, t.tix = x → (f t).tix = x) (h : y ≠ x) :
    (p.modThread x f).thread? y = p.thread? y := by
  unfold Parcel.thread? Parcel.modThread
  rw [find?_map_key]
  · cases e : p.threads.find? (fun t => t.tix == y) with
    | none => rfl
    | some t =>
      have : t.tix = y := by simpa using List.find?_some e
      have : ¬ t.tix = x := by omega
      simp [this]
  · intro t; split
    · rename_i h; simp [hf t h, h]
    · rfl

@[simp] theorem Parcel.modThread_key {p : Parcel} {x : Nat} {f : Thread → Thread} : (p.modThread x f).key = p.key := rfl
@[simp] theorem Parcel.retire_key {p : Parcel} {x : Nat} {pc : Word} : (p.retire x pc).key = p.key := rfl

theorem State.parcel?_modThread {k : PKey} {x : Nat} {f : Thread → Thread} :
    (s.modThread k x f).parcel? k = (s.parcel? k).map (fun p => p.modThread x f) :=
  State.parcel?_modParcel (fun _ => rfl)

theorem State.parcel?_modThread_other {k k' : PKey} {x : Nat} {f : Thread → Thread} (h : k' ≠ k) :
    (s.modThread k x f).parcel? k' = s.parcel? k' :=
  State.parcel?_modParcel_other (fun _ => rfl) h

theorem State.thread?_modThread {k : PKey} {x : Nat} {f : Thread → Thread} (hf : ∀ t, t.tix = x → (f t).tix = x) :
    (s.modThread k x f).thread? k x = (s.thread? k x).map f := by
  unfold State.thread?
  rw [State.parcel?_modThread]
  cases h : s.parcel? k with
  | none => rfl
  | some p => simpa using Parcel.thread?_modThread hf

theorem State.thread?_modThread_other {k k' : PKey} {x y : Nat} {f : Thread → Thread} (hf : ∀ t, t.tix = x → (f t).tix = x)
    (h : k' ≠ k ∨ y ≠ x) : (s.modThread k x f).thread? k' y = s.thread? k' y := by
  unfold State.thread?
  by_cases hk : k' = k
  · subst hk
    rw [State.parcel?_modThread]
    cases e : s.parcel? k' with
    | none => rfl
    | some p => simpa using Parcel.thread?_modThread_other hf (h.resolve_left (by simp))
  · rw [State.parcel?_modThread_other hk]

theorem State.thread?_retire {k : PKey} {x : Nat} {pc : Word} :
    (s.modParcel k (fun p => p.retire x pc)).thread? k x = (s.thread? k x).map (fun t => t.retire pc) := by
  unfold State.thread?
  rw [State.parcel?_modParcel (f := fun p => p.retire x pc) (fun _ => rfl)]
  cases h : s.parcel? k with
  | none => rfl
  | some p => exact Parcel.thread?_modThread (fun _ h => h)

theorem State.thread?_retire_other {k k' : PKey} {x y : Nat} {pc : Word} (h : k' ≠ k ∨ y ≠ x) :
    (s.modParcel k (fun p => p.retire x pc)).thread? k' y = s.thread? k' y := by
  unfold State.thread?
  by_cases hk : k' = k
  · subst hk
    rw [State.parcel?_modParcel (f := fun p => p.retire x pc) (fun _ => rfl)]
    cases e : s.parcel? k' with
    | none => rfl
    | some p => exact Parcel.thread?_modThread_other (fun _ h => h) (h.resolve_left (by simp))
  · rw [State.parcel?_modParcel_other (f := fun p => p.retire x pc) (fun _ => rfl) hk]

/-- Finding a parcel depends on the list of parcels alone. -/
theorem State.parcel?_congr {u : State} (h : u.parcels = s.parcels) (k : PKey) : u.parcel? k = s.parcel? k := by
  simp [State.parcel?, h]

theorem State.thread?_congr {u : State} (h : u.parcels = s.parcels) (k : PKey) (x : Nat) : u.thread? k x = s.thread? k x := by
  simp [State.thread?, State.parcel?, h]

theorem State.launch?_congr {u : State} (h : u.launches = s.launches) (l : LKey) : u.launch? l = s.launch? l := by
  simp [State.launch?, h]

theorem State.core_congr {u : State} (h : u.cores = s.cores) (c : Nat) : u.core c = s.core c := by simp [State.core, h]

theorem State.coreOf_congr {u : State} (h : u.parcels = s.parcels) (k : PKey) : u.coreOf k = s.coreOf k := by
  simp [State.coreOf, State.parcel?, h]

theorem State.ctx_congr {u : State} (h : u.ctxs = s.ctxs) (c : Nat) : u.ctx c = s.ctx c := by simp [State.ctx, h]

/-! ### Re-evaluation of waits and the entries -/

@[simp] theorem State.settleParcel_key {core : Nat} {p : Parcel} : (s.settleParcel core p).key = p.key := rfl

/-- A status that the re-evaluation of waits never changes. -/
def Status.still : Status → Bool
  | .short _ | .engine _ | .phase _ _ | .yielded _ => false
  | _ => true

theorem State.settleThread_still {core : Nat} {p : Parcel} {t : Thread} (h : t.status.still = true) :
    s.settleThread core p t = t := by
  unfold State.settleThread
  cases hs : t.status <;> simp_all [Status.still]

theorem State.settleThread_tix {core : Nat} {p : Parcel} {t : Thread} : (s.settleThread core p t).tix = t.tix := by
  unfold State.settleThread
  cases t.status <;> simp <;> split <;> rfl

theorem State.settle_parcel? {core : Nat} {k : PKey} :
    (s.settle core).parcel? k = (s.parcel? k).map (fun p =>
      if (s.core core).halting then p else if p.runsOn core then s.settleParcel core p else p) := by
  unfold State.settle
  split
  · cases s.parcel? k <;> rfl
  · unfold State.parcel?
    simp only
    rw [find?_map_key]
    intro p
    split <;> rfl

@[simp] theorem State.leave_parcels {core : Nat} : (s.leave core).parcels = s.parcels := rfl

theorem State.refresh_parcel? {core : Nat} {k : PKey} :
    (s.refresh core).parcel? k = (s.parcel? k).map (fun p =>
      if (s.core core).halting then p else if p.runsOn core then s.settleParcel core p else p) := by
  unfold State.refresh
  rw [State.parcel?_congr State.leave_parcels, State.settle_parcel?]

/-- A thread that waits for nothing stands unchanged after its core has re-evaluated its waits. -/
theorem State.refresh_thread {core : Nat} {k : PKey} {x : Nat} {t : Thread} (h : s.thread? k x = some t)
    (hq : t.status.still = true) : (s.refresh core).thread? k x = some t := by
  obtain ⟨p, hp, ht⟩ := State.thread?_parcel h
  have : (s.settleParcel core p).thread? x = some t := by
    show (p.threads.map (s.settleThread core p)).find? (fun t => t.tix == x) = some t
    rw [find?_map_key (fun t => by rw [State.settleThread_tix])]
    have : p.threads.find? (fun t => t.tix == x) = some t := ht
    rw [this]; simp [State.settleThread_still hq]
  unfold State.thread?
  rw [State.refresh_parcel?, hp]
  simp only [Option.map_some]
  split
  · exact ht
  · split
    · exact this
    · exact ht

/-- What the re-evaluation of waits never changes in a thread. -/
structure Thread.SameData (t u : Thread) : Prop where
  tix : u.tix = t.tix
  slot : u.slot = t.slot
  role : u.role = t.role
  g : u.g = t.g
  p : u.p = t.p
  c : u.c = t.c
  srseed : u.srseed = t.srseed
  tcause : u.tcause = t.tcause
  taddr : u.taddr = t.taddr
  tpc : u.tpc = t.tpc
  tsav0 : u.tsav0 = t.tsav0
  tsav1 : u.tsav1 = t.tsav1
  tstate : u.tstate = t.tstate
  due : u.due = t.due
  pend : u.pend = t.pend
  deliver : u.deliver = t.deliver
  storeQ : u.storeQ = t.storeQ
  counts : u.counts = t.counts
  own : u.own = t.own

theorem Thread.SameData.refl (t : Thread) : t.SameData t :=
  ⟨rfl, rfl, rfl, rfl, rfl, rfl, rfl, rfl, rfl, rfl, rfl, rfl, rfl, rfl, rfl, rfl, rfl, rfl, rfl⟩

theorem State.settleThread_sameData {core : Nat} {p : Parcel} {t : Thread} : t.SameData (s.settleThread core p t) := by
  unfold State.settleThread
  cases t.status <;> simp <;> first | exact .refl t | (split <;> first | exact .refl t | constructor <;> rfl)

/-- Every thread keeps its data when a core re-evaluates its waits. -/
theorem State.refresh_sameData {core : Nat} {k : PKey} {x : Nat} {t : Thread} (h : s.thread? k x = some t) :
    ∃ u, (s.refresh core).thread? k x = some u ∧ t.SameData u := by
  obtain ⟨p, hp, ht⟩ := State.thread?_parcel h
  have hx : (s.settleParcel core p).thread? x = some (s.settleThread core p t) := by
    show (p.threads.map (s.settleThread core p)).find? (fun t => t.tix == x) = _
    rw [find?_map_key (fun t => by rw [State.settleThread_tix])]
    have : p.threads.find? (fun t => t.tix == x) = some t := ht
    rw [this]; rfl
  unfold State.thread?
  rw [State.refresh_parcel?, hp]
  simp only [Option.map_some]
  split
  · exact ⟨t, ht, .refl t⟩
  · split
    · exact ⟨_, hx, State.settleThread_sameData⟩
    · exact ⟨t, ht, .refl t⟩

/-- What the re-evaluation of waits never changes in a parcel: everything but its threads and its count of retired
instructions. -/
theorem State.refresh_parcel {core : Nat} {k : PKey} {p : Parcel} (h : s.parcel? k = some p) :
    ∃ q, (s.refresh core).parcel? k = some q ∧ { q with threads := p.threads, retired := p.retired } = p := by
  rw [State.refresh_parcel?, h]
  refine ⟨_, rfl, ?_⟩
  simp only
  split
  · rfl
  · split <;> rfl

/-! ### Regrouping changes parcels and cores only -/

@[simp] theorem State.settle_schedule {core : Nat} : (s.settle core).schedule = s.schedule := by unfold State.settle; split <;> rfl
@[simp] theorem State.refresh_schedule {core : Nat} : (s.refresh core).schedule = s.schedule := State.settle_schedule
@[simp] theorem State.settle_choice {core : Nat} : (s.settle core).choice = s.choice := by unfold State.settle; split <;> rfl
@[simp] theorem State.refresh_choice {core : Nat} : (s.refresh core).choice = s.choice := State.settle_choice
@[simp] theorem State.settle_nextUid {core : Nat} : (s.settle core).nextUid = s.nextUid := by unfold State.settle; split <;> rfl
@[simp] theorem State.refresh_nextUid {core : Nat} : (s.refresh core).nextUid = s.nextUid := State.settle_nextUid
@[simp] theorem State.settle_group {core : Nat} : (s.settle core).group = s.group := by unfold State.settle; split <;> rfl
@[simp] theorem State.refresh_group {core : Nat} : (s.refresh core).group = s.group := State.settle_group
@[simp] theorem State.settle_command {core : Nat} : (s.settle core).command = s.command := by unfold State.settle; split <;> rfl
@[simp] theorem State.refresh_command {core : Nat} : (s.refresh core).command = s.command := State.settle_command
@[simp] theorem State.settle_tb {core : Nat} : (s.settle core).tb = s.tb := by unfold State.settle; split <;> rfl
@[simp] theorem State.refresh_tb {core : Nat} : (s.refresh core).tb = s.tb := State.settle_tb
@[simp] theorem State.settle_clk {core : Nat} : (s.settle core).clk = s.clk := by unfold State.settle; split <;> rfl
@[simp] theorem State.refresh_clk {core : Nat} : (s.refresh core).clk = s.clk := State.settle_clk
@[simp] theorem State.settle_boot {core : Nat} : (s.settle core).boot = s.boot := by unfold State.settle; split <;> rfl
@[simp] theorem State.refresh_boot {core : Nat} : (s.refresh core).boot = s.boot := State.settle_boot
@[simp] theorem State.settle_bootStatus {core : Nat} : (s.settle core).bootStatus = s.bootStatus := by unfold State.settle; split <;> rfl
@[simp] theorem State.refresh_bootStatus {core : Nat} : (s.refresh core).bootStatus = s.bootStatus := State.settle_bootStatus
@[simp] theorem State.settle_firmware {core : Nat} : (s.settle core).firmware = s.firmware := by unfold State.settle; split <;> rfl
@[simp] theorem State.refresh_firmware {core : Nat} : (s.refresh core).firmware = s.firmware := State.settle_firmware
@[simp] theorem State.settle_vendorKey {core : Nat} : (s.settle core).vendorKey = s.vendorKey := by unfold State.settle; split <;> rfl
@[simp] theorem State.refresh_vendorKey {core : Nat} : (s.refresh core).vendorKey = s.vendorKey := State.settle_vendorKey
@[simp] theorem State.settle_fuseKey {core : Nat} : (s.settle core).fuseKey = s.fuseKey := by unfold State.settle; split <;> rfl
@[simp] theorem State.refresh_fuseKey {core : Nat} : (s.refresh core).fuseKey = s.fuseKey := State.settle_fuseKey
@[simp] theorem State.settle_fuseVersions {core : Nat} : (s.settle core).fuseVersions = s.fuseVersions := by unfold State.settle; split <;> rfl
@[simp] theorem State.refresh_fuseVersions {core : Nat} : (s.refresh core).fuseVersions = s.fuseVersions := State.settle_fuseVersions
@[simp] theorem State.settle_measurements {core : Nat} : (s.settle core).measurements = s.measurements := by unfold State.settle; split <;> rfl
@[simp] theorem State.refresh_measurements {core : Nat} : (s.refresh core).measurements = s.measurements := State.settle_measurements
@[simp] theorem State.settle_signatures {core : Nat} : (s.settle core).signatures = s.signatures := by unfold State.settle; split <;> rfl
@[simp] theorem State.refresh_signatures {core : Nat} : (s.refresh core).signatures = s.signatures := State.settle_signatures
@[simp] theorem State.settle_hbm {core : Nat} : (s.settle core).hbm = s.hbm := by unfold State.settle; split <;> rfl
@[simp] theorem State.refresh_hbm {core : Nat} : (s.refresh core).hbm = s.hbm := State.settle_hbm
@[simp] theorem State.settle_lp {core : Nat} : (s.settle core).lp = s.lp := by unfold State.settle; split <;> rfl
@[simp] theorem State.refresh_lp {core : Nat} : (s.refresh core).lp = s.lp := State.settle_lp
@[simp] theorem State.settle_weight {core : Nat} : (s.settle core).weight = s.weight := by unfold State.settle; split <;> rfl
@[simp] theorem State.refresh_weight {core : Nat} : (s.refresh core).weight = s.weight := State.settle_weight
@[simp] theorem State.settle_link {core : Nat} : (s.settle core).link = s.link := by unfold State.settle; split <;> rfl
@[simp] theorem State.refresh_link {core : Nat} : (s.refresh core).link = s.link := State.settle_link
@[simp] theorem State.settle_memFaults {core : Nat} : (s.settle core).memFaults = s.memFaults := by unfold State.settle; split <;> rfl
@[simp] theorem State.refresh_memFaults {core : Nat} : (s.refresh core).memFaults = s.memFaults := State.settle_memFaults
@[simp] theorem State.settle_poison {core : Nat} : (s.settle core).poison = s.poison := by unfold State.settle; split <;> rfl
@[simp] theorem State.refresh_poison {core : Nat} : (s.refresh core).poison = s.poison := State.settle_poison
@[simp] theorem State.settle_launches {core : Nat} : (s.settle core).launches = s.launches := by unfold State.settle; split <;> rfl
@[simp] theorem State.refresh_launches {core : Nat} : (s.refresh core).launches = s.launches := State.settle_launches
@[simp] theorem State.settle_ctxs {core : Nat} : (s.settle core).ctxs = s.ctxs := by unfold State.settle; split <;> rfl
@[simp] theorem State.refresh_ctxs {core : Nat} : (s.refresh core).ctxs = s.ctxs := State.settle_ctxs
@[simp] theorem State.settle_regions {core : Nat} : (s.settle core).regions = s.regions := by unfold State.settle; split <;> rfl
@[simp] theorem State.refresh_regions {core : Nat} : (s.refresh core).regions = s.regions := State.settle_regions
@[simp] theorem State.settle_slices {core : Nat} : (s.settle core).slices = s.slices := by unfold State.settle; split <;> rfl
@[simp] theorem State.refresh_slices {core : Nat} : (s.refresh core).slices = s.slices := State.settle_slices
@[simp] theorem State.settle_circle {core : Nat} : (s.settle core).circle = s.circle := by unfold State.settle; split <;> rfl
@[simp] theorem State.refresh_circle {core : Nat} : (s.refresh core).circle = s.circle := State.settle_circle
@[simp] theorem State.settle_replies {core : Nat} : (s.settle core).replies = s.replies := by unfold State.settle; split <;> rfl
@[simp] theorem State.refresh_replies {core : Nat} : (s.refresh core).replies = s.replies := State.settle_replies
@[simp] theorem State.settle_nodes {core : Nat} : (s.settle core).nodes = s.nodes := by unfold State.settle; split <;> rfl
@[simp] theorem State.refresh_nodes {core : Nat} : (s.refresh core).nodes = s.nodes := State.settle_nodes
@[simp] theorem State.settle_routes {core : Nat} : (s.settle core).routes = s.routes := by unfold State.settle; split <;> rfl
@[simp] theorem State.refresh_routes {core : Nat} : (s.refresh core).routes = s.routes := State.settle_routes
@[simp] theorem State.settle_migrations {core : Nat} : (s.settle core).migrations = s.migrations := by unfold State.settle; split <;> rfl
@[simp] theorem State.refresh_migrations {core : Nat} : (s.refresh core).migrations = s.migrations := State.settle_migrations
@[simp] theorem State.settle_bases {core : Nat} : (s.settle core).bases = s.bases := by unfold State.settle; split <;> rfl
@[simp] theorem State.refresh_bases {core : Nat} : (s.refresh core).bases = s.bases := State.settle_bases
@[simp] theorem State.settle_steals {core : Nat} : (s.settle core).steals = s.steals := by unfold State.settle; split <;> rfl
@[simp] theorem State.refresh_steals {core : Nat} : (s.refresh core).steals = s.steals := State.settle_steals
@[simp] theorem State.settle_linksDown {core : Nat} : (s.settle core).linksDown = s.linksDown := by unfold State.settle; split <;> rfl
@[simp] theorem State.refresh_linksDown {core : Nat} : (s.refresh core).linksDown = s.linksDown := State.settle_linksDown
@[simp] theorem State.settle_chips {core : Nat} : (s.settle core).chips = s.chips := by unfold State.settle; split <;> rfl
@[simp] theorem State.refresh_chips {core : Nat} : (s.refresh core).chips = s.chips := State.settle_chips
@[simp] theorem State.settle_msixTable {core : Nat} : (s.settle core).msixTable = s.msixTable := by unfold State.settle; split <;> rfl
@[simp] theorem State.refresh_msixTable {core : Nat} : (s.refresh core).msixTable = s.msixTable := State.settle_msixTable
@[simp] theorem State.settle_touched {core : Nat} : (s.settle core).touched = s.touched := by unfold State.settle; split <;> rfl
@[simp] theorem State.refresh_touched {core : Nat} : (s.refresh core).touched = s.touched := State.settle_touched
@[simp] theorem State.settle_images {core : Nat} : (s.settle core).images = s.images := by unfold State.settle; split <;> rfl
@[simp] theorem State.refresh_images {core : Nat} : (s.refresh core).images = s.images := State.settle_images
@[simp] theorem State.settle_lanesDown {core : Nat} : (s.settle core).lanesDown = s.lanesDown := by unfold State.settle; split <;> rfl
@[simp] theorem State.refresh_lanesDown {core : Nat} : (s.refresh core).lanesDown = s.lanesDown := State.settle_lanesDown
@[simp] theorem State.settle_tests {core : Nat} : (s.settle core).tests = s.tests := by unfold State.settle; split <;> rfl
@[simp] theorem State.refresh_tests {core : Nat} : (s.refresh core).tests = s.tests := State.settle_tests
@[simp] theorem State.settle_errorRing {core : Nat} : (s.settle core).errorRing = s.errorRing := by unfold State.settle; split <;> rfl
@[simp] theorem State.refresh_errorRing {core : Nat} : (s.refresh core).errorRing = s.errorRing := State.settle_errorRing
@[simp] theorem State.settle_hotRemove {core : Nat} : (s.settle core).hotRemove = s.hotRemove := by unfold State.settle; split <;> rfl
@[simp] theorem State.refresh_hotRemove {core : Nat} : (s.refresh core).hotRemove = s.hotRemove := State.settle_hotRemove
@[simp] theorem State.settle_msix {core : Nat} : (s.settle core).msix = s.msix := by unfold State.settle; split <;> rfl
@[simp] theorem State.refresh_msix {core : Nat} : (s.refresh core).msix = s.msix := State.settle_msix
@[simp] theorem State.settle_reports {core : Nat} : (s.settle core).reports = s.reports := by unfold State.settle; split <;> rfl
@[simp] theorem State.refresh_reports {core : Nat} : (s.refresh core).reports = s.reports := State.settle_reports
@[simp] theorem State.settle_latched {core : Nat} : (s.settle core).latched = s.latched := by unfold State.settle; split <;> rfl
@[simp] theorem State.refresh_latched {core : Nat} : (s.refresh core).latched = s.latched := State.settle_latched
@[simp] theorem State.settle_latchedClk {core : Nat} : (s.settle core).latchedClk = s.latchedClk := by unfold State.settle; split <;> rfl
@[simp] theorem State.refresh_latchedClk {core : Nat} : (s.refresh core).latchedClk = s.latchedClk := State.settle_latchedClk
@[simp] theorem State.settle_window {core : Nat} : (s.settle core).window = s.window := by unfold State.settle; split <;> rfl
@[simp] theorem State.refresh_window {core : Nat} : (s.refresh core).window = s.window := State.settle_window

end Sys2Proof.Machine
end

