-- ==== Sys2Proof/Laws/Issue.lean ====
section
/-!
SUPPORT. What the issue of an instruction does (R38, R116, R151), said once: for a group whose threads all execute a per-thread
arithmetic instruction, and for a group of one thread with any instruction.
-/

namespace Sys2Proof.Machine

/-! ### Sorting keeps the elements -/

theorem insertBy_perm {α : Type} (le : α → α → Bool) (x : α) : ∀ l : List α, (insertBy le x l).Perm (x :: l)
  | [] => List.Perm.refl _
  | y :: ys => by
    unfold insertBy
    split
    · exact ((insertBy_perm le x ys).cons y).trans (List.Perm.swap x y ys)
    · exact List.Perm.refl _

theorem sortBy_perm {α : Type} (le : α → α → Bool) (l : List α) : (sortBy le l).Perm l := by
  unfold sortBy
  suffices h : ∀ (l acc : List α), (l.foldl (fun acc x => insertBy le x acc) acc).Perm (acc ++ l) by simpa using h l []
  intro l
  induction l with
  | nil => intro acc; simp
  | cons x xs ih =>
    intro acc
    refine (ih _).trans ?_
    refine ((insertBy_perm le x acc).append_right xs).trans ?_
    simpa using (List.perm_middle (l₁ := acc) (a := x) (l₂ := xs)).symm

theorem sortBy_mem {α : Type} {le : α → α → Bool} {l : List α} {x : α} : x ∈ sortBy le l ↔ x ∈ l := (sortBy_perm le l).mem_iff
theorem sortBy_nodup {α : Type} {le : α → α → Bool} {l : List α} : (sortBy le l).Nodup ↔ l.Nodup := (sortBy_perm le l).nodup_iff
@[simp] theorem sortBy_singleton {α : Type} {le : α → α → Bool} {x : α} : sortBy le [x] = [x] := rfl

/-! ### Readiness -/

variable {s : State} {g : Group} {i : Instr}

theorem State.readiness_eq {sig : Sig} {x : Nat} {t : Thread} {l : Launch} (ht : s.thread? g.key x = some t)
    (hl : s.launch? g.key.launchKey = some l) : s.readiness g sig x = t.readiness l sig := by
  simp [State.readiness, ht, hl]

theorem State.readiness_congr {u : State} (hp : u.parcels = s.parcels) (hl : u.launches = s.launches) (sig : Sig) (x : Nat) :
    u.readiness g sig x = s.readiness g sig x := by
  simp [State.readiness, State.thread?_congr hp, State.launch?_congr hl]

/-- A group none of whose threads is short of an operand does issue. -/
theorem State.held_eq_false {sig : Sig} (h : ∀ x ∈ g.tixs, ∀ ds, s.readiness g sig x ≠ .short ds) : s.held g sig = false := by
  unfold State.held
  rw [List.any_eq_false]
  intro x hx
  unfold State.shortOf
  have := h x hx
  cases e : s.readiness g sig x <;> simp_all

theorem issueWith_next {α : Type} {pre : Group → List Nat → State → State × α} {body : α → Body} {post : Group → State → State}
    (hg : s.group = some g) (hh : s.held g i.sig = false) :
    issueWith i pre body post s = .next ((post g ((sortBy (fun a b => decide (a % 32 ≤ b % 32)) g.tixs).foldl
      (issueThread g i (body (pre g (s.executing g i.sig) { s with group := none }).2))
      (pre g (s.executing g i.sig) { s with group := none }).1)).refresh g.core) := by
  have h2 : State.held { s with group := none } g i.sig = s.held g i.sig := rfl
  have h3 : State.executing { s with group := none } g i.sig = s.executing g i.sig := rfl
  unfold issueWith
  rw [hg]
  simp only [h2, hh, h3]
  rfl

/-! ### One thread of the group -/

/-- The thread after an instruction that retires. -/
def Thread.after (t t1 : Thread) (g : Group) (i : Instr) : Thread :=
  (t1.retire (t.pc + BitVec.ofNat 32 g.size)).withReuse (nextReuse i g.tixs)

theorem issueThread_go {body : Body} {x : Nat} {t : Thread} (ht : s.thread? g.key x = some t)
    (hr : s.readiness g i.sig x = .go) : issueThread g i body s x = s.carry g i t (body s g.key t) := by
  unfold issueThread
  simp only [ht, hr]

theorem issueThread_skip {body : Body} {x : Nat} {t : Thread} (ht : s.thread? g.key x = some t)
    (hr : s.readiness g i.sig x = .skip) : issueThread g i body s x = s.passOver g t := by
  unfold issueThread
  simp only [ht, hr]

theorem State.count_parcels' (c n k : Nat) : (s.count c n k).parcels = s.parcels := State.count_parcels s c n k

theorem State.thread?_goOn {t : Thread} {pc : Word} :
    (s.goOn g i t pc).thread? g.key t.tix = (s.thread? g.key t.tix).map (fun u => (u.retire pc).withReuse (nextReuse i g.tixs)) := by
  unfold State.goOn
  rw [State.thread?_congr (State.count_parcels' ..), State.thread?_modThread (hf := by exact fun _ h => h), State.thread?_retire]
  cases s.thread? g.key t.tix <;> rfl

theorem State.thread?_goOn_other {t : Thread} {pc : Word} {k : PKey} {y : Nat} (h : k ≠ g.key ∨ y ≠ t.tix) :
    (s.goOn g i t pc).thread? k y = s.thread? k y := by
  unfold State.goOn
  rw [State.thread?_congr (State.count_parcels' ..), State.thread?_modThread_other (hf := by exact fun _ h => h) h, State.thread?_retire_other h]

/-- Only one thread's entry changes where it executes a per-thread arithmetic instruction. -/
theorem issueThread_arith {f : Thread → Except Trap Thread} {x : Nat} {t t1 : Thread} (ht : s.thread? g.key x = some t)
    (hr : s.readiness g i.sig x = .go) (hf : f t = .ok t1) (h1 : t1.tix = t.tix) :
    (issueThread g i (arithBody i.sig f) s x).thread? g.key x = some (t.after (t1.mark i.sig) g i) ∧
    (∀ k y, (k ≠ g.key ∨ y ≠ x) → (issueThread g i (arithBody i.sig f) s x).thread? k y = s.thread? k y) := by
  have hx : t.tix = x := State.thread?_tix ht
  subst hx
  have put : ∀ u : Thread, u.tix = t.tix → (t1.mark i.sig).tix = t.tix := fun _ _ => h1
  rw [issueThread_go ht hr]
  simp only [arithBody, hf, State.carry]
  constructor
  · rw [State.thread?_goOn, State.thread?_modThread put, ht]; rfl
  · intro k y hky
    rw [State.thread?_goOn_other hky, State.thread?_modThread_other put hky]

/-- The state without its parcels and contexts. -/
def State.apart (s : State) : State := { s with parcels := [], ctxs := [] }

/-- What per-thread arithmetic leaves alone: everything but threads, retired counts and counters. -/
structure State.OnlyThreads (s u : State) : Prop where
  rest : u.apart = s.apart
  parcels : ∀ k, (u.parcel? k).map (fun p => { p with threads := [], retired := 0 })
    = (s.parcel? k).map (fun p => { p with threads := [], retired := 0 })
  ctxs : ∀ c, { u.ctx c with counters := [] } = { s.ctx c with counters := [] }

theorem State.OnlyThreads.refl (s : State) : s.OnlyThreads s := ⟨rfl, fun _ => rfl, fun _ => rfl⟩

theorem State.OnlyThreads.trans {s u v : State} (h : s.OnlyThreads u) (h' : u.OnlyThreads v) : s.OnlyThreads v :=
  ⟨h'.rest.trans h.rest, fun k => (h'.parcels k).trans (h.parcels k), fun c => (h'.ctxs c).trans (h.ctxs c)⟩

theorem State.OnlyThreads.launches {u : State} (h : s.OnlyThreads u) : u.launches = s.launches := by
  show u.apart.launches = s.apart.launches; rw [h.rest]
theorem State.OnlyThreads.cores {u : State} (h : s.OnlyThreads u) : u.cores = s.cores := by
  show u.apart.cores = s.apart.cores; rw [h.rest]

theorem State.OnlyThreads.launch? {u : State} (h : s.OnlyThreads u) (l : LKey) : u.launch? l = s.launch? l :=
  State.launch?_congr h.launches l

theorem State.modParcel_onlyThreads {k : PKey} {f : Parcel → Parcel}
    (hf : ∀ p, { f p with threads := [], retired := 0 } = { p with threads := [], retired := 0 }) : s.OnlyThreads (s.modParcel k f) := by
  refine ⟨rfl, fun k' => ?_, fun _ => rfl⟩
  have hk : ∀ p, (f p).key = p.key := fun p => by have := congrArg Parcel.key (hf p); exact this
  by_cases h : k' = k
  · subst h
    rw [State.parcel?_modParcel hk]
    cases s.parcel? k' with
    | none => rfl
    | some p => simp [hf]
  · rw [State.parcel?_modParcel_other hk h]

theorem State.modThread_onlyThreads {k : PKey} {x : Nat} {f : Thread → Thread} : s.OnlyThreads (s.modThread k x f) :=
  State.modParcel_onlyThreads (fun _ => rfl)

theorem State.count_onlyThreads {c n k : Nat} : s.OnlyThreads (s.count c n k) := by
  unfold State.count
  split
  · exact State.OnlyThreads.refl s
  · refine ⟨rfl, fun _ => rfl, fun d => ?_⟩
    unfold State.modCtx State.ctx
    by_cases h : d = c
    · subst h; simp
    · simp only; rw [Tbl.get_put_other h]

theorem State.goOn_onlyThreads {t : Thread} {pc : Word} : s.OnlyThreads (s.goOn g i t pc) := by
  unfold State.goOn
  have h1 : s.OnlyThreads (s.modParcel g.key (fun p => p.retire t.tix pc)) := State.modParcel_onlyThreads (fun _ => rfl)
  exact (h1.trans State.modThread_onlyThreads).trans State.count_onlyThreads

theorem issueThread_arith_onlyThreads {f : Thread → Except Trap Thread} {x : Nat} {t t1 : Thread} (ht : s.thread? g.key x = some t)
    (hr : s.readiness g i.sig x = .go) (hf : f t = .ok t1) : s.OnlyThreads (issueThread g i (arithBody i.sig f) s x) := by
  rw [issueThread_go ht hr]
  simp only [arithBody, hf, State.carry]
  exact State.OnlyThreads.trans State.modThread_onlyThreads State.goOn_onlyThreads

/-! ### A whole group of per-thread arithmetic -/

/-- Every thread of a group executes the instruction, and `f` answers for each. -/
theorem fold_arith {f : Thread → Except Trap Thread} : ∀ (xs : List Nat) (s : State), xs.Nodup →
    (∀ x ∈ xs, ∃ t t1, s.thread? g.key x = some t ∧ s.readiness g i.sig x = .go ∧ f t = .ok t1 ∧ t1.tix = t.tix) →
    (∀ x ∈ xs, ∀ t t1, s.thread? g.key x = some t → f t = .ok t1 →
      (xs.foldl (issueThread g i (arithBody i.sig f)) s).thread? g.key x = some (t.after (t1.mark i.sig) g i)) ∧
    (∀ k y, (k ≠ g.key ∨ y ∉ xs) → (xs.foldl (issueThread g i (arithBody i.sig f)) s).thread? k y = s.thread? k y) ∧
    s.OnlyThreads (xs.foldl (issueThread g i (arithBody i.sig f)) s)
  | [], s, _, _ => ⟨by simp, fun _ _ _ => rfl, .refl s⟩
  | x :: xs, s, hn, h => by
    obtain ⟨t, t1, ht, hr, hf, h1⟩ := h x (by simp)
    have hx := List.nodup_cons.mp hn
    have one := issueThread_arith ht hr hf h1
    have only := issueThread_arith_onlyThreads ht hr hf
    have step : ∀ y ∈ xs, (issueThread g i (arithBody i.sig f) s x).thread? g.key y = s.thread? g.key y := fun y hy =>
      one.2 g.key y (.inr (fun e => hx.1 (e ▸ hy)))
    have ih := fold_arith xs (issueThread g i (arithBody i.sig f) s x) hx.2 (fun y hy => by
      obtain ⟨t', t1', ht', hr', hf', h1'⟩ := h y (by simp [hy])
      refine ⟨t', t1', (step y hy).trans ht', ?_, hf', h1'⟩
      rw [← hr']
      unfold State.readiness
      rw [step y hy, only.launch?])
    refine ⟨?_, ?_, only.trans ih.2.2⟩
    · intro y hy t' t1' ht' hf'
      rcases List.mem_cons.mp hy with rfl | hy
      · rw [ht] at ht'; cases ht'
        rw [hf] at hf'; cases hf'
        rw [List.foldl_cons, ih.2.1 g.key y (.inr hx.1)]
        exact one.1
      · exact ih.1 y hy t' t1' ((step y hy).trans ht') hf'
    · intro k y hky
      rw [List.foldl_cons, ih.2.1 k y (hky.imp_right (fun h hy => h (by simp [hy])))]
      exact one.2 k y (hky.imp_right (fun h e => h (by simp [e])))

/-- A group issues a per-thread arithmetic instruction: every thread takes `f`'s result and goes on, and nothing else changes
but the waits and groups of the core. -/
theorem issue_arith {f : Thread → Except Trap Thread} (hg : s.group = some g) (hn : g.tixs.Nodup)
    (h : ∀ x ∈ g.tixs, ∃ t t1, s.thread? g.key x = some t ∧ s.readiness g i.sig x = .go ∧ f t = .ok t1 ∧ t1.tix = t.tix) :
    ∃ v, issue i (arithBody i.sig f) s = .next (v.refresh g.core) ∧
      (∀ x ∈ g.tixs, ∀ t t1, s.thread? g.key x = some t → f t = .ok t1 →
        v.thread? g.key x = some (t.after (t1.mark i.sig) g i)) ∧
      (∀ k y, (k ≠ g.key ∨ y ∉ g.tixs) → v.thread? k y = s.thread? k y) ∧
      State.OnlyThreads { s with group := none } v := by
  have hh : s.held g i.sig = false := State.held_eq_false (fun x hx ds => by
    obtain ⟨t, t1, ht, hr, -⟩ := h x hx; rw [hr]; simp)
  have hm : ∀ x, x ∈ sortBy (fun a b => decide (a % 32 ≤ b % 32)) g.tixs ↔ x ∈ g.tixs := fun x => sortBy_mem
  have r := fold_arith (g := g) (i := i) (f := f) (sortBy (fun a b => decide (a % 32 ≤ b % 32)) g.tixs) { s with group := none }
    (sortBy_nodup.mpr hn) (fun x hx => h x ((hm x).mp hx))
  refine ⟨_, issueWith_next hg hh, ?_, ?_, r.2.2⟩
  · intro x hx t t1 ht hf
    exact r.1 x ((hm x).mpr hx) t t1 ht hf
  · intro k y hky
    exact r.2.1 k y (hky.imp_right (fun h hy => h ((hm y).mp hy)))

/-! ### A group of one thread -/

/-- A group of one thread that executes an instruction whose threads do not interact. -/
theorem issue_one {body : Body} {t : Thread} (hg : s.group = some g) (hx : g.tixs = [t.tix])
    (_ht : s.thread? g.key t.tix = some t) (hr : s.readiness g i.sig t.tix = .go) :
    issue i body s = .next ((issueThread g i body { s with group := none } t.tix).refresh g.core) := by
  have hh : s.held g i.sig = false := State.held_eq_false (fun x h ds => by
    rw [hx] at h; simp only [List.mem_singleton] at h; subst h; rw [hr]; simp)
  unfold issue
  rw [issueWith_next hg hh, hx]
  rfl

end Sys2Proof.Machine
end

