-- ==== Sys2Proof/Laws/Operands.lean ====
section
/-!
SUPPORT. Registers read back what was written to them (R36, R83, R148, R149), and the values of integer results (R82).
-/

namespace Sys2Proof.Machine

variable (t : Thread)

/-! ### Reads after writes -/

@[simp] theorem Thread.reg_setReg_same (n : Nat) (v : Word) : (t.setReg n v).reg n = v := Tbl.get_put_same
theorem Thread.reg_setReg_other {n m : Nat} (v : Word) (h : m ≠ n) : (t.setReg n v).reg m = t.reg m := Tbl.get_put_other h
@[simp] theorem Thread.cap_setCap_same (n : Nat) (k : QWord) : (t.setCap n k).cap n = k := Tbl.get_put_same
theorem Thread.cap_setCap_other {n m : Nat} (k : QWord) (h : m ≠ n) : (t.setCap n k).cap m = t.cap m := Tbl.get_put_other h

theorem Thread.pred_setPred_same {n : Nat} (h : n < 16) (b : Bool) : (t.setPred n b).pred n = b := by
  unfold Thread.pred Thread.setPred
  cases b <;> simp [h]

theorem Thread.pred_setPred_other {n m : Nat} (h : m ≠ n) (b : Bool) : (t.setPred n b).pred m = t.pred m := by
  unfold Thread.pred Thread.setPred
  by_cases hm : m < 16
  · have h1 : ¬ m - n = 0 ∨ m < n := by omega
    cases b <;> simp [hm] <;> rcases h1 with h1 | h1 <;> simp [h1]
  · have : ∀ v : BitVec 16, v.getLsbD m = false := fun v => BitVec.getLsbD_of_ge v m (by omega)
    rw [this, this]

theorem Thread.pair_setPair_same (n : Nat) (v : DWord) : (t.setPair n v).pair n = v := by
  unfold Thread.pair Thread.setPair
  rw [Thread.reg_setReg_same, Thread.reg_setReg_other _ _ (by omega), Thread.reg_setReg_same]
  apply BitVec.eq_of_getLsbD_eq
  intro i hi
  rw [BitVec.getLsbD_append]
  split
  · simp_all
  · simp only [BitVec.getLsbD_extractLsb']
    rw [decide_eq_true (by omega), show 32 + (i - 32) = i by omega]
    rfl

theorem Thread.reg_setPair_other {n m : Nat} (v : DWord) (h : m ≠ n) (h' : m ≠ n + 1) : (t.setPair n v).reg m = t.reg m := by
  unfold Thread.setPair
  rw [Thread.reg_setReg_other _ _ h', Thread.reg_setReg_other _ _ h]

@[simp] theorem Thread.cap_setReg (n m : Nat) (v : Word) : (t.setReg n v).cap m = t.cap m := rfl
@[simp] theorem Thread.pred_setReg (n m : Nat) (v : Word) : (t.setReg n v).pred m = t.pred m := rfl
@[simp] theorem Thread.reg_setPred (n m : Nat) (b : Bool) : (t.setPred n b).reg m = t.reg m := rfl
@[simp] theorem Thread.reg_setCap (n m : Nat) (k : QWord) : (t.setCap n k).reg m = t.reg m := rfl

/-- A result leaves the registers alone that its type's width does not name. -/
theorem Thread.reg_out_other {d : BitVec 9} {ty : TypeCode} {b m : Nat} (h : m ≠ d.toNat) (h' : ty.bits = 64 → m ≠ d.toNat + 1) :
    (t.out d ty b).reg m = t.reg m := by
  unfold Thread.out
  split
  · exact Thread.reg_setPair_other t _ h (h' ‹_›)
  · exact Thread.reg_setReg_other t _ h

/-! ### Patterns read back -/

theorem signedOf_mod {x w : Nat} (h : x < 2 ^ w) : (signedOf x w) % ((2 ^ w : Nat) : Int) = x := by
  have hx : ((x : Int)) < ((2 ^ w : Nat) : Int) := by exact_mod_cast h
  unfold signedOf
  split
  · exact Int.emod_eq_of_lt (by omega) hx
  · rw [Int.sub_emod_right]
    exact Int.emod_eq_of_lt (by omega) hx

end Sys2Proof.Machine

namespace Sys2Proof

theorem TypeCode.bits_pos (ty : TypeCode) : 0 < ty.bits := by cases ty <;> decide
theorem TypeCode.bits_le_of_ne {ty : TypeCode} (h : ty.bits ≠ 64) : ty.bits ≤ 32 := by cases ty <;> simp_all [TypeCode.bits]
theorem TypeCode.bits_le (ty : TypeCode) : ty.bits ≤ 64 := by cases ty <;> decide

end Sys2Proof

namespace Sys2Proof.Machine

/-- The register bits of a pattern hold the pattern. -/
theorem extend_mod {ty : TypeCode} (h : ty.bits ≠ 64) (b : Nat) : (ty.extend b).toNat % 2 ^ ty.bits = b % 2 ^ ty.bits := by
  have hle : ty.bits ≤ 32 := TypeCode.bits_le_of_ne h
  have hd : 2 ^ ty.bits ∣ 2 ^ 32 := Nat.pow_dvd_pow 2 hle
  unfold TypeCode.extend
  split
  · rw [BitVec.toNat_ofInt]
    have hb : b % 2 ^ ty.bits < 2 ^ ty.bits := Nat.mod_lt _ (Nat.two_pow_pos _)
    have e := signedOf_mod hb
    have nn : 0 ≤ signedOf (b % 2 ^ ty.bits) ty.bits % ((2 ^ 32 : Nat) : Int) := Int.emod_nonneg _ (by decide)
    have key : (((signedOf (b % 2 ^ ty.bits) ty.bits % ((2 ^ 32 : Nat) : Int)).toNat % 2 ^ ty.bits : Nat) : Int)
        = ((b % 2 ^ ty.bits : Nat) : Int) := by
      rw [Int.natCast_emod, Int.toNat_of_nonneg nn, Int.emod_emod_of_dvd _ (by exact_mod_cast hd), e]
    exact_mod_cast key
  · rw [BitVec.toNat_ofNat, Nat.mod_mod_of_dvd _ hd, Nat.mod_mod]

/-- A destination reads back as the pattern written, at the width of its type. -/
theorem Thread.bits_out (t : Thread) (d : BitVec 9) (ty : TypeCode) (b : Nat) : (t.out d ty b).bits d false ty = b % 2 ^ ty.bits := by
  unfold Thread.bits Thread.out
  simp only [Bool.false_eq_true, if_false]
  split
  · rename_i h
    rw [Thread.pair_setPair_same, BitVec.toNat_ofNat, h]
  · rename_i h
    rw [Thread.reg_setReg_same]
    exact extend_mod h b

/-- The pattern of an exact value reads back as a number within the type that differs from it by a multiple of 2^w. -/
theorem intValue_wrapInt {ty : TypeCode} (e : Int) :
    ty.intValue (wrapInt e ty.bits) % ((2 ^ ty.bits : Nat) : Int) = e % ((2 ^ ty.bits : Nat) : Int) := by
  have hp : (0 : Int) < ((2 ^ ty.bits : Nat) : Int) := by exact_mod_cast Nat.two_pow_pos _
  have hn : 0 ≤ e % ((2 ^ ty.bits : Nat) : Int) := Int.emod_nonneg _ (by omega)
  have hlt : wrapInt e ty.bits < 2 ^ ty.bits := by
    unfold wrapInt
    have := Int.emod_lt_of_pos e hp
    omega
  have hc : ((wrapInt e ty.bits : Nat) : Int) = e % ((2 ^ ty.bits : Nat) : Int) := Int.toNat_of_nonneg hn
  unfold TypeCode.intValue
  split
  · rw [signedOf_mod hlt, hc]
  · rw [hc, Int.emod_emod_of_dvd _ (dvd_refl _)]

theorem wrapInt_lt (e : Int) (w : Nat) : wrapInt e w < 2 ^ w := by
  have hp : (0 : Int) < ((2 ^ w : Nat) : Int) := by exact_mod_cast Nat.two_pow_pos _
  have h1 := Int.emod_nonneg e (b := ((2 ^ w : Nat) : Int)) (by omega)
  have h2 := Int.emod_lt_of_pos e hp
  unfold wrapInt
  omega

end Sys2Proof.Machine
end

