-- ==== Sys2Proof/Laws/PerInstr.lean ====
section
/-!
SUPPORT. Per instruction: the first word of its encoding bears an opcode that the decoder's table lists, and which row that
is. The round trip of decoding and encoding is built from these rows.
-/

namespace Sys2Proof

section
variable {op : BitVec 10}

/-- The upper part of an appended vector. -/
theorem extract_append_high {v w : Nat} (a : BitVec v) (b : BitVec w) (s n : Nat) (h : w ≤ s) :
    (a ++ b).extractLsb' s n = a.extractLsb' (s - w) n := by
  apply BitVec.eq_of_getLsbD_eq; intro i hi
  have : ¬ s + i < w := by omega
  have e : s + i - w = s - w + i := by omega
  simp only [BitVec.getLsbD_extractLsb', BitVec.getLsbD_append, this, if_false, e]

theorem encodeR_opcode (x : RWord) : (encodeR op x).extractLsb' 54 10 = op := by
  unfold encodeR
  iterate 11 refine (extract_append_high _ _ _ _ (by decide)).trans ?_
  exact BitVec.extractLsb'_eq_self

theorem encodeI_opcode (x : IWord) : (encodeI op x).extractLsb' 54 10 = op := by
  unfold encodeI
  iterate 7 refine (extract_append_high _ _ _ _ (by decide)).trans ?_
  exact BitVec.extractLsb'_eq_self

theorem encodeM_opcode (x : MWord) : (encodeM op x).extractLsb' 54 10 = op := by
  unfold encodeM
  iterate 7 refine (extract_append_high _ _ _ _ (by decide)).trans ?_
  exact BitVec.extractLsb'_eq_self

theorem encodeB_opcode (x : BWord) : (encodeB op x).extractLsb' 54 10 = op := by
  unfold encodeB
  iterate 5 refine (extract_append_high _ _ _ _ (by decide)).trans ?_
  exact BitVec.extractLsb'_eq_self

theorem encodeE_opcode (x : EWord) : (encodeE op x).extractLsb' 54 10 = op := by
  unfold encodeE
  iterate 8 refine (extract_append_high _ _ _ _ (by decide)).trans ?_
  exact BitVec.extractLsb'_eq_self

theorem encodeS_opcode (x : SWord) : (encodeS op x).extractLsb' 54 10 = op := by
  unfold encodeS
  iterate 8 refine (extract_append_high _ _ _ _ (by decide)).trans ?_
  exact BitVec.extractLsb'_eq_self

theorem encodeC_opcode (x : CWord) : (encodeC op x).extractLsb' 54 10 = op := by
  unfold encodeC
  iterate 8 refine (extract_append_high _ _ _ _ (by decide)).trans ?_
  exact BitVec.extractLsb'_eq_self

theorem encodeL_opcode (x : LWord) :
    ((op ++ encodeGuard x.guard ++ x.d ++ x.a ++ 0#21 ++ 1#1 ++ 0#1 ++ x.ty.code ++ x.v : BitVec 64)).extractLsb' 54 10 = op := by
  iterate 8 refine (extract_append_high _ _ _ _ (by decide)).trans ?_
  exact BitVec.extractLsb'_eq_self

end

end Sys2Proof

namespace Sys2Proof.Laws.Opcode

/-- An instruction with a word has an opcode of the table (R74, R75): `shapeOf` finds its row. -/
def Statement (i : Instr) : Prop :=
  i.isStep = false → (∀ w, i ≠ .unassignedOpcode w) →
    ∃ w rest shape, encode i = w :: rest ∧ shapeOf (w.extractLsb' 54 10).toNat = some shape

theorem of_word {i : Instr} {w : DWord} {rest : List DWord} {op : BitVec 10} (h : encode i = w :: rest)
    (hw : w.extractLsb' 54 10 = op) (shape : Shape) (hs : shapeOf op.toNat = some shape) : Statement i :=
  fun _ _ => ⟨w, rest, shape, h, by rw [hw, hs]⟩

theorem of_step {i : Instr} (h : i.isStep = true) : Statement i := fun h' => by rw [h] at h'; cases h'

theorem add (x : RWord) : Statement (.add x) := of_word (i := .add x) (op := 0x001) rfl (encodeR_opcode x) (.r .add) rfl
theorem addImm (x : IWord) : Statement (.addImm x) := of_word (i := .addImm x) (op := 0x021) rfl (encodeI_opcode x) (.i .addImm (some .addLong)) rfl
theorem addLong (x : LWord) : Statement (.addLong x) := of_word (i := .addLong x) (op := 0x021) rfl (encodeL_opcode x) (.i .addImm (some .addLong)) rfl
theorem sub (x : RWord) : Statement (.sub x) := of_word (i := .sub x) (op := 0x002) rfl (encodeR_opcode x) (.r .sub) rfl
theorem subImm (x : IWord) : Statement (.subImm x) := of_word (i := .subImm x) (op := 0x022) rfl (encodeI_opcode x) (.i .subImm (some .subLong)) rfl
theorem subLong (x : LWord) : Statement (.subLong x) := of_word (i := .subLong x) (op := 0x022) rfl (encodeL_opcode x) (.i .subImm (some .subLong)) rfl
theorem mul (x : RWord) : Statement (.mul x) := of_word (i := .mul x) (op := 0x003) rfl (encodeR_opcode x) (.r .mul) rfl
theorem mulImm (x : IWord) : Statement (.mulImm x) := of_word (i := .mulImm x) (op := 0x023) rfl (encodeI_opcode x) (.i .mulImm none) rfl
theorem mulhi (x : RWord) : Statement (.mulhi x) := of_word (i := .mulhi x) (op := 0x004) rfl (encodeR_opcode x) (.r .mulhi) rfl
theorem mad (x : RWord) : Statement (.mad x) := of_word (i := .mad x) (op := 0x005) rfl (encodeR_opcode x) (.r .mad) rfl
theorem div (x : RWord) : Statement (.div x) := of_word (i := .div x) (op := 0x006) rfl (encodeR_opcode x) (.r .div) rfl
theorem rem (x : RWord) : Statement (.rem x) := of_word (i := .rem x) (op := 0x007) rfl (encodeR_opcode x) (.r .rem) rfl
theorem neg (x : RWord) : Statement (.neg x) := of_word (i := .neg x) (op := 0x008) rfl (encodeR_opcode x) (.r .neg) rfl
theorem abs (x : RWord) : Statement (.abs x) := of_word (i := .abs x) (op := 0x009) rfl (encodeR_opcode x) (.r .abs) rfl
theorem min (x : RWord) : Statement (.min x) := of_word (i := .min x) (op := 0x00A) rfl (encodeR_opcode x) (.r .min) rfl
theorem minImm (x : IWord) : Statement (.minImm x) := of_word (i := .minImm x) (op := 0x02A) rfl (encodeI_opcode x) (.i .minImm none) rfl
theorem max (x : RWord) : Statement (.max x) := of_word (i := .max x) (op := 0x00B) rfl (encodeR_opcode x) (.r .max) rfl
theorem maxImm (x : IWord) : Statement (.maxImm x) := of_word (i := .maxImm x) (op := 0x02B) rfl (encodeI_opcode x) (.i .maxImm none) rfl
theorem clamp (x : RWord) : Statement (.clamp x) := of_word (i := .clamp x) (op := 0x00C) rfl (encodeR_opcode x) (.r .clamp) rfl
theorem addc (x : RWord) : Statement (.addc x) := of_word (i := .addc x) (op := 0x00D) rfl (encodeR_opcode x) (.r .addc) rfl
theorem subb (x : RWord) : Statement (.subb x) := of_word (i := .subb x) (op := 0x00E) rfl (encodeR_opcode x) (.r .subb) rfl
theorem sad (x : RWord) : Statement (.sad x) := of_word (i := .sad x) (op := 0x00F) rfl (encodeR_opcode x) (.r .sad) rfl
theorem and (x : RWord) : Statement (.and x) := of_word (i := .and x) (op := 0x040) rfl (encodeR_opcode x) (.r .and) rfl
theorem andImm (x : IWord) : Statement (.andImm x) := of_word (i := .andImm x) (op := 0x060) rfl (encodeI_opcode x) (.i .andImm (some .andLong)) rfl
theorem andLong (x : LWord) : Statement (.andLong x) := of_word (i := .andLong x) (op := 0x060) rfl (encodeL_opcode x) (.i .andImm (some .andLong)) rfl
theorem or (x : RWord) : Statement (.or x) := of_word (i := .or x) (op := 0x041) rfl (encodeR_opcode x) (.r .or) rfl
theorem orImm (x : IWord) : Statement (.orImm x) := of_word (i := .orImm x) (op := 0x061) rfl (encodeI_opcode x) (.i .orImm (some .orLong)) rfl
theorem orLong (x : LWord) : Statement (.orLong x) := of_word (i := .orLong x) (op := 0x061) rfl (encodeL_opcode x) (.i .orImm (some .orLong)) rfl
theorem xor (x : RWord) : Statement (.xor x) := of_word (i := .xor x) (op := 0x042) rfl (encodeR_opcode x) (.r .xor) rfl
theorem xorImm (x : IWord) : Statement (.xorImm x) := of_word (i := .xorImm x) (op := 0x062) rfl (encodeI_opcode x) (.i .xorImm (some .xorLong)) rfl
theorem xorLong (x : LWord) : Statement (.xorLong x) := of_word (i := .xorLong x) (op := 0x062) rfl (encodeL_opcode x) (.i .xorImm (some .xorLong)) rfl
theorem not (x : RWord) : Statement (.not x) := of_word (i := .not x) (op := 0x043) rfl (encodeR_opcode x) (.r .not) rfl
theorem andn (x : RWord) : Statement (.andn x) := of_word (i := .andn x) (op := 0x044) rfl (encodeR_opcode x) (.r .andn) rfl
theorem andnImm (x : IWord) : Statement (.andnImm x) := of_word (i := .andnImm x) (op := 0x064) rfl (encodeI_opcode x) (.i .andnImm none) rfl
theorem shl (x : RWord) : Statement (.shl x) := of_word (i := .shl x) (op := 0x045) rfl (encodeR_opcode x) (.r .shl) rfl
theorem shlImm (x : IWord) : Statement (.shlImm x) := of_word (i := .shlImm x) (op := 0x065) rfl (encodeI_opcode x) (.i .shlImm none) rfl
theorem shr (x : RWord) : Statement (.shr x) := of_word (i := .shr x) (op := 0x046) rfl (encodeR_opcode x) (.r .shr) rfl
theorem shrImm (x : IWord) : Statement (.shrImm x) := of_word (i := .shrImm x) (op := 0x066) rfl (encodeI_opcode x) (.i .shrImm none) rfl
theorem sar (x : RWord) : Statement (.sar x) := of_word (i := .sar x) (op := 0x047) rfl (encodeR_opcode x) (.r .sar) rfl
theorem sarImm (x : IWord) : Statement (.sarImm x) := of_word (i := .sarImm x) (op := 0x067) rfl (encodeI_opcode x) (.i .sarImm none) rfl
theorem rot (x : RWord) : Statement (.rot x) := of_word (i := .rot x) (op := 0x048) rfl (encodeR_opcode x) (.r .rot) rfl
theorem rotImm (x : IWord) : Statement (.rotImm x) := of_word (i := .rotImm x) (op := 0x068) rfl (encodeI_opcode x) (.i .rotImm none) rfl
theorem bfx (x : RWord) : Statement (.bfx x) := of_word (i := .bfx x) (op := 0x049) rfl (encodeR_opcode x) (.r .bfx) rfl
theorem bfi (x : RWord) : Statement (.bfi x) := of_word (i := .bfi x) (op := 0x04A) rfl (encodeR_opcode x) (.r .bfi) rfl
theorem popc (x : RWord) : Statement (.popc x) := of_word (i := .popc x) (op := 0x04B) rfl (encodeR_opcode x) (.r .popc) rfl
theorem clz (x : RWord) : Statement (.clz x) := of_word (i := .clz x) (op := 0x04C) rfl (encodeR_opcode x) (.r .clz) rfl
theorem ctz (x : RWord) : Statement (.ctz x) := of_word (i := .ctz x) (op := 0x04D) rfl (encodeR_opcode x) (.r .ctz) rfl
theorem brev (x : RWord) : Statement (.brev x) := of_word (i := .brev x) (op := 0x04E) rfl (encodeR_opcode x) (.r .brev) rfl
theorem perm (x : RWord) : Statement (.perm x) := of_word (i := .perm x) (op := 0x04F) rfl (encodeR_opcode x) (.r .perm) rfl
theorem lut3 (x : RWord) : Statement (.lut3 x) := of_word (i := .lut3 x) (op := 0x050) rfl (encodeR_opcode x) (.r .lut3) rfl
theorem fadd (x : RWord) : Statement (.fadd x) := of_word (i := .fadd x) (op := 0x080) rfl (encodeR_opcode x) (.r .fadd) rfl
theorem fsub (x : RWord) : Statement (.fsub x) := of_word (i := .fsub x) (op := 0x081) rfl (encodeR_opcode x) (.r .fsub) rfl
theorem fmul (x : RWord) : Statement (.fmul x) := of_word (i := .fmul x) (op := 0x082) rfl (encodeR_opcode x) (.r .fmul) rfl
theorem ffma (x : RWord) : Statement (.ffma x) := of_word (i := .ffma x) (op := 0x083) rfl (encodeR_opcode x) (.r .ffma) rfl
theorem fmin (x : RWord) : Statement (.fmin x) := of_word (i := .fmin x) (op := 0x084) rfl (encodeR_opcode x) (.r .fmin) rfl
theorem fmax (x : RWord) : Statement (.fmax x) := of_word (i := .fmax x) (op := 0x085) rfl (encodeR_opcode x) (.r .fmax) rfl
theorem fdiv (x : RWord) : Statement (.fdiv x) := of_word (i := .fdiv x) (op := 0x086) rfl (encodeR_opcode x) (.r .fdiv) rfl
theorem fsqrt (x : RWord) : Statement (.fsqrt x) := of_word (i := .fsqrt x) (op := 0x087) rfl (encodeR_opcode x) (.r .fsqrt) rfl
theorem frcp (x : RWord) : Statement (.frcp x) := of_word (i := .frcp x) (op := 0x088) rfl (encodeR_opcode x) (.r .frcp) rfl
theorem frsq (x : RWord) : Statement (.frsq x) := of_word (i := .frsq x) (op := 0x089) rfl (encodeR_opcode x) (.r .frsq) rfl
theorem fexp2 (x : RWord) : Statement (.fexp2 x) := of_word (i := .fexp2 x) (op := 0x08A) rfl (encodeR_opcode x) (.r .fexp2) rfl
theorem flog2 (x : RWord) : Statement (.flog2 x) := of_word (i := .flog2 x) (op := 0x08B) rfl (encodeR_opcode x) (.r .flog2) rfl
theorem fsin (x : RWord) : Statement (.fsin x) := of_word (i := .fsin x) (op := 0x08C) rfl (encodeR_opcode x) (.r .fsin) rfl
theorem fcos (x : RWord) : Statement (.fcos x) := of_word (i := .fcos x) (op := 0x08D) rfl (encodeR_opcode x) (.r .fcos) rfl
theorem fclass (x : RWord) : Statement (.fclass x) := of_word (i := .fclass x) (op := 0x08E) rfl (encodeR_opcode x) (.r .fclass) rfl
theorem fscale (x : RWord) : Statement (.fscale x) := of_word (i := .fscale x) (op := 0x08F) rfl (encodeR_opcode x) (.r .fscale) rfl
theorem cvt (x : RWord) : Statement (.cvt x) := of_word (i := .cvt x) (op := 0x0C0) rfl (encodeR_opcode x) (.r .cvt) rfl
theorem pack (x : RWord) : Statement (.pack x) := of_word (i := .pack x) (op := 0x0C1) rfl (encodeR_opcode x) (.r .pack) rfl
theorem unpack (x : RWord) : Statement (.unpack x) := of_word (i := .unpack x) (op := 0x0C2) rfl (encodeR_opcode x) (.r .unpack) rfl
theorem frnd (x : RWord) : Statement (.frnd x) := of_word (i := .frnd x) (op := 0x0C3) rfl (encodeR_opcode x) (.r .frnd) rfl
theorem mov (x : RWord) : Statement (.mov x) := of_word (i := .mov x) (op := 0x0C4) rfl (encodeR_opcode x) (.r .mov) rfl
theorem sel (x : RWord) : Statement (.sel x) := of_word (i := .sel x) (op := 0x0C5) rfl (encodeR_opcode x) (.r .sel) rfl
theorem movi (x : IWord) : Statement (.movi x) := of_word (i := .movi x) (op := 0x0E4) rfl (encodeI_opcode x) (.i .movi (some .moviLong)) rfl
theorem moviLong (x : LWord) : Statement (.moviLong x) := of_word (i := .moviLong x) (op := 0x0E4) rfl (encodeL_opcode x) (.i .movi (some .moviLong)) rfl
theorem cmp (x : RWord) : Statement (.cmp x) := of_word (i := .cmp x) (op := 0x100) rfl (encodeR_opcode x) (.r .cmp) rfl
theorem cmpImm (x : IWord) : Statement (.cmpImm x) := of_word (i := .cmpImm x) (op := 0x120) rfl (encodeI_opcode x) (.i .cmpImm (some .cmpLong)) rfl
theorem cmpLong (x : LWord) : Statement (.cmpLong x) := of_word (i := .cmpLong x) (op := 0x120) rfl (encodeL_opcode x) (.i .cmpImm (some .cmpLong)) rfl
theorem fcmp (x : RWord) : Statement (.fcmp x) := of_word (i := .fcmp x) (op := 0x101) rfl (encodeR_opcode x) (.r .fcmp) rfl
theorem plop (x : RWord) : Statement (.plop x) := of_word (i := .plop x) (op := 0x102) rfl (encodeR_opcode x) (.r .plop) rfl
theorem pmov (x : RWord) : Statement (.pmov x) := of_word (i := .pmov x) (op := 0x103) rfl (encodeR_opcode x) (.r .pmov) rfl
theorem bra (x : BWord) : Statement (.bra x) := of_word (i := .bra x) (op := 0x140) rfl (encodeB_opcode x) (.b .bra) rfl
theorem bru (x : BWord) : Statement (.bru x) := of_word (i := .bru x) (op := 0x141) rfl (encodeB_opcode x) (.b .bru) rfl
theorem brx (x : RWord) : Statement (.brx x) := of_word (i := .brx x) (op := 0x142) rfl (encodeR_opcode x) (.r .brx) rfl
theorem call (x : BWord) : Statement (.call x) := of_word (i := .call x) (op := 0x143) rfl (encodeB_opcode x) (.b .call) rfl
theorem callx (x : RWord) : Statement (.callx x) := of_word (i := .callx x) (op := 0x144) rfl (encodeR_opcode x) (.r .callx) rfl
theorem ret (x : RWord) : Statement (.ret x) := of_word (i := .ret x) (op := 0x145) rfl (encodeR_opcode x) (.r .ret) rfl
theorem exit (x : RWord) : Statement (.exit x) := of_word (i := .exit x) (op := 0x146) rfl (encodeR_opcode x) (.r .exit) rfl
theorem yield (x : RWord) : Statement (.yield x) := of_word (i := .yield x) (op := 0x147) rfl (encodeR_opcode x) (.r .yield) rfl
theorem nop (x : RWord) : Statement (.nop x) := of_word (i := .nop x) (op := 0x148) rfl (encodeR_opcode x) (.r .nop) rfl
theorem ovld (x : EWord) : Statement (.ovld x) := of_word (i := .ovld x) (op := 0x149) rfl (encodeE_opcode x) (.e .ovld) rfl
theorem lds (x : MWord) : Statement (.lds x) := of_word (i := .lds x) (op := 0x180) rfl (encodeM_opcode x) (.m .lds) rfl
theorem sts (x : MWord) : Statement (.sts x) := of_word (i := .sts x) (op := 0x181) rfl (encodeM_opcode x) (.m .sts) rfl
theorem atomsAdd (x : MWord) : Statement (.atomsAdd x) := of_word (i := .atomsAdd x) (op := 0x188) rfl (encodeM_opcode x) (.m .atomsAdd) rfl
theorem atomsMin (x : MWord) : Statement (.atomsMin x) := of_word (i := .atomsMin x) (op := 0x189) rfl (encodeM_opcode x) (.m .atomsMin) rfl
theorem atomsMax (x : MWord) : Statement (.atomsMax x) := of_word (i := .atomsMax x) (op := 0x18A) rfl (encodeM_opcode x) (.m .atomsMax) rfl
theorem atomsAnd (x : MWord) : Statement (.atomsAnd x) := of_word (i := .atomsAnd x) (op := 0x18B) rfl (encodeM_opcode x) (.m .atomsAnd) rfl
theorem atomsOr (x : MWord) : Statement (.atomsOr x) := of_word (i := .atomsOr x) (op := 0x18C) rfl (encodeM_opcode x) (.m .atomsOr) rfl
theorem atomsXor (x : MWord) : Statement (.atomsXor x) := of_word (i := .atomsXor x) (op := 0x18D) rfl (encodeM_opcode x) (.m .atomsXor) rfl
theorem atomsSwap (x : MWord) : Statement (.atomsSwap x) := of_word (i := .atomsSwap x) (op := 0x18E) rfl (encodeM_opcode x) (.m .atomsSwap) rfl
theorem atomsCas (x : MWord) : Statement (.atomsCas x) := of_word (i := .atomsCas x) (op := 0x18F) rfl (encodeM_opcode x) (.m .atomsCas) rfl
theorem binit (x : MWord) : Statement (.binit x) := of_word (i := .binit x) (op := 0x1C0) rfl (encodeM_opcode x) (.m .binit) rfl
theorem arrive (x : MWord) : Statement (.arrive x) := of_word (i := .arrive x) (op := 0x1C1) rfl (encodeM_opcode x) (.m .arrive) rfl
theorem expect (x : MWord) : Statement (.expect x) := of_word (i := .expect x) (op := 0x1C2) rfl (encodeM_opcode x) (.m .expect) rfl
theorem waitph (x : MWord) : Statement (.waitph x) := of_word (i := .waitph x) (op := 0x1C3) rfl (encodeM_opcode x) (.m .waitph) rfl
theorem testph (x : MWord) : Statement (.testph x) := of_word (i := .testph x) (op := 0x1C4) rfl (encodeM_opcode x) (.m .testph) rfl
theorem waitcnt (x : CWord) : Statement (.waitcnt x) := of_word (i := .waitcnt x) (op := 0x1C5) rfl (encodeC_opcode x) (.c .waitcnt) rfl
theorem fence (x : SWord) : Statement (.fence x) := of_word (i := .fence x) (op := 0x1C6) rfl (encodeS_opcode x) (.s .fence) rfl
theorem cnew (x : RWord) : Statement (.cnew x) := of_word (i := .cnew x) (op := 0x200) rfl (encodeR_opcode x) (.r .cnew) rfl
theorem cfree (x : RWord) : Statement (.cfree x) := of_word (i := .cfree x) (op := 0x201) rfl (encodeR_opcode x) (.r .cfree) rfl
theorem join (x : RWord) : Statement (.join x) := of_word (i := .join x) (op := 0x202) rfl (encodeR_opcode x) (.r .join) rfl
theorem leave (x : RWord) : Statement (.leave x) := of_word (i := .leave x) (op := 0x203) rfl (encodeR_opcode x) (.r .leave) rfl
theorem elect (x : RWord) : Statement (.elect x) := of_word (i := .elect x) (op := 0x204) rfl (encodeR_opcode x) (.r .elect) rfl
theorem cbar (x : RWord) : Statement (.cbar x) := of_word (i := .cbar x) (op := 0x205) rfl (encodeR_opcode x) (.r .cbar) rfl
theorem cshfl (x : RWord) : Statement (.cshfl x) := of_word (i := .cshfl x) (op := 0x206) rfl (encodeR_opcode x) (.r .cshfl) rfl
theorem creduce (x : RWord) : Statement (.creduce x) := of_word (i := .creduce x) (op := 0x207) rfl (encodeR_opcode x) (.r .creduce) rfl
theorem cscan (x : RWord) : Statement (.cscan x) := of_word (i := .cscan x) (op := 0x208) rfl (encodeR_opcode x) (.r .cscan) rfl
theorem cvote (x : RWord) : Statement (.cvote x) := of_word (i := .cvote x) (op := 0x209) rfl (encodeR_opcode x) (.r .cvote) rfl
theorem cpin (x : EWord) : Statement (.cpin x) := of_word (i := .cpin x) (op := 0x240) rfl (encodeE_opcode x) (.e .cpin) rfl
theorem cpout (x : EWord) : Statement (.cpout x) := of_word (i := .cpout x) (op := 0x241) rfl (encodeE_opcode x) (.e .cpout) rfl
theorem cpxg (x : EWord) : Statement (.cpxg x) := of_word (i := .cpxg x) (op := 0x242) rfl (encodeE_opcode x) (.e .cpxg) rfl
theorem cpxs (x : EWord) : Statement (.cpxs x) := of_word (i := .cpxs x) (op := 0x243) rfl (encodeE_opcode x) (.e .cpxs) rfl
theorem cpmc (x : EWord) : Statement (.cpmc x) := of_word (i := .cpmc x) (op := 0x244) rfl (encodeE_opcode x) (.e .cpmc) rfl
theorem cptx (x : EWord) : Statement (.cptx x) := of_word (i := .cptx x) (op := 0x245) rfl (encodeE_opcode x) (.e .cptx) rfl
theorem tlread (x : RWord) : Statement (.tlread x) := of_word (i := .tlread x) (op := 0x246) rfl (encodeR_opcode x) (.r .tlread) rfl
theorem tlwatch (x : EWord) : Statement (.tlwatch x) := of_word (i := .tlwatch x) (op := 0x247) rfl (encodeE_opcode x) (.e .tlwatch) rfl
theorem engq (x : EWord) : Statement (.engq x) := of_word (i := .engq x) (op := 0x248) rfl (encodeE_opcode x) (.e .engq) rfl
theorem engres (x : EWord) : Statement (.engres x) := of_word (i := .engres x) (op := 0x249) rfl (encodeE_opcode x) (.e .engres) rfl
theorem kld (x : MWord) : Statement (.kld x) := of_word (i := .kld x) (op := 0x280) rfl (encodeM_opcode x) (.m .kld) rfl
theorem kst (x : MWord) : Statement (.kst x) := of_word (i := .kst x) (op := 0x281) rfl (encodeM_opcode x) (.m .kst) rfl
theorem kderive (x : RWord) : Statement (.kderive x) := of_word (i := .kderive x) (op := 0x282) rfl (encodeR_opcode x) (.r .kderive) rfl
theorem krights (x : RWord) : Statement (.krights x) := of_word (i := .krights x) (op := 0x283) rfl (encodeR_opcode x) (.r .krights) rfl
theorem kinfo (x : RWord) : Statement (.kinfo x) := of_word (i := .kinfo x) (op := 0x284) rfl (encodeR_opcode x) (.r .kinfo) rfl
theorem kchk (x : RWord) : Statement (.kchk x) := of_word (i := .kchk x) (op := 0x285) rfl (encodeR_opcode x) (.r .kchk) rfl
theorem obres (x : RWord) : Statement (.obres x) := of_word (i := .obres x) (op := 0x2C0) rfl (encodeR_opcode x) (.r .obres) rfl
theorem obfree (x : RWord) : Statement (.obfree x) := of_word (i := .obfree x) (op := 0x2C1) rfl (encodeR_opcode x) (.r .obfree) rfl
theorem obinfo (x : RWord) : Statement (.obinfo x) := of_word (i := .obinfo x) (op := 0x2C2) rfl (encodeR_opcode x) (.r .obinfo) rfl
theorem mshape (x : EWord) : Statement (.mshape x) := of_word (i := .mshape x) (op := 0x2C3) rfl (encodeE_opcode x) (.e .mshape) rfl
theorem mma (x : EWord) : Statement (.mma x) := of_word (i := .mma x) (op := 0x2C4) rfl (encodeE_opcode x) (.e .mma) rfl
theorem mmas (x : EWord) : Statement (.mmas x) := of_word (i := .mmas x) (op := 0x2C5) rfl (encodeE_opcode x) (.e .mmas) rfl
theorem mcommit (x : RWord) : Statement (.mcommit x) := of_word (i := .mcommit x) (op := 0x2C6) rfl (encodeR_opcode x) (.r .mcommit) rfl
theorem mdrop (x : RWord) : Statement (.mdrop x) := of_word (i := .mdrop x) (op := 0x2C7) rfl (encodeR_opcode x) (.r .mdrop) rfl
theorem azero (x : RWord) : Statement (.azero x) := of_word (i := .azero x) (op := 0x300) rfl (encodeR_opcode x) (.r .azero) rfl
theorem amov (x : RWord) : Statement (.amov x) := of_word (i := .amov x) (op := 0x301) rfl (encodeR_opcode x) (.r .amov) rfl
theorem aser (x : RWord) : Statement (.aser x) := of_word (i := .aser x) (op := 0x302) rfl (encodeR_opcode x) (.r .aser) rfl
theorem achk (x : RWord) : Statement (.achk x) := of_word (i := .achk x) (op := 0x303) rfl (encodeR_opcode x) (.r .achk) rfl
theorem term (x : EWord) : Statement (.term x) := of_word (i := .term x) (op := 0x304) rfl (encodeE_opcode x) (.e .term) rfl
theorem adrain (x : EWord) : Statement (.adrain x) := of_word (i := .adrain x) (op := 0x305) rfl (encodeE_opcode x) (.e .adrain) rfl
theorem ainfo (x : RWord) : Statement (.ainfo x) := of_word (i := .ainfo x) (op := 0x306) rfl (encodeR_opcode x) (.r .ainfo) rfl
theorem aflag (x : RWord) : Statement (.aflag x) := of_word (i := .aflag x) (op := 0x307) rfl (encodeR_opcode x) (.r .aflag) rfl
theorem snew (x : RWord) : Statement (.snew x) := of_word (i := .snew x) (op := 0x340) rfl (encodeR_opcode x) (.r .snew) rfl
theorem sfree (x : RWord) : Statement (.sfree x) := of_word (i := .sfree x) (op := 0x341) rfl (encodeR_opcode x) (.r .sfree) rfl
theorem sins (x : RWord) : Statement (.sins x) := of_word (i := .sins x) (op := 0x342) rfl (encodeR_opcode x) (.r .sins) rfl
theorem sdel (x : RWord) : Statement (.sdel x) := of_word (i := .sdel x) (op := 0x343) rfl (encodeR_opcode x) (.r .sdel) rfl
theorem shas (x : RWord) : Statement (.shas x) := of_word (i := .shas x) (op := 0x344) rfl (encodeR_opcode x) (.r .shas) rfl
theorem scard (x : RWord) : Statement (.scard x) := of_word (i := .scard x) (op := 0x345) rfl (encodeR_opcode x) (.r .scard) rfl
theorem suni (x : RWord) : Statement (.suni x) := of_word (i := .suni x) (op := 0x346) rfl (encodeR_opcode x) (.r .suni) rfl
theorem sint (x : RWord) : Statement (.sint x) := of_word (i := .sint x) (op := 0x347) rfl (encodeR_opcode x) (.r .sint) rfl
theorem sdif (x : RWord) : Statement (.sdif x) := of_word (i := .sdif x) (op := 0x348) rfl (encodeR_opcode x) (.r .sdif) rfl
theorem scpy (x : RWord) : Statement (.scpy x) := of_word (i := .scpy x) (op := 0x349) rfl (encodeR_opcode x) (.r .scpy) rfl
theorem sldl (x : RWord) : Statement (.sldl x) := of_word (i := .sldl x) (op := 0x34A) rfl (encodeR_opcode x) (.r .sldl) rfl
theorem sstl (x : RWord) : Statement (.sstl x) := of_word (i := .sstl x) (op := 0x34B) rfl (encodeR_opcode x) (.r .sstl) rfl
theorem snext (x : RWord) : Statement (.snext x) := of_word (i := .snext x) (op := 0x34C) rfl (encodeR_opcode x) (.r .snext) rfl
theorem srep (x : RWord) : Statement (.srep x) := of_word (i := .srep x) (op := 0x34D) rfl (encodeR_opcode x) (.r .srep) rfl
theorem shint (x : RWord) : Statement (.shint x) := of_word (i := .shint x) (op := 0x34E) rfl (encodeR_opcode x) (.r .shint) rfl
theorem scost (x : RWord) : Statement (.scost x) := of_word (i := .scost x) (op := 0x34F) rfl (encodeR_opcode x) (.r .scost) rfl
theorem crupd (x : EWord) : Statement (.crupd x) := of_word (i := .crupd x) (op := 0x380) rfl (encodeE_opcode x) (.e .crupd) rfl
theorem crrd (x : EWord) : Statement (.crrd x) := of_word (i := .crrd x) (op := 0x381) rfl (encodeE_opcode x) (.e .crrd) rfl
theorem crsnap (x : EWord) : Statement (.crsnap x) := of_word (i := .crsnap x) (op := 0x382) rfl (encodeE_opcode x) (.e .crsnap) rfl
theorem crlap (x : EWord) : Statement (.crlap x) := of_word (i := .crlap x) (op := 0x383) rfl (encodeE_opcode x) (.e .crlap) rfl
theorem crinfo (x : EWord) : Statement (.crinfo x) := of_word (i := .crinfo x) (op := 0x384) rfl (encodeE_opcode x) (.e .crinfo) rfl
theorem trap (x : SWord) : Statement (.trap x) := of_word (i := .trap x) (op := 0x3C0) rfl (encodeS_opcode x) (.s .trap) rfl
theorem eret (x : SWord) : Statement (.eret x) := of_word (i := .eret x) (op := 0x3C1) rfl (encodeS_opcode x) (.s .eret) rfl
theorem mfsr (x : SWord) : Statement (.mfsr x) := of_word (i := .mfsr x) (op := 0x3C2) rfl (encodeS_opcode x) (.s .mfsr) rfl
theorem mtsr (x : SWord) : Statement (.mtsr x) := of_word (i := .mtsr x) (op := 0x3C3) rfl (encodeS_opcode x) (.s .mtsr) rfl
theorem bkpt (x : SWord) : Statement (.bkpt x) := of_word (i := .bkpt x) (op := 0x3C4) rfl (encodeS_opcode x) (.s .bkpt) rfl
theorem clkrd (x : SWord) : Statement (.clkrd x) := of_word (i := .clkrd x) (op := 0x3C5) rfl (encodeS_opcode x) (.s .clkrd) rfl
theorem perfrd (x : SWord) : Statement (.perfrd x) := of_word (i := .perfrd x) (op := 0x3C6) rfl (encodeS_opcode x) (.s .perfrd) rfl
theorem activeSetSwap (core : Nat) : Statement (.activeSetSwap core) := of_step rfl
theorem scratchpadPass (core : Nat) : Statement (.scratchpadPass core) := of_step rfl
theorem loadDeliver (t : TRef) : Statement (.loadDeliver t) := of_step rfl
theorem storePerform (t : TRef) : Statement (.storePerform t) := of_step rfl
theorem engineLanding (p : PKey) (k : Nat) : Statement (.engineLanding p k) := of_step rfl
theorem engineByteCount (p : PKey) (k : Nat) : Statement (.engineByteCount p k) := of_step rfl
theorem engineResultWrite (t : TRef) (k : Nat) : Statement (.engineResultWrite t k) := of_step rfl
theorem yieldWake (core : Nat) (l : LKey) : Statement (.yieldWake core l) := of_step rfl
theorem overlayResident (core uid : Nat) : Statement (.overlayResident core uid) := of_step rfl
theorem copyUnit (core uid : Nat) : Statement (.copyUnit core uid) := of_step rfl
theorem copyComplete (core uid : Nat) : Statement (.copyComplete core uid) := of_step rfl
theorem indexElement (core : Nat) : Statement (.indexElement core) := of_step rfl
theorem watchFire (core k : Nat) : Statement (.watchFire core k) := of_step rfl
theorem routeWalk (die : Nat) (o : OKey) (unit : Nat) : Statement (.routeWalk die o unit) := of_step rfl
theorem invalidateAck (o : OKey) (agent : Nat) : Statement (.invalidateAck o agent) := of_step rfl
theorem migrationPromote (o : OKey) (unit newLoc : Nat) : Statement (.migrationPromote o unit newLoc) := of_step rfl
theorem matrixRequestStart (core : Nat) : Statement (.matrixRequestStart core) := of_step rfl
theorem matrixGroupStep (core : Nat) : Statement (.matrixGroupStep core) := of_step rfl
theorem matrixRequestComplete (core : Nat) : Statement (.matrixRequestComplete core) := of_step rfl
theorem subnormalAssist (core : Nat) : Statement (.subnormalAssist core) := of_step rfl
theorem assistTimeout (core : Nat) : Statement (.assistTimeout core) := of_step rfl
theorem drainComplete (core k : Nat) : Statement (.drainComplete core k) := of_step rfl
theorem setRequestExecute (core : Nat) : Statement (.setRequestExecute core) := of_step rfl
theorem setBuildDone (l : LKey) (index : Nat) : Statement (.setBuildDone l index) := of_step rfl
theorem indexBlockSupply (core : Nat) (l : LKey) : Statement (.indexBlockSupply core l) := of_step rfl
theorem circleAdmit (req : Nat) : Statement (.circleAdmit req) := of_step rfl
theorem admissionDecision (req : Nat) : Statement (.admissionDecision req) := of_step rfl
theorem spanAdmit (req : Nat) : Statement (.spanAdmit req) := of_step rfl
theorem spanPartAck (req slice : Nat) : Statement (.spanPartAck req slice) := of_step rfl
theorem circleRowPass (o : OKey) (slice : Nat) : Statement (.circleRowPass o slice) := of_step rfl
theorem lapEndReport (o : OKey) (slice : Nat) : Statement (.lapEndReport o slice) := of_step rfl
theorem lapDeclare (o : OKey) : Statement (.lapDeclare o) := of_step rfl
theorem lapStart (o : OKey) (slice : Nat) : Statement (.lapStart o slice) := of_step rfl
theorem circleReplyLand (k : Nat) : Statement (.circleReplyLand k) := of_step rfl
theorem nodeDispatch (ctx queue : Nat) : Statement (.nodeDispatch ctx queue) := of_step rfl
theorem nodeLaunch (node : Nat) : Statement (.nodeLaunch node) := of_step rfl
theorem nodeTransform (node : Nat) : Statement (.nodeTransform node) := of_step rfl
theorem nodeWeightFill (node : Nat) : Statement (.nodeWeightFill node) := of_step rfl
theorem nodeWait (node : Nat) : Statement (.nodeWait node) := of_step rfl
theorem nodeWaitSatisfied (node : Nat) : Statement (.nodeWaitSatisfied node) := of_step rfl
theorem nodeSignal (node : Nat) : Statement (.nodeSignal node) := of_step rfl
theorem nodeComplete (node : Nat) : Statement (.nodeComplete node) := of_step rfl
theorem parcelPlace (die : Nat) : Statement (.parcelPlace die) := of_step rfl
theorem scratchpadPrepare (p : PKey) : Statement (.scratchpadPrepare p) := of_step rfl
theorem threadsStart (p : PKey) : Statement (.threadsStart p) := of_step rfl
theorem stealRequest (die : Nat) (l : LKey) : Statement (.stealRequest die l) := of_step rfl
theorem stealReply (die : Nat) (l : LKey) : Statement (.stealReply die l) := of_step rfl
theorem parcelFree (p : PKey) : Statement (.parcelFree p) := of_step rfl
theorem launchEnd (l : LKey) : Statement (.launchEnd l) := of_step rfl
theorem sliceExpiry (ctx : Nat) : Statement (.sliceExpiry ctx) := of_step rfl
theorem deadlineMiss (l : LKey) : Statement (.deadlineMiss l) := of_step rfl
theorem preempt (ctx : Nat) : Statement (.preempt ctx) := of_step rfl
theorem haltComplete (ctx : Nat) : Statement (.haltComplete ctx) := of_step rfl
theorem saveComplete (ctx : Nat) (written : Bool) : Statement (.saveComplete ctx written) := of_step rfl
theorem parcelRestore (die : Nat) (p : PKey) : Statement (.parcelRestore die p) := of_step rfl
theorem pcSample (ctx : Nat) : Statement (.pcSample ctx) := of_step rfl
theorem layerMapOut (stack layer : Nat) : Statement (.layerMapOut stack layer) := of_step rfl
theorem heartbeat (die master : Nat) : Statement (.heartbeat die master) := of_step rfl
theorem masterTakeover (die : Nat) : Statement (.masterTakeover die) := of_step rfl
theorem fallbackRefresh (die : Nat) : Statement (.fallbackRefresh die) := of_step rfl
theorem coldStart (fails : Option (BitVec 8 × BitVec 8)) : Statement (.coldStart fails) := of_step rfl
theorem warmStart (fails : Option (BitVec 8 × BitVec 8)) : Statement (.warmStart fails) := of_step rfl
theorem unassignedOpcode (w : BitVec 64) : Statement (.unassignedOpcode w) := fun _ h => absurd rfl (h w)
theorem arithmeticResultWrite (t : TRef) : Statement (.arithmeticResultWrite t) := of_step rfl
theorem stationMasterRefresh (die : Nat) : Statement (.stationMasterRefresh die) := of_step rfl
theorem contextEnable : Statement .contextEnable := of_step rfl
theorem contextReset : Statement .contextReset := of_step rfl
theorem queueEnable : Statement .queueEnable := of_step rfl
theorem doorbell : Statement .doorbell := of_step rfl
theorem queueStateClear : Statement .queueStateClear := of_step rfl
theorem objectTableWrite : Statement .objectTableWrite := of_step rfl
theorem objectInvalidate : Statement .objectInvalidate := of_step rfl
theorem objectDelete : Statement .objectDelete := of_step rfl
theorem leaseFaultBack : Statement .leaseFaultBack := of_step rfl
theorem leaseFaultRefuse : Statement .leaseFaultRefuse := of_step rfl
theorem migrationDemote : Statement .migrationDemote := of_step rfl
theorem hostLinkWrite : Statement .hostLinkWrite := of_step rfl
theorem peerPortWrite : Statement .peerPortWrite := of_step rfl
theorem peerPortRead : Statement .peerPortRead := of_step rfl
theorem linkDown : Statement .linkDown := of_step rfl
theorem linkUp : Statement .linkUp := of_step rfl
theorem linkLaneError : Statement .linkLaneError := of_step rfl
theorem debugControlBlock : Statement .debugControlBlock := of_step rfl
theorem dump : Statement .dump := of_step rfl
theorem registerWrite : Statement .registerWrite := of_step rfl
theorem selfTest : Statement .selfTest := of_step rfl
theorem scrubRead : Statement .scrubRead := of_step rfl
theorem attestationSign : Statement .attestationSign := of_step rfl
theorem counterLatch : Statement .counterLatch := of_step rfl
theorem budgetWindow : Statement .budgetWindow := of_step rfl
theorem wsRefreshWindow : Statement .wsRefreshWindow := of_step rfl

end Sys2Proof.Laws.Opcode
end

