-- ==== Sys2Proof/Laws/Signature.lean ====
section
/-!
SUPPORT. A signature that `slhSign` makes verifies under the key that made it (R7): the lengths of digests and signatures, a hash chain
in two parts, the path from a leaf to the root of its tree, and the top tree of a signature, whose root is the public key's.
-/

namespace Sys2Proof

/-! ### Lengths -/

theorem beBytes_length (n v : Nat) : (beBytes n v).length = n := by simp [beBytes]
theorem sha256_length (m : List Byte) : (sha256 m).length = 32 := by simp [sha256, beBytes_length]
theorem slhHash_length (seed : List Byte) (x : Adrs) (m : List Byte) : (slhHash seed x m).length = 16 := by simp [slhHash, sha256_length]
theorem hmac256_length (key m : List Byte) : (hmac256 key m).length = 32 := by simp [hmac256, sha256_length]

theorem slhChain_length (seed : List Byte) (x : Adrs) (n : Nat) : ∀ (v : List Byte) (i : Nat), v.length = 16 →
    (slhChain seed x v i n).length = 16 := by
  induction n with
  | zero => exact fun v i h => h
  | succ n ih => exact fun v i _ => ih _ _ (slhHash_length ..)

theorem wotsDigits_length (m : List Byte) : (wotsDigits m).length = 35 := by simp [wotsDigits, slhDigits]

/-- A list of pieces of equal length has their total length. -/
theorem flatMap_length {α : Type} (l : List α) (f : α → List Byte) (k : Nat) (h : ∀ a ∈ l, (f a).length = k) :
    (l.flatMap f).length = k * l.length := by
  induction l with
  | nil => simp
  | cons a l ih =>
    simp [h a List.mem_cons_self, ih fun b hb => h b (List.mem_cons_of_mem _ hb), Nat.mul_succ, Nat.add_comm]

/-- Piece i of a list of pieces of 16 bytes, whatever follows it. -/
theorem piece16_flatMap {α : Type} (l : List α) (f : α → List Byte) (rest : List Byte) (h : ∀ a ∈ l, (f a).length = 16) (i : Nat)
    (hi : i < l.length) : piece16 (l.flatMap f ++ rest) i = f l[i] := by
  induction l generalizing i with
  | nil => simp at hi
  | cons a l ih =>
    have ha := h a List.mem_cons_self
    cases i with
    | zero => simp [piece16, List.append_assoc, ha]
    | succ i =>
      rw [List.getElem_cons_succ, ← ih (fun b hb => h b (List.mem_cons_of_mem _ hb)) i (by simpa using hi)]
      simp [piece16, ha, Nat.mul_succ, List.drop_append, List.append_assoc,
        show (f a).drop (16 * i + 16) = [] from List.drop_eq_nil_of_le (by omega)]

theorem xmssNode_length (sk seed : List Byte) (x : Adrs) : ∀ (z index : Nat), (xmssNode sk seed x index z).length = 16
  | 0, _ => slhHash_length ..
  | _ + 1, _ => slhHash_length ..

theorem wotsSign_length (sk seed : List Byte) (x : Adrs) (m : List Byte) : (wotsSign sk seed x m).length = 560 := by
  unfold wotsSign
  rw [flatMap_length ((List.range 35).zip (wotsDigits m)) _ 16 fun c _ => slhChain_length _ _ _ _ _ (by exact slhHash_length ..)]
  simp [wotsDigits_length]

theorem xmssSign_length (sk seed : List Byte) (x : Adrs) (index : Nat) (m : List Byte) : (xmssSign sk seed x index m).length = 704 := by
  unfold xmssSign
  rw [List.length_append, wotsSign_length, flatMap_length _ _ 16 fun j _ => xmssNode_length ..]
  simp

theorem layersSign_length (sk seed : List Byte) (n : Nat) : ∀ (layer tree leaf : Nat) (m : List Byte),
    (layersSign sk seed layer tree leaf m n).length = 704 * n := by
  induction n with
  | zero => exact fun _ _ _ _ => rfl
  | succ n ih => exact fun _ _ _ _ => by simp [layersSign, xmssSign_length, ih]; omega

theorem forsNode_length (sk seed : List Byte) (x : Adrs) : ∀ (z index : Nat), (forsNode sk seed x index z).length = 16
  | 0, _ => slhHash_length ..
  | _ + 1, _ => slhHash_length ..

theorem forsSign_length (sk seed : List Byte) (x : Adrs) (md : List Byte) : (forsSign sk seed x md).length = 2912 := by
  unfold forsSign
  rw [flatMap_length _ _ 208 fun t _ => by
    rw [List.length_append, flatMap_length _ _ 16 fun j _ => forsNode_length ..]
    simp [forsSecret, slhHash_length]]
  simp [slhDigits]

/-- A signature has 7,856 bytes. -/
theorem slhSign_length (sk prf seed root rand m : List Byte) : (slhSign sk prf seed root rand m).length = 7856 := by
  simp [slhSign, hmac256_length, forsSign_length, layersSign_length]

/-! ### Chains, paths and trees -/

/-- A chain in two parts. -/
theorem slhChain_add (seed : List Byte) (x : Adrs) (a b : Nat) : ∀ (v : List Byte) (i : Nat),
    slhChain seed x v i (a + b) = slhChain seed x (slhChain seed x v i a) (i + a) b := by
  induction a with
  | zero => simp [slhChain]
  | succ a ih => exact fun v i => by rw [Nat.succ_add]; simp only [slhChain, ih]; congr 1; omega

theorem wotsDigits_le (m : List Byte) : ∀ d ∈ wotsDigits m, d ≤ 15 := by
  intro d hd
  simp only [wotsDigits, slhDigits, List.mem_append, List.mem_map] at hd
  rcases hd with ⟨_, -, rfl⟩ | ⟨_, -, rfl⟩ <;> exact Nat.le_of_lt_succ (Nat.mod_lt _ (by decide))

/-- A one-time signature leads to the public key of its key pair. -/
theorem wotsFrom_sign (sk seed : List Byte) (x : Adrs) (m : List Byte) : wotsFrom seed x m (wotsSign sk seed x m) = wotsPublic sk seed x := by
  unfold wotsFrom wotsPublic
  congr 1
  have step : ∀ i (hi : i < 35), let c := ((List.range 35).zip (wotsDigits m))[i]'(by simp [wotsDigits_length, hi])
      slhChain seed { x with chain := c.1 } (piece16 (wotsSign sk seed x m) c.1) c.2 (15 - c.2) =
        slhChain seed { x with chain := i } (wotsSecret sk seed x i) 0 15 := by
    intro i hi
    have hl : i < ((List.range 35).zip (wotsDigits m)).length := by simp [wotsDigits_length, hi]
    have hd : (wotsDigits m)[i]'(by rw [wotsDigits_length]; exact hi) ≤ 15 := wotsDigits_le m _ (List.getElem_mem _)
    have hp := piece16_flatMap ((List.range 35).zip (wotsDigits m))
      (fun c => slhChain seed { x with chain := c.1 } (wotsSecret sk seed x c.1) 0 c.2) []
      (fun c _ => slhChain_length _ _ _ _ _ (slhHash_length ..)) i hl
    rw [List.append_nil] at hp
    simp only [List.getElem_zip, List.getElem_range] at hp ⊢
    rw [wotsSign, hp]
    generalize (wotsDigits m)[i] = d at hd ⊢
    have two := slhChain_add seed { x with chain := i } d (15 - d) (wotsSecret sk seed x i) 0
    rw [Nat.zero_add, Nat.add_sub_of_le hd] at two
    exact two.symm
  have e : ∀ (l : List (Nat × Nat)) (f : Nat × Nat → List Byte) (g : Nat → List Byte) (r : List Nat), l.length = r.length →
      (∀ i (h : i < l.length) (h' : i < r.length), f l[i] = g r[i]) → l.flatMap f = r.flatMap g := by
    intro l f g r hlen h
    have : l.map f = r.map g := List.ext_getElem (by simpa using hlen) fun i h1 h2 => by
      simpa using h i (by simpa using h1) (by simpa using h2)
    rw [List.flatMap_def, List.flatMap_def, this]
  exact e _ _ _ _ (by simp [wotsDigits_length]) fun i h h' => by
    simpa only [List.getElem_range] using step i (by simpa using h')

/-- From a node of a tree, `n` levels up its path, stands the node above it. -/
theorem slhClimb_path (sk seed : List Byte) (x : Adrs) (auth : List Byte) (index n : Nat) : ∀ j,
    (∀ k, j ≤ k → k < j + n → piece16 auth k = xmssNode sk seed x (sibling index k) k) →
    slhClimb seed { x with type := 2, key := 0 } auth (xmssNode sk seed x (index / 2 ^ j) j) (index / 2 ^ j) j n =
      xmssNode sk seed x (index / 2 ^ (j + n)) (j + n) := by
  induction n with
  | zero => exact fun j _ => rfl
  | succ n ih =>
    intro j h
    have up : xmssNode sk seed x (index / 2 ^ (j + 1)) (j + 1) =
        (let s := piece16 auth j
         if index / 2 ^ j % 2 = 0 then slhJoin seed { x with type := 2, key := 0 } (j + 1) (index / 2 ^ j / 2) (xmssNode sk seed x (index / 2 ^ j) j) s
         else slhJoin seed { x with type := 2, key := 0 } (j + 1) (index / 2 ^ j / 2) s (xmssNode sk seed x (index / 2 ^ j) j)) := by
      have hdiv : index / 2 ^ (j + 1) = index / 2 ^ j / 2 := by rw [Nat.pow_succ, Nat.div_div_eq_div_mul]
      rw [h j (Nat.le_refl _) (by omega), xmssNode, hdiv]
      simp only [sibling]
      generalize index / 2 ^ j = q
      split
      · rw [show 2 * (q / 2) = q by omega]
      · rw [show 2 * (q / 2) = q - 1 by omega, show q - 1 + 1 = q by omega]
    rw [slhClimb]
    simp only at up ⊢
    rw [← up, show index / 2 ^ j / 2 = index / 2 ^ (j + 1) by rw [Nat.pow_succ, Nat.div_div_eq_div_mul]]
    rw [ih (j + 1) fun k h1 h2 => h k (by omega) (by omega), show j + 1 + n = j + (n + 1) by omega]

/-- A tree's signature leads to its root. -/
theorem xmssFrom_sign (sk seed : List Byte) (x : Adrs) (index : Nat) (m : List Byte) (h : index < 512) :
    xmssFrom seed x index m (xmssSign sk seed x index m) = xmssNode sk seed x 0 9 := by
  have w := wotsSign_length sk seed { x with type := 0, key := index } m
  unfold xmssFrom xmssSign
  rw [List.take_left' w, List.drop_left' w, wotsFrom_sign]
  have := slhClimb_path sk seed x ((List.range 9).flatMap fun j => xmssNode sk seed x (sibling index j) j) index 9 0 fun k _ hk => by
    have := piece16_flatMap (List.range 9) (fun j => xmssNode sk seed x (sibling index j) j) [] (fun j _ => xmssNode_length ..) k (by simpa using hk)
    simpa using this
  simpa [xmssNode, Nat.div_eq_of_lt h] using this

/-- The signatures of the upper layers lead to the root of the highest tree. -/
theorem layersFrom_sign (sk seed : List Byte) (n : Nat) : ∀ (tree leaf : Nat) (m : List Byte), n ≤ 6 → tree < 512 ^ n → leaf < 512 →
    layersFrom seed (6 - n) tree leaf m (layersSign sk seed (6 - n) tree leaf m (n + 1)) (n + 1) = slhRoot sk seed := by
  induction n with
  | zero =>
    intro tree leaf m _ ht hl
    have : tree = 0 := by simpa using ht
    subst this
    have x := xmssSign_length sk seed { layer := 6, tree := 0 } leaf m
    simp only [layersFrom, layersSign, List.take_left' x]
    exact xmssFrom_sign sk seed _ leaf m hl
  | succ n ih =>
    intro tree leaf m hn ht hl
    have x := xmssSign_length sk seed { layer := 6 - (n + 1), tree := tree } leaf m
    rw [layersFrom, layersSign, List.take_left' x, List.drop_left' x, show 6 - (n + 1) + 1 = 6 - n by omega]
    exact ih _ _ _ (by omega) (Nat.div_lt_of_lt_mul (by rw [Nat.pow_succ] at ht; omega)) (Nat.mod_lt _ (by decide))

/-- A signature verifies under the key that made it. -/
theorem slhVerify_sign (sk prf seed rand m : List Byte) (h : seed.length = 16) :
    slhVerify (seed ++ slhRoot sk seed) m (slhSign sk prf seed (slhRoot sk seed) rand m) = true := by
  have hr : (slhRoot sk seed).length = 16 := xmssNode_length ..
  have len := slhSign_length sk prf seed (slhRoot sk seed) rand m
  have parts : ∃ r md tree leaf, r.length = 16 ∧ tree < 512 ^ 6 ∧ leaf < 512 ∧
      slhDigest r seed (slhRoot sk seed) (slhMessage m) = (md, tree, leaf) ∧
      slhSign sk prf seed (slhRoot sk seed) rand m = r ++ (forsSign sk seed { tree := tree, type := 3, key := leaf } md ++
        layersSign sk seed 0 tree leaf (forsFrom seed { tree := tree, type := 3, key := leaf } md
          (forsSign sk seed { tree := tree, type := 3, key := leaf } md)) 7) :=
    ⟨(hmac256 prf (rand ++ slhMessage m)).take 16, _, _, _, by simp [hmac256_length], Nat.mod_lt _ (by decide), Nat.mod_lt _ (by decide), rfl, by
      rw [← List.append_assoc]; rfl⟩
  obtain ⟨r, md, tree, leaf, rl, ht, hl, hd, hs⟩ := parts
  have f := forsSign_length sk seed { tree := tree, type := 3, key := leaf } md
  have top := layersFrom_sign sk seed 6 tree leaf (forsFrom seed { tree := tree, type := 3, key := leaf } md
    (forsSign sk seed { tree := tree, type := 3, key := leaf } md)) (Nat.le_refl _) ht hl
  unfold slhVerify
  rw [len, hs]
  simp only [List.take_left' h, List.drop_left' h, List.take_left' rl, List.drop_left' rl, hd, List.take_left' f]
  rw [show 2928 = 16 + 2912 from rfl, ← List.drop_drop, List.drop_left' rl, List.drop_left' f]
  simpa [h, hr] using top

end Sys2Proof
end

