-- ==== Sys2Proof/Tests/Slice0.lean ====
section
/-!
SUPPORT. Tests of the model: words written out from the spec's encodings and what they decode to, ill-formed terms and words
that each check of R78 refuses, single steps whose results are worked out from the rules, and states that meet the premises
of the statements.
-/

namespace Sys2Proof.Tests
open Machine

set_option Elab.async false

/-! ### Words of the spec and what they decode to -/

theorem test_decode_spec_words : Obligations.WordsOfTheSpecDecode := by
  unfold Obligations.WordsOfTheSpecDecode Claims.Reads
  and_intros <;> exact fun _ => rfl

/-- `CMP.lt.i32 p3, g4, 100` field by field: opcode 0x120, no guard, d 3, a 4, imm21 100, L 0, T 0010, V 010. -/
theorem test_decode_cmp_bits : decode (0b0100100000#10 ++ 0b000000#6 ++ 0b000000011#9 ++ 0b000000100#9
    ++ 0b000000000000001100100#21 ++ 0b0#1 ++ 0b0#1 ++ 0b0010#4 ++ 0b010#3) none
    = .ok (.cmpImm ⟨.always, 3, 4, 100, .i32, 2⟩) := by decide +kernel
/-- `?!p5 STS.i16 [g7 - 2], g9`: opcode 0x181, guard 1 1 0101, d 9, a 7, off16 −2, order 00, width 001. -/
theorem test_decode_sts_bits : decode (0b0110000001#10 ++ 0b110101#6 ++ 0b000001001#9 ++ 0b000000111#9 ++ 0b000000000#9
    ++ 0b1111111111111110#16 ++ 0b00#2 ++ 0b001#3) none
    = .ok (.sts ⟨.onFalse 5, 9, 7, 0, 0xFFFE, 0, 1⟩) := by decide +kernel
/-- `MOVI.l.n64 g2, 0x0123456789ABCDEF`: opcode 0x0E4 with L = 1 and the immediate in the second word. -/
theorem test_decode_long : decodeTableWord 128 (0x0123456789ABCDEF <<< 64 ||| 0x0E4 <<< 54 ||| 2 <<< 39 ||| 1 <<< 8 ||| 7 <<< 3)
    = some (.moviLong ⟨.always, 2, 0, .n64, 0, 0x0123456789ABCDEF⟩) := by decide +kernel
theorem test_decode_control :
    [0x5140000040000000, 0x5180000000000000, 0x51C0000000000000, 0x5200000000000000, 0x7180000000000007, 0xD100020080E00000,
      0xD2C004808140B000].map (decodeTableWord 64) =
    [some (.ret ⟨.always, 0, 1, 0, 0, 0, false, false, false, .i8, 0⟩),
      some (.exit ⟨.always, 0, 0, 0, 0, 0, false, false, false, .i8, 0⟩),
      some (.yield ⟨.always, 0, 0, 0, 0, 0, false, false, false, .i8, 0⟩),
      some (.nop ⟨.always, 0, 0, 0, 0, 0, false, false, false, .i8, 0⟩),
      some (.fence ⟨.always, 0, 0, 0, false, 7⟩),
      some (.shas ⟨.always, 4, 2, 7, 0, 0, false, false, false, .i8, 0⟩),
      some (.sstl ⟨.always, 9, 2, 10, 11, 0, false, false, false, .i8, 0⟩)] := by decide +kernel

/-- The worked encodings of the encoding chapter, and words of the block-sparse program. -/
theorem test_decode_worked_words :
    decodeTableWord 64 0x0072028180000510 = some (.add ⟨.onFalse 2, 5, 6, 0, 0, 1, false, true, false, .i32, 0⟩) ∧
    decodeTableWord 64 0x5000FFFFFFF80000 = some (.bra ⟨.always, 0xFFFFFFF8, 0⟩) ∧
    decodeTableWord 128 (0x123456789A <<< 64 ||| 0x3900040000000118) = some (.moviLong ⟨.always, 8, 0, .i64, 0, 0x123456789A⟩) ∧
    decodeTableWord 64 0x6000018280000206 = some (.lds ⟨.always, 3, 10, 0, 16, 0, 6⟩) ∧
    decodeTableWord 64 0x63C0020300C00013 = some (.atomsCas ⟨.always, 4, 12, 6, 0, 2, 3⟩) ∧
    decodeTableWord 64 0x90800A0542C17400 = some (.cpxg ⟨.always, 20, 21, 22, 23, 4, false, 0⟩) ∧
    decodeTableWord 64 0x91800E0100000002 = some (.tlread ⟨.always, 28, 4, 0, 0, 0, false, false, false, .i8, 2⟩) ∧
    decodeTableWord 64 0x92000F0003800400 = some (.engq ⟨.always, 30, 0, 28, 0, 4, false, 0⟩) ∧
    decodeTableWord 64 0x9240000003800401 = some (.engres ⟨.always, 0, 0, 28, 0, 4, false, 1⟩) := by decide +kernel

/-! ### The checks of R78 -/

/-- The number of the check that a word fails. -/
def failsAt (w : DWord) : Option Nat :=
  match decode w none with
  | .error n => some n
  | .ok (.unassignedOpcode _) => some 1
  | .ok _ => none

/-- One word for each check: an opcode of no row; a guard with bit 53 clear and bit 52 set; a reserved bit of MOV's b field;
V = 100 in FADD; Zc in ADDC; an L form of MUL; an odd 64-bit destination of MOV. -/
theorem test_checks_of_words :
    [0x0000000000000000#64, 0x0048000000000000#64, 0x3100028000200020#64, 0x200002818020004C#64, 0x03400201810021B0#64,
      0x08C0000000000110#64, 0x3100028200000038#64].map failsAt =
    [some 1, some 2, some 3, some 4, some 5, some 6, some 7] := by decide +kernel

/-- The borderline cases of the table at the end of the arithmetic chapter. -/
theorem test_borderline_cases :
    (Instr.fadd ⟨.always, 4, 5, 6, 0, 0, false, false, false, .f32, 4⟩).sig.early = some 4 ∧
    (Instr.mov ⟨.always, 5, 8, 0, 0, 0, false, false, false, .i64, 0⟩).sig.check7 = false ∧
    (Instr.addc ⟨.always, 4, 6, 8, 2, 0, false, false, true, .n32, 0⟩).sig.early = some 5 ∧
    (Instr.unpack ⟨.always, 4, 6, 0, 0xB, 0, false, true, false, .f32, 0⟩).sig.early = some 5 := by decide +kernel

/-- Well-formedness refuses a term for each of its parts: a reserved field in use, a modifier the instruction does not accept,
a literal-zero flag on a field that is no register, an odd pair, an immediate above the width of an L form, an L form at a
width of 16 bits, and an unassigned word whose opcode is assigned. -/
theorem test_ill_formed_terms :
    [Instr.mov ⟨.always, 4, 6, 1, 0, 0, false, false, false, .n32, 0⟩, .fadd ⟨.always, 4, 5, 6, 0, 0, false, false, false, .f32, 4⟩,
      .addc ⟨.always, 4, 6, 8, 2, 0, false, false, true, .n32, 0⟩, .mov ⟨.always, 5, 8, 0, 0, 0, false, false, false, .i64, 0⟩,
      .addLong ⟨.always, 4, 6, .n32, 0, 0x100000000⟩, .addLong ⟨.always, 4, 6, .n16, 0, 1⟩,
      .unassignedOpcode 0x0040000000000000].map Instr.wellFormed = List.replicate 7 false ∧
    (Instr.mov ⟨.always, 4, 6, 0, 0, 0, false, false, false, .n32, 0⟩).wellFormed = true ∧
    (Instr.addLong ⟨.always, 4, 6, .n32, 0, 0xFFFFFFFF⟩).wellFormed = true ∧ (Instr.unassignedOpcode 0).wellFormed = true := by
  decide +kernel

/-! ### Single steps of one thread from the loaded program -/

/-- The words of an instruction as one number, the first word lowest. -/
def wordsOf (i : Instr) : Nat :=
  match encode i with
  | [w] => w.toNat
  | [w, w2] => w.toNat + w2.toNat * 2 ^ 64
  | _ => 0

/-- The loaded program's parcel. -/
def key : PKey := ⟨0, 1, 0⟩
/-- The state in which the next step fetches `i` for a thread changed by `f`. -/
def placed (i : Instr) (f : Thread → Thread) : State := (State.reset.withFetchWord 128 (wordsOf i)).modThread key 0 f
/-- The thread after one step. -/
def after (i : Instr) (f : Thread → Thread) : Option Thread :=
  match step (placed i f) with
  | .next u => u.thread? key 0
  | _ => none
/-- The thread with some registers. -/
def withRegs (gs : List (Nat × Word)) (t : Thread) : Thread := { t with g := gs }
/-- After one step the thread stands behind the instruction and register `r` holds `v`. -/
def gets (i : Instr) (gs : List (Nat × Word)) (r v : Nat) : Bool :=
  match after i (withRegs gs) with
  | some t => (t.reg r).toNat == v && t.pc.toNat == 8 * (encode i).length && t.status == .ready
  | none => false
/-- As `gets`, for a pair. -/
def getsPair (i : Instr) (gs : List (Nat × Word)) (r v : Nat) : Bool :=
  match after i (withRegs gs) with
  | some t => (t.pair r).toNat == v && t.pc.toNat == 8 * (encode i).length
  | none => false
/-- After one step predicate `p` holds `v`. -/
def getsPred (i : Instr) (gs : List (Nat × Word)) (p : Nat) (v : Bool) : Bool :=
  match after i (withRegs gs) with
  | some t => t.pred p == v && t.pc.toNat == 8 * (encode i).length
  | none => false
/-- After one step the thread stands at `pc` with this trap cause. -/
def trapsTo (i : Instr) (gs : List (Nat × Word)) (cause pc : Nat) : Bool :=
  match after i (withRegs gs) with
  | some t => t.tcause.toNat == cause && t.pc.toNat == pc && t.tstate.toNat % 2 == 1
  | none => false

/-- A format R word without flags. -/
def fr (ty : TypeCode) (v : BitVec 3) (d a b c : BitVec 9) : RWord := ⟨.always, d, a, b, c, 0, false, false, false, ty, v⟩
/-- A format I word. -/
def fi (ty : TypeCode) (v : BitVec 3) (d a : BitVec 9) (imm : BitVec 21) : IWord := ⟨.always, d, a, imm, ty, v⟩
/-- A format M word. -/
def fm (d base s : BitVec 9) (off : BitVec 16) (order : BitVec 2) (width : BitVec 3) : MWord := ⟨.always, d, base, s, off, order, width⟩

theorem test_add_wraps : gets (.add (fr .n32 0 4 6 8 0)) [(6, 0xFFFFFFFF), (8, 2)] 4 1 = true := by decide +kernel
theorem test_add_saturates : gets (.add (fr .i8 1 4 6 8 0)) [(6, 100), (8, 100)] 4 127 = true := by decide +kernel
theorem test_add_imm_negative : gets (.addImm (fi .i32 0 4 6 (BitVec.ofInt 21 (-3)))) [(6, 1)] 4 0xFFFFFFFE = true := by decide +kernel
theorem test_add_long : getsPair (.addLong ⟨.always, 4, 6, .n64, 0, 0xFFFFFFFF00000001⟩) [(6, 0xFFFFFFFF), (7, 1)] 4 0x100000000 = true := by
  decide +kernel
theorem test_sub_narrow : gets (.sub (fr .n16 0 4 6 8 0)) [(8, 1)] 4 0xFFFF = true := by decide +kernel
theorem test_sub_saturates : gets (.subImm (fi .n8 1 4 6 5)) [(6, 3)] 4 0 = true := by decide +kernel
theorem test_mul_wraps : gets (.mul (fr .i16 0 4 6 8 0)) [(6, 300), (8, 300)] 4 24464 = true := by decide +kernel
theorem test_mulhi : gets (.mulhi (fr .n32 0 4 6 8 0)) [(6, 0xFFFFFFFF), (8, 0xFFFFFFFF)] 4 0xFFFFFFFE = true := by decide +kernel
theorem test_mulhi_signed : gets (.mulhi (fr .i32 0 4 6 8 0)) [(6, 0xFFFFFFFF), (8, 1)] 4 0xFFFFFFFF = true := by decide +kernel
theorem test_mad_saturates : gets (.mad (fr .i32 1 4 6 8 10)) [(6, 0x10000), (8, 0x10000), (10, 1)] 4 0x7FFFFFFF = true := by decide +kernel
theorem test_div_truncates : gets (.div (fr .i32 0 4 6 8 0)) [(6, 0xFFFFFFF9), (8, 2)] 4 0xFFFFFFFD = true := by decide +kernel
theorem test_rem_sign : gets (.rem (fr .i32 0 4 6 8 0)) [(6, 0xFFFFFFF9), (8, 2)] 4 0xFFFFFFFF = true := by decide +kernel
theorem test_div_by_zero_traps : trapsTo (.div (fr .i32 0 4 6 8 0)) [(6, 5)] 0x05 0x80 = true := by decide +kernel
theorem test_neg_lowest : gets (.neg (fr .i8 1 4 6 0 0)) [(6, 0x80)] 4 127 = true := by decide +kernel
theorem test_abs_lowest_wraps : gets (.abs (fr .i8 0 4 6 0 0)) [(6, 0x80)] 4 0xFFFFFF80 = true := by decide +kernel
theorem test_min_signed : gets (.min (fr .i32 0 4 6 8 0)) [(6, 0x80000000), (8, 1)] 4 0x80000000 = true := by decide +kernel
theorem test_max_unsigned : gets (.max (fr .n32 0 4 6 8 0)) [(6, 0x80000000), (8, 1)] 4 0x80000000 = true := by decide +kernel
theorem test_clamp : gets (.clamp (fr .i32 0 4 6 8 10)) [(6, 50), (8, 0xFFFFFFFF), (10, 9)] 4 9 = true := by decide +kernel
theorem test_addc_carry_out : getsPred (.addc (fr .n32 0 4 6 8 2)) [(6, 0xFFFFFFFF), (8, 1)] 2 true = true := by decide +kernel
theorem test_subb_overflow : getsPred (.subb (fr .i32 0 4 6 8 2)) [(6, 0x80000000), (8, 1)] 2 true = true := by decide +kernel
theorem test_sad : gets (.sad (fr .n32 0 4 6 8 10)) [(6, 3), (8, 10), (10, 100)] 4 107 = true := by decide +kernel
theorem test_andn : gets (.andn (fr .n32 0 4 6 8 0)) [(6, 0xFF), (8, 0x0F)] 4 0xF0 = true := by decide +kernel
theorem test_shl_full_width : gets (.shl (fr .n32 0 4 6 8 0)) [(6, 1), (8, 32)] 4 0 = true := by decide +kernel
theorem test_sar_beyond_width : gets (.sar (fr .n32 0 4 6 8 0)) [(6, 0x80000000), (8, 40)] 4 0xFFFFFFFF = true := by decide +kernel
theorem test_rot_modulo : gets (.rot (fr .n32 0 4 6 8 0)) [(6, 0x80000001), (8, 33)] 4 3 = true := by decide +kernel
theorem test_bfx_signed : gets (.bfx (fr .i32 0 4 6 8 0)) [(6, 0xF0), (8, 0x0404)] 4 0xFFFFFFFF = true := by decide +kernel
theorem test_bfi_cut : gets (.bfi (fr .n32 0 4 6 8 10)) [(6, 0xFF), (8, 0x11111111), (10, 0x081C)] 4 0xF1111111 = true := by decide +kernel
theorem test_popc : gets (.popc (fr .n32 0 4 6 0 0)) [(6, 0xF000000F)] 4 8 = true := by decide +kernel
theorem test_clz_zero : gets (.clz (fr .n32 0 4 6 0 0)) [] 4 32 = true := by decide +kernel
theorem test_ctz : gets (.ctz (fr .n32 0 4 6 0 0)) [(6, 0x80)] 4 7 = true := by decide +kernel
theorem test_brev : gets (.brev (fr .n32 0 4 6 0 0)) [(6, 1)] 4 0x80000000 = true := by decide +kernel
theorem test_perm_sign : gets (.perm (fr .n32 0 4 6 8 10)) [(6, 0x44332280), (8, 0x88776655), (10, 0x8F41)] 4 0xFFFF5522 = true := by
  decide +kernel
theorem test_lut3_majority : gets (.lut3 (fr .n32 0 4 6 8 0xE8)) [(4, 0b1100), (6, 0b1010), (8, 0b0110)] 4 0b1110 = true := by
  decide +kernel
theorem test_fadd : gets (.fadd (fr .f32 0 4 6 8 0)) [(6, 0x3F800000), (8, 0x40000000)] 4 0x40400000 = true := by decide +kernel
theorem test_fadd_cancels_down : gets (.fadd (fr .f32 3 4 6 8 0)) [(6, 0x3F800000), (8, 0xBF800000)] 4 0x80000000 = true := by
  decide +kernel
theorem test_fsub_infinities : gets (.fsub (fr .f32 0 4 6 8 0)) [(6, 0x7F800000), (8, 0x7F800000)] 4 0x7FC00000 = true := by
  decide +kernel
theorem test_fmul_subnormal : gets (.fmul (fr .f32 0 4 6 8 0)) [(6, 0x00800000), (8, 0x3F000000)] 4 0x00400000 = true := by
  decide +kernel
/-- (1 + 2^−23)² − 1 exactly, which no rounded product would give. -/
theorem test_ffma_rounds_once : gets (.ffma (fr .f32 0 4 6 8 10)) [(6, 0x3F800001), (8, 0x3F800001), (10, 0xBF800000)] 4 0x34800000
    = true := by decide +kernel
theorem test_fdiv_third : gets (.fdiv (fr .f32 0 4 6 8 0)) [(6, 0x3F800000), (8, 0x40400000)] 4 0x3EAAAAAB = true := by decide +kernel
theorem test_fdiv_third_truncated : gets (.fdiv (fr .f32 1 4 6 8 0)) [(6, 0x3F800000), (8, 0x40400000)] 4 0x3EAAAAAA = true := by
  decide +kernel
theorem test_fsqrt_two : gets (.fsqrt (fr .f32 0 4 6 0 0)) [(6, 0x40000000)] 4 0x3FB504F3 = true := by decide +kernel
theorem test_frcp_zero : gets (.frcp (fr .f32 0 4 6 0 0)) [(6, 0x80000000)] 4 0xFF800000 = true := by decide +kernel
theorem test_frsq_four : gets (.frsq (fr .f32 0 4 6 0 0)) [(6, 0x40800000)] 4 0x3F000000 = true := by decide +kernel
theorem test_fmin_zeros : gets (.fmin (fr .f32 0 4 6 8 0)) [(6, 0), (8, 0x80000000)] 4 0x80000000 = true := by decide +kernel
theorem test_fmax_nan : gets (.fmax (fr .f32 0 4 6 8 0)) [(6, 0x7FC00001), (8, 0xC0000000)] 4 0xC0000000 = true := by decide +kernel
theorem test_fclass_negative_infinity : gets (.fclass (fr .f32 0 4 6 0 0)) [(6, 0xFF800000)] 4 1 = true := by decide +kernel
theorem test_fscale : gets (.fscale (fr .f32 0 4 6 8 0)) [(6, 0x3F800000), (8, 0xFFFFFFFF)] 4 0x3F000000 = true := by decide +kernel
/-- The example of R172 and R173. -/
theorem test_pack_example : gets (.pack (fr .e4m3 0 6 4 5 0x009)) [(4, 0x3FC00000), (5, 0xC3FA0000), (6, 0x00003C38)] 6 0x3C38FE3C
    = true := by decide +kernel
theorem test_unpack_example : getsPair (.unpack ⟨.always, 8, 6, 0, 0x00C, 0, false, true, false, .f32, 0⟩) [(6, 0x3C38FE3C)] 8
    0xC3E000003FC00000 = true := by decide +kernel
theorem test_cvt_saturates : gets (.cvt (fr .i8 0 4 6 0 0x009)) [(6, 0xC3FA0000)] 4 0xFFFFFF80 = true := by decide +kernel
theorem test_frnd_half_even : gets (.frnd (fr .f32 0 4 6 0 0)) [(6, 0x40200000)] 4 0x40000000 = true := by decide +kernel
theorem test_mov : gets (.mov (fr .n32 0 4 6 0 0)) [(6, 0xDEADBEEF)] 4 0xDEADBEEF = true := by decide +kernel
theorem test_sel_false : gets (.sel (fr .n32 0 4 6 8 3)) [(6, 1), (8, 2)] 4 2 = true := by decide +kernel
theorem test_movi_sign : getsPair (.movi (fi .i64 0 4 0 0x100000)) [] 4 0xFFFFFFFFFFF00000 = true := by decide +kernel
theorem test_cmp_signed : getsPred (.cmp (fr .i32 2 3 6 8 0)) [(6, 0xFFFFFFFF), (8, 1)] 3 true = true := by decide +kernel
theorem test_fcmp_unordered_ne : getsPred (.fcmp (fr .f32 1 3 6 8 0)) [(6, 0x7FC00000)] 3 true = true := by decide +kernel
theorem test_pmov : getsPred (.pmov (fr .i8 1 3 6 0 0)) [(6, 7)] 3 true = true := by decide +kernel

/-! ### Control, system and scratchpad instructions -/

/-- A format B word. -/
def fb (off : BitVec 32) : BWord := ⟨.always, off, 0⟩
/-- A layout S1 word. -/
def fs (d a : BitVec 9) (n : BitVec 12) (mod : BitVec 7) : SWord := ⟨.always, d, a, n, false, mod⟩
/-- After one step the thread stands at `pc`, ready, and register `r` holds `v`. -/
def goesTo (i : Instr) (gs : List (Nat × Word)) (pc r v : Nat) : Bool :=
  match after i (withRegs gs) with
  | some t => t.pc.toNat == pc && t.status == .ready && (t.reg r).toNat == v && t.tcause == 0
  | none => false

theorem test_call_links : goesTo (.call (fb 4)) [] 32 1 8 = true := by decide +kernel
theorem test_brx_unaligned_traps : trapsTo (.brx (fr .i8 0 0 6 0 0)) [(6, 36)] 0x06 0x80 = true := by decide +kernel
theorem test_callx_reads_first : goesTo (.callx (fr .i8 0 7 7 0 0)) [(7, 64)] 64 7 8 = true := by decide +kernel
theorem test_ret : goesTo (.ret (fr .i8 0 0 1 0 0)) [(1, 48)] 48 1 48 = true := by decide +kernel
theorem test_branch_off_the_image_misses : trapsTo (.bra (fb 32768)) [] 0x04 0x100 = true := by decide +kernel
theorem test_trap_completes : trapsTo (.trap (fs 0 0 7 0)) [] 0x08 0x80 = true ∧
    ((after (.trap (fs 0 0 7 0)) id).map (fun t => (t.tpc.toNat, t.taddr.toNat, t.retired))) = some (8, 7, 1) := by decide +kernel
theorem test_eret_returns : ((after (.eret (fs 0 0 0 0)) (fun t => { t with tstate := 1, tpc := 40 })).map
    (fun t => (t.pc.toNat, t.tstate.toNat))) = some (40, 0) := by decide +kernel
theorem test_mtsr_tsav0 : ((after (.mtsr (fs 0 6 0x23 0)) (withRegs [(6, 99)])).map (fun t => t.tsav0.toNat)) = some 99 := by
  decide +kernel
theorem test_exit_frees_nothing_early : ((after (.exit (fr .i8 0 0 0 0 0)) id).map (fun t => t.status)) = some .exited := by decide +kernel
theorem test_unassigned_word_traps : (match step (State.reset.withFetchWord 64 0) with
    | .next u => (u.thread? key 0).map (fun t => (t.tcause.toNat, t.pc.toNat, t.tpc.toNat))
    | _ => none) = some (0x0101, 0x80, 0) := by decide +kernel
/-- A word that fails check 2 traps with the number of the check. -/
theorem test_bad_guard_traps : (match step (State.reset.withFetchWord 64 0x5201000000000000) with
    | .next u => (u.thread? key 0).map (fun t => (t.tcause.toNat, t.pc.toNat))
    | _ => none) = some (0x0201, 0x80) := by decide +kernel
/-- The word of R79's table at d = 20 passes for a budget of 512 and is skipped under a false guard. -/
theorem test_false_guard_skips : goesTo (.add ⟨.onFalse 2, 5, 6, 0, 0, 1, false, true, false, .i32, 0⟩) [(6, 3)] 8 5 3 = true ∧
    ((after (.add ⟨.onTrue 2, 5, 6, 0, 0, 1, false, true, false, .i32, 0⟩) (withRegs [(6, 3)])).map (fun t =>
      ((t.reg 5).toNat, t.pc.toNat, t.retired))) = some (0, 8, 1) := by decide +kernel
theorem test_sts_queues : ((after (.sts (fm 5 10 0 2 0 1)) (withRegs [(5, 0xABCD), (10, 0x100)])).map
    (fun t => (t.storeQ.map (fun q => (q.off, q.bytes)), t.counts.stores))) = some ([(0x102, [0xCD, 0xAB])], 1) := by decide +kernel
theorem test_lds_unaligned_traps : trapsTo (.lds (fm 5 10 0 2 0 6)) [(10, 0x100)] 0x06 0x80 = true := by decide +kernel
theorem test_lds_beyond_traps : trapsTo (.lds (fm 5 10 0 0 0 6)) [(10, 0x100000)] 0x0402 0x80 = true := by decide +kernel

/-- One step, where it gives a next state. -/
def stepped (s : State) : State :=
  match step s with
  | .next u => u
  | _ => s
/-- The state after a step of the device. -/
def event (i : Instr) (s : State) : State :=
  match exec i s with
  | .next u => u
  | _ => s
/-- The loaded thread. -/
def tref : TRef := ⟨0, 1, 0, 0⟩

/-- A store is performed, then a load reads it through the port and its result is delivered sign-extended. -/
def storedThen : State := event (.storePerform tref) (stepped (placed (.sts (fm 5 10 0 0 0 0)) (withRegs [(5, 0x80), (10, 0x100)])))
theorem test_store_performs : (storedThen.parcel key).spad = [(0x100, 0x80)] ∧
    (storedThen.thread? key 0).map (fun t => (t.storeQ.length, t.counts.stores)) = some (0, 0) := by decide +kernel
theorem test_load_extends_sign :
    let s := (placed (.lds (fm 6 10 0 0 0 0)) (withRegs [(10, 0x100)])).modParcel key (fun q => { q with spad := [(0x100, 0x80)] })
    ((event (.loadDeliver tref) (event (.scratchpadPass 0) (stepped s))).thread? key 0).map
      (fun t => ((t.reg 6).toNat, t.pc.toNat, t.counts.loads)) = some (0xFFFFFF80, 8, 0) := by decide +kernel
/-- The second of two arrivals completes phase 0: PEND goes back to INIT and PHASE to 1. -/
theorem test_barrier_phase :
    let s := (placed (.arrive (fm 6 10 0 0 0 0)) (withRegs [(10, 0x40)])).modParcel key
      (fun p => { p with spad := Mem.setNat [] 0x40 16 (1 * 2 ^ 21 + 2 * 2 ^ 10) })
    ((event (.scratchpadPass 0) (stepped s)).parcel key).barrier 0x40 = ⟨0, 0, 1, 2, 2⟩ := by decide +kernel
theorem test_atoms_add :
    let s := event (.scratchpadPass 0) (stepped ((placed (.atomsAdd (fm 6 10 8 0 2 6)) (withRegs [(8, 5), (10, 0x40)])).modParcel key
      (fun p => { p with spad := [(0x40, 7)] })))
    (s.parcel key).spad = [(0x40, 12)] ∧
      ((event (.loadDeliver tref) s).thread? key 0).map (fun t => (t.reg 6).toNat) = some 7 := by decide +kernel

/-! ### The worked examples of the number formats -/

/-- Group-wise rounding: 2^24 + 1 rounds to 2^24, and 2^24 + 1 again to 2^24. -/
theorem test_groups_round_each :
    let g (old : Nat) (a b : Int) : Nat := (stepElem .fp32 false false old [Val.ofInt a, Val.ofInt b] [Val.ofInt 1, Val.ofInt 1]).1
    g (g 0 (2 ^ 24) 1) 1 0 = 0x4B800000 := by decide +kernel
/-- Integer saturation and wrapping of the example. -/
theorem test_integer_groups :
    (stepElem .int32 true false 2147483600 [Val.ofInt 64516] [Val.ofInt 1]).1 = 2147483647 ∧
    signedOf (stepElem .int32 false false 2147483600 [Val.ofInt 64516] [Val.ofInt 1]).1 32 = -2147419180 := by decide +kernel
/-- The assist example: 2^−140 is encoded 0x0000_0200 and needs an assist, and flushes to +0. -/
theorem test_assist_example :
    stepElem .fp32 false false 0 [.fin false 1 (2 ^ 140)] [Val.ofInt 1] = (0x200, true) ∧
    (stepElem .fp32 false true 0 [.fin false 1 (2 ^ 140)] [Val.ofInt 1]).1 = 0 := by decide +kernel

/-! ### States that meet the premises of the statements

A statement is about every state that meets its premises; the theorems below name states and operands that meet them together.
-/

/-- The loaded program's state with its thread changed by `f`, the rest by `h`, and the group of that thread about to issue. -/
def ready (h : State → State) (f : Thread → Thread) : State :=
  { h ((State.reset.withFetchWord 128 0).modThread key 0 f) with group := some ⟨0, key, [0], 0, 8⟩ }
/-- The group of the loaded thread. -/
def grp : Group := ⟨0, key, [0], 0, 8⟩
/-- The loaded thread, changed by `f`. -/
def thr (f : Thread → Thread) : Thread := f { Thread.initial with srseed := srInit 0 }
/-- A change of the loaded parcel. -/
def onParcel (f : Parcel → Parcel) (s : State) : State := s.modParcel key f
/-- The launch of the loaded parcel. -/
def lch : LKey := key.launchKey

def goesB (s : State) (g : Group) (i : Instr) (want : Readiness) : Bool :=
  decide (s.group = some g) && decide g.tixs.Nodup && g.tixs.all (fun x =>
    match s.thread? g.key x, s.launch? g.key.launchKey with
    | some t, some l => decide (t.status = .ready) && decide (t.readiness l i.sig = want)
    | _, _ => false)
def aloneB (s : State) (g : Group) (i : Instr) (t : Thread) (want : Readiness) : Bool :=
  decide (s.group = some g) && decide (g.tixs = [t.tix]) && decide (s.coreOf g.key = g.core) &&
    decide (s.thread? g.key t.tix = some t) && decide (t.status = .ready) &&
    (match s.launch? g.key.launchKey with
    | some l => decide (t.readiness l i.sig = want)
    | none => false)

theorem goesB_thread {s : State} {g : Group} {i : Instr} {want : Readiness} (h : goesB s g i want = true) :
    s.group = some g ∧ g.tixs.Nodup ∧ ∀ x ∈ g.tixs, ∃ t l, s.thread? g.key x = some t ∧ s.launch? g.key.launchKey = some l ∧
      t.status = .ready ∧ t.readiness l i.sig = want := by
  simp only [goesB, Bool.and_eq_true, decide_eq_true_eq, List.all_eq_true] at h
  refine ⟨h.1.1, h.1.2, fun x hx => ?_⟩
  have hx := h.2 x hx
  split at hx
  · next t l ht hl =>
    simp only [Bool.and_eq_true, decide_eq_true_eq] at hx
    exact ⟨t, l, ht, hl, hx⟩
  · simp at hx

theorem goes_of {s : State} {g : Group} {i : Instr} (h : goesB s g i .go = true) : Claims.Goes s g i :=
  let r := goesB_thread h
  ⟨r.1, r.2.1, r.2.2⟩
theorem passesOver_of {s : State} {g : Group} {i : Instr} (h : goesB s g i .skip = true) : Claims.PassesOver s g i :=
  let r := goesB_thread h
  ⟨r.1, r.2.1, r.2.2⟩

theorem aloneB_parts {s : State} {g : Group} {i : Instr} {t : Thread} {want : Readiness} (h : aloneB s g i t want = true) :
    s.group = some g ∧ g.tixs = [t.tix] ∧ s.coreOf g.key = g.core ∧ s.thread? g.key t.tix = some t ∧ t.status = .ready ∧
      ∃ l, s.launch? g.key.launchKey = some l ∧ t.readiness l i.sig = want := by
  simp only [aloneB, Bool.and_eq_true, decide_eq_true_eq] at h
  obtain ⟨⟨⟨⟨⟨h1, h2⟩, h3⟩, h4⟩, h5⟩, h6⟩ := h
  refine ⟨h1, h2, h3, h4, h5, ?_⟩
  split at h6
  · next l hl => exact ⟨l, hl, of_decide_eq_true h6⟩
  · simp at h6

theorem alone_of {s : State} {g : Group} {i : Instr} {t : Thread} (h : aloneB s g i t .go = true) : Claims.Alone s g i t :=
  let r := aloneB_parts h
  ⟨r.1, r.2.1, r.2.2.1, r.2.2.2.1, r.2.2.2.2.1, r.2.2.2.2.2⟩
theorem aloneIllegal_of {s : State} {g : Group} {i : Instr} {t : Thread} (h : aloneB s g i t .illegal = true) :
    Claims.AloneIllegal s g i t :=
  let r := aloneB_parts h
  ⟨r.1, r.2.1, r.2.2.1, r.2.2.2.1, r.2.2.2.2.1, r.2.2.2.2.2⟩

/-- The operands of the samples: three, two and one register at `.n32` and `.f32`, and the two immediate forms. -/
def s3 : RWord := fr .n32 0 4 6 8 10
def s2 : RWord := fr .n32 0 4 6 8 0
def s1 : RWord := fr .n32 0 4 6 0 0
def f2 : RWord := fr .f32 0 4 6 8 0
def f1 : RWord := fr .f32 0 4 6 0 0
def si : IWord := fi .n32 0 4 6 5
def sl : LWord := ⟨.always, 4, 6, .n32, 0, 5⟩
/-- One instruction of every per-thread form. -/
def integerSamples : List Instr :=
  [.add s2, .addImm si, .addLong sl, .sub s2, .subImm si, .subLong sl, .mul s2, .mulImm si, .mulhi s2, .mad s3, .div s2, .rem s2,
    .neg s1, .abs s1, .min s2, .minImm si, .max s2, .maxImm si, .clamp s3, .addc s2, .subb s2, .sad s3]
def logicSamples : List Instr :=
  [.and s2, .andImm si, .andLong sl, .or s2, .orImm si, .orLong sl, .xor s2, .xorImm si, .xorLong sl, .not s1, .andn s2,
    .andnImm si, .shl s2, .shlImm si, .shr s2, .shrImm si, .sar s2, .sarImm si, .rot s2, .rotImm si, .bfx s2, .bfi s3, .popc s1,
    .clz s1, .ctz s1, .brev s1, .perm s3, .lut3 s2]
def floatSamples : List Instr :=
  [.fadd f2, .fsub f2, .fmul f2, .ffma (fr .f32 0 4 6 8 10), .fmin f2, .fmax f2, .fdiv f2, .fsqrt f1, .frcp f1, .frsq f1, .fexp2 f1,
    .flog2 f1, .fsin f1, .fcos f1, .fclass f1, .fscale f2]
def otherSamples : List Instr :=
  [.cvt (fr .i32 0 4 6 0 9), .pack (fr .f16 0 4 6 8 9), .unpack (fr .f32 0 4 6 0 10), .frnd f1, .mov s1, .sel s2,
    .movi (fi .n32 0 4 0 5), .moviLong ⟨.always, 4, 0, .n32, 0, 5⟩, .cmp (fr .i32 2 3 6 8 0), .cmpImm (fi .i32 2 3 6 5),
    .cmpLong ⟨.always, 3, 6, .i32, 2, 5⟩, .fcmp (fr .f32 2 3 6 8 0), .plop (fr .i8 2 3 4 5 0), .pmov (fr .i8 0 4 3 0 0),
    .pmov (fr .i8 1 3 6 0 0), .kderive (fr .i8 0 2 1 6 8), .krights (fr .i8 0 2 1 6 0), .kinfo (fr .i8 2 4 1 0 0),
    .kchk (fr .i8 0 4 1 6 8)]

/-- A capability of object 5 with every right on 4,096 bytes from 0, in the layout of R212. -/
def capAll : QWord := BitVec.ofNat 128 (5 <<< 104 ||| 0xFF <<< 96 ||| 4096)
def capable (t : Thread) : Thread := { t with g := [(6, 16), (8, 3)], c := [(1, capAll)] }

def readyFor (i : Instr) : Bool := i.wellFormed && Claims.perThread i && goesB (ready id capable) grp i .go
theorem readyFor_goes {is : List Instr} (h : is.all readyFor = true) : ∀ i ∈ is, Claims.Goes (ready id capable) grp i := fun i hi => by
  have := List.all_eq_true.1 h i hi
  simp only [readyFor, Bool.and_eq_true] at this
  exact goes_of this.2
/-- Every per-thread form goes in the loaded thread; DIV has a divisor there and KDERIVE a capability. -/
theorem witness_integer : ∀ i ∈ integerSamples, Claims.Goes (ready id capable) grp i := readyFor_goes (by decide +kernel)
theorem witness_logic : ∀ i ∈ logicSamples, Claims.Goes (ready id capable) grp i := readyFor_goes (by decide +kernel)
theorem witness_float : ∀ i ∈ floatSamples, Claims.Goes (ready id capable) grp i := readyFor_goes (by decide +kernel)
theorem witness_moves : ∀ i ∈ otherSamples, Claims.Goes (ready id capable) grp i := readyFor_goes (by decide +kernel)
theorem witness_division : (thr capable).int 8 false .n32 ≠ 0 := by decide +kernel
theorem witness_kderive : capObj (Claims.capAt 1 (thr capable)) = 5 ∧ (capRights (Claims.capAt 1 (thr capable))).testBit 4 = true ∧
    (thr capable).d64 6 false + (thr capable).d64 8 false ≤ capLen (Claims.capAt 1 (thr capable)) := by decide +kernel
theorem witness_false_guard : Claims.PassesOver (ready id id) grp (.add ⟨.onTrue 1, 4, 6, 8, 0, 0, false, false, false, .n32, 0⟩) :=
  passesOver_of (by decide +kernel)

/-! #### Control flow -/

theorem witness_branches :
    (Claims.Alone (ready id id) grp (.bra (fb 4)) (thr id) ∧ Claims.Reaches (ready id id) grp ((thr id).pc + 8 * 4)) ∧
    (Claims.Alone (ready id id) grp (.bru (fb 0x7FFF)) (thr id) ∧ Claims.Reaches (ready id id) grp ((thr id).pc + 8 * 0x7FFF)) ∧
    (Claims.Alone (ready id id) grp (.call (fb 0)) (thr id) ∧ Claims.Reaches (ready id id) grp ((thr id).pc + 8 * 0)) ∧
    (let f := withRegs [(6, 0x3FFF8)]
     Claims.Alone (ready id f) grp (.brx (fr .i8 0 0 6 0 0)) (thr f) ∧ Claims.Alone (ready id f) grp (.callx (fr .i8 0 6 6 0 0)) (thr f) ∧
      Claims.Alone (ready id f) grp (.ret (fr .i8 0 0 6 0 0)) (thr f) ∧
      Claims.Reaches (ready id f) grp (Claims.targetA (fr .i8 0 0 6 0 0) (thr f))) :=
  ⟨⟨alone_of (by decide +kernel), by decide +kernel, by decide +kernel⟩, ⟨alone_of (by decide +kernel), by decide +kernel, by decide +kernel⟩,
    ⟨alone_of (by decide +kernel), by decide +kernel, by decide +kernel⟩, alone_of (by decide +kernel), alone_of (by decide +kernel),
    alone_of (by decide +kernel), by decide +kernel, by decide +kernel⟩
/-- A target that is not a multiple of 8, and the first address above the resident range. -/
theorem witness_branch_faults :
    (let f := withRegs [(6, 4)]
     Claims.Alone (ready id f) grp (.brx (fr .i8 0 0 6 0 0)) (thr f) ∧ (Claims.targetA (fr .i8 0 0 6 0 0) (thr f)).toNat % 8 ≠ 0) ∧
    (Claims.Alone (ready id id) grp (.bra (fb 32768)) (thr id) ∧ ((thr id).pc + 8 * 32768).toNat % 8 = 0 ∧
      ((ready id id).core 0).fetchable lch ((thr id).pc + 8 * 32768) = false) :=
  ⟨⟨alone_of (by decide +kernel), by decide +kernel⟩, alone_of (by decide +kernel), by decide +kernel, by decide +kernel⟩
/-- The parcel of the loaded thread in the state `ready h f`. -/
def par (h : State → State) (f : Thread → Thread) : Parcel := (ready h f).parcel key
theorem witness_nop_yield_exit :
    Claims.Alone (ready id id) grp (.nop (fr .i8 0 0 0 0 0)) (thr id) ∧ Claims.Alone (ready id id) grp (.yield (fr .i8 0 0 0 0 0)) (thr id) ∧
    Claims.Alone (ready id id) grp (.exit (fr .i8 0 0 0 0 0)) (thr id) ∧ (ready id id).parcel? key = some (par id id) ∧
    (par id id).phase = .running ∧ ((ready id id).core 0).halting = false ∧ (thr id).storeQ = [] :=
  ⟨alone_of (by decide +kernel), alone_of (by decide +kernel), alone_of (by decide +kernel), by decide +kernel, by decide +kernel,
    by decide +kernel, rfl⟩

/-! #### Scratchpad accesses -/

/-- The loaded thread with an address in g10 and operands in g8 and g12. -/
def addressed (t : Thread) : Thread := { t with g := [(8, 5), (10, 0xFFFF0), (12, 9)], c := [(1, capAll)] }
theorem free_of {t : Thread} {c : CntClass} (h : (!t.fenceRelease && !t.fenceNumber && !t.fenceAcquire && decide (t.counts.get c < 62)) = true) :
    Claims.FreeToIssue t c := by
  simp only [Bool.and_eq_true, Bool.not_eq_true', decide_eq_true_eq] at h
  exact ⟨⟨h.1.1.1, h.1.1.2, h.1.2⟩, h.2⟩
theorem inBounds_of {s : State} {k : PKey} {o : Int} {n : Nat}
    (h : (decide (0 ≤ o) && decide (o + n ≤ ((s.parcel k).spSize : Int)) && decide (o.toNat % n = 0)) = true) : Claims.InBounds s k o n := by
  simp only [Bool.and_eq_true, decide_eq_true_eq] at h
  exact ⟨h.1.1, h.1.2, h.2⟩
/-- The scratchpad and barrier instructions on the last 16 bytes of the allotment. -/
def portSamples : List (Instr × MWord × Nat) :=
  let m := fm 8 10 12 0 2 6
  let b := fm 6 10 8 0 0 0
  [(.lds (fm 8 10 0 0 0 6), fm 8 10 0 0 0 6, 4), (.lds (fm 8 10 0 12 2 6), fm 8 10 0 12 2 6, 4), (.kld (fm 1 10 0 0 0 0), fm 1 10 0 0 0 0, 16),
    (.atomsAdd m, m, 4), (.atomsMin m, m, 4), (.atomsMax m, m, 4), (.atomsAnd m, m, 4), (.atomsOr m, m, 4), (.atomsXor m, m, 4),
    (.atomsSwap m, m, 4), (.atomsCas m, m, 4), (.binit (fm 0 10 8 0 0 0), fm 0 10 8 0 0 0, 16), (.arrive (fm 6 10 0 0 0 0), fm 6 10 0 0 0 0, 16),
    (.expect b, b, 16), (.waitph (fm 0 10 8 0 0 0), fm 0 10 8 0 0 0, 16), (.testph (fm 2 10 8 0 0 0), fm 2 10 8 0 0 0, 16)]
theorem witness_port : portSamples.all (fun x => x.1.wellFormed && aloneB (ready id addressed) grp x.1 (thr addressed) .go &&
    (let o := Claims.placeOf x.2.1 (thr addressed)
     decide (0 ≤ o) && decide (o + x.2.2 ≤ ((par id addressed).spSize : Int)) && decide (o.toNat % x.2.2 = 0))) = true := by decide +kernel
theorem witness_port_lds : Claims.AtPort (ready id addressed) grp (.lds (fm 8 10 0 12 2 6)) (thr addressed) ∧
    Claims.FreeToIssue (thr addressed) .loads ∧ (thr addressed).storeQ = [] ∧
    Claims.InBounds (ready id addressed) key (Claims.placeOf (fm 8 10 0 12 2 6) (thr addressed)) (Claims.widthBytes (fm 8 10 0 12 2 6)) :=
  ⟨⟨alone_of (by decide +kernel), by decide +kernel⟩, free_of (by decide +kernel), rfl, inBounds_of (by decide +kernel)⟩
theorem witness_port_kld : Claims.AtPort (ready id addressed) grp (.kld (fm 1 10 0 0 0 0)) (thr addressed) ∧
    (thr addressed).storesIn (Claims.placeOf (fm 1 10 0 0 0 0) (thr addressed)).toNat = false ∧
    Claims.InBounds (ready id addressed) key (Claims.placeOf (fm 1 10 0 0 0 0) (thr addressed)) 16 :=
  ⟨⟨alone_of (by decide +kernel), by decide +kernel⟩, by decide +kernel, inBounds_of (by decide +kernel)⟩
theorem witness_port_atoms : Claims.AtPort (ready id addressed) grp (.atomsCas (fm 8 10 12 0 2 6)) (thr addressed) ∧
    Claims.NoFence (thr addressed) ∧
    Claims.InBounds (ready id addressed) key (Claims.placeOf (fm 8 10 12 0 2 6) (thr addressed)) (Claims.widthBytes (fm 8 10 12 0 2 6)) :=
  ⟨⟨alone_of (by decide +kernel), by decide +kernel⟩, ⟨rfl, rfl, rfl⟩, inBounds_of (by decide +kernel)⟩
theorem witness_stores : Claims.Alone (ready id addressed) grp (.sts (fm 8 10 0 15 0 0)) (thr addressed) ∧
    Claims.FreeToIssue (thr addressed) .stores ∧ (thr addressed).storeQ.length < 62 ∧
    Claims.InBounds (ready id addressed) key (Claims.placeOf (fm 8 10 0 15 0 0) (thr addressed)) (Claims.widthBytes (fm 8 10 0 15 0 0)) ∧
    Claims.NoRace (ready id addressed) key (thr addressed) (Claims.placeOf (fm 8 10 0 15 0 0) (thr addressed)).toNat false ∧
    Claims.Alone (ready id addressed) grp (.kst (fm 1 10 0 0 0 0)) (thr addressed) ∧
    Claims.InBounds (ready id addressed) key (Claims.placeOf (fm 1 10 0 0 0 0) (thr addressed)) 16 ∧
    Claims.NoRace (ready id addressed) key (thr addressed) (Claims.placeOf (fm 1 10 0 0 0 0) (thr addressed)).toNat true :=
  ⟨alone_of (by decide +kernel), free_of (by decide +kernel), by decide +kernel, inBounds_of (by decide +kernel), .inr (by decide +kernel),
    alone_of (by decide +kernel), inBounds_of (by decide +kernel), .inr (by decide +kernel)⟩
/-- A barrier instruction that writes its object, in no race. -/
theorem witness_port_barrier : Claims.AtPort (ready id addressed) grp (.arrive (fm 6 10 0 0 0 0)) (thr addressed) ∧
    Claims.InBounds (ready id addressed) key (Claims.placeOf (fm 6 10 0 0 0 0) (thr addressed)) 16 ∧
    Claims.NoRace (ready id addressed) key (thr addressed) (Claims.placeOf (fm 6 10 0 0 0 0) (thr addressed)).toNat true :=
  ⟨⟨alone_of (by decide +kernel), by decide +kernel⟩, inBounds_of (by decide +kernel), .inr (by decide +kernel)⟩
/-- An address one byte too high, one below 0, and one within the allotment that is not aligned, with a handler to trap to. -/
theorem witness_access_checks :
    (∃ l, (ready id addressed).launch? lch = some l ∧ l.handler = some 0x80) ∧ (thr addressed).tstate.getLsbD 0 = false ∧
    ((par id addressed).spSize : Int) < Claims.placeOf (fm 8 10 0 13 0 6) (thr addressed) + 4 ∧
    Claims.placeOf (fm 8 1 0 (BitVec.ofInt 16 (-1)) 0 6) (thr addressed) < 0 ∧
    (let o := Claims.placeOf (fm 8 10 0 (BitVec.ofInt 16 (-1)) 0 6) (thr addressed)
     0 ≤ o ∧ o + 4 ≤ ((par id addressed).spSize : Int) ∧ o.toNat % 4 ≠ 0) :=
  ⟨⟨_, rfl, by decide +kernel⟩, by decide +kernel⟩

/-! #### Races at issue, and stores of one instruction (R187, R365 to R367) -/

/-- A group of three threads, of lanes 0, 1 and 2, that hold `f`, `h` and `h` of their own. -/
def three (f h : Thread → Thread) (p : Parcel) : Parcel :=
  { p with threads := p.threads.map f ++ [h { Thread.initial with tix := 1, slot := 1 }, h { Thread.initial with tix := 2, slot := 2 }] }
def grp3 : Group := ⟨0, key, [0, 1, 2], 0, 8⟩
def three3 (f h : Thread → Thread) : State := { ready (onParcel (three f h)) id with group := some grp3 }
theorem three_of {s : State} {n : Nat} {q : Thread → Bool} (h : (match s.thread? key n, s.launch? lch with
    | some t, some _ => q t
    | _, _ => false) = true) : ∃ t l, s.thread? key n = some t ∧ s.launch? lch = some l ∧ q t = true := by
  split at h
  · next t l ht hl => exact ⟨t, l, ht, hl, h⟩
  · simp at h
/-- The guard of a BRU is true in the lanes 1 and 2 alone, for either option of its kernel. -/
def inP1 (t : Thread) : Thread := { t with p := 2 }
theorem witness_diverges (l : Launch) (hl : (three3 id inP1).launch? lch = some l) :
    Claims.Diverges (three3 id inP1) grp3 ⟨.onTrue 1, 4, 0⟩ l ∧ l.field 397 397 = 0 ∧ Claims.Reaches (three3 id inP1) grp3 32 := by
  have hl : l = loadedLaunch lch := by simpa using (show some l = some (loadedLaunch lch) from hl ▸ by decide +kernel)
  subst hl
  refine ⟨⟨rfl, by decide +kernel, by decide, by decide +kernel, fun n hn => ?_, ⟨1, by decide, _, rfl, by decide +kernel⟩,
    0, by decide, _, rfl, by decide +kernel⟩, by decide +kernel, ⟨by decide +kernel, by decide +kernel⟩⟩
  simp only [grp3, List.mem_cons, List.not_mem_nil, or_false] at hn
  rcases hn with rfl | rfl | rfl
  · exact ⟨_, rfl, by decide +kernel⟩
  · exact ⟨_, rfl, by decide +kernel⟩
  · exact ⟨_, rfl, by decide +kernel⟩
/-- Lanes 1 and 2 store 5 and lane 0 stores 7 to one byte: lane 0 is denied there by lane 2, and lane 1 at no byte. -/
def storing5 (t : Thread) : Thread := { t with g := [(8, 5), (10, 0x100)] }
def storing7 (t : Thread) : Thread := { t with g := [(8, 7), (10, 0x100)] }
theorem witness_stores_together : Claims.StoresTogether (three3 storing7 storing5) grp3 (fm 8 10 0 0 0 0) 0x80 := by
  refine ⟨rfl, by decide +kernel, by decide, fun n hn => ?_⟩
  simp only [grp3, List.mem_cons, List.not_mem_nil, or_false] at hn
  rcases hn with rfl | rfl | rfl <;>
  exact ⟨by decide, _, _, rfl, rfl, by decide +kernel, by decide +kernel, free_of (by decide +kernel),
    ⟨⟨_, rfl, by decide +kernel⟩, by decide +kernel, rfl, rfl⟩, inBounds_of (by decide +kernel), .inr (by decide +kernel)⟩
theorem witness_denied : Claims.DeniedAt (three3 storing7 storing5) grp3 (fm 8 10 0 0 0 0) 0 0x100 2 ∧
    ∀ v, Claims.WritesByte (three3 storing7 storing5) grp3 (fm 8 10 0 0 0 0) 1 0x100 v → v = 5 := by
  refine ⟨⟨7, 5, ⟨by decide, _, rfl, by decide +kernel⟩, ⟨by decide, _, rfl, by decide +kernel⟩, by decide, fun m v h => ?_⟩,
    fun v h => ?_⟩
  · obtain ⟨h, -⟩ := h
    simp only [grp3, List.mem_cons, List.not_mem_nil, or_false] at h
    rcases h with rfl | rfl | rfl <;> decide
  · obtain ⟨-, t, ht, h⟩ := h
    have : t = storing5 { Thread.initial with tix := 1, slot := 1 } := by
      simpa using (show some t = some _ from ht ▸ by decide +kernel)
    subst this
    simpa using (show some v = some 5 from h ▸ by decide +kernel)
/-- Thread 5 has written the granule of g10, weakly or strongly, or read it, in no order with the loaded thread. -/
def foreign (strong : Bool) (read : Bool) (p : Parcel) : Parcel :=
  { p with recs := [(0xFFFF, Rec.toBits ⟨true, strong, !read, 2, 5, if read then 1 else 0, 2, 5⟩)] }
theorem unordered {d : Detect} {t : Nat} {v : BitVec 4} (ha : d.acq = []) (ht : t ≠ 0) : ¬ Claims.Ordered d 0 t v [] := by
  unfold Claims.Ordered
  simp [ha, ht]
theorem witness_races (strong : Bool) :
    Claims.AfterWrite (par (onParcel (foreign false false)) addressed) (thr addressed) 0xFFFF0 strong ∧
    Claims.AfterRead (par (onParcel (foreign false true)) addressed) (thr addressed) 0xFFFF0 false ∧
    ¬ Claims.AfterWrite (par (onParcel (foreign false true)) addressed) (thr addressed) 0xFFFF0 false ∧
    ¬ Claims.AfterWrite (par (onParcel (foreign true false)) addressed) (thr addressed) 0xFFFF0 true := by
  refine ⟨⟨by decide +kernel, by decide +kernel, fun h => absurd h.1 (by decide +kernel), ?_⟩,
    ⟨rfl, by decide +kernel, by decide +kernel, ?_⟩, fun h => absurd h.1 (by decide +kernel), fun h => absurd ⟨?_, rfl⟩ h.2.2.1⟩
  · exact unordered (t := 5) rfl (by decide)
  · exact unordered (t := 5) rfl (by decide)
  · decide +kernel
theorem witness_race_operands : let f := onParcel (foreign false false)
    Claims.Alone (ready f addressed) grp (.sts (fm 8 10 0 0 0 6)) (thr addressed) ∧ Claims.FreeToIssue (thr addressed) .stores ∧
    Claims.CanTrap (ready f addressed) key (thr addressed) 0x80 ∧ (ready f addressed).parcel? key = some (par f addressed) ∧
    Claims.InBounds (ready f addressed) key (Claims.placeOf (fm 8 10 0 0 0 6) (thr addressed)) 4 ∧
    Claims.Alone (ready f addressed) grp (.kst (fm 1 10 0 0 0 0)) (thr addressed) ∧
    Claims.AtPort (ready f addressed) grp (.binit (fm 0 10 8 0 0 0)) (thr addressed) :=
  ⟨alone_of (by decide +kernel), free_of (by decide +kernel), ⟨⟨_, rfl, by decide +kernel⟩, by decide +kernel, rfl, rfl⟩,
    by decide +kernel, inBounds_of (by decide +kernel), alone_of (by decide +kernel), alone_of (by decide +kernel), by decide +kernel⟩

/-! #### Service at the port -/

/-- The state after the loaded thread's instruction has entered the port, its parcel changed by `f` before. -/
def ported (i : Instr) (f : Parcel → Parcel) : State := stepped ((placed i addressed).modParcel key f)
/-- The thread there. -/
def waiter (s : State) : Thread := (s.thread? key 0).getD Thread.initial
theorem served_of {s : State} {i : Instr} {a : PAcc} (h : (decide ((s.core 0).port = [⟨key, 0, i, [a], [], 0⟩]) &&
    decide (s.parcel? key = some (s.parcel key)) && decide ((s.parcel key).core = 0) && decide (s.thread? key a.tix = some (waiter s)) &&
    decide ((waiter s).status = .port) && decide ((waiter s).storeQ = []) &&
    decide (a.size = 1 ∨ a.size = 2 ∨ a.size = 4 ∨ a.size = 8 ∨ a.size = 16) && decide (a.off % a.size = 0)) = true) :
    Claims.Served1 s 0 key i 0 a (s.parcel key) (waiter s) := by
  simp only [Bool.and_eq_true, decide_eq_true_eq] at h
  obtain ⟨⟨⟨⟨⟨⟨⟨h1, h2⟩, h3⟩, h4⟩, h5⟩, h6⟩, h7⟩, h8⟩ := h
  exact ⟨h1, h2, h3, h4, h5, h6, h7, h8⟩
/-- A barrier object whose phase 0 awaits one arrival of two, at the address of g10. -/
def withBarrier (p : Parcel) : Parcel := { p with spad := Mem.setNat [] 0xFFFF0 16 (1 * 2 ^ 21 + 2 * 2 ^ 10) }
/-- A capability in scratchpad: its granule is tagged. -/
def withTag (p : Parcel) : Parcel := { p with recs := [(0xFFFF, Rec.toBits ⟨true, true, true, 0, 0, 0, 0, 0⟩)] }

theorem witness_served_lds :
    let s := ported (.lds (fm 8 10 0 0 0 6)) id
    Claims.Served1 s 0 key (.lds (fm 8 10 0 0 0 6)) 0 ⟨0, 0xFFFF0, 4, 0, 0⟩ (s.parcel key) (waiter s) ∧
      (s.parcel key).checkLoad (waiter s) 0xFFFF0 false = none :=
  ⟨served_of (by decide +kernel), by decide +kernel⟩
theorem witness_served_kld :
    let s := ported (.kld (fm 1 10 0 0 0 0)) withTag
    Claims.Served1 s 0 key (.kld (fm 1 10 0 0 0 0)) 0 ⟨0, 0xFFFF0, 16, 0, 0⟩ (s.parcel key) (waiter s) ∧
      ((s.parcel key).record 0xFFFF0).tag = true ∧ (s.parcel key).checkLoad (waiter s) 0xFFFF0 false = none :=
  ⟨served_of (by decide +kernel), by decide +kernel, by decide +kernel⟩
theorem witness_served_atoms :
    let i : Instr := .atomsCas (fm 8 10 12 0 2 6)
    let s := ported i id
    Claims.Served1 s 0 key i 0 ⟨0, 0xFFFF0, 4, 9, 5⟩ (s.parcel key) (waiter s) ∧ (widthType 6).isLog = true ∧
      (s.parcel key).checkLoad (waiter s) 0xFFFF0 true = none ∧ (s.parcel key).checkWrite (waiter s) 0xFFFF0 true = none :=
  ⟨served_of (by decide +kernel), by decide +kernel⟩
/-- A load, a KLD and an ATOMS before the port, in a race with the last write. -/
theorem witness_served_race : ([.lds (fm 8 10 0 0 0 6), .kld (fm 1 10 0 0 0 0), .atomsCas (fm 8 10 12 0 2 6)] : List Instr).all (fun i =>
    let s := ported i (foreign false false)
    decide ((s.core 0).port.length = 1) && decide ((waiter s).status = .port) && decide ((waiter s).storeQ = []) &&
      ((s.parcel key).record 0xFFFF0).tag && ((s.parcel key).checkLoad (waiter s) 0xFFFF0 false == some (1, 5)) &&
      decide ((waiter s).tstate.getLsbD 0 = false) && decide ((waiter s).deliver = [])) = true := by decide +kernel
theorem witness_served_binit :
    let i : Instr := .binit (fm 0 10 8 0 0 0)
    let s := ported i id
    Claims.Served1 s 0 key i 0 ⟨0, 0xFFFF0, 16, 5, 0⟩ (s.parcel key) (waiter s) ∧ (s.parcel key).hasWaiter 0xFFFF0 = false :=
  ⟨served_of (by decide +kernel), by decide +kernel⟩
theorem witness_served_arrive :
    let i : Instr := .arrive (fm 6 10 0 0 0 0)
    let s := ported i withBarrier
    Claims.Served1 s 0 key i 0 ⟨0, 0xFFFF0, 16, 0, 0⟩ (s.parcel key) (waiter s) ∧ ((s.parcel key).barrier 0xFFFF0).pend ≠ 0 :=
  ⟨served_of (by decide +kernel), by decide +kernel⟩
theorem witness_served_expect :
    let i : Instr := .expect (fm 6 10 8 0 0 0)
    let s := ported i withBarrier
    Claims.Served1 s 0 key i 0 ⟨0, 0xFFFF0, 16, 5, 0⟩ (s.parcel key) (waiter s) ∧
      ((s.parcel key).barrier 0xFFFF0).bytes + 5 ≤ 2 ^ 31 - 1 :=
  ⟨served_of (by decide +kernel), by decide +kernel⟩
/-- Phase 5 of a barrier in phase 0 is done at distance 2^32 − 5, which is not in 1 to 2^31: the thread waits; phase 6 of a
barrier in phase 7 is done. -/
theorem witness_served_waitph :
    (let i : Instr := .waitph (fm 0 10 8 0 0 0)
     let s := ported i withBarrier
     Claims.Served1 s 0 key i 0 ⟨0, 0xFFFF0, 16, 5, 0⟩ (s.parcel key) (waiter s) ∧ ¬ Claims.isDone ((s.parcel key).barrier 0xFFFF0) 5) ∧
    (let i : Instr := .waitph (fm 0 10 8 0 0 0)
     let s := ported i (fun p => { p with spad := Mem.setNat [] 0xFFFF0 16 (6 * 2 ^ 32 + 2 ^ 21 + 2 * 2 ^ 10) })
     Claims.Served1 s 0 key i 0 ⟨0, 0xFFFF0, 16, 5, 0⟩ (s.parcel key) (waiter s) ∧ Claims.isDone ((s.parcel key).barrier 0xFFFF0) 5) :=
  ⟨⟨served_of (by decide +kernel), fun h => absurd h.2 (by decide +kernel)⟩, served_of (by decide +kernel), by decide +kernel, by decide +kernel⟩
theorem witness_served_testph :
    let i : Instr := .testph (fm 2 10 8 0 0 0)
    let s := ported i withBarrier
    Claims.Served1 s 0 key i 0 ⟨0, 0xFFFF0, 16, 5, 0⟩ (s.parcel key) (waiter s) := served_of (by decide +kernel)

/-! #### Results, landings and counts -/

/-- The loaded thread with a delivered load, a known engine result, a mark and a queued store. -/
def laden (t : Thread) : Thread :=
  let t := { t with g := [(6, 1), (8, 5), (10, 0xFFFF0)], counts := ⟨1, 1, 0, 0, 0, 1⟩, due := [[.g 4]] }
  let t := { t with deliver := [⟨[⟨.g 12, 7⟩], true⟩], pend := [⟨3, [.p 2], some [⟨.p 2, 1⟩]⟩] }
  { t with storeQ := [⟨0xFFFF0, [1, 2, 3, 4], true, false, 2⟩] }
theorem witness_results : (ready id laden).thread? tref.parcelKey tref.tix = some (thr laden) ∧
    (thr laden).deliver = ⟨[⟨.g 12, 7⟩], true⟩ :: [] ∧ (thr laden).pend[0]? = some ⟨3, [.p 2], some [⟨.p 2, 1⟩]⟩ ∧
    (thr laden).due = [.g 4] :: [] := by decide +kernel
theorem witness_store_perform : (ready id laden).parcel? tref.parcelKey = some (par id laden) ∧
    (ready id laden).thread? tref.parcelKey tref.tix = some (thr laden) ∧
    (thr laden).storeQ = ⟨0xFFFF0, [1, 2, 3, 4], true, false, 2⟩ :: [] ∧ (thr laden).tix < 1024 := by decide +kernel
/-- The loaded parcel with a landing of two pieces, one in a reservation, and two counts, one of them a reply's. -/
def landing (p : Parcel) : Parcel :=
  let p := { p with landings := [⟨none, [(0x100, [1, 2]), (0x102, [3])], some 0x40, 3, 9⟩, ⟨some 1, [(0, [1])], none, 0, 10⟩] }
  { p with counts := [⟨0x40, 16, 0, 9, none⟩, ⟨0x40, 16, 0, 11, some 0⟩] }
theorem witness_landing :
    let s := ready (onParcel landing) laden
    s.parcel? key = some (s.parcel key) ∧
    (s.parcel key).landings[0]? = some ⟨none, [(0x100, [1, 2]), (0x102, [3])], some 0x40, 3, 9⟩ ∧
    (((s.parcel key).landings.take 0).all (fun m => m.req != 9)) = true ∧ Claims.Disjoint [(0x100, [1, 2]), (0x102, [3])] ∧
    (s.parcel key).landings[1]? = some ⟨some 1, [(0, [1])], none, 0, 10⟩ ∧
    (((s.parcel key).landings.take 1).all (fun m => m.req != 10)) = true :=
  ⟨by decide +kernel, by decide +kernel, by decide +kernel, by unfold Claims.Disjoint; decide, by decide +kernel, by decide +kernel⟩
theorem witness_counts :
    let s := ready (onParcel landing) laden
    (s.parcel key).counts[0]? = some ⟨0x40, 16, 0, 9, none⟩ ∧ (s.parcel key).counts[1]? = some ⟨0x40, 16, 0, 11, some 0⟩ ∧
    (((s.parcel key).counts.take 1).all (fun d => d.req != 11)) = true := by decide +kernel
theorem witness_waitcnt :
    Claims.Alone (ready id laden) grp (.waitcnt ⟨.always, 1, 63, 63, 63, 63, 1⟩) (thr laden) ∧
    Claims.Meets ⟨.always, 1, 63, 63, 63, 63, 1⟩ (thr laden).counts ∧
    Claims.Alone (ready id laden) grp (.waitcnt ⟨.always, 0, 63, 63, 63, 63, 63⟩) (thr laden) ∧
    ¬ Claims.Meets ⟨.always, 0, 63, 63, 63, 63, 63⟩ (thr laden).counts :=
  ⟨alone_of (by decide +kernel), by unfold Claims.Meets; decide, alone_of (by decide +kernel), by unfold Claims.Meets; decide⟩
theorem witness_fence : Claims.Alone (ready id laden) grp (.fence (fs 0 0 0 7)) (thr laden) ∧
    Claims.Alone (ready id laden) grp (.fence (fs 0 0 0 0)) (thr laden) := ⟨alone_of (by decide +kernel), alone_of (by decide +kernel)⟩
/-- The loaded parcel with a second thread. -/
def withSecond (f : Thread → Thread) (p : Parcel) : Parcel := { p with threads := p.threads ++ [f { Thread.initial with tix := 1, slot := 1 }] }
def yielded (t : Thread) : Thread := { t with status := .yielded 0 }
/-- A release fence with a yielded thread beside it, and the wake event of thread 0 on the core a cycle later. -/
theorem witness_fence_beside_yielded :
    Claims.Alone (ready (onParcel (withSecond yielded)) id) grp (.fence (fs 0 0 0 7)) (thr id) := alone_of (by decide +kernel)
def second (f : Thread → Thread) : Thread := f { Thread.initial with tix := 1, slot := 1 }
def wakeState : State :=
  { (ready (onParcel (withSecond yielded)) id).modCore 0 (fun c => { c with wakes := [⟨lch, tref, 0⟩] }) with clk := 1 }
theorem witness_wakes :
    (∃ w, Claims.WakeDue wakeState 0 lch w) ∧ wakeState.parcel? key = some (wakeState.parcel key) ∧
    wakeState.thread? key 1 = some (second yielded) ∧ (wakeState.parcel key).core = 0 ∧ (wakeState.parcel key).phase = .running ∧
    Claims.Woken wakeState 0 lch key 1 (second yielded) :=
  have due : Claims.WakeDue wakeState 0 lch ⟨lch, tref, 0⟩ := by unfold Claims.WakeDue; decide +kernel
  ⟨⟨_, due⟩, by decide +kernel, by decide +kernel, by decide +kernel, by decide +kernel, by decide +kernel,
    ⟨lch, tref, 0⟩, 0, due, by decide +kernel, rfl, by decide⟩
/-- The active set's core keeps its order and its entries may be protected. -/
theorem witness_active_set : (((ready id id).core 0).turn ≤ (ready id id).clk) ∧ Claims.TableOrdered (ready id id) 0 :=
  ⟨by decide +kernel, by constructor <;> decide +kernel⟩

/-! #### Consists and collectives -/

/-- The loaded launch holds the index blocks of its core, so an index is left. -/
def withPool (s : State) : State := s.modLaunch lch (fun l => { l with pool := { l.pool with blocks := [(0, 0)] } })
/-- A consist of thread 0, one of threads 0 and 1, and one of thread 1 with an open barrier instance. -/
def withConsists (p : Parcel) : Parcel :=
  { p with consists := [⟨0x1000, 1, none, 0⟩, ⟨0x2000, 3, none, 0⟩, ⟨0x3000, 2, some ⟨.cbar, [⟨1, 0, 0, 0, false⟩], 0⟩, 0⟩] }
def named (h : Word) (t : Thread) : Thread := { t with g := [(6, h)] }
def cState (f : Thread → Thread) (h : Word) : State := ready (onParcel (withConsists ∘ withSecond f)) (named h)
theorem witness_cnew : Claims.Alone (ready withPool id) grp (.cnew (fr .i8 2 4 0 0 0)) (thr id) ∧
    (ready withPool id).parcel? key = some (par withPool id) ∧
    (ready withPool id).indexLeft lch 0 = true ∧ (ready withPool id).nearRoom 0 = true ∧ (ready withPool id).blocksUsed 0 + 2 ≤ 8192 ∧
    (∃ x i, (ready withPool id).launch? lch = some x ∧ (ready withPool id).freeIndex lch 0 = some i) :=
  ⟨alone_of (by decide +kernel), by decide +kernel, by decide +kernel, by decide +kernel, by decide +kernel, _, _, rfl, rfl⟩
theorem witness_cfree : Claims.Alone (cState id 0x1000) grp (.cfree (fr .i8 0 0 6 0 0)) (thr (named 0x1000)) ∧
    (cState id 0x1000).consist? key (Claims.wordA (fr .i8 0 0 6 0 0) (thr (named 0x1000))) = some ⟨0x1000, 1, none, 0⟩ ∧
    ∀ v ∈ ((cState id 0x1000).parcel key).threads, v.status ≠ .collective 0x1000 ∧ v.status ≠ .membership 0x1000 :=
  ⟨alone_of (by decide +kernel), by decide +kernel, by decide +kernel⟩
/-- A thread waits at the consist that is freed. -/
def atConsist (t : Thread) : Thread := { t with status := .collective 0x3000 }
theorem witness_cfree_traps :
    let s := cState atConsist 0x3000
    let v := atConsist { Thread.initial with tix := 1, slot := 1 }
    Claims.Alone s grp (.cfree (fr .i8 0 0 6 0 0)) (thr (named 0x3000)) ∧ Claims.CanTrap s key v 0x80 ∧
    s.consist? key 0x3000 = some ⟨0x3000, 2, some ⟨.cbar, [⟨1, 0, 0, 0, false⟩], 0⟩, 0⟩ ∧
    ((s.parcel key).threads.map (·.tix)).Nodup ∧ (s.parcel key).thread? v.tix = some v ∧ v.status = .collective 0x3000 ∧
    ∀ w ∈ (s.parcel key).threads, w.tix ≠ v.tix → w.status ≠ .collective 0x3000 ∧ w.status ≠ .membership 0x3000 :=
  ⟨alone_of (by decide +kernel), ⟨⟨_, rfl, by decide +kernel⟩, by decide +kernel, rfl, rfl⟩, by decide +kernel⟩
theorem witness_membership :
    let j : Instr := .join (fr .i8 0 0 6 0 0)
    let l : Instr := .leave (fr .i8 0 0 6 0 0)
    (Claims.Alone (cState id 0x1000) grp j (thr (named 0x1000)) ∧ Claims.Alone (cState id 0x1000) grp l (thr (named 0x1000)) ∧
      Claims.MemberOf ⟨0x1000, 1, none, 0⟩ 0) ∧
    (Claims.Alone (cState id 0x3000) grp j (thr (named 0x3000)) ∧ Claims.Alone (cState id 0x3000) grp l (thr (named 0x3000)) ∧
      ¬ Claims.MemberOf ⟨0x3000, 2, some ⟨.cbar, [⟨1, 0, 0, 0, false⟩], 0⟩, 0⟩ 0 ∧ ¬ Claims.MemberOf ⟨0x3000, 2, none, 0⟩ 0) :=
  ⟨⟨alone_of (by decide +kernel), alone_of (by decide +kernel), by unfold Claims.MemberOf; decide +kernel⟩, alone_of (by decide +kernel), alone_of (by decide +kernel),
    by unfold Claims.MemberOf; decide +kernel, by unfold Claims.MemberOf; decide +kernel⟩
theorem witness_elect : Claims.Alone (cState id 0x1000) grp (.elect (fr .i8 0 2 6 0 0)) (thr (named 0x1000)) ∧
    (cState id 0x1000).parcel? key = some ((cState id 0x1000).parcel key) := ⟨alone_of (by decide +kernel), by decide +kernel⟩
/-- The five collectives of thread 0 at the consist of threads 0 and 1, which awaits thread 1. -/
def collectiveSamples : List Instr :=
  [.cbar (fr .i8 0 0 6 0 0), .cshfl (fr .n32 1 4 6 6 6), .creduce (fr .n32 0 4 6 6 0), .cscan (fr .n32 0 4 6 6 0x20), .cvote (fr .i8 0 3 2 6 0)]
theorem witness_collective_waits : collectiveSamples.all (fun i => i.wellFormed && aloneB (cState id 0x2000) grp i (thr (named 0x2000)) .go &&
    (Claims.supplyOf i (thr (named 0x2000))).any (fun q => q.handle == 0x2000)) = true ∧
    (cState id 0x2000).consist? key 0x2000 = some ⟨0x2000, 3, none, 0⟩ ∧ Claims.MemberOf ⟨0x2000, 3, none, 0⟩ 0 ∧
    ∃ y < 1024, Claims.MemberOf ⟨0x2000, 3, none, 0⟩ y ∧ y ≠ 0 :=
  ⟨by decide +kernel, by decide +kernel, by unfold Claims.MemberOf; decide +kernel, 1, by decide, by unfold Claims.MemberOf; decide +kernel,
    by decide⟩
/-- The last member arrives: alone in its consist, or with thread 1 there before it. -/
theorem witness_collective_completes :
    Claims.Arriving (cState id 0x1000) grp (.cvote (fr .i8 3 4 2 6 0)) (thr (named 0x1000))
      ⟨0x1000, .cvote 3, ⟨0, 4, 0, 0, false⟩⟩ ((cState id 0x1000).parcel key) ⟨0x1000, 1, none, 0⟩ ∧
    Claims.inRankOrder ⟨0x1000, 1, none, 0⟩ [⟨0, 4, 0, 0, false⟩] [⟨0, 4, 0, 0, false⟩] ∧
    (((cState id 0x1000).parcel key).threads.map (·.tix)).Nodup ∧
    (∀ v ∈ ((cState id 0x1000).parcel key).threads, Claims.MemberOf ⟨0x1000, 1, none, 0⟩ v.tix → v.status ≠ .membership 0x1000) :=
  ⟨⟨alone_of (by decide +kernel), rfl, by decide +kernel, by decide +kernel, by unfold Claims.MemberOf; decide +kernel, by decide +kernel, nofun⟩,
    ⟨by decide +kernel, by decide +kernel⟩, by decide +kernel, by unfold Claims.MemberOf; decide +kernel⟩
/-- The example of the scan: ranks 0 to 3 supply 5, 1, 2 and 7 with a segment at rank 2. -/
theorem test_scan_example :
    let sups : List Arrival := [⟨0, 4, 5, 0, false⟩, ⟨1, 4, 1, 0, false⟩, ⟨2, 4, 2, 0, true⟩, ⟨3, 4, 7, 0, false⟩]
    (CollKind.cscan .i32 0 false true).results sups = [5, 6, 2, 9] ∧ (CollKind.cscan .i32 0 true true).results sups = [0, 5, 0, 2] := by
  decide +kernel

/-! #### Engine requests -/

/-- A capability of object 5 with every right on 65,536 bytes. -/
def capObject : QWord := capOf 5 0xFF 0 65536
/-- Object 5, ordinary, of one 64 KiB unit at unit 16 of HBM, and a held lease of all of it for the loaded parcel. -/
def withObject (s : State) : State :=
  s.modCtx 0 (fun c =>
    let c := { c with objects := [⟨5, 1 <<< 476 ||| 65536 <<< 400, [extOf 0 1 0 true false 16], []⟩] }
    { c with leases := [leaseOf key 0 0xFF 5 0 65536 ^^^ 3 <<< 184] })
/-- A record of a box of 16 bytes in object 5: rank 1, extents 16, format `.i8`, local offset `l`. -/
def boxWord (l e0 : Nat) : Nat :=
  1 ||| 1 <<< 8 ||| l <<< 32 ||| e0 <<< 128 ||| 1 <<< 160 ||| 1 <<< 192 ||| 1 <<< 224 ||| 1 <<< 256 ||| 16 <<< 448 ||| 1 <<< 460
    ||| 1 <<< 472 ||| 1 <<< 484 ||| 1 <<< 496
/-- The loaded parcel with a block of `n` bytes at 0x400. -/
def withBlock (n v : Nat) (p : Parcel) : Parcel := { p with spad := Mem.setNat [] 0x400 n v }
/-- The thread with the block's address in g20 and a barrier's in g26, and the capability in c1. -/
def engaged (t : Thread) : Thread := { t with g := [(20, 0x400), (24, 0x500), (26, 0x40), (27, 0x600)], c := [(1, capObject)] }
def eState (n v : Nat) : State := ready (withObject ∘ onParcel (withBlock n v)) engaged
def fe (p x y bar : BitVec 9) (q : BitVec 4) (f : Bool) (mod : BitVec 7) : EWord := ⟨.always, p, x, y, bar, q, f, mod⟩

theorem engineFree_of {s : State} {t : Thread} {c : CntClass} {n : Nat} (h : (!t.fenceRelease && !t.fenceNumber && !t.fenceAcquire &&
    decide (t.counts.get c < 62) && decide (t.storeQ = []) && decide ((s.core 0).load n < 64)) = true) : Claims.EngineFree s grp t c n := by
  simp only [Bool.and_eq_true, Bool.not_eq_true', decide_eq_true_eq] at h
  exact ⟨⟨⟨h.1.1.1.1.1, h.1.1.1.1.2, h.1.1.1.2⟩, h.1.1.2⟩, h.1.2, h.2⟩
theorem block_of {s : State} {a n b : Nat} (h : (decide (a % 16 = 0) && decide (a + n ≤ (s.parcel key).spSize) && decide (16 ≤ n) &&
    decide (b % 16 = 0) && decide (b + 16 ≤ (s.parcel key).spSize)) = true) : Claims.BlockAndBarrier s key a n b := by
  simp only [Bool.and_eq_true, decide_eq_true_eq] at h
  exact ⟨h.1.1.1.1, h.1.1.1.2, h.1.1.2, h.1.2, h.2⟩

/-- A CPIN or CPOUT of the box, valid, granted and leased; with extent 15 in place of 16 its record is invalid. -/
theorem witness_box_copies :
    let s := eState 64 (boxWord 0x200 16)
    let x := fe 20 22 24 26 1 false 0
    let b := Claims.boxOf s grp (thr engaged) x
    let org := originsOf ((thr engaged).pair 22) ((thr engaged).pair 22)
    let x := fe 20 22 22 26 1 false 0
    Claims.Alone s grp (.cpin x) (thr engaged) ∧ Claims.Alone s grp (.cpout x) (thr engaged) ∧
    Claims.EngineFree s grp (thr engaged) .copies 1 ∧
    Claims.BlockAndBarrier s key (Claims.at32 (thr engaged) 20) 64 (Claims.at32 (thr engaged) 26) ∧
    (s.parcel key).recCode b org .cpin (s.classOf ⟨0, capObj ((thr engaged).cap (recCap b))⟩) = 0 ∧
    (s.parcel key).recCode b org .cpout (s.classOf ⟨0, capObj ((thr engaged).cap (recCap b))⟩) = 0 ∧
    Claims.Granted s key ((thr engaged).cap (recCap b)) .r (recRanges b org) ∧
    Claims.Granted s key ((thr engaged).cap (recCap b)) .w (recRanges b org) :=
  ⟨alone_of (by decide +kernel), alone_of (by decide +kernel), engineFree_of (by decide +kernel), block_of (by decide +kernel),
    by decide +kernel, by decide +kernel, ⟨by decide +kernel, by decide +kernel⟩, by decide +kernel, by decide +kernel⟩
theorem witness_box_invalid :
    let s := eState 64 (boxWord 0x200 15)
    let x := fe 20 22 22 26 1 false 0
    let b := Claims.boxOf s grp (thr engaged) x
    let org := originsOf ((thr engaged).pair 22) ((thr engaged).pair 22)
    Claims.Alone s grp (.cpin x) (thr engaged) ∧ Claims.Alone s grp (.cpout x) (thr engaged) ∧ s.parcel? key ≠ none ∧
    Claims.BlockAndBarrier s key (Claims.at32 (thr engaged) 20) 64 (Claims.at32 (thr engaged) 26) ∧
    (s.parcel key).recCode b org .cpin (s.classOf ⟨0, capObj ((thr engaged).cap (recCap b))⟩) = 6 ∧
    (s.parcel key).recCode b org .cpout (s.classOf ⟨0, capObj ((thr engaged).cap (recCap b))⟩) = 6 :=
  ⟨alone_of (by decide +kernel), alone_of (by decide +kernel), by decide +kernel, block_of (by decide +kernel), by decide +kernel,
    by decide +kernel⟩
theorem witness_transform_copy :
    let s := eState 128 (boxWord 0 16 ||| boxWord 0 16 <<< 512)
    let x := fe 20 22 22 26 1 false 0
    let bs := Claims.boxOf s grp (thr engaged) x
    let bd : BitVec 512 := BitVec.ofNat 512 (Claims.blockAt s key (Claims.at32 (thr engaged) 20 + 64) 64)
    let o := originsTx ((thr engaged).pair 22)
    Claims.Alone s grp (.cptx x) (thr engaged) ∧ Claims.EngineFree s grp (thr engaged) .copies 1 ∧
    Claims.BlockAndBarrier s key (Claims.at32 (thr engaged) 20) 128 (Claims.at32 (thr engaged) 26) ∧
    (s.parcel key).recCode bs o .txSource 0 = 0 ∧ (s.parcel key).recCode bd o (.txDest bs) (s.classOf ⟨0, 5⟩) = 0 ∧
    Claims.Granted s key ((thr engaged).cap (recCap bs)) .r (recRanges bs o) ∧
    Claims.Granted s key ((thr engaged).cap (recCap bd)) .w (recRanges bd o) :=
  ⟨alone_of (by decide +kernel), engineFree_of (by decide +kernel), block_of (by decide +kernel), by decide +kernel, by decide +kernel,
    ⟨by decide +kernel, by decide +kernel⟩, by decide +kernel, by decide +kernel⟩
/-- A linear copy of 5,000 bytes from offset 0 to offset 8,192; with a reserved bit it is invalid. -/
def linWord : Nat := 1 ||| 1 <<< 8 ||| 8192 <<< 128 ||| 5000 <<< 192
theorem witness_linear_copy :
    let s := eState 32 linWord
    let x := fe 20 0 0 26 1 false 0
    let b : BitVec 256 := BitVec.ofNat 256 (Claims.blockAt s key (Claims.at32 (thr engaged) 20) 32)
    Claims.Alone s grp (.cpmc x) (thr engaged) ∧
    Claims.BlockAndBarrier s key (Claims.at32 (thr engaged) 20) 32 (Claims.at32 (thr engaged) 26) ∧
    linReserved b = false ∧ (b.extractLsb' 192 48).toNat = 5000 ∧
    Claims.Granted s key ((thr engaged).cap 1) .r [(0, 5000)] ∧ Claims.Granted s key ((thr engaged).cap 1) .w [(8192, 5000)] ∧
    linReserved (BitVec.ofNat 256 (Claims.blockAt (eState 32 (linWord ||| 8)) key (Claims.at32 (thr engaged) 20) 32)) = true ∧
    Claims.Alone (eState 32 (linWord ||| 8)) grp (.cpmc x) (thr engaged) :=
  ⟨alone_of (by decide +kernel), block_of (by decide +kernel), by decide +kernel, by decide +kernel, ⟨by decide +kernel, by decide +kernel⟩,
    ⟨by decide +kernel, by decide +kernel⟩, by decide +kernel, alone_of (by decide +kernel)⟩

/-- The only request of core 0. -/
def request (s : State) : CopyReq := ((s.core 0).copies)[0]?.getD
  ⟨0, 0, 0, false, key, 0, 0, .cpmc 0 0 0, none, 0, 0, 0, 0, none, none, ⟨[], [], []⟩⟩
def issued (i : Instr) (s : State) : State := event i s
def okRead {α : Type} (r : State × Except Nat α) : Bool := match r.2 with
  | .ok _ => true
  | .error _ => false
theorem okRead_eq {α : Type} {r : State × Except Nat α} (h : okRead r = true) : ∃ s x, r = (s, .ok x) := by
  obtain ⟨s, e | x⟩ := r
  · simp [okRead] at h
  · exact ⟨s, x, rfl⟩
theorem okPair_eq {α β : Type} {r : State × Except Nat (α × β)} (h : okRead r = true) : ∃ s x y, r = (s, .ok (x, y)) := by
  obtain ⟨s, ⟨x, y⟩, h⟩ := okRead_eq h
  exact ⟨s, x, y, h⟩
theorem okWrite_eq {r : State × Nat} (h : r.2 = 0) : ∃ s, r = (s, 0) := ⟨r.1, by rw [← h]⟩
/-- A request that its context lets run, with nothing read ahead. -/
def unitB (s : State) (uid : Nat) (r : CopyReq) (kind : CopyKind) : Bool :=
  decide (Claims.requestOf s 0 uid = some r) && decide (r.kind = kind) && s.unitReady 0 r && decide (s.parcel? r.key = some (s.parcel key)) &&
    decide (r.carry = ⟨[], [], []⟩) && decide (r.evicts = none)
/-- The second unit of the linear copy, its last, reads and writes object 5. -/
theorem witness_copy_unit :
    let s := (issued (.cpmc (fe 20 0 0 26 1 false 0)) (eState 32 linWord)).modCore 0 (fun c =>
      { c with copies := c.copies.map (fun r => { r with done := 1, counted := 4096 }) })
    let r := request s
    let b : BitVec 256 := BitVec.ofNat 256 linWord
    unitB s r.uid r (.cpmc b capObject capObject) = true ∧ linUnit b capObject capObject r.units 1 = (0, 4096) ∧ r.units = r.done + 1 ∧
    (∃ s1 bs, s.readObject 0 ⟨0, 5⟩ 0 4096 = (s1, .ok bs)) ∧ s.writeRefused ⟨0, 5⟩ = 0 ∧
    (∃ s2, s.writeObject 0 ⟨0, 5⟩ 8192 (List.replicate 4096 0) = (s2, 0)) :=
  ⟨by decide +kernel, by decide +kernel, by decide +kernel, okRead_eq (by decide +kernel), by decide +kernel, okWrite_eq (by decide +kernel)⟩
/-- The one unit of a box copy in, without a transform or expanding an MXFP4 box to BF16. -/
def mxWord : Nat := boxWord 0x200 32 ||| 14 <<< 3 ||| 2 <<< 11 ||| 64 <<< 328
def inState (w : Nat) : State := issued (.cpin (fe 20 22 22 26 1 false 0)) (eState 64 w)
def boxOkB (w : Nat) : Bool :=
  let s := inState w
  let r := request s
  let b : BitVec 512 := BitVec.ofNat 512 w
  unitB s r.uid r (.cpin b 0 0 capObject) && !(recLkind b) && decide (r.units = 1) && decide (r.done = 0) && decide (recVolume b = 16) &&
    (match (s.parcel key).boxCopy r.kind with
    | some c => okRead (s.unitSource (Claims.issuerOf 0 r) r.ctx (.object ⟨r.key.ctx, 5⟩ (capBase capObject)) [] (c.need 0) [])
    | none => false)
theorem witness_box_unit_in : boxOkB (boxWord 0x200 16) = true ∧ boxOkB mxWord = true ∧
    (let b : BitVec 512 := BitVec.ofNat 512 mxWord
     recXf b = 2 ∧ fmtBlock (recFmt b) = true ∧ recVolume b ≤ 2048) ∧
    (let b : BitVec 512 := BitVec.ofNat 512 (boxWord 0x200 16)
     recXf b = 0 ∧ fmtBlock (recFmt b) = false ∧ fmtBits (recFmt b) = 8 ∧ recVolume b * fmtBits (recFmt b) ≤ 32768) := by decide +kernel
theorem witness_box_unit_out :
    let s := issued (.cpout (fe 20 22 22 26 1 false 0)) (eState 64 (boxWord 0x200 16))
    let r := request s
    let b : BitVec 512 := BitVec.ofNat 512 (boxWord 0x200 16)
    unitB s r.uid r (.cpout b 0 0 capObject) = true ∧ recLkind b = false ∧ recXf b ≤ 1 ∧ fmtBlock (recFmt b) = false ∧ Claims.OneUnit b r ∧
    (∃ s2, s.scatter (Claims.issuerOf 0 r) r.ctx ⟨r.key.ctx, capObj capObject⟩ (capBase capObject) (recChk b == 1)
      (Claims.boxBytes b (originsOf 0 0) (fun i => Mem.nat (s.parcel key).spad (recLoff b + Claims.boxPlace b (recXf b == 1) i * 1) 1)) = (s2, 0)) :=
  ⟨by decide +kernel, by decide +kernel, by decide +kernel, by decide +kernel,
    ⟨by decide +kernel, .inl (by decide +kernel), by decide +kernel, by decide +kernel, by decide +kernel⟩, okWrite_eq (by decide +kernel)⟩
/-- The one unit of a transform of the box onto itself. -/
theorem witness_box_unit_transform :
    let s := issued (.cptx (fe 20 22 22 26 1 false 0)) (eState 128 (boxWord 0 16 ||| boxWord 0 16 <<< 512))
    let r := request s
    let b : BitVec 512 := BitVec.ofNat 512 (boxWord 0 16)
    unitB s r.uid r (.cptx b b 0 0 capObject capObject) = true ∧ recXf b ≤ 1 ∧ fmtBlock (recFmt b) = false ∧ Claims.OneUnit b r ∧
    (match (s.parcel key).boxCopy r.kind with
    | some c => match s.unitSource (Claims.issuerOf 0 r) r.ctx (.object ⟨r.key.ctx, capObj capObject⟩ (capBase capObject)) [] (c.need 0) [] with
      | (s1, .ok (got, _)) => (s1.scatter (Claims.issuerOf 0 r) r.ctx ⟨r.key.ctx, capObj capObject⟩ (capBase capObject) (recChk b == 1)
        (Claims.boxBytes b (originsTx 0) (fun i => Claims.elementIn b (originsTx 0) got i))).2 == 0
      | _ => false
    | none => false) = true :=
  ⟨by decide +kernel, by decide +kernel, by decide +kernel,
    ⟨by decide +kernel, .inl (by decide +kernel), by decide +kernel, by decide +kernel, by decide +kernel⟩, by decide +kernel⟩
theorem witness_copy_complete :
    let s := (issued (.cpmc (fe 20 0 0 26 1 false 0)) (eState 32 linWord)).modCore 0 (fun c =>
      { c with copies := c.copies.map (fun r => { r with done := r.units }) })
    let r := request s
    Claims.requestOf s 0 r.uid = some r ∧ r.units ≤ r.done ∧ s.coreOf r.key = 0 ∧ r.seg = none ∧
    ((s.parcel r.key).landings.all (fun l => l.req != r.uid) && (s.parcel r.key).counts.all (fun c => c.req != r.uid)) = true ∧
    s.thread? r.key r.tix = some (waiter s) := by decide +kernel
theorem witness_watch_and_timeline :
    (∀ r ∈ ([3, 5] : List Nat), 1 ≤ r ∧ r ≤ 5) ∧ Timeline.done ⟨5, [3, 5], 0, 0, 0, []⟩ = 2 ∧
    Claims.Alone (eState 0 0) grp (.tlread (fr .i8 2 28 4 0 0)) (thr engaged) ∧
    Claims.Alone (eState 0 0) grp (.engq (fe 30 0 28 0 4 false 0)) (thr engaged) ∧
    Claims.Alone (eState 0 0) grp (.tlwatch (fe 0 0 26 20 4 false 0)) (thr engaged) ∧
    (((eState 0 0).core 0).timeline 4).done < ((thr engaged).pair 26).toNat ∧ ((thr engaged).pair 22).toNat ≤ (((eState 0 0).core 0).timeline 4).done ∧
    Claims.at32 (thr engaged) 20 % 16 = 0 ∧
    (let s := (eState 0 0).modCore 0 (fun c => { c with watches := [⟨key, 0, 4, 0, 0x40, 1⟩] })
     (s.core 0).watches[0]? = some ⟨key, 0, 4, 0, 0x40, 1⟩ ∧ (0 : DWord).toNat ≤ ((s.core 0).timeline 4).done) :=
  ⟨by decide, by decide, alone_of (by decide +kernel), alone_of (by decide +kernel), alone_of (by decide +kernel), by decide +kernel⟩

/-- A thread with an overlay address in g20. -/
def overlaid (a : Word) (t : Thread) : Thread := { t with g := [(20, a), (26, 0x40)], c := [(1, capObject)] }
def withSegments (gs : List Segment) (s : State) : State := s.modCore 0 (fun c => { c with segments := gs })
/-- The state of an OVLD to address `a` with some segments held. -/
def oState (a : Word) (gs : List Segment) : State := ready (withObject ∘ withSegments gs) (overlaid a)
theorem overlay_of {a : Word} {gs : List Segment} {f : Bool} {l : Launch} (h1 : aloneB (oState a gs) grp (.ovld (fe 20 22 0 26 1 f 1)) (thr (overlaid a)) .go = true)
    (h2 : (!(thr (overlaid a)).fenceRelease && !(thr (overlaid a)).fenceNumber && !(thr (overlaid a)).fenceAcquire &&
      decide ((thr (overlaid a)).counts.get .copies < 62) && decide ((thr (overlaid a)).storeQ = []) &&
      decide (((oState a gs).core 0).load 1 < 64)) = true)
    (h3 : (decide ((oState a gs).parcel? key ≠ none) && decide (∀ r ∈ ((oState a gs).core 0).copies, r.uid ≠ (oState a gs).nextUid) &&
      decide (Claims.at32 (thr (overlaid a)) 26 % 16 = 0) && decide (Claims.at32 (thr (overlaid a)) 26 + 16 ≤ ((oState a gs).parcel key).spSize)) = true)
    (h4 : (decide (capTrap ((thr (overlaid a)).cap 1) .x ((thr (overlaid a)).pair 22).toNat 16384 = none) &&
      ((oState a gs).leaseFault key ((thr (overlaid a)).cap 1) .x ((thr (overlaid a)).pair 22).toNat 16384).isNone) = true)
    (hl : (oState a gs).launch? lch = some l) :
    Claims.OverlayRequest (oState a gs) grp (thr (overlaid a)) (fe 20 22 0 26 1 f 1) l := by
  simp only [Bool.and_eq_true, decide_eq_true_eq, Option.isNone_iff_eq_none] at h3 h4
  exact ⟨alone_of h1, engineFree_of h2, ⟨h3.1.2, h3.2⟩, h3.1.1.1, hl, h3.1.1.2, fun _ => h4⟩
/-- OVLD of an address below the overlays, of one that the (empty) overlay image does not hold, of one whose bytes a capability
grants with a free segment, with a resident one, and with sixteen segments held, of which the first may be evicted, or none. -/
theorem witness_overlay :
    (∃ l, Claims.OverlayRequest (oState 0x4000 []) grp (thr (overlaid 0x4000)) (fe 20 22 0 26 1 false 1) l) ∧
    (∃ l, Claims.OverlayRequest (oState 0x40000 []) grp (thr (overlaid 0x40000)) (fe 20 22 0 26 1 false 1) l) ∧
    (∃ l, Claims.OverlayRequest (oState 0x40000 []) grp (thr (overlaid 0x40000)) (fe 20 22 0 26 1 true 1) l) ∧
    (∃ l, Claims.OverlayRequest (oState 0x40000 [⟨lch, 0x40000, 0, none, true, []⟩]) grp (thr (overlaid 0x40000)) (fe 20 22 0 26 1 true 1) l) ∧
    (∃ l, Claims.OverlayRequest (oState 0x40000 (List.replicate 16 ⟨lch, 0x80000, 0, none, true, []⟩)) grp (thr (overlaid 0x40000))
      (fe 20 22 0 26 1 true 1) l) ∧
    (∃ l, Claims.OverlayRequest (oState 0x40000 (List.replicate 16 ⟨⟨0, 9⟩, 0, 0, none, true, []⟩)) grp (thr (overlaid 0x40000))
      (fe 20 22 0 26 1 true 1) l) := by
  refine ⟨?_, ?_, ?_, ?_, ?_, ?_⟩ <;>
    exact ⟨_, overlay_of (by decide +kernel) (by decide +kernel) (by decide +kernel) (by decide +kernel) rfl⟩
theorem witness_overlay_cases :
    ¬ Claims.overlayAddress 0x4000 ∧ Claims.overlayAddress 0x40000 ∧ Claims.overlayAddress (2 ^ 32 - 16384) ∧
    (let s (gs : List Segment) := oState 0x40000 gs
     (∃ l, (s []).launch? lch = some l ∧ (s []).overlay? l 0x40000 = none ∧
      (Claims.overlaySource (s []) (thr (overlaid 0x40000)) (fe 20 22 0 26 1 true 1) l 0x40000).isSome = true) ∧
     ((s []).core 0).segment? lch 0x40000 = none ∧
     (((s [⟨lch, 0x40000, 0, none, true, []⟩]).core 0).segment? lch 0x40000).isSome = true ∧
     ((s (List.replicate 16 ⟨lch, 0x80000, 0, none, true, []⟩)).victim 0 lch).isSome = true ∧
     (s (List.replicate 16 ⟨⟨0, 9⟩, 0, 0, none, true, []⟩)).victim 0 lch = none) :=
  ⟨by unfold Claims.overlayAddress; decide, by unfold Claims.overlayAddress; decide, by unfold Claims.overlayAddress; decide,
    ⟨_, rfl, by decide +kernel, by decide +kernel⟩, by decide +kernel⟩
/-- The overlay list lies at 0x20000, in a unit that is poisoned, and an OVLD that reads it. -/
def badList (s : State) : State :=
  { s.modLaunch lch (fun l => { l with packet := BitVec.ofNat 2048 (setBits (setBits l.packet.toNat 127 64 0x20000) 847 832 1) }) with
    poison := [(.hbm, 0x200)] }
theorem witness_overlay_unread :
    let s := ready (badList ∘ withObject) (overlaid 0x40000)
    aloneB s grp (.ovld (fe 20 22 0 26 1 false 1)) (thr (overlaid 0x40000)) .go = true ∧
    (s.launch? lch).map (fun l => (l.novl, (s.overlayRead l).2)) = some (1, 0x21) := by
  and_intros <;> decide +kernel
/-- An OVLD of the launch's object range: its first unit. -/
theorem witness_overlay_unit :
    let s := issued (.ovld (fe 20 22 0 26 1 true 1)) (oState 0x40000 [])
    let r := request s
    r.kind = .ovldObject 0x40000 5 0 1 ∧ s.classOf ⟨r.key.ctx, 5⟩ ≠ 5 ∧ s.classOf ⟨r.key.ctx, 5⟩ ≠ 6 ∧
    okRead ((s.beginOverlay 0 r).unitSource (Claims.issuerOf 0 r) r.ctx (.object ⟨r.key.ctx, 5⟩ 0) r.carry.got [(4096 * r.done, 4096)]
      [(4096 * (r.done + 1), 16384 - 4096 * (r.done + 1))]) = true ∧
    Claims.requestOf s 0 r.uid = some r ∧ r.seg ≠ none ∧ s.unitReady 0 r = true := by decide +kernel
/-- A unit from the launch's overlay image. -/
theorem witness_overlay_image_unit :
    let s := (eState 0 0).modCore 0 (fun c =>
      let c := { c with segments := [⟨lch, 0x40000, 7, none, false, []⟩] }
      { c with copies := [⟨3, 1, 1, false, key, 0, 0, .ovldList 0x40000 0, some 0x40, 16384, 4, 1, 4096, some 7, none, ⟨[], [], []⟩⟩] })
    Claims.requestOf s 0 3 = some (request s) ∧ (request s).seg = some 7 ∧ s.unitReady 0 (request s) = true ∧
    okRead ((s.beginOverlay 0 (request s)).readTier (request s).key.ctx .hbm 4096 4096) = true := by decide +kernel
theorem witness_overlay_resident :
    let s := (eState 0 0).modCore 0 (fun c =>
      let c := { c with segments := [⟨lch, 0x40000, 7, none, false, []⟩] }
      { c with copies := [⟨3, 1, 1, false, key, 0, 0, .ovldList 0x40000 0, some 0x40, 16384, 4, 4, 12288, some 7, none, ⟨[], [], []⟩⟩] })
    Claims.requestOf s 0 3 = some (request s) ∧ (request s).seg = some 7 ∧ (request s).units ≤ (request s).done ∧
    (∀ g ∈ (s.core 0).segments, g.launch = (request s).key.launchKey → g.order = 7 → g.resident = false) := by decide +kernel

/-! #### Index jobs -/

/-- A job of `n` rows of `row` bytes from the table at offset 0 of c1's object, its list at 0x700. -/
def ixWord (n row : Nat) : Nat := 1 ||| row <<< 32 ||| 64 <<< 128 ||| 0x700 <<< 192 ||| n <<< 224
def ixInstr : EWord := fe 20 24 27 26 4 false 0
theorem witness_index_request (c : EWord → Instr) (hc : c = .cpxg ∨ c = .cpxs) :
    Claims.IndexRequest (eState 32 (ixWord 2 64)) grp (thr engaged) ixInstr (c ixInstr) ((eState 32 (ixWord 2 64)).parcel key) := by
  rcases hc with rfl | rfl <;>
    exact ⟨alone_of (by decide +kernel), engineFree_of (by decide +kernel), block_of (by decide +kernel), by decide +kernel, by decide +kernel⟩
/-- The job of core 0 in the state after its issue. -/
def jState (i : Instr) (w : Nat) : State := event i (eState 32 w)
def theJob (s : State) : IndexJob := ((s.core 0).index)[0]?.getD ⟨0, 0, false, key, 0, 0, false, 0, 0, 0, 0, 0, 0, 0, 0⟩
/-- A request whose status record lies in the unit that an earlier job has still to write, and a job that ends with its code. -/
def behindJob (w : Nat) : State :=
  (eState 32 w).modCore 0 (fun c => { c with index := [{ theJob (jState (.cpxg ixInstr) (ixWord 2 64)) with uid := 1000 }] })
theorem witness_index_behind :
    ([ixWord 2 64, ixWord 0 64, ixWord 2 2].all (fun w => aloneB (behindJob w) grp (.cpxg ixInstr) (thr engaged) .go &&
      (behindJob w).jobBehind 0 ⟨(behindJob w).nextUid, Claims.nextNumber (behindJob w) 0 4, false, key, 0, (thr engaged).pc, false,
        BitVec.ofNat 256 w, (thr engaged).cap 1, Claims.at32 (thr engaged) 24, Claims.at32 (thr engaged) 27, Claims.at32 (thr engaged) 26, 0, 0, 0⟩)) = true ∧
    (let s := (jState (.cpxg ixInstr) (ixWord 2 64)).modCore 0 (fun c => { c with index := c.index.map (fun j => { j with code := 3 }) })
     s.nextJob 0 = some (theJob s) ∧ (s.core 0).halting = false ∧ (theJob s).code ≠ 0 ∧ s.coreOf (theJob s).key = 0) := by
  and_intros <;> decide +kernel
/-- A job whose rows are of 2 bytes is invalid; one of no rows completes at once; one of two rows goes on. -/
theorem witness_index_codes :
    let size := ((eState 32 0).parcel key).spSize
    ixCode (BitVec.ofNat 256 (ixWord 2 2)) 0x500 size 1 = 3 ∧ ixCode (BitVec.ofNat 256 (ixWord 0 64)) 0x500 size 1 = 0 ∧
    ixCode (BitVec.ofNat 256 (ixWord 2 64)) 0x500 size 1 = 0 ∧ capTrap capObject .r 0 0 = none ∧ capTrap capObject .w 0 0 = none ∧
    (Claims.at32 (thr engaged) 26 + 16 ≤ Claims.at32 (thr engaged) 27) := by decide +kernel
theorem atElement_of {s : State} {j : IndexJob} {p : Parcel} {a : Nat} (h : (decide (s.nextJob 0 = some j) && !(s.core 0).halting && decide (j.code = 0) && decide (j.cursor < ixCount j.blk) &&
    decide (s.parcel? j.key = some p) && decide (a = ixToff j.blk + Mem.nat p.spad (ixList j.blk + 4 * j.cursor) 4 * ixStride j.blk)) = true) :
    Claims.AtElement s 0 j p a := by
  simp only [Bool.and_eq_true, Bool.not_eq_true', decide_eq_true_eq] at h
  exact ⟨h.1.1.1.1.1, h.1.1.1.1.2, h.1.1.1.2, h.1.1.2, h.1.2, h.2⟩
/-- A gather whose row is granted, one whose row lies beyond its capability (row 1,024 of 64 bytes), and one without a lease. -/
theorem witness_index_element :
    (let s := jState (.cpxg ixInstr) (ixWord 2 64)
     Claims.AtElement s 0 (theJob s) (s.parcel key) 0 ∧ (theJob s).cursor < 2 ^ 32 ∧ (theJob s).scatter = false ∧
      0 + ixRow (theJob s).blk ≤ capLen (theJob s).cap ∧ s.leased key 5 .r 0 64 = true ∧
      (∃ s1 bs, s.readObject (dieOf 0) ⟨0, 5⟩ 0 64 = (s1, .ok bs))) ∧
    (let s := (jState (.cpxg ixInstr) (ixWord 2 64)).modParcel key (fun p => { p with spad := Mem.setNat p.spad 0x700 4 1024 })
     Claims.AtElement s 0 (theJob s) (s.parcel key) 65536 ∧ capLen (theJob s).cap < 65536 + ixRow (theJob s).blk) ∧
    (let s := (jState (.cpxs ixInstr) (ixWord 2 64)).modCtx 0 (fun c => { c with leases := [] })
     Claims.AtElement s 0 (theJob s) (s.parcel key) 0 ∧ s.leased key 5 .w 0 64 = false) ∧
    (let s := jState (.cpxs ixInstr) (ixWord 2 64)
     Claims.AtElement s 0 (theJob s) (s.parcel key) 0 ∧ (theJob s).scatter = true ∧ s.writeRefused ⟨0, 5⟩ = 0 ∧
      (s.writeObject (dieOf 0) ⟨0, 5⟩ 0 (Mem.read (s.parcel key).spad 0x500 64)).2 = 0) := by
  and_intros
  all_goals first | exact atElement_of (by decide +kernel) | exact okRead_eq (by decide +kernel) | decide +kernel
/-- A row outside the capability, in a parcel whose threads have all exited. -/
theorem witness_index_without_threads :
    let s := (jState (.cpxg ixInstr) (ixWord 2 64)).modParcel key (fun p =>
      { p with spad := Mem.setNat p.spad 0x700 4 1024, threads := p.threads.map (fun t => { t with status := .exited }) })
    Claims.AtElement s 0 (theJob s) (s.parcel key) 65536 ∧ capLen (theJob s).cap < 65536 + ixRow (theJob s).blk ∧
    ∀ v ∈ (s.parcel key).threads, v.exited = true := by
  exact ⟨atElement_of (by decide +kernel), by decide +kernel⟩
/-- A job whose rows are all counted, and a suspended one that ENGRES names. -/
theorem witness_index_end :
    (let s := (jState (.cpxg ixInstr) (ixWord 2 64)).modCore 0 (fun c => { c with index := c.index.map (fun j => { j with cursor := 2 }) })
     s.nextJob 0 = some (theJob s) ∧ (s.core 0).halting = false ∧ (theJob s).code = 0 ∧ ixCount (theJob s).blk ≤ (theJob s).cursor ∧ s.parcel? key = some (s.parcel key) ∧
      s.coreOf key = 0 ∧ s.thread? key 0 = some (waiter s)) ∧
    (let f (t : Thread) : Thread := { t with g := [(28, 1)] }
     let j : IndexJob := ⟨3, 1, false, key, 0, 0, false, 0, 0, 0, 0, 0x40, 0, 3, 0⟩
     let s := ready (fun s => s.modCore 0 (fun c => { c with index := [j] })) f
     Claims.Alone s grp (.engres (fe 0 0 28 0 4 false 1)) (thr f) ∧ Claims.Alone (ready id f) grp (.engres (fe 0 0 28 0 4 false 1)) (thr f) ∧
      (s.core 0).index.find? (fun j => j.num == 1 && !j.restored && j.suspended != 0) = some j ∧
      ((ready id f).core 0).index.find? (fun j => j.num == 1 && !j.restored && j.suspended != 0) = none) :=
  ⟨by decide +kernel, alone_of (by decide +kernel), alone_of (by decide +kernel), by decide +kernel, by decide +kernel⟩

/-! #### The operand buffer -/

/-- A descriptor of `n` granules of `.bf16` rows of 512 bytes, from granule `f`. -/
def rsvWord (f n : Nat) : Nat := f <<< 226 ||| n <<< 212 ||| 11 <<< 207 ||| 512 <<< 171
/-- Two reservations of sixteen granules, as in the worked multiply. -/
def withResv (p : Parcel) : Parcel :=
  { p with resv := [⟨0, BitVec.ofNat 256 (rsvWord 0 16), false, 11, []⟩, ⟨1, BitVec.ofNat 256 (rsvWord 16 16), false, 12, []⟩] }
def bState (n v : Nat) : State := ready (withObject ∘ onParcel (withResv ∘ withBlock n v)) engaged
theorem witness_reserve :
    (∀ v ∈ [rsvWord 0 16, rsvWord 0 0, rsvWord 0 512], aloneB (bState 32 v) grp (.obres (fr .i8 0 4 20 0 0)) (thr engaged) .go = true ∧
      (bState 32 v).parcel? key = some ((bState 32 v).parcel key) ∧ ((bState 32 v).parcel key).place < 8 ∧
      Claims.wordA (fr .i8 0 4 20 0 0) (thr engaged) = 0x400 ∧ Claims.blockAt (bState 32 v) key 0x400 32 = v) ∧
    rsvValid (BitVec.ofNat 256 (rsvWord 0 16)) = true ∧ rsvValid (BitVec.ofNat 256 (rsvWord 0 0)) = false ∧
    rsvValid (BitVec.ofNat 256 (rsvWord 0 512)) = true ∧ freeRecord ((bState 32 0).reservations 0) = some 2 ∧
    freeRun ((bState 32 0).reservations 0) 16 = some 32 ∧ freeRun ((bState 32 0).reservations 0) 512 = none := by
  and_intros <;> decide +kernel
theorem witness_free_and_info :
    Claims.Alone (bState 0 0) grp (.obfree (fr .i8 0 4 21 0 0)) (thr engaged) ∧ Claims.Alone (bState 0 0) grp (.obfree (fr .i8 0 4 20 0 0)) (thr engaged) ∧
    Claims.Alone (bState 0 0) grp (.obinfo (fr .i8 0 4 21 0 0)) (thr engaged) ∧ Claims.Alone (bState 0 0) grp (.obinfo (fr .i8 1 4 0 0 0)) (thr engaged) ∧
    Claims.Alone (bState 0 0) grp (.obinfo (fr .i8 2 4 0 0 0)) (thr engaged) ∧
    (((bState 0 0).parcel key).resv? 0).isSome = true ∧ ((bState 0 0).parcel key).resv? 0x400 = none ∧ ((bState 0 0).parcel key).phase = .running :=
  ⟨alone_of (by decide +kernel), alone_of (by decide +kernel), alone_of (by decide +kernel), alone_of (by decide +kernel),
    alone_of (by decide +kernel), by decide +kernel⟩

/-! #### Matrix requests -/

/-- The block of the worked multiply, with K = `k`; the slot is a4. -/
def mulWord (k : Nat) : Nat := 0x0040000000000000 <<< 64 ||| k <<< 160 ||| 0x80805AE0 <<< 128 ||| 0x1000000000000000 <<< 192
/-- The same with operand A read directly through c1 or c2. -/
def directWord (c : Nat) : Nat := mulWord 256 ||| 2 <<< 62 ||| c <<< 51
theorem blockOk_of {s : State} {n : Nat} {x : EWord} (h : (decide (Claims.at32 (thr engaged) x.p % 16 = 0) &&
    decide (Claims.at32 (thr engaged) x.p + n ≤ (s.parcel key).spSize) && decide (Claims.at32 (thr engaged) x.bar % 16 = 0) &&
    decide (Claims.at32 (thr engaged) x.bar + 16 ≤ (s.parcel key).spSize)) = true) : Claims.BlockOk s grp (thr engaged) x n := by
  simp only [Bool.and_eq_true, decide_eq_true_eq] at h
  exact ⟨h.1.1.1, h.1.1.2, .inr ⟨h.1.2, h.2⟩⟩
theorem witness_multiply_enters :
    let s := bState 64 (mulWord 256)
    Claims.Alone s grp (.mma (fe 20 0 0 26 0 false 0)) (thr engaged) ∧ Claims.EngineFree s grp (thr engaged) .matrix 5 ∧
    Claims.BlockOk s grp (thr engaged) (fe 20 0 0 26 0 false 0) 64 ∧
    s.mmaCode key (s.slotsOf key) (BitVec.ofNat 512 (mulWord 256)) false (s.directClass key (thr engaged)) = 0 ∧
    (∀ v ∈ s.directUses key (thr engaged) (BitVec.ofNat 512 (mulWord 256)), Claims.Granted s key v.1 .m v.2) ∧
    (let b := BitVec.ofNat 512 (mulWord 255)
     Claims.Alone (bState 64 (mulWord 255)) grp (.mma (fe 20 0 0 26 0 false 0)) (thr engaged) ∧
      s.mmaCode key (s.slotsOf key) b false (s.directClass key (thr engaged)) = 0x43) ∧
    (let v := mulWord 256 ||| 8 <<< 244
     Claims.Alone (bState 64 v) grp (.mmas (fe 20 0 0 26 1 true 0)) (thr engaged) ∧
      (bState 64 v).mmaCode key ((bState 64 v).slotsOf key) (BitVec.ofNat 512 v) true ((bState 64 v).directClass key (thr engaged)) = 0) :=
  ⟨alone_of (by decide +kernel), engineFree_of (by decide +kernel), blockOk_of (by decide +kernel), by decide +kernel,
    fun v hv => absurd hv (by
      rw [show (bState 64 (mulWord 256)).directUses key (thr engaged) (BitVec.ofNat 512 (mulWord 256)) = [] by decide +kernel]; simp),
    ⟨alone_of (by decide +kernel), by decide +kernel⟩, alone_of (by decide +kernel), by decide +kernel⟩
/-- The accumulator instructions go. -/
theorem witness_accumulator_enters :
    [Instr.mcommit (fr .i8 0 0 8 0 0), .mdrop (fr .i8 0 0 8 0 0), .azero (fr .i8 0 63 0 0 0), .azero (fr .i8 1 62 0 0 0), .amov (fr .i8 0 4 5 0 0),
      .achk (fr .i8 0 0 4 0 0), .aser (fr .i8 0 28 4 8 24), .ainfo (fr .i8 0 28 4 0 0), .ainfo (fr .i8 2 28 0 0 0), .aflag (fr .i8 0 28 4 0 0),
      .aflag (fr .i8 6 5 4 0 0), .term (fe 20 0 0 26 0 false 0), .adrain (fe 20 0 0 26 0 false 0)].all (fun i =>
        i.wellFormed && aloneB (bState 64 0) grp i (thr engaged) .go) = true := by decide +kernel
theorem witness_accumulator_free : Claims.EngineFree (bState 64 0) grp (thr engaged) .matrix 5 ∧
    Claims.BlockOk (bState 64 0) grp (thr engaged) (fe 20 0 0 26 0 false 0) 32 := ⟨engineFree_of (by decide +kernel), blockOk_of (by decide +kernel)⟩
/-- A drain to object 5: 32 × 32 FP32 elements of a4 with a row pitch of 128 bytes, granted and leased. -/
def drainWord (kind : Nat) : Nat := 4 ||| 9 <<< 8 ||| kind <<< 13 ||| 32 <<< 20 ||| 32 <<< 28 ||| 1 <<< 56 ||| 128 <<< 128
theorem witness_drain_enters :
    let s := bState 32 (drainWord 2)
    let b := BitVec.ofNat 256 (drainWord 2)
    Claims.Alone s grp (.adrain (fe 20 0 0 26 0 false 0)) (thr engaged) ∧
    ((s.parcel key).drainCode b (s.slotsOf key) (s.classOf ⟨0, 5⟩) = 0 ∧ drainKind b = 2) ∧
    capTrap capObject .w (drainDoff b) (drainSpan b) = none ∧ (s.leaseFault key capObject .w (drainDoff b) (drainSpan b)).isNone = true :=
  ⟨alone_of (by decide +kernel), by decide +kernel⟩
/-- MSHAPE of the worked multiply; with a reserved bit; with a pending shadow in its slot; through a capability without a right, and
through one with no lease. -/
def shapeX : EWord := fe 20 28 0 0 3 false 0
def shapeCode (s : State) (v : Nat) : Nat := s.mmaCode key (s.slotsOf key) (BitVec.ofNat 512 v) false (s.directClass key (thr engaged))
theorem witness_shapes :
    (∀ v ∈ [mulWord 256, mulWord 256 ||| 1 <<< 128, directWord 0, directWord 1], aloneB (bState 64 v) grp (.mshape shapeX) (thr engaged) .go = true) ∧
    shapeCode (bState 64 (mulWord 256)) (mulWord 256) = 0 ∧ shapeCode (bState 64 0) (mulWord 256 ||| 1 <<< 128) = 0x40 ∧
    shadowBad ((bState 64 0).shadowsAhead key) 4 false none = false ∧
    shadowBad ((ready (onParcel (fun p => { p with shadows := [(4, shadowWord false 5 false 0)] })) engaged).shadowsAhead key) 4 false none = true ∧
    shapeCode (bState 64 0) (directWord 0) = 0 ∧
    (∃ v ∈ (bState 64 0).directUses key (thr engaged) (BitVec.ofNat 512 (directWord 0)), capTraps v.1 .m v.2 ≠ none) ∧
    (let s := (bState 64 0).modCtx 0 (fun c => { c with leases := [] })
     (∀ v ∈ s.directUses key (thr engaged) (BitVec.ofNat 512 (directWord 1)), capTraps v.1 .m v.2 = none) ∧
      s.directUses key (thr engaged) (BitVec.ofNat 512 (directWord 1)) ≠ [] ∧
      ∀ v ∈ s.directUses key (thr engaged) (BitVec.ofNat 512 (directWord 1)), (s.leaseFaults key v.1 .m v.2).isSome = true) := by
  and_intros <;> decide +kernel

/-! #### Matrix order -/

/-- A request of the loaded thread at the head of matrix order, its parcel changed by `f`, with the matrix context idle. -/
def headOf (op : MatrixOp) (failed : Word) : MatrixReq := ⟨3, 1, false, key, 0, 0, op, some 0x40, failed, 0, []⟩
def hState (op : MatrixOp) (failed : Word) (f : Parcel → Parcel) : State :=
  ready (fun s => (onParcel f s).modCore 0 (fun c => { c with matrix := [headOf op failed] })) id
def headB (op : MatrixOp) (failed : Word) (f : Parcel → Parcel) : Bool :=
  let s := hState op failed f
  decide ((s.core 0).matrix = [headOf op failed]) && decide ((s.core 0).run = none) && decide ((s.core 0).halting = false) &&
    !(s.mapBehind 0 (headOf op failed)) && decide (s.parcel? key = some (s.parcel key)) && decide (s.coreOf key = 0)
theorem head_of {op : MatrixOp} {failed : Word} {f : Parcel → Parcel} (h : headB op failed f = true) :
    Claims.Head (hState op failed f) 0 (headOf op failed) [] ((hState op failed f).parcel key) := by
  simp only [headB, Bool.and_eq_true, Bool.not_eq_true', decide_eq_true_eq] at h
  obtain ⟨⟨⟨⟨⟨h1, h2⟩, h3⟩, hm⟩, h4⟩, h5⟩ := h
  exact ⟨h1, h2, .inl h3, hm, h4, h5⟩
/-- A pending shadow of name 5 for slot 4, and a series of position 4 with ring positions 8 to 10. -/
def withShadow (p : Parcel) : Parcel := { p with shadows := [(5, shadowWord false 4 false 1)] }
def withSeries (p : Parcel) : Parcel := { p with series := [(4, serOf true 3 2 3 0 false 0 8 1 2 3)] }
theorem witness_heads :
    Claims.Head (hState (.achk 4) 0x47 id) 0 (headOf (.achk 4) 0x47) [] ((hState (.achk 4) 0x47 id).parcel key) ∧
    Claims.Head (hState (.azero 5 false) 0 withShadow) 0 (headOf (.azero 5 false) 0) [] ((hState (.azero 5 false) 0 withShadow).parcel key) ∧
    Claims.Head (hState (.amov 4 63 false) 0 withShadow) 0 (headOf (.amov 4 63 false) 0) [] ((hState (.amov 4 63 false) 0 withShadow).parcel key) ∧
    Claims.Head (hState (.achk 4) 0 withSeries) 0 (headOf (.achk 4) 0) [] ((hState (.achk 4) 0 withSeries).parcel key) ∧
    Claims.Head (hState (.mcommit 5 2) 0 withShadow) 0 (headOf (.mcommit 5 2) 0) [] ((hState (.mcommit 5 2) 0 withShadow).parcel key) ∧
    Claims.Head (hState (.mdrop 5) 0 withShadow) 0 (headOf (.mdrop 5) 0) [] ((hState (.mdrop 5) 0 withShadow).parcel key) ∧
    Claims.Head (hState (.aser 4 8 (3 + 1 * 8 + 2 * 2048) 3 28) 0 id) 0 (headOf (.aser 4 8 (3 + 1 * 8 + 2 * 2048) 3 28) 0) []
      ((hState (.aser 4 8 (3 + 1 * 8 + 2 * 2048) 3 28) 0 id).parcel key) ∧
    Claims.Head (hState (.ainfo 0 4 3 28) 0 id) 0 (headOf (.ainfo 0 4 3 28) 0) [] ((hState (.ainfo 0 4 3 28) 0 id).parcel key) ∧
    Claims.Head (hState (.aflag 6 4 3 28) 0 id) 0 (headOf (.aflag 6 4 3 28) 0) [] ((hState (.aflag 6 4 3 28) 0 id).parcel key) ∧
    Claims.Head (hState (.mma (BitVec.ofNat 512 (mulWord 2)) 0 0) 0 withShadow) 0 (headOf (.mma (BitVec.ofNat 512 (mulWord 2)) 0 0) 0) []
      ((hState (.mma (BitVec.ofNat 512 (mulWord 2)) 0 0) 0 withShadow).parcel key) := by
  and_intros <;> exact head_of (by decide +kernel)
/-- The clauses about the head: pending and free slots, a valid series whose next ring position is free, a held and an unheld
shadow whose predicate chooses either way, the three answers of ASER. -/
theorem witness_head_clauses :
    (let p := (hState (.azero 5 false) 0 withShadow).parcel key
     shadowPending p.shadows 5 = true ∧ shadowPending p.shadows 4 = false ∧ shadowPending p.shadows 63 = false ∧ Mem.wf p.acc = true ∧
      shadowAt p.shadows 5 = some (shadowWord false 4 false 1) ∧ shadowAt p.shadows 4 = none ∧ shadowPair (shadowWord false 4 false 1) = false ∧
      shadowBad p.shadows 4 false none = false ∧ shadowBad p.shadows 5 false none = true) ∧
    (let p := (hState (.achk 4) 0 withSeries).parcel key
     let e := p.seriesAt (p.position 4)
     serValid e = true ∧ p.posPending (serRing e + serHead e) = false ∧ 1 ≤ serDepth e ∧ serValid (p.seriesAt (p.position 5)) = false) ∧
    (let s := hState (.achk 4) 0 id
     let c : Word := 3 + 1 * 8 + 2 * 2048
     (c.extractLsb' 19 13 = 0 ∧ (c.extractLsb' 0 3).toNat = 3 ∧ (c.extractLsb' 3 8).toNat = 1 ∧ (c.extractLsb' 11 8).toNat = 2) ∧
      s.slotsOf key = 64 ∧ (∀ i < 3, (s.parcel key).posPending (8 + i) = false) ∧ (s.parcel key).position 8 = 8 ∧
      s.slotsOf key < (s.parcel key).position 62 + 3 ∧ ((3 : Word).extractLsb' 3 8).toNat = 0) := by decide +kernel

/-! #### Steps of an MMA -/

/-- Operands A and B of 32 × 2: A holds 2^−133 and B 1.0 in `.bf16`, or one byte each in `.i8`; the rest is 0. -/
def smallBytes (a : Byte) (b : Byte × Byte) : List Reservation :=
  let zeros : List Host.Cell := (List.range 64).map (fun i => (i, 0))
  let put (l : List Host.Cell) (x y : Byte) : List Host.Cell := (0, x) :: (1, y) :: l.drop 2
  [⟨0, BitVec.ofNat 256 (rsvWord 0 16), false, 11, put zeros a 0⟩, ⟨1, BitVec.ofNat 256 (rsvWord 16 16), false, 12, put zeros b.1 b.2⟩]
/-- An MMA of 32 × 32 × 2 into a4, overwriting. -/
def stepBlk : BitVec 512 := BitVec.ofNat 512 (0x0040000000000000 <<< 64 ||| 2 <<< 160 ||| 0x20205AE0 <<< 128 ||| 0x1000000000000000 <<< 192)
def stepReq : MatrixReq := ⟨3, 1, false, key, 0, 0, .mma stepBlk 0 0, some 0x40, 0, 0, []⟩
def mState (assist : Bool) (step : Nat) (a : Byte) : State :=
  ready (fun s => (onParcel (fun p => { p with resv := smallBytes a (0x80, 0x3F) }) s).modCore 0 (fun c =>
    { c with matrix := [{ stepReq with step := step }], run := some ⟨assist, 0⟩ })) id
def fetched (s : State) : State × Except Nat MatrixReq := (s.shareReads 0 stepReq 0).fetchChunks stepReq
def okFetch (r : State × Except Nat MatrixReq) : Bool := match r.2 with
  | .ok _ => true
  | .error _ => false
def gotReq (r : State × Except Nat MatrixReq) : MatrixReq := match r.2 with
  | .ok q => q
  | .error _ => stepReq
theorem okFetch_eq {r : State × Except Nat MatrixReq} (h : okFetch r = true) : r = (r.1, .ok (gotReq r)) := by
  obtain ⟨s, e | q⟩ := r
  · simp [okFetch] at h
  · rfl
theorem some_of {o : Option (PKey × Reservation)} (h : o.isSome = true) : ∃ k v, o = some (k, v) := by
  cases o with
  | none => cases h
  | some x => exact ⟨x.1, x.2, rfl⟩
theorem found_of {o : Option (PKey × Reservation)} {P : Reservation → Prop} [DecidablePred P]
    (h : (match o with
      | some x => decide (P x.2)
      | none => false) = true) : ∃ k v, o = some (k, v) ∧ P v := by
  cases o with
  | none => cases h
  | some x => exact ⟨x.1, x.2, rfl, of_decide_eq_true h⟩
/-- A step whose chunks are read: with a first product of 2^−133 it needs the signal box. -/
theorem witness_matrix_step :
    let s := mState false 0 1
    Claims.StepReady s 0 stepReq (gotReq (fetched s)) [] (s.parcel key) stepBlk 0 0 4 (BitVec.ofNat 256 (rsvWord 0 16))
      (BitVec.ofNat 256 (rsvWord 16 16)) 0 (fetched s).1 :=
  ⟨rfl, rfl, by decide +kernel, by decide +kernel, by decide +kernel, by decide +kernel,
    okFetch_eq (by decide +kernel), by decide +kernel,
    found_of (P := fun v => v.word = BitVec.ofNat 256 (rsvWord 0 16)) (by decide +kernel),
    found_of (P := fun v => v.word = BitVec.ofNat 256 (rsvWord 16 16)) (by decide +kernel), by decide +kernel, by decide +kernel⟩
theorem witness_matrix_assist :
    let s := mState false 0 1
    Claims.Assists (s.parcel key) stepBlk 0 0 4 (BitVec.ofNat 256 (rsvWord 0 16)) (BitVec.ofNat 256 (rsvWord 16 16)) (gotReq (fetched s)) :=
  ⟨0, by decide +kernel, 0, by decide +kernel, by decide +kernel⟩
theorem witness_assist_waits :
    let s := mState true 0 1
    Claims.AwaitsBox s 0 stepReq [] ∧ s.parcel? key = some (s.parcel key) ∧ stepReq.op.mma? = some (stepBlk, 0, 0, 4) ∧
    (∃ k v, s.operandOf key (mmaA stepBlk) = some (k, v)) ∧ (∃ k v, s.operandOf key (mmaB stepBlk) = some (k, v)) ∧
    mmaM stepBlk ≤ 128 ∧ mmaN stepBlk ≤ 128 ∧ mmaPair stepBlk = false :=
  ⟨⟨by decide +kernel, ⟨0, by decide +kernel⟩, by decide +kernel⟩, by decide +kernel, by decide +kernel, some_of (by decide +kernel),
    some_of (by decide +kernel), by decide +kernel⟩
theorem witness_matrix_complete :
    let s := mState false 1 1
    let r := { stepReq with step := 1 }
    (s.core 0).matrix = [r] ∧ (s.core 0).run = some ⟨false, 0⟩ ∧ s.coreOf key = 0 ∧ mmaSteps stepBlk ≤ r.step ∧
    s.parcel? key = some (s.parcel key) ∧ s.thread? key 0 = some (waiter s) := by decide +kernel
theorem witness_integer_steps : ([3, -4] : List Int).length = ([5, 6] : List Int).length ∧ ([3, -4] : List Int) ≠ [] := by decide

/-- The cases of an element's sum: a NaN product, infinite products of both signs and of one, an infinite old value, and numbers. -/
theorem witness_sum_cases :
    Claims.NanProduct (.inf false, .zero) ∧ Claims.InfProduct (.inf false, .one) false ∧ Claims.InfProduct (.inf true, .one) true ∧
    Fmt.f32.value 0x7F800000 = .inf false ∧ Claims.Number (Fmt.f32.value 0) ∧ Fmt.f64.value (0x7FF <<< 52) = .inf false ∧
    Claims.Number (Fmt.f64.value 0) ∧ Claims.Number Val.one :=
  have nan (e : Val × Val) (h1 : e.1 ≠ .nan) (h2 : e.2 = .one) : ¬ Claims.NanProduct e := by
    rintro (h | h | ⟨-, h⟩ | ⟨-, s, h⟩) <;> simp_all [Val.one, Val.isZero]
  ⟨.inr (.inr (.inl ⟨⟨_, rfl⟩, by decide⟩)), ⟨nan _ (by decide) rfl, .inl ⟨_, rfl⟩, by decide⟩,
    ⟨nan _ (by decide) rfl, .inl ⟨_, rfl⟩, by decide⟩, by decide +kernel, ⟨_, _, _, rfl, by decide +kernel⟩, by decide +kernel,
    ⟨_, _, _, rfl, by decide +kernel⟩, ⟨_, _, _, rfl, by decide⟩⟩

/-! #### The Terminus -/

/-- A TERM of the series in a4 into a6, of method `meth` and order 1, with further bits. -/
def termWord (meth more : Nat) : BitVec 256 := BitVec.ofNat 256 (4 ||| 6 <<< 6 ||| meth <<< 12 ||| 1 <<< 14 ||| more)
/-- The series of a4, its newest checkpoint holding the pattern `x` first. -/
def checkpoints (x : Nat) (p : Parcel) : Parcel := { withSeries p with acc := Mem.setNat [] (65536 * 9) 4 x }
def emptySeries (p : Parcel) : Parcel := { p with series := [(4, serOf true 3 0 0 0 false 0 8 1 2 0)] }
/-- The slot of DST is a pending shadow. -/
def shadowedDst (p : Parcel) : Parcel := { withSeries p with shadows := [(6, shadowWord false 5 false 0)] }
def tState (b : BitVec 256) (f : Parcel → Parcel) : State := hState (.term b) 0 f
def termEst (p : Parcel) (b : BitVec 256) (x : Nat) : Val × Nat :=
  let e := p.seriesAt (p.position (termSer b))
  if termMeth b = 0 then (Claims.chkAt p e 0 x, 0)
  else
    let r := lsqEstimate (termTheta b) (termRidge b) ((List.range (Claims.termH b e + 1)).map (fun j =>
      (List.range (serM e * serN e)).map (fun x => Claims.chkAt p e (Claims.termH b e - j) x)))
    (r.1[x]?.getD .nan, r.2)
theorem runs_of {p : Parcel} {b : BitVec 256} (h : (decide (p.termRun b = 0) && (let e := p.seriesAt (p.position (termSer b))
    decide (1 ≤ serM e ∧ serM e ≤ 128 ∧ 1 ≤ serN e ∧ serN e ≤ 128)) && decide (p.position (termDst b) < 64)) = true) :
    Claims.TermRuns p b := by
  simp only [Bool.and_eq_true, decide_eq_true_eq] at h
  exact ⟨h.1.1, h.1.2, h.2⟩
/-- A TERM at the head that fails with each code, and one of each method that runs, with a normal and with a subnormal result. -/
theorem witness_term_fails :
    headB (.term (termWord 0 0)) 0 id = true ∧ headB (.term (termWord 0 0)) 0 emptySeries = true ∧
    headB (.term (termWord 0 (1 <<< 30 ||| 8 <<< 160))) 0 withSeries = true ∧ headB (.term (termWord 0 0)) 0 shadowedDst = true ∧
    shadowPending ((tState (termWord 0 0) shadowedDst).parcel key).shadows 6 = true ∧
    (let e (f : Parcel → Parcel) := ((tState (termWord 0 0) f).parcel key).seriesAt (((tState (termWord 0 0) f).parcel key).position 4)
     serValid (e id) = false ∧ (serValid (e emptySeries) = true ∧ serAvail (e emptySeries) = 0) ∧
     (serValid (e withSeries) = true ∧ serAvail (e withSeries) = 3)) ∧
    termFmapen (termWord 0 (1 <<< 30 ||| 8 <<< 160)) = true ∧ termFmap (termWord 0 (1 <<< 30 ||| 8 <<< 160)) % 16 = 8 := by
  and_intros <;> decide +kernel
theorem witness_term_runs (x meth : Nat) (hx : x = 0 ∨ x = 1) (hm : meth = 0 ∨ meth = 1) :
    let s := tState (termWord meth 0) (checkpoints x)
    let p := s.parcel key
    Claims.Head s 0 (headOf (.term (termWord meth 0)) 0) [] p ∧ Claims.TermRuns p (termWord meth 0) ∧
    Claims.Estimates p (termWord meth 0) (p.seriesAt (p.position 4)) (termEst p (termWord meth 0)) ∧
    ((Fmt.f32.assisted (termFlush (termWord meth 0)) .rne (termEst p (termWord meth 0) 0).1).2 = decide (x = 1)) := by
  have eps : ∀ p b e, (∀ x < serM e * serN e, termEst p b x = (Claims.chkAt p e 0 x, 0)) →
      (∀ x < serM e * serN e, ∀ q, 1 ≤ q → q ≤ Claims.termH b e →
        ¬ Claims.EpsOk (termTheta b) (fun t => Claims.chkAt p e (2 * q - t) x) q) → termMeth b = 0 →
      Claims.Estimates p b e (termEst p b) := fun p b e h0 h hm => by
    simp only [Claims.Estimates, hm, if_true]
    exact fun x hx => .inr ⟨h x hx, by rw [h0 x hx], by rw [h0 x hx]⟩
  have lsq : ∀ p b e, termMeth b ≠ 0 → (let r := lsqEstimate (termTheta b) (termRidge b) ((List.range (Claims.termH b e + 1)).map (fun j =>
        (List.range (serM e * serN e)).map (fun x => Claims.chkAt p e (Claims.termH b e - j) x)))
      ∀ x < serM e * serN e, r.1[x]? = some (termEst p b x).1 ∧ (termEst p b x).2 = r.2) → Claims.Estimates p b e (termEst p b) :=
    fun p b e hm h => by simpa only [Claims.Estimates, hm, if_false] using h
  rcases hx with rfl | rfl <;> rcases hm with rfl | rfl <;> refine ⟨head_of (by decide +kernel), runs_of (by decide +kernel), ?_, by decide +kernel⟩
  · refine eps _ _ _ (by decide +kernel) (fun x hx q h1 h2 => ?_) (by decide +kernel)
    have : q = 1 := Nat.le_antisymm (h2.trans (by decide +kernel)) h1
    subst this; revert x; unfold Claims.EpsOk; decide +kernel
  · exact lsq _ _ _ (by decide +kernel) (by decide +kernel)
  · refine eps _ _ _ (by decide +kernel) (fun x hx q h1 h2 => ?_) (by decide +kernel)
    have : q = 1 := Nat.le_antisymm (h2.trans (by decide +kernel)) h1
    subst this; revert x; unfold Claims.EpsOk; decide +kernel
  · exact lsq _ _ _ (by decide +kernel) (by decide +kernel)
theorem witness_term_box_and_end :
    let at' (assist : Bool) (step : Nat) := (tState (termWord 0 0) (checkpoints 1)).modCore 0 (fun c =>
      { c with matrix := [{ headOf (.term (termWord 0 0)) 0 with step := step }], run := some ⟨assist, 0⟩ })
    Claims.AwaitsBox (at' true 0) 0 (headOf (.term (termWord 0 0)) 0) [] ∧
    Claims.TermRuns ((at' true 0).parcel key) (termWord 0 0) ∧
    ((at' false 1).core 0).run = some ⟨false, 0⟩ ∧ termSer (termWord 0 0) < (at' false 1).slotsOf key ∧
    serValid (((at' false 1).parcel key).seriesAt (((at' false 1).parcel key).position 4)) = true ∧
    (at' false 1).thread? key 0 = some (waiter (at' false 1)) :=
  ⟨⟨by decide +kernel, ⟨0, by decide +kernel⟩, by decide +kernel⟩, runs_of (by decide +kernel), by decide +kernel⟩

/-! #### Drains -/

/-- A drain of 2 × 2 FP32 elements of a4 to scratchpad offset 0x800, rows of 16 bytes. -/
def drainBlk : BitVec 256 := BitVec.ofNat 256 (4 ||| 9 <<< 8 ||| 2 <<< 20 ||| 2 <<< 28 ||| 0x800 <<< 64 ||| 16 <<< 128)
def drainReq : MatrixReq := headOf (.adrain drainBlk 0) 0
theorem witness_drain_starts :
    Claims.Head (hState (.adrain drainBlk 0) 0 id) 0 drainReq [] ((hState (.adrain drainBlk 0) 0 id).parcel key) ∧
    ((hState (.adrain drainBlk 0) 0 id).core 0).drains.length < 2 ∧ drainStype drainBlk < 2 ∧
    shadowPending ((hState (.adrain drainBlk 0) 0 id).parcel key).shadows (drainSlot drainBlk) = false :=
  ⟨head_of (by decide +kernel), by decide +kernel⟩
def dState (d : Drain) : State := ready (fun s => s.modCore 0 (fun c => { c with drains := [d] })) id
theorem drains_of {d : Drain} (h : (decide (((dState d).core 0).drains[0]? = some d) && decide (d.req.op = .adrain drainBlk 0) &&
    decide ((dState d).parcel? d.req.key = some ((dState d).parcel key)) && decide ((dState d).coreOf d.req.key = 0) &&
    decide (d.win.length = drainM drainBlk * drainN drainBlk) && decide (d.journal = false) &&
    decide (((((dState d).core 0).drains.take 0).any (fun e => (dState d).drainBehind e d)) = false)) = true) :
    Claims.DrainsHere (dState d) 0 0 d drainBlk 0 ((dState d).parcel key) := by
  simp only [Bool.and_eq_true, decide_eq_true_eq] at h
  obtain ⟨⟨⟨⟨⟨⟨h1, h2⟩, h3⟩, h4⟩, h5⟩, hj⟩, h6⟩ := h
  exact ⟨h1, h2, h3, h4, by decide +kernel, h5, by decide +kernel, by decide +kernel, hj, h6⟩
/-- A window of normal values, and one with a pattern whose rounding is below the smallest normal: a half of it, in FP32. -/
theorem witness_drain :
    Claims.DrainsHere (dState ⟨drainReq, [0x3F800000, 0, 0, 0], .unjudged, false⟩) 0 0 ⟨drainReq, [0x3F800000, 0, 0, 0], .unjudged, false⟩ drainBlk 0
      ((dState ⟨drainReq, [0x3F800000, 0, 0, 0], .unjudged, false⟩).parcel key) ∧
    drainAdds drainBlk = false ∧ (∀ x ∈ [0x3F800000, 0, 0, 0], (drainElem drainBlk 0 x).2 = false) ∧
    Claims.DrainsHere (dState ⟨drainReq, [1, 0, 0, 0], .unjudged, false⟩) 0 0 ⟨drainReq, [1, 0, 0, 0], .unjudged, false⟩ drainBlk 0
      ((dState ⟨drainReq, [1, 0, 0, 0], .unjudged, false⟩).parcel key) ∧
    (∃ x ∈ [1, 0, 0, 0], (drainElem drainBlk 0 x).2 = true) ∧
    (let s := dState ⟨drainReq, [0, 0, 0, 0], .written, false⟩
     (s.parcel key).counts.all (fun c => c.req != drainReq.uid) = true ∧ s.thread? key 0 = some (waiter s)) :=
  ⟨drains_of (by decide +kernel), by decide +kernel, by decide +kernel, drains_of (by decide +kernel), ⟨1, by decide, by decide +kernel⟩,
    by decide +kernel⟩

/-! #### Sets -/

/-- A near array set of core 0 with the members 1, 2, 3 and 10, and one with the members 3 and 4. -/
def setA : SetRec := { SetRec.new 5 1 0 0 with pending := false, runs := [(1, 3), (10, 1)], rep := 2 }
def setB : SetRec := { SetRec.new 6 1 0 0 with pending := false, runs := [(3, 2)], rep := 2 }
/-- The handle of the set of an index, of generation 1. -/
def hnd (i : Nat) : Word := BitVec.ofNat 32 (2 ^ 20 + i)
/-- The launch holds both sets and, of index 7, one that its request has not made yet; its core holds block 0 of the indices. -/
def withSets (s : State) : State := s.modLaunch lch (fun x =>
  { x with sets := [setA, setB, SetRec.new 7 1 0 0], pool := { x.pool with next := [(0, 1)], blocks := [(0, 0)] } })
/-- The thread's operands: two handles and a list of two words. -/
def withHandles (t : Thread) : Thread := { t with g := [(6, hnd 5), (7, hnd 6), (8, 0x100), (9, 2), (10, 0x40)] }
def setSamples : List Instr :=
  [.sfree (fr .i8 0 0 6 0 0), .sins (fr .i8 0 0 6 9 0), .sdel (fr .i8 0 0 6 9 0), .shas (fr .i8 0 4 6 9 0), .scard (fr .i8 0 4 6 0 0),
    .snext (fr .i8 0 4 6 9 0), .srep (fr .i8 0 4 6 0 0), .srep (fr .i8 1 4 6 0 0), .shint (fr .i8 0 4 6 9 0), .scost (fr .i8 2 4 6 7 0),
    .snew (fr .i8 0 4 0 0 0), .suni (fr .i8 0 4 6 7 0), .sint (fr .i8 0 4 6 7 0), .sdif (fr .i8 0 4 6 7 0), .scpy (fr .i8 0 4 6 0 0)]
theorem witness_set_requests_alone :
    setSamples.all (fun i => i.wellFormed && aloneB (ready withSets withHandles) grp i (thr withHandles) .go) = true := by decide +kernel
theorem witness_set_requests :
    let s := ready withSets withHandles
    let t := thr withHandles
    Claims.Alone s grp (.sint (fr .i8 0 4 6 7 0)) t ∧ Claims.EngineFree s grp t .sets 6 ∧
    Claims.Alone s grp (.sldl (fr .i8 0 4 8 9 0)) t ∧ Claims.ListAt s key (Claims.wordA (fr .i8 0 4 8 9 0) t).toNat 2 ∧
    Claims.Alone s grp (.sstl (fr .i8 0 9 6 8 10)) t ∧ Claims.ListAt s key (Claims.wordB (fr .i8 0 9 6 8 10) t).toNat 2 ∧
    ((t.reg 10).toNat % 16 = 0 ∧ (t.reg 10).toNat + 16 ≤ (s.parcel key).spSize) ∧
    (s.launch? lch).isSome = true ∧ s.freeIndex lch 0 = some 1 ∧
    (let s := ready id withHandles
     Claims.Alone s grp (.snew (fr .i8 0 4 0 0 0)) t ∧ s.indexLeft lch 0 = false) ∧
    (let s := ready (fun s => s.modLaunch lch (fun x => { x with pool := { x.pool with next := [(0, 1024)] } })) withHandles
     Claims.Alone s grp (.snew (fr .i8 0 4 0 0 0)) t ∧ s.freeIndex lch 0 = none ∧ s.indexLeft lch 0 = true) :=
  ⟨alone_of (by decide +kernel), engineFree_of (by decide +kernel), alone_of (by decide +kernel), .inr (by decide +kernel),
    alone_of (by decide +kernel), .inr (by decide +kernel), by decide +kernel, by decide +kernel, by decide +kernel,
    ⟨alone_of (by decide +kernel), by decide +kernel⟩, alone_of (by decide +kernel), by decide +kernel, by decide +kernel⟩
theorem witness_normal_runs : Claims.NormalRuns [(1, 3), (10, 1)] ∧ Claims.NormalRuns [] ∧ runsNext 4 [(1, 3), (10, 1)] = some 10 ∧
    runsNext 11 [(1, 3), (10, 1)] = none := ⟨by simp [Claims.NormalRuns], trivial, by decide +kernel, by decide +kernel⟩

/-- A request of the loaded thread at the head of its core's set order. -/
def setReq (op : SetOp) (a b res : Word) : SetReq := ⟨3, 0, 1, false, key, 0, 0, op, a, b, res, none, 0, 28, 4⟩
def qState (r : SetReq) : State := ready (fun s => (withSets s).modCore 0 (fun c => { c with sets := [r] })) withHandles
def setHeadB (r : SetReq) : Bool :=
  let s := qState r
  decide ((s.core 0).sets = [r]) && decide ((s.core 0).halting = false) && decide (s.coreOf r.key = 0) && decide (r.core = 0) && decide (s.setHeld 0 r = false) &&
    decide (s.thread? r.key r.tix = some (waiter s))
theorem setHead_of {r : SetReq} (h : setHeadB r = true) : Claims.SetHead (qState r) 0 r [] (waiter (qState r)) := by
  simp only [setHeadB, Bool.and_eq_true, decide_eq_true_eq] at h
  obtain ⟨⟨⟨⟨⟨h1, h2⟩, h3⟩, hc⟩, h4⟩, h5⟩ := h
  exact ⟨h1, .inl h2, h3, hc, h4, by simp, h5⟩
theorem setRuns_of {r : SetReq} (h : (setHeadB r && decide ((qState r).setCode r = 0) && decide ((qState r).namesFar 0 r = false)) = true) :
    Claims.SetRuns (qState r) 0 r [] (waiter (qState r)) := by
  simp only [Bool.and_eq_true, decide_eq_true_eq] at h
  exact ⟨setHead_of h.1.1, h.1.2, h.2⟩
def setRunsB (r : SetReq) : Bool := setHeadB r && decide ((qState r).setCode r = 0) && decide ((qState r).namesFar 0 r = false)
theorem witness_set_runs : ∀ r ∈ [setReq (.shas 2) (hnd 5) 0 0, setReq .scard (hnd 5) 0 0, setReq (.snext 4) (hnd 5) 0 0,
    setReq (.snext 11) (hnd 5) 0 0, setReq (.sstl 0x100 3) (hnd 5) 0 0, setReq .suni (hnd 5) (hnd 6) (hnd 7), setReq .sint (hnd 5) (hnd 6) (hnd 7),
    setReq .sdif (hnd 5) (hnd 6) (hnd 7), setReq .scpy (hnd 5) 0 (hnd 7), setReq .snew 0 0 (hnd 7), setReq (.sldl 0x100 2) 0 0 (hnd 7),
    setReq (.sins 4) (hnd 5) 0 0, setReq (.sdel 2) (hnd 5) 0 0, setReq .sfree (hnd 5) 0 0, setReq (.shint 0) (hnd 5) 0 0,
    setReq .srep (hnd 5) 0 0, setReq .slap (hnd 5) 0 0, setReq (.scost 2) (hnd 5) (hnd 6) 0],
    Claims.SetRuns (qState r) 0 r [] (waiter (qState r)) := fun r hr => setRuns_of (List.all_eq_true.1 (show List.all _ setRunsB = true by decide +kernel) r hr)
/-- What the clauses of single operations assume of them. -/
theorem witness_set_clauses :
    (let s := qState (setReq (.sins 4) (hnd 5) 0 0)
     s.batchOf (setReq (.sins 4) (hnd 5) 0 0) = [setReq (.sins 4) (hnd 5) 0 0] ∧ s.liveSet? lch (hnd 5) = some setA ∧ setA.conv = none) ∧
    (let s := qState (setReq .sint (hnd 5) (hnd 6) (hnd 7))
     s.setRec? lch (hnd 7) = some (SetRec.new 7 1 0 0) ∧ (s.launch? lch).isSome = true) ∧
    (let s := qState (setReq (.shint 0) (hnd 5) 0 0)
     s.nearFits { setA with conv := none, pin := none, miss := 0, tgt := 0 } setA.blocks = true) ∧
    (let s := qState (setReq (.scost 2) (hnd 5) (hnd 6) 0)
     (s.setView key (hnd 5)).rep < 8 ∧ (s.setView key (hnd 6)).rep < 8) ∧
    (let s := qState (setReq (.sstl 0x100 3) (hnd 5) 0 0)
     (runsTake 3 (s.setView key (hnd 5)).runs).length = 3 ∧ s.parcel? key = some (s.parcel key)) := by decide +kernel
/-- A stale handle: of generation 2. -/
theorem witness_set_fails :
    let r := setReq (.shas 2) (BitVec.ofNat 32 (2 * 2 ^ 20 + 5)) 0 0
    Claims.SetHead (qState r) 0 r [] (waiter (qState r)) ∧ (qState r).setCode r = 0x80 ∧ r.op.produces = false ∧
    ∃ h ∈ r.handles, (qState r).setRec? lch h = none ∧ (qState r).consist? key h = none :=
  ⟨setHead_of (by decide +kernel), by decide +kernel, by decide +kernel, BitVec.ofNat 32 (2 * 2 ^ 20 + 5), by decide +kernel⟩
theorem witness_set_build :
    let s := ready (fun s => s.modLaunch lch (fun x => { x with sets := [{ setA with conv := some ⟨3, setA.runs, [], false, false⟩ }] })) id
    (s.launch? lch).isSome = true ∧ ((s.launch? lch).map (fun x => x.sets.map (fun r => (r.index, r.conv.map (fun c => c.built))))) =
      some [(5, some false)] := by decide +kernel
/-- A thread of the loaded parcel waits for an index of its die, the first core to ask, and no index is left. -/
theorem witness_index_supply :
    let s := ready id (fun t => { t with status := .engine (.setIndex 0) })
    (s.launch? lch).isSome = true ∧ s.asksSince lch 0 = some 0 ∧ ((s.launch? lch).map (fun x => x.dieSpent (dieOf 0))) = some false ∧
      ((List.range 20).map (s.asksSince lch)).drop 1 = List.replicate 19 none ∧ s.freeIndex lch 0 = none := by decide +kernel
/-- The same sets beside one that takes the whole set store, with no far-set object: there is no room for one block more. -/
def crowded (r : SetReq) : State := (qState r).modLaunch lch (fun x =>
  { x with sets := x.sets ++ [{ SetRec.new 9 1 0 0 with pending := false, rep := 1, winLen := 2 ^ 22 }] })
/-- A mutation and an intersection with room, and without. -/
theorem witness_set_room :
    (let r := setReq (.sins 4) (hnd 5) 0 0
     (qState r).openBatch? r = none ∧ Claims.behindIt (qState r) r = [] ∧ Claims.behindIt (crowded r) r = [] ∧ (qState r).nearFits (Claims.wholeBatch (qState r) r setA true 4) setA.blocks = true ∧
     (qState r).liveSet? lch (hnd 5) = some setA ∧ setHeadB r = true ∧ setA.far = false ∧
     ((crowded r).nearFits (Claims.wholeBatch (crowded r) r setA true 4) setA.blocks || (crowded r).farRoom lch
       { Claims.wholeBatch (crowded r) r setA true 4 with far := true }) = false ∧
     decide ((crowded r).setCode r = 0) = true ∧ (crowded r).setHeld 0 r = false) ∧
    (let r := setReq .sint (hnd 5) (hnd 6) (hnd 7)
     let z (s : State) : SetRec := { (SetRec.new 7 1 0 0).withView (buildView (policyOf (s.produced r).1) (s.produced r).1) with pending := false }
     (qState r).nearFits (z (qState r)) 0 = true ∧ (qState r).nearRoom 0 = true ∧
     ((crowded r).nearFits (z (crowded r)) 0 || (crowded r).farRoom lch { z (crowded r) with far := true }) = false ∧
     decide ((crowded r).setCode r = 0) = true ∧ (crowded r).setHeld 0 r = false) := by decide +kernel
def setC : SetRec := { SetRec.new 5 1 0 0 with pending := false, runs := [(1, 1), (1000000, 1)], rep := 2 }
/-- The second mutation of a batch: the set has the first member of the batch, and the batch stands. -/
theorem witness_batch_stands :
    let r := setReq (.sins 4) (hnd 5) 0 0
    let y := (setC.partly true [500000]).set
    let s := ((qState r).modSet lch 5 (fun _ => y)).modLaunch lch (fun x => { x with batches := [⟨0, hnd 5, true, setC, [500000], y⟩] })
    (s.openBatch? r).map (fun b => (b.base.runs, b.elems)) = some (setC.runs, [500000]) ∧ Claims.BatchStands s r y true ∧
    s.liveSet? lch (hnd 5) = some y ∧ Claims.NormalRuns y.runs ∧ y.conv = none := by
  refine ⟨by decide +kernel, fun b hb => ?_, by decide +kernel, ?_, by decide +kernel⟩
  · obtain rfl : b = ⟨0, hnd 5, true, setC, [500000], (setC.partly true [500000]).set⟩ := by
      have := Option.some.inj (hb.symm.trans (show _ = some (OpenBatch.mk 0 (hnd 5) true setC [500000] (setC.partly true [500000]).set) by decide +kernel))
      exact this
    exact ⟨rfl, rfl, by simp [setC, Claims.NormalRuns], by decide +kernel, by decide +kernel⟩
  · rw [show (setC.partly true [500000]).set.runs = [(1, 1), (500000, 1), (1000000, 1)] by decide +kernel]
    simp [Claims.NormalRuns]

/-! #### Circle requests -/

/-- Object 5 as a Circle region of two slices of 32 rows, in lap 1, leased. -/
def withRegion (s : State) : State :=
  let s := (withObject s).modCtx 0 (fun c => { c with objects := [⟨5, 2 <<< 476 ||| 65536 <<< 400 ||| 1 <<< 462, [extOf 0 1 0 true false 16], []⟩] })
  { s with regions := [⟨⟨0, 5⟩, 1, 0, [], []⟩] }
/-- The thread with a record address, the region offset 2,048, a barrier, operands and the capability. -/
def circling (t : Thread) : Thread := { t with g := [(4, 0x400), (6, 2048), (8, 0x40), (10, 7), (12, 1024)], p := 8, c := [(1, capObject)] }
theorem circleChecks_of {s : State} {t : Thread} {x : EWord} {right : Right} {n width reply : Nat}
    (h : (!t.fenceRelease && !t.fenceNumber && !t.fenceAcquire && decide (t.counts.get .circle < 62) && decide (t.storeQ = []) && (s.parcel? key).isSome &&
      decide (Claims.at32 t x.p % 16 = 0 ∧ Claims.at32 t x.p + 16 ≤ (s.parcel key).spSize) &&
      decide (reply % 16 = 0 ∧ reply + 16 ≤ (s.parcel key).spSize) &&
      decide (Claims.at32 t x.bar % 16 = 0 ∧ Claims.at32 t x.bar + 16 ≤ (s.parcel key).spSize) &&
      (capTrap (t.cap (x.q.toNat % 8)) right (t.pair x.x.toNat).toNat n).isNone &&
      (s.leaseFault key (t.cap (x.q.toNat % 8)) right (t.pair x.x.toNat).toNat n).isNone &&
      decide ((capBase (t.cap (x.q.toNat % 8)) + (t.pair x.x.toNat).toNat) % width = 0)) = true) :
    Claims.CircleChecks s grp t x right n width reply := by
  simp only [Bool.and_eq_true, Bool.not_eq_true', decide_eq_true_eq, Option.isNone_iff_eq_none] at h
  obtain ⟨⟨⟨⟨⟨⟨⟨⟨⟨⟨⟨h1, h2⟩, h3⟩, h4⟩, hq⟩, h5⟩, h6⟩, h7⟩, h8⟩, h9⟩, h10⟩, h11⟩ := h
  exact ⟨⟨⟨h1, h2, h3⟩, h4⟩, hq, Option.isSome_iff_ne_none.1 h5, h6, h7, h8, h9, h10, h11⟩
/-- A snapshot in its non-blocking form, guarded by p3. -/
def snapX : EWord := ⟨.onTrue 3, 4, 6, 12, 8, 1, false, 0⟩
def circleState : State := ready withRegion circling
theorem witness_circle_alone :
    [Instr.crupd (fe 4 6 10 8 1 true 0), .crrd (fe 4 6 0 8 1 true 1), .crsnap snapX, .crlap (fe 4 0 0 0 1 false 0),
      .crinfo (fe 4 6 0 0 1 false 0), .crinfo (fe 4 0 0 0 1 false 1)].all (fun i =>
        i.wellFormed && aloneB circleState grp i (thr circling) .go) = true := by decide +kernel
/-- An update, a read and a snapshot of 1,024 bytes of the region. -/
theorem witness_circle_update : Claims.CircleChecks circleState grp (thr circling) (fe 4 6 10 8 1 true 0) .c 4 4 0x400 :=
  circleChecks_of (by decide +kernel)
theorem witness_circle_read : Claims.CircleChecks circleState grp (thr circling) (fe 4 6 0 8 1 true 1) .q 4 4 0x400 :=
  circleChecks_of (by decide +kernel)
theorem witness_circle_snapshot : Claims.CircleChecks circleState grp (thr circling) snapX .q 1024 4 0x800 :=
  circleChecks_of (by decide +kernel)
/-- The queries of the region's lap, of a slice and of the rest. -/
theorem witness_circle_queries : let s := circleState
    let t := thr circling
    capCheck (t.cap 1) [.c, .q] 2048 0 = none ∧ capCheck (t.cap 1) [.c, .q] 0 0 = none ∧ (s.object? ⟨0, 5⟩).isSome = true ∧
    (s.region? ⟨0, 5⟩).map (fun r => r.lap) = some 1 ∧ s.classOf ⟨0, 5⟩ = 2 ∧ (s.slice 0).queue.length = 0 := by decide +kernel
theorem canTrap_of {s : State} {t : Thread} {h : Word} (b : (match s.launch? lch with
    | some l => decide (l.handler = some h)
    | none => false) = true) (b2 : t.tstate.getLsbD 0 = false ∧ t.storeQ = [] ∧ t.deliver = []) : Claims.CanTrap s key t h := by
  split at b
  · next l hl => exact ⟨⟨l, hl, of_decide_eq_true b⟩, b2⟩
  · cases b
def sized (v : Word) (t : Thread) : Thread := { t with g := [(12, v)], p := 8 }
/-- The sizes of a snapshot that trap: one that is no multiple of 4, none, and one above 64 KiB. -/
theorem witness_snapshot_sizes : [(6 : Word), 0, 65540].all (fun v =>
    aloneB (ready withRegion (sized v)) grp (.crsnap snapX) (thr (sized v)) .go) = true := by decide +kernel
theorem witness_snapshot_traps : Claims.FreeToIssue (thr (sized 6)) .circle ∧ Claims.CanTrap (ready withRegion (sized 6)) key (thr (sized 6)) 0x80 :=
  ⟨free_of (by decide +kernel), canTrap_of (by decide +kernel) (by decide +kernel)⟩

/-- A request of the loaded thread for word 2,048 of the region, in its first slice. -/
def cReq (op : CircleOp) (st : CircleStage) (blocking : Bool) : CircleReq :=
  ⟨7, ⟨0, 5⟩, key, 0, 0, 0, op, 2048, 0x400, 0x40, blocking, 3, 28, st, false, if st = .admitted then 1 else 0, [], [2], 0, false⟩
/-- It is under way; `f` changes the rest. -/
def crState (q : CircleReq) (f : State → State) (g : Thread → Thread) : State := ready (fun s => f { withRegion s with circle := [q] }) g
def theRegion : Region := ⟨⟨0, 5⟩, 1, 0, [], []⟩
def theEntry : ObjEntry := ⟨5, 2 <<< 476 ||| 65536 <<< 400 ||| 1 <<< 462, [extOf 0 1 0 true false 16], []⟩
theorem atSlice_of {s : State} {q : CircleReq} (h : (decide (s.circle? q.id = some q) && decide ((s.entry q.obj).slicesOf q.left = [0]) &&
    decide (0 = (s.entry q.obj).physical 0) && decide (s.circleCode q = 0) && decide (s.region? q.obj = some theRegion)) = true) :
    Claims.AtSlice s q theRegion 0 0 := by
  simp only [Bool.and_eq_true, decide_eq_true_eq] at h
  exact ⟨h.1.1.1.1, h.1.1.1.2, h.1.1.2, h.1.2, h.2⟩
def add5 : CircleOp := .update 0 0 0 5
def waitedFor (s : State) : State := s.modSlice 0 (fun c => { c with waiters := [7] })
theorem witness_admission :
    (let s := crState (cReq add5 .sent true) id id
     Claims.AtSlice s (cReq add5 .sent true) theRegion 0 0 ∧ s.overtakes (cReq add5 .sent true) = false ∧ s.tooLate (s.slice 0) (cReq add5 .sent true) = false ∧
      (s.slice 0).queue.length < 8192 ∧ (s.slice 0).waiters = []) ∧
    (let s := crState (cReq add5 .sent false) waitedFor id
     Claims.AtSlice s (cReq add5 .sent false) theRegion 0 0 ∧ s.overtakes (cReq add5 .sent false) = false ∧
      s.tooLate (s.slice 0) (cReq add5 .sent false) = false ∧ (s.slice 0).waiters ≠ []) ∧
    (let s := crState (cReq add5 .waiting true) waitedFor id
     Claims.AtSlice s (cReq add5 .waiting true) theRegion 0 0 ∧ (s.slice 0).queue.length < 8192 ∧ (s.slice 0).waiters = [7]) :=
  ⟨⟨atSlice_of (by decide +kernel), by decide +kernel⟩, ⟨atSlice_of (by decide +kernel), by decide +kernel⟩, atSlice_of (by decide +kernel), by decide +kernel⟩
theorem witness_decisions :
    (∀ st ∈ [CircleStage.refused, .admitted],
      let q := cReq add5 st false
      let s := crState q id (fun t => { t with pend := [⟨28, [.p 3], none⟩] })
      s.circle? q.id = some q ∧ (s.thread? key 0).map (fun t => t.pend.map (fun e => e.uid)) = some [28] ∧ q.guard < 16) ∧
    (let q := cReq add5 .admitted true
     let s := crState q id (fun t => { t with status := .engine (.circle 7) })
     s.circle? q.id = some q ∧ (s.thread? key 0).map (fun t => t.status) = some (.engine (.circle 7))) := by decide +kernel

/-- The entry of the request stands in the queue of its slice, due in the row at the cursor. -/
def queuedIn (s : State) : State := s.modSlice 0 (fun c => { c with queue := [⟨7, ⟨0, 5⟩, [1], 1⟩] })
def atRow (n : Nat) (s : State) : State := { s with regions := [⟨⟨0, 5⟩, 1, 0, [(0, ⟨1, n, false, 0, none⟩)], []⟩] }
def rowRegion : Region := ⟨⟨0, 5⟩, 1, 0, [(0, ⟨1, 1, false, 0, none⟩)], []⟩
def rowNumber : Nat := (rowRegion.slice 0).cursor * theEntry.sliceCount + 0
def rowRead (s : State) : Bool := match (s.readRow ⟨0, 5⟩ rowNumber).2 with
  | .ok row => decide (row = [])
  | .error _ => false
theorem rowRead_eq {s : State} (h : rowRead s = true) : (s.readRow ⟨0, 5⟩ rowNumber).2 = .ok [] := by
  unfold rowRead at h
  split at h
  · next row e => rw [e, of_decide_eq_true h]
  · cases h
theorem rowDue_of {q : CircleReq} (h : (let s := crState q (queuedIn ∘ atRow 1) id
    decide (s.region? ⟨0, 5⟩ = some rowRegion) && decide (s.object? ⟨0, 5⟩ = some theEntry) && decide (0 < theEntry.sliceCount ∧ 1 < theEntry.rows) &&
    decide (s.lapsRun ⟨0, 5⟩ = true) && decide ((s.slice (theEntry.physical 0)).due ⟨0, 5⟩ (rowRegion.slice 0).cursor (rowRegion.slice 0).lap = [⟨7, ⟨0, 5⟩, [1], 1⟩]) &&
    decide (s.circle? 7 = some q) && decide (q.drop = false) && decide (theEntry.chunkPlace rowNumber = some (.hbm, 16 * 65536 + 2048)) && rowRead s) = true) :
    Claims.RowDue (crState q (queuedIn ∘ atRow 1) id) ⟨0, 5⟩ 0 rowRegion theEntry ⟨7, ⟨0, 5⟩, [1], 1⟩ q .hbm (16 * 65536 + 2048) [] := by
  simp only [Bool.and_eq_true, decide_eq_true_eq] at h
  obtain ⟨⟨⟨⟨⟨⟨⟨⟨h1, h2⟩, h3⟩, h4⟩, h5⟩, h6⟩, h7⟩, h8⟩, h9⟩ := h
  exact ⟨h1, h2, h3, h4, h5, h6, h7, h8, rowRead_eq h9⟩
theorem witness_row_due : ∀ op ∈ [add5, .update 7 1 0 9, .update 9 2 0 63, .update 0 4 0 0x3F800000, .update 1 4 0 0x3F800000, .read false, .read true],
    Claims.RowDue (crState (cReq op .admitted true) (queuedIn ∘ atRow 1) id) ⟨0, 5⟩ 0 rowRegion theEntry ⟨7, ⟨0, 5⟩, [1], 1⟩ (cReq op .admitted true)
      .hbm (16 * 65536 + 2048) [] := by
  intro op hop
  simp only [List.mem_cons, List.mem_nil_iff, or_false] at hop
  rcases hop with rfl | rfl | rfl | rfl | rfl | rfl | rfl <;> exact rowDue_of (by decide +kernel)
theorem witness_row_idle :
    let s := crState (cReq add5 .admitted true) (atRow 0) id
    s.region? ⟨0, 5⟩ = some ⟨⟨0, 5⟩, 1, 0, [(0, ⟨1, 0, false, 0, none⟩)], []⟩ ∧ s.object? ⟨0, 5⟩ = some theEntry ∧ 0 < theEntry.rows ∧
    s.lapsRun ⟨0, 5⟩ = true ∧ (s.slice (theEntry.physical 0)).due ⟨0, 5⟩ 0 1 = [] := by decide +kernel

/-! #### Laps, snapshots and replies -/

def lapState (f : Region → Region) : State := crState (cReq (.snap 2048) .sent true) (fun s =>
  { s.modBase 0 (fun b => { b with beat0 := 900 }) with regions := [f theRegion], tb := 1000 }) id
/-- A slice behind its last row; every slice reported; a slice a lap behind. -/
theorem witness_laps :
    (let s := lapState (fun r => { r with slices := [(0, ⟨1, 32, false, 0, none⟩)] })
     (s.region? ⟨0, 5⟩).map (fun r => decide (theEntry.rows ≤ (r.slice 0).cursor ∧ (r.slice 0).reported = false)) = some true ∧
      s.object? ⟨0, 5⟩ = some theEntry ∧ 0 < theEntry.sliceCount) ∧
    (let s := lapState (fun r => { r with slices := [(0, ⟨1, 32, true, 0, none⟩), (1, ⟨1, 32, true, 0, none⟩)] })
     (s.region? ⟨0, 5⟩).map (fun r => decide (∀ i < theEntry.sliceCount, (r.slice i).lap = r.lap ∧ (r.slice i).reported = true)) = some true ∧
      (s.region? ⟨0, 5⟩).map (fun r => decide (r.declaredAt + 1000 ≤ s.tb)) = some true ∧ (let b := s.base (s.entry ⟨0, 5⟩).home; b.alive b.master = true ∧ s.tb < b.beat b.master + 512) ∧
      (∀ q ∈ s.circle, q.obj = ⟨0, 5⟩ → q.parts = [])) ∧
    (let s := lapState (fun r => { r with lap := 2 })
     (s.region? ⟨0, 5⟩).map (fun r => decide ((r.slice 1).lap < r.lap)) = some true ∧ 1 < theEntry.sliceCount) := by decide +kernel
/-- A snapshot of both slices; one without a station master that serves; and one whose part in slice 1 is not acknowledged. -/
theorem witness_snapshots :
    (let q := { cReq (.snap 2048) .sent true with left := [2, 3] }
     let s := crState q id id
     s.circle? q.id = some q ∧ s.overtakes q = false ∧ s.spans q = true ∧ s.circleCode q = 0 ∧ s.region? q.obj = some theRegion ∧
      theRegion.spanWait = [] ∧ s.spanFull q = false ∧ (let b := s.base (s.entry q.obj).home; b.alive b.master = true ∧ s.tb < b.beat b.master + 512) ∧
      (((s.entry q.obj).slicesOf q.left).map (s.entry q.obj).physical).Nodup) ∧
    (let q := { cReq (.snap 2048) .admitted true with left := [2, 3], parts := [0, 1] }
     (crState q id id).circle? q.id = some q ∧ 1 ∈ q.parts) ∧
    (let q := { cReq (.snap 2048) .sent true with left := [2, 3] }
     let s := crState q (fun s => { s with tb := 512 }) id
     s.circle? q.id = some q ∧ s.circleCode q = 0 ∧ (let b := s.base (s.entry q.obj).home; b.alive b.master = false ∨ b.beat b.master + 512 ≤ s.tb)) := by
  decide +kernel
theorem witness_reply :
    let r (req : Nat) (off : Nat) : Reply := ⟨req, some 0, key, 0, off, List.replicate 16 1, 0x40, 16, 0, true⟩
    let s := crState (cReq add5 .admitted true) (fun s => { s with replies := [r 7 0x400, r 8 0x400] }) id
    s.replies[0]? = some (r 7 0x400) ∧ s.replies.take 0 = [] ∧ s.parcel? key = some (s.parcel key) ∧
    s.replies[1]? = some (r 8 0x400) ∧ s.replies.take 1 = [r 7 0x400] := by decide +kernel

/-! #### Traps and special registers -/

/-- A thread with a queued store and a delivered load, and one in handler mode. -/
def busy (t : Thread) : Thread := { t with storeQ := [⟨0x40, [1, 2], false, false, 0⟩], deliver := [⟨[⟨.g 4, 7⟩], true⟩] }
theorem witness_trap_entry :
    (let s := ready id busy
     let r := Trap.illegal 1 0
     (s.thread? key 0).map (fun t => (t.tstate.getLsbD 0, t.storeQ.length)) = some (false, 1) ∧ s.parcel? key = some (s.parcel key) ∧
      (s.launch? lch).map (fun l => (l.handler, l.loader)) = some (some 0x80, some 0x100) ∧ r.completes = false ∧ r.kind < 256 ∧ r.sub < 256) ∧
    (let s := ready id (fun t => { t with tstate := 1 })
     (s.thread? key 0).map (fun t => t.tstate.getLsbD 0) = some true ∧ (s.launch? lch).isSome = true) := by decide +kernel
/-- The queued store stands on its core too, alone. -/
theorem witness_own_stores :
    let s := (ready id busy).modCore 0 (fun c => { c with stores := [⟨key, [⟨0, 0x40, 2, 0, 0⟩], 0⟩] })
    Claims.OwnStores s key (thr busy) (s.parcel key) := by
  refine ⟨by decide +kernel, fun i hi => ?_⟩
  obtain rfl : i = ⟨key, [⟨0, 0x40, 2, 0, 0⟩], 0⟩ := List.mem_singleton.1 hi
  exact ⟨rfl, ⟨0, 0x40, 2, 0, 0⟩, rfl, rfl, by decide +kernel⟩
theorem witness_disjoint : Claims.Disjoint ((busy Thread.initial).storeQ.map (fun q => (q.off, q.bytes))) := by
  simp [Claims.Disjoint, busy]
theorem witness_traps :
    Claims.Alone (ready id id) grp (.trap (fs 0 0 7 0)) (thr id) ∧ Claims.Alone (ready id id) grp (.bkpt (fs 0 0 7 0)) (thr id) ∧
    Claims.Alone (ready id id) grp (.unassignedOpcode 0) (thr id) ∧ Claims.CanTrap (ready id id) key (thr id) 0x80 :=
  ⟨alone_of (by decide +kernel), alone_of (by decide +kernel), alone_of (by decide +kernel), canTrap_of (by decide +kernel) (by decide +kernel)⟩
/-- A role of 16 registers. -/
def smallRole (s : State) : State := s.modLaunch lch (fun x => { x with packet := x.packet &&& ~~~(31#2048 <<< 618) })
theorem witness_budget : Claims.AloneIllegal (ready smallRole id) grp (.neg (fr .n32 0 16 6 0 0)) (thr id) ∧
    Claims.CanTrap (ready smallRole id) key (thr id) 0x80 := ⟨aloneIllegal_of (by decide +kernel), canTrap_of (by decide +kernel) (by decide +kernel)⟩
def handling (t : Thread) : Thread := { t with tstate := 1, tpc := 40 }
theorem witness_eret : Claims.Alone (ready id handling) grp (.eret (fs 0 0 0 0)) (thr handling) ∧
    Claims.Reaches (ready id handling) grp (thr handling).tpc ∧
    Claims.Alone (ready id (fun t => { t with tpc := 4 })) grp (.eret (fs 0 0 0 0)) (thr (fun t => { t with tpc := 4 })) :=
  ⟨alone_of (by decide +kernel), ⟨by decide +kernel, by decide +kernel⟩, alone_of (by decide +kernel)⟩
theorem witness_special_registers :
    [0x000, 0x001, 0x002, 0x003, 0x004, 0x005, 0x006, 0x007, 0x008, 0x010, 0x011, 0x012, 0x013, 0x014, 0x020, 0x021, 0x022, 0x023, 0x024,
      0x025].all (fun n => (Instr.mfsr (fs 4 0 n 0)).wellFormed && aloneB (ready id id) grp (.mfsr (fs 4 0 n 0)) (thr id) .go) = true ∧
    [0x014, 0x020, 0x021, 0x022, 0x023, 0x024].all (fun n => (Instr.mtsr (fs 0 6 n 0)).wellFormed &&
      aloneB (ready id id) grp (.mtsr (fs 0 6 n 0)) (thr id) .go) = true ∧
    [0, 1, 2, 3].all (fun m => (Instr.clkrd (fs 4 0 0 m)).wellFormed && aloneB (ready id id) grp (.clkrd (fs 4 0 0 m)) (thr id) .go) = true ∧
    [0, 1, 0x010].all (fun n => (Instr.perfrd (fs 4 0 n 0)).wellFormed && aloneB (ready id id) grp (.perfrd (fs 4 0 n 0)) (thr id) .go) = true ∧
    (ready id id).undecided key 0 = false := by decide +kernel
theorem witness_clkrd_waits : Claims.Alone (ready id busy) grp (.clkrd (fs 8 0 0 2)) (thr busy) ∧ (thr busy).storeQ ≠ [] :=
  ⟨alone_of (by decide +kernel), by decide⟩

/-! #### Objects, routes, leases, migration, links -/

/-- Object 5, ordinary, of one unit that is not pinned, at unit 16 of the LP tier. -/
def lpEntry (mv : Bool) : ObjEntry := ⟨5, 1 <<< 476 ||| 65536 <<< 400, [extOf 0 1 1 false mv 16], []⟩
/-- A ready device with object 5 and a command. -/
def objState (e : ObjEntry) (c : Command) : State := { (ready id id).modCtx 0 (fun x => { x with objects := [e] }) with command := c }
def o5 : OKey := ⟨0, 5⟩
/-- A creation of object 6 on unit 32 of HBM; the same on a unit that does not exist. -/
def createObject (loc : Nat) : Command := { obj := 6, word := BitVec.ofNat 512 (1 <<< 476 ||| 65536 <<< 400 ||| (extOf 0 1 0 false false loc).toNat) }
def createState : State := objState (lpEntry false) (createObject 32)
theorem witness_object_write : createState.boot = .ready ∧ swept (createState.classOf ⟨0, 6⟩) = false ∧ createState.region? ⟨0, 6⟩ = none ∧
    (createState.ctx 0).leases = [] := by decide +kernel
theorem witness_object_leaves : (entryLeaves (createObject 32).word (createObject 32).leaves).all (fun d =>
    createState.placeable (tierOf (extField d 63 62)) (extField d 55 0) (extField d 95 64) &&
      !(createState.unitsTaken (some ⟨0, 6⟩) (tierOf (extField d 63 62)) (extField d 55 0) (extField d 95 64))) = true := by decide +kernel
/-- Object 5 holds unit 16 of the LP tier, so another may not lie there; and it may be deleted, at once or once its lease is gone. -/
theorem witness_unit_taken :
    createState.object? o5 = some (lpEntry false) ∧ createState.unitsTaken (some ⟨0, 6⟩) .lp 16 1 = true ∧ (createState.ctx 0).leasesObject 5 = false := by
  decide +kernel
theorem witness_object_unplaceable : (entryLeaves (createObject (2 ^ 24)).word (createObject (2 ^ 24)).leaves).map (fun d =>
    (objState (lpEntry false) (createObject (2 ^ 24))).placeable (tierOf (extField d 63 62)) (extField d 55 0) (extField d 95 64)) = [false] ∧
    (objState (lpEntry false) (createObject (2 ^ 24))).object? ⟨0, 6⟩ = none := by decide +kernel
theorem witness_route_walk : let s := objState (lpEntry false) { obj := 5 }
    s.classOf o5 ≠ 0 ∧ s.object? o5 = some (lpEntry false) ∧ (lpEntry false).extent? 0 = some (extOf 0 1 1 false false 16) ∧
    (∀ r ∈ s.routes, ¬ (r.die = 3 ∧ r.obj = o5 ∧ extCovers 0 r.desc = true)) := by decide +kernel
/-- One agent has still to acknowledge an invalidation, with a migration of the object that has switched; an entry with an ACC bit,
whose class a write makes 0. -/
theorem witness_invalidation : let e : ObjEntry := { lpEntry false with invalidating := [3] }
    (objState e { obj := 5 }).object? o5 = some e ∧ 3 ∈ e.invalidating ∧ e.invalidating = [3] ∧
    (let e : ObjEntry := ⟨5, 1 <<< 482 ||| 1 <<< 476 ||| 65536 <<< 400, [extOf 0 1 1 false false 16], []⟩
     let s := objState e { obj := 5 }
     s.boot = .ready ∧ swept (s.classOf o5) = false ∧ s.region? o5 = none ∧ (s.ctx 0).leases = [] ∧
      (s.command.word.extractLsb' 476 4).toNat = 0 ∧ s.object? o5 = some e ∧ e.acc = 4) := by decide +kernel

/-- The launch has one region entry, of capability 0: 4,096 bytes of object 5 from offset 0, right R. -/
def aRegion : Nat := 4096 <<< 112 ||| 1 <<< 3
def regionPacket : BitVec 2048 := BitVec.ofNat 2048 (1 <<< 428 ||| 0x10000 <<< 128 ||| (5 <<< 104 ||| 0xFF <<< 96 ||| 4096) <<< 1024)
def regionLaunch (e : Nat) (s : State) : State :=
  s.modLaunch lch (fun x => { x with regions := [RegionEntry.ofNat e], packet := x.packet ||| regionPacket })
def rState (obj : Nat) : State := regionLaunch aRegion ((ready id id).modCtx 0 (fun x => { x with objects := [{ lpEntry false with obj := obj }] }))
def theLaunch (s : State) : Launch := (s.launch? lch).getD (loadedLaunch lch)
theorem witness_lease_taken : let s := rState 5
    let e := (theLaunch s).region 0
    let cap := (theLaunch s).cap e.cap
    s.classOf ⟨0, capObj cap⟩ ≠ 0 ∧ e.offAt 0 + e.lenAt 0 ≤ (capLen cap : Int) ∧ e.rights &&& capRights cap = e.rights ∧
    0 ≤ e.offAt 0 ∧ 0 ≤ e.lenAt 0 ∧ capBase cap + (e.offAt 0).toNat < 2 ^ 48 ∧ s.launch? lch = some (theLaunch s) := by decide +kernel
/-- The same with the object free. -/
theorem witness_lease_fatal : let s := rState 6
    s.classOf ⟨0, capObj ((theLaunch s).cap ((theLaunch s).region 0).cap)⟩ = 0 ∧ (theLaunch s).key = lch ∧
    s.launch? lch = some (theLaunch s) := by decide +kernel
/-- A parcel waits for one faulted lease of unit 0 of object 5, which nothing backs; system software backs it. -/
def lState : State :=
  let s := (regionLaunch aRegion (ready id id)).modCtx 0 (fun x =>
    { x with objects := [⟨5, 1 <<< 476 ||| 65536 <<< 400, [], []⟩], leases := [leaseOf key 0 1 5 0 4096 ||| 2 <<< 184] })
  { s with command := { obj := 5, unit := 0, loc := 16, launch := 1 } }
theorem witness_lease_backed : let s := lState
    (s.object? o5).map (fun e => e.extent? 0) = some none ∧ s.placeable .hbm 16 1 = true ∧ s.unitsTaken none .hbm 16 1 = false ∧
    (s.ctx 0).leases.map (fun x => (leaseField x 187 184, leaseField x 175 152, leaseUnits x)) = [(3, 5, [0])] ∧
    s.launch? lch = some (theLaunch s) ∧ (theLaunch s).nreg ≤ (s.leasesOf key).length ∧ s.leasesOf key = (s.ctx 0).leases := by decide +kernel
theorem witness_lease_refused : let s := lState
    (s.ctx 0).leases.map (fun x => (leaseField x 187 184, leaseField x 255 224, leaseField x 223 192, leaseField x 191 188)) =
      [(3, s.command.launch, s.command.pix, s.command.reg)] ∧ (s.launch? ⟨0, s.command.launch⟩).isSome = true := by decide +kernel

theorem movable_of {s : State} {u : Nat} {e : ObjEntry} {d : BitVec 128} (h : (decide (s.object? o5 = some e) && decide (s.classOf o5 ≠ 0) && decide (e.extent? u = some d) &&
    decide (u < 2 ^ 32 ∧ extField d 55 0 + (u - extField d 127 96) < 2 ^ 56) &&
    decide (d.getLsbD 61 = false ∧ e.pinned = false ∧ swept e.cls = false)) = true) : Claims.Movable s o5 u e d := by
  simp only [Bool.and_eq_true, decide_eq_true_eq] at h
  exact ⟨h.1.1.1.1, h.1.1.1.2, h.1.1.2, h.1.2, h.2⟩
/-- Unit 0 of object 5 moves from unit 16 of the LP tier to unit 32 of HBM. -/
def moving : Migration := ⟨o5, 0, .hbm, 32, .lp, 16, false⟩
/-- Requests have touched unit 16 of the LP tier. -/
def touchedAt (s : State) : State := { s with touched := [(16, 1)] }
theorem witness_migration :
    Claims.Movable (objState (lpEntry false) { obj := 5, loc := 32 }) o5 0 (lpEntry false) (extOf 0 1 1 false false 16) ∧
    (let s := objState (lpEntry false) { obj := 5, loc := 32 }
     tierOf (extField (extOf 0 1 1 false false 16) 63 62) = .lp ∧ s.placeable .hbm 32 1 = true ∧ s.unitsTaken none .hbm 32 1 = false ∧ s.migrations = [] ∧
      Claims.Hot (touchedAt s) 0 (extOf 0 1 1 false false 16) ∧ Claims.Hot (touchedAt s) 0 (extOf 0 1 1 true false 16)) ∧
    Claims.Movable { objState (lpEntry true) { obj := 5, loc := 32 } with migrations := [moving] } o5 0 (lpEntry true) (extOf 0 1 1 false true 16) ∧
    ([moving].find? (fun m => m.obj == o5 && m.unit == 0) = some moving ∧ (moving.tier, moving.loc, moving.switched) = (.hbm, 32, false) ∧
      { objState (lpEntry true) { obj := 5, loc := 32 } with migrations := [moving] }.mastered (moverDie .lp 16) = true) ∧
    (let e : ObjEntry := ⟨5, 1 <<< 476 ||| 65536 <<< 400, [extOf 0 1 1 true false 16], []⟩
     (objState e {}).object? o5 = some e ∧ (objState e {}).classOf o5 ≠ 0 ∧ e.extent? 0 = some (extOf 0 1 1 true false 16) ∧ (extOf 0 1 1 true false 16).getLsbD 61 = true) :=
  ⟨movable_of (by decide +kernel), by unfold Claims.Hot; decide +kernel, movable_of (by decide +kernel), by decide +kernel, by decide +kernel⟩

/-- Two bytes for object 5 from a link. -/
def linkWrite : Command := { obj := 5, off := 100, bytes := [1, 2], good := true }
theorem witness_write_fits : Claims.WriteFits (objState (lpEntry false) linkWrite) o5 (lpEntry false) (extOf 0 1 1 false false 16) 100 [1, 2] := by
  have h : let s := objState (lpEntry false) linkWrite
      s.boot = .ready ∧ s.object? o5 = some (lpEntry false) ∧ s.classOf o5 = 1 ∧ s.routes = [] ∧ s.migrations = [] ∧
        s.linkDown (extOf 0 1 1 false false 16) = false := by decide +kernel
  obtain ⟨hb, ho, hc, hr, hm, hl⟩ := h
  exact ⟨⟨hb, ho, hc, by decide, by decide +kernel, by rw [hr]; nofun, hl, rfl, rfl⟩, by rw [hm]; nofun⟩
/-- The same while unit 0 migrates. -/
theorem witness_write_lands : let s := { objState (lpEntry true) linkWrite with migrations := [moving], linksDown := [3] }
    Claims.WriteLands s o5 (lpEntry true) (extOf 0 1 1 false true 16) 100 [1, 2] ∧
    s.migrations.find? (fun m => m.obj == o5 && m.unit == 100 / 65536) = some moving ∧ s.command.obj ≠ 0 ∧ s.command.link < 2 ∧
    s.command.link ∉ s.linksDown := by
  have h : let s := { objState (lpEntry true) linkWrite with migrations := [moving], linksDown := [3] }
      s.boot = .ready ∧ s.object? o5 = some (lpEntry true) ∧ s.classOf o5 = 1 ∧ s.routes = [] ∧
        s.linkDown (extOf 0 1 1 false true 16) = false := by decide +kernel
  obtain ⟨hb, ho, hc, hr, hl⟩ := h
  exact ⟨⟨hb, ho, hc, by decide, by decide +kernel, by rw [hr]; nofun, hl, rfl, rfl⟩, by decide, by decide, by decide, by decide⟩
/-- The links are up or, of one port, down; a port lies behind link 5. -/
theorem witness_links :
    (let s := { objState (lpEntry false) { linkWrite with obj := 0 } with linksDown := [3] }
     s.boot = .ready ∧ s.command.link < 2 ∧ s.command.link ∉ s.linksDown ∧ Claims.CleanMemory s ∧ s.command.bytes ≠ []) ∧
    ((objState ⟨5, 3 <<< 476, [], []⟩ linkWrite).classOf o5 = 3) ∧
    (let s := ready withRegion id
     s.classOf o5 = 2 ∧ (s.ctx 0).leasesObject 5 = true) ∧
    (let s := { (objState (lpEntry false) { linkWrite with link := 5, good := false }).setDev 8 1 4 with linksDown := [3] }
     s.classOf o5 = 1 ∧ s.object? o5 = some (lpEntry false) ∧ isPeerPort s.command.link = true ∧ s.command.link ∉ s.linksDown ∧
      Claims.CleanMemory s ∧ s.command.good = false ∧ s.boot = .ready ∧ Claims.RingRoom s s.command.ctx) ∧
    (let s := { objState (lpEntry false) { link := 3 } with linksDown := [3] }
     s.command.link ∈ s.linksDown ∧ isPeerPort s.command.link = true) ∧
    (let c : Command := { part := .peerLane, link := 5 }
     c.part = .peerLane ∧ isPeerPort c.link = true) := by
  unfold Claims.CleanMemory Claims.RingRoom; decide +kernel
theorem witness_refresh_window : let f : MemFault := ⟨.weight, 2 ^ 21, 1⟩
    let s : State := { ready id id with memFaults := [f] }
    s.startedPast 6 = true ∧ f.unit / 2 ^ 18 % 8 = s.tb / 2048 % 8 ∧ (Tier.weight, f.unit) ∉ s.poison ∧
    s.memFaults.find? (fun g => g.tier == .weight && g.unit == f.unit) = some f := by decide +kernel

/-! #### Contexts, queues and nodes -/

/-- Context 0 is enabled, with its queue table at 0x1000 and its fault ring of 16 records at 0x4000; `f` changes the rest. -/
def devState (c : Command) (f : State → State) : State :=
  let s := (ready id id).modCtx 0 (fun x => { x with desc := BitVec.ofNat 512 (0x1000 <<< 448 ||| 0x4000 <<< 256 ||| 1) })
  f ({ s with command := c }.setDev 0x4008 1 4)
theorem witness_ring : Claims.RingRoom (devState {} id) 0 ∧ ((devState {} id).verifyAll .hbm 0x4000 16).2 = 0 ∧
    (({ devState {} id with poison := [(.hbm, 0x40)] } : State).verifyAll .hbm 0x4000 16).2 ≠ 0 ∧ ¬ Claims.RingRoom (devState {} (fun s => s.setDev 0x4008 1 3)) 0 ∧
    ¬ Claims.RingRoom (devState {} (fun s => s.setDev 0x4000 4 16)) 0 := by unfold Claims.RingRoom; decide +kernel
/-- The descriptor of queue 0: SZ 4, its ring at 0x8000, HEAD and TAIL, enabled; and one whose SZ is 3. -/
def queueOf (sz head tail : Nat) (s : State) : State := s.setDev 0x1000 32 (0x8000 <<< 192 ||| head <<< 160 ||| tail <<< 128 ||| sz <<< 123 ||| 1)
theorem witness_contexts :
    (let s := devState { on := true } (queueOf 4 0 0)
     s.boot = .ready ∧ s.command.ctx < 64 ∧ s.command.queue < 16 ∧ s.command.on = true ∧ queueInvalid (s.queueDesc 0 0) = false ∧
      (s.verifyAll .hbm (s.queueAt 0 0) 32).2 = 0 ∧ s.memFaults = [] ∧ s.poison = [] ∧ s.cores.all (fun c => c.2.drains.isEmpty) = true) ∧
    (let s := { devState { on := true } (queueOf 4 0 0) with poison := [(.hbm, 0x10)] }
     s.boot = .ready ∧ s.command.ctx < 64 ∧ s.command.queue < 16 ∧ (s.verifyAll .hbm (s.queueAt 0 0) 32).2 ≠ 0 ∧
      s.queueAt 0 0 + 32 ≤ (s.ctx 0).fring) ∧
    (let s := devState { on := true } (queueOf 3 0 0)
     queueInvalid (s.queueDesc 0 0) = true ∧ (s.verifyAll .hbm (s.queueAt 0 0) 32).2 = 0 ∧ (List.range 16).all (fun q => decide (s.queueAt 0 q + 32 ≤ (s.ctx 0).fring)) = true ∧
      s.regions = []) ∧
    (let s := { devState {} id with tb := 10000 }
     s.window ≠ s.tb / 10000 ∧ (s.ctxs.map (fun e => e.1)).Nodup) ∧
    (let s := devState { tail := 16 } (queueOf 4 0 0)
     (s.command.tail.toNat + 2 ^ 32 - s.queueField 0 0 191 160) % 2 ^ 32 ≤ 2 ^ (s.queueField 0 0 127 123) ∧
      (s.verifyAll .hbm (s.queueAt 0 0) 32).2 = 0 ∧ queueInvalid (s.queueDesc 0 0) = false) ∧
    (let s := devState { tail := 17 } (queueOf 4 0 0)
     2 ^ (s.queueField 0 0 127 123) < (s.command.tail.toNat + 2 ^ 32 - s.queueField 0 0 191 160) % 2 ^ 32 ∧ s.boot = .ready ∧
      (s.verifyAll .hbm (s.queueAt 0 0) 32).2 = 0 ∧ queueInvalid (s.queueDesc 0 0) = false) := by decide +kernel

/-- A node of a kind with a parameter; no vector, no dependency counter. -/
def nodeWord (kind param more : Nat) : BitVec 512 := BitVec.ofNat 512 (kind ||| 0xFF <<< 8 ||| param <<< 384 ||| more)
def nodeOf (kind param more : Nat) : Node := ⟨9, 0, 0, 0, 0, nodeWord kind param more, false, false, none, 0, none, ⟨[], [], []⟩⟩
def ndState (n : Node) (f : State → State) : State := { devState {} (queueOf 4 0 1) with nodes := [n] } |> f
theorem fresh_of {n : Node} {f : State → State} {kind : Nat} (h : (decide ((ndState n f).nodes.filter (fun x => x.id == n.id) = [n]) &&
    decide (n.kind = kind) && decide (n.started = false) && (ndState n f).nodes.all (fun x => x.id == n.id) &&
    decide ((ndState n f).memFaults = []) && decide ((ndState n f).poison = [])) = true) : Claims.FreshNode (ndState n f) n kind := by
  simp only [Bool.and_eq_true, decide_eq_true_eq, List.all_eq_true, beq_iff_eq] at h
  obtain ⟨⟨⟨⟨⟨h1, h2⟩, h3⟩, h4⟩, h5⟩, h6⟩ := h
  exact ⟨h1, h2, h3, fun x hx _ _ hlt => absurd hlt (by rw [h4 x hx]; exact Nat.lt_irrefl _), h5, h6⟩
/-- A dispatch of a wait node at the ring's first place. -/
theorem witness_node_dispatch :
    let s := devState {} (fun s => (queueOf 4 0 1 s).setDev 0x8000 64 (nodeWord 4 0x6000 0).toNat)
    let w := s.dev (s.queueField 0 0 255 192) 64
    s.queueServed 0 0 = true ∧ s.queueField 0 0 191 160 ≠ s.queueField 0 0 159 128 ∧ bitsOf w 383 320 = 0 ∧ bitsOf w 3 0 = 4 ∧
    bitsOf w 7 4 = 0 ∧ bitsOf w 127 16 = 0 ∧ bitsOf w 239 192 = 0 ∧ s.memFaults = [] ∧ s.poison = [] := by decide +kernel
theorem witness_wait_and_signal :
    Claims.FreshNode (ndState (nodeOf 4 0x6000 0) id) (nodeOf 4 0x6000 0) 4 ∧ (nodeOf 4 0x6000 0).param % 8 = 0 ∧
    Claims.FreshNode (ndState (nodeOf 4 0x6004 0) id) (nodeOf 4 0x6004 0) 4 ∧ (nodeOf 4 0x6004 0).param % 8 ≠ 0 ∧
    Claims.FreshNode (ndState (nodeOf 5 0x6000 0) id) (nodeOf 5 0x6000 0) 5 ∧
    (let n := { nodeOf 4 0x6000 (7 <<< 128) with started := true }
     let s := ndState n (fun s => s.setDev 0x6000 8 7)
     s.nodes.filter (fun x => x.id == 9) = [n] ∧ n.kind = 4 ∧ s.memFaults = [] ∧ s.poison = [] ∧ n.value ≤ s.dev n.param 8) :=
  ⟨fresh_of (by decide +kernel), by decide +kernel, fresh_of (by decide +kernel), by decide +kernel, fresh_of (by decide +kernel), by decide +kernel⟩
/-- Two successors, whose counters lie apart from each other and from their list. -/
theorem witness_node_complete :
    let n := { nodeOf 5 0x6000 (2 <<< 240 ||| 0x7000 <<< 256) with started := true, satisfied := true }
    let s := ndState n (fun s => s.setDev 0x7000 16 (0x7108 <<< 64 ||| 0x7100))
    let at' : Nat → Nat := fun i => s.dev (n.field 319 256 + 8 * i) 8
    s.nodes.filter (fun x => x.id == 9) = [n] ∧ n.field 255 240 = 2 ∧ n.field 319 256 = 0x7000 ∧ (at' 0, at' 1) = (0x7100, 0x7108) ∧
    s.memFaults = [] ∧ s.poison = [] := by decide +kernel

/-- Object 5, ordinary in HBM, or a weight object. -/
def tensorIn (cls : Nat) (s : State) : State := s.modCtx 0 (fun c => { c with objects := [⟨5, BitVec.ofNat 512 (cls <<< 476 ||| 65536 <<< 400), [extOf 0 1 0 true false 16], []⟩] })
/-- The parameter block at 0x20000: both tensors 16 bytes of object 5, or with extent 15, and two capabilities. -/
def withParams (e0 : Nat) (s : State) : State :=
  s.setDev 0x20000 160 (boxWord 0 e0 ||| boxWord 0 16 <<< 512 ||| capObject.toNat <<< 1024 ||| capObject.toNat <<< 1152)
def txState (n : Node) (cls e0 : Nat) : State := ndState n (tensorIn cls ∘ withParams e0)
def okCopy (r : Except Nat (CopyKind × Nat)) : Bool := match r with
  | .ok _ => true
  | .error _ => false
theorem okCopy_eq {r : Except Nat (CopyKind × Nat)} (h : okCopy r = true) : ∃ k units, r = .ok (k, units) := by
  cases r with
  | error e => cases h
  | ok x => exact ⟨x.1, x.2, rfl⟩
theorem badCopy_eq {r : Except Nat (CopyKind × Nat)} (h : okCopy r = false) : ∃ code, r = .error code := by
  cases r with
  | error e => exact ⟨e, rfl⟩
  | ok x => cases h
theorem witness_node_transform :
    (Claims.FreshNode (ndState (nodeOf 2 0x20000 0) (tensorIn 1 ∘ withParams 16)) (nodeOf 2 0x20000 0) 2 ∧
      ∃ k units, (txState (nodeOf 2 0x20000 0) 1 16).nodeCopy (nodeOf 2 0x20000 0) false = .ok (k, units)) ∧
    (∃ code, (txState (nodeOf 2 0x20000 0) 1 15).nodeCopy (nodeOf 2 0x20000 0) false = .error code) ∧
    (Claims.FreshNode (ndState (nodeOf 3 0x20000 0) (tensorIn 3 ∘ withParams 16)) (nodeOf 3 0x20000 0) 3 ∧
      ∃ k units, (txState (nodeOf 3 0x20000 0) 3 16).nodeCopy (nodeOf 3 0x20000 0) true = .ok (k, units)) :=
  ⟨⟨fresh_of (by decide +kernel), okCopy_eq (by decide +kernel)⟩, badCopy_eq (by decide +kernel), fresh_of (by decide +kernel),
    okCopy_eq (by decide +kernel)⟩
/-- A transform under way, whose first unit is moved. -/
def movingKind : CopyKind := .cptx (BitVec.ofNat 512 (boxWord 0 16)) (BitVec.ofNat 512 (boxWord 0 16)) 0 0 capObject capObject
def movingNode : Node := { nodeOf 2 0x20000 0 with started := true, copy := some movingKind }
theorem witness_node_unit :
    let s := txState movingNode 1 16
    s.nodes.filter (fun x => x.id == 9) = [movingNode] ∧ movingNode.kind = 2 ∧
    ((Parcel.initial movingNode.issuer.key).boxCopy movingKind).map (fun c => (s.nodeHeld movingNode c, (s.nodeUnit movingNode c).2.1)) =
      some (false, 0) := by decide +kernel

/-! #### Launches and parcels -/

/-- The checks of a launch read its packet, its region list and its context only. -/
theorem roleFrom_congr {l l' : Launch} (h : l.packet = l'.packet) (tix : Nat) : ∀ n k base, l.roleFrom tix n k base = l'.roleFrom tix n k base
  | 0, _, _ => rfl
  | n + 1, k, base => by simp only [Launch.roleFrom, Launch.roleCount, h, roleFrom_congr h tix n]; rfl
theorem launchCheck_congr (s : State) (l l' : Launch) (h : l.packet = l'.packet) (hg : l.regions = l'.regions)
    (hc : l.key.ctx = l'.key.ctx) : s.launchCheck l = s.launchCheck l' := by
  have hr : l.roleCount = l'.roleCount := funext fun k => by simp only [Launch.roleCount, h]
  simp only [hr, State.launchCheck, Launch.packetBad, Launch.unfit, Launch.laneDemand, State.regionFail, State.regionBad, Launch.region,
    Launch.field, Launch.nreg, Launch.roles, Launch.roleReserved, Launch.roleRegs, Launch.roleOf, roleFrom_congr h, h, hg, hc,
    Launch.xhash, Launch.scratch, Launch.sdLen, Launch.slotCount, Launch.imageSegments, Launch.codeLen, Launch.cap,
    Launch.allotment, Launch.parcels, Launch.n, Launch.p]
  rfl
/-- A launch node whose packet is the loaded program's, and one whose packet has a reserved bit set. -/
def packetAt (v : Nat) (s : State) : State := s.setDev 0x20000 256 v
def goodPacket : Nat := loadedPacket.toNat
def badPacket : Nat := loadedPacket.toNat + 2 ^ 1023
def launchNode : Node := nodeOf 1 0x20000 0
def checksTo (v : Nat) (want : Bool) : Bool :=
  let s := ndState launchNode (packetAt v)
  let l := { loadedLaunch ⟨0, 1⟩ with packet := BitVec.ofNat 2048 v }
  decide (s.dev launchNode.param 256 = v) && ((s.launchCheck l).isNone == want) && decide (s.regionList l = [])
theorem check_all {v : Nat} {want : Bool} (h : checksTo v want = true) : ∀ l : Launch, l.key.ctx = launchNode.ctx →
    l.packet.toNat = (ndState launchNode (packetAt v)).dev launchNode.param 256 →
    l.regions = (ndState launchNode (packetAt v)).regionList l → ((ndState launchNode (packetAt v)).launchCheck l).isNone = want := by
  intro l hc hp hg
  simp only [checksTo, Bool.and_eq_true, decide_eq_true_eq, beq_iff_eq] at h
  have e : l.packet = BitVec.ofNat 2048 v := BitVec.eq_of_toNat_eq (by rw [h.1.1] at hp; rw [← hp]; simp)
  have r : l.regions = [] := by
    rw [hg, ← h.2]; simp only [State.regionList, Launch.nreg, Launch.regl, Launch.field, e]
  rw [launchCheck_congr _ l { loadedLaunch ⟨0, 1⟩ with packet := BitVec.ofNat 2048 v } e (by rw [r]; rfl) hc]
  exact h.1.2
theorem witness_launch_node : Claims.FreshNode (ndState launchNode (packetAt goodPacket)) launchNode 1 ∧
    (∀ l : Launch, l.key.ctx = launchNode.ctx → l.packet.toNat = (ndState launchNode (packetAt goodPacket)).dev launchNode.param 256 →
      l.regions = (ndState launchNode (packetAt goodPacket)).regionList l → (ndState launchNode (packetAt goodPacket)).launchCheck l = none) :=
  ⟨fresh_of (by decide +kernel), fun l hc hp hg => by simpa using check_all (v := goodPacket) (want := true) (by decide +kernel) l hc hp hg⟩
theorem witness_launch_refused : ∀ l : Launch, l.key.ctx = launchNode.ctx →
    l.packet.toNat = (ndState launchNode (packetAt badPacket)).dev launchNode.param 256 →
    l.regions = (ndState launchNode (packetAt badPacket)).regionList l →
    (ndState launchNode (packetAt badPacket)).launchCheck l ≠ none := fun l hc hp hg => by
  have := check_all (v := badPacket) (want := false) (by decide +kernel) l hc hp hg
  intro h
  simp [h] at this

/-- The device with nothing resident and a launch in context 0 of two parcels, both in the deque of die 0. -/
def twoParcels : Launch := { loadedLaunch lch with
  packet := loadedPacket ||| BitVec.ofNat 2048 (1 <<< 320), deques := [(0, [0, 1])], unfreed := 2, dl := true, deadline := 50 }
def yardState : State :=
  let s := State.reset.modCtx 0 (fun c => { c with desc := BitVec.ofNat 512 (0xFFFF <<< 96 ||| 0xFFFFFFFF <<< 128 ||| 0xFFFFFFFF <<< 160 ||| 1) })
  { s with launches := [twoParcels], boot := .ready, tb := 100 }
theorem witness_deadline : yardState.launch? lch = some twoParcels ∧ twoParcels.deadline ≤ yardState.tb ∧ twoParcels.unfreed ≠ 0 ∧
    twoParcels.missed = false := by
  decide +kernel
theorem witness_steal : twoParcels.front 2 = none ∧ yardState.dieRoom twoParcels 2 = true ∧ (2 + 1 + 3) % 16 ∉ Tbl.get [] twoParcels.empties 2 ∧
    (let s := { yardState with steals := [⟨2, lch, 0⟩] }
     s.steals.filter (fun t => t.die == 2 && t.launch == lch) = [⟨2, lch, 0⟩] ∧ Tbl.get [] twoParcels.deques 0 = [0] ++ [1]) := by decide +kernel
/-- The first parcel of the launch, prepared. -/
def preparedParcel : Parcel := { twoParcels.newParcel 0 with core := 320, phase := .prepared }
def preparedState : State := { yardState with parcels := [preparedParcel] }
theorem witness_placing : Claims.Placing preparedState 0 twoParcels preparedParcel 0 :=
  ⟨by decide +kernel, by decide +kernel, by decide +kernel, by decide +kernel, rfl, rfl⟩
/-- A yard takes the leases of a parcel that it would place: none is asked for. -/
theorem witness_preparing : yardState.placement 0 = some (twoParcels, [(twoParcels.newParcel 0, 0)]) ∧ yardState.parcel? key = none ∧
    (yardState.takeLeases key 17).launch? lch = some twoParcels ∧ twoParcels.nreg = 0 ∧ (yardState.takeLeases key 17).leasesOf key = [] := by
  decide +kernel
/-- The back of a deque of one parcel, which its owner's yard places now. -/
theorem witness_owner_places : let l := { twoParcels with deques := [(0, [0])] }
    let s := { yardState with launches := [l], steals := [⟨2, lch, 0⟩] }
    Claims.OwnerPlaces s 0 lch 0 ∧ Tbl.get [] l.deques 0 = [0] ∧ s.launch? lch = some l ∧
      Claims.OwnerPlaces { s with parcels := [{ preparedParcel with phase := .preparing }] } 0 lch 0 :=
  ⟨.inr ⟨{ twoParcels with deques := [(0, [0])] }, [({ twoParcels with deques := [(0, [0])] }.newParcel 0, 0)], by decide +kernel, rfl,
    ⟨_, List.mem_cons_self, rfl⟩⟩, by decide +kernel, by decide +kernel,
    .inl ⟨{ preparedParcel with phase := .preparing }, by decide +kernel, rfl⟩⟩
/-- The launch has one region entry of capability 0, staged at scratchpad byte 0: 4,096 bytes of object 5 from offset 0. -/
def stagedLaunch (s : State) : State := regionLaunch (aRegion ||| 1 <<< 21) s
def unbacked (s : State) : State := s.modCtx 0 (fun x => { x with objects := [⟨5, 1 <<< 476 ||| 65536 <<< 400, [], []⟩] })
/-- A yard would place parcel 0, whose region nothing backs. -/
theorem witness_lease_faulted : let s := stagedLaunch (unbacked yardState)
    s.placement 0 = some (theLaunch s, [((theLaunch s).newParcel 0, 0)]) ∧ s.parcel? key = none ∧
    ((s.takeLeases key 17).leasesOf key).map (fun e => leaseField e 187 184) = [3] := by decide +kernel
/-- The same parcel, leased, before the first unit of its staging copy. -/
theorem witness_staging : let s := stagedLaunch (ready (withObject ∘ onParcel (fun p => { p with phase := .preparing, prep := 1 })) id)
    s.parcel? key = some (s.parcel key) ∧ s.launch? lch = some (theLaunch s) ∧ (s.parcel key).phase = .preparing ∧ (s.parcel key).prep = 1 ∧
    (theLaunch s).stagingUnits key = [(0, 0, 4096)] ∧ s.inRefresh ((theLaunch s).regionAt key 0).1 0 4096 = false ∧
    okRead (s.readObject (s.yardOf key) ((theLaunch s).regionAt key 0).1 0 4096) = true := by decide +kernel
/-- A parcel about to be prepared, started or freed, and a launch that ends. -/
theorem witness_parcel_steps :
    (let s := ready (onParcel (fun p => { p with phase := .preparing })) id
     s.parcel? key = some (s.parcel key) ∧ (s.parcel key).phase = .preparing ∧ (s.parcel key).prep = 0 ∧
      s.memFaults = [] ∧ s.poison = [] ∧ (s.launch? lch).isSome = true) ∧
    (let s := ready (onParcel (fun p => { p with phase := .starting })) id
     s.parcel? key = some (s.parcel key) ∧ (s.parcel key).phase = .starting ∧ (s.ctx 0).halt = .none ∧
      (s.parcel key).threads.map (fun t => (t.tix, t.status)) = [(0, .ready)] ∧ s.parcels.length = 1) ∧
    (let s := ready id (fun t => { t with status := .exited })
     s.parcel? key = some (s.parcel key) ∧ s.freeable (s.parcel key) = true ∧ (s.launch? lch).isSome = true) ∧
    (let s := ready (fun s => s.modLaunch lch (fun x => { x with unfreed := 0 })) id
     (s.launch? lch).map (fun x => x.unfreed) = some 0 ∧ (s.ctx 0).journal = []) := by decide +kernel

/-! #### Pre-emption, save and restore -/

/-- Both contexts may place without a bound. -/
def open2 (s : State) : State :=
  let d : BitVec 512 := BitVec.ofNat 512 (0xFFF <<< 100 ||| 0xFFFFFFFF <<< 128 ||| 0xFFFFFFFF <<< 160 ||| 1)
  (s.modCtx 0 (fun c => { c with desc := d })).modCtx 1 (fun c => { c with desc := d })
/-- Context 0 holds every core of die 0; a launch of context 1 with a higher priority waits there. -/
def rivals (prio : Nat) : State :=
  { open2 State.reset with
    parcels := (List.range 20).map (fun i => loadedParcel ⟨0, 1, i⟩ i),
    launches := [loadedLaunch lch, { loadedLaunch ⟨1, 1⟩ with deques := [(0, [0])], prio := prio }] }
theorem witness_slice : let s := ready id id
    s.resident 0 ≠ [] ∧ s.expired 0 = true ∧ (∀ l ∈ s.launches, s.waitsFor 0 l = false) := by decide +kernel
theorem witness_preempt : (rivals 3).chosen = some 0 ∧ (rivals 3).restoring 0 = false ∧ (rivals 3).completing 0 = false ∧
    (rivals 3).waitsFor 0 { loadedLaunch ⟨1, 1⟩ with deques := [(0, [0])], prio := 3 } = true := by decide +kernel
theorem witness_halt :
    (let s := (ready id id).modCtx 0 (fun c => { c with halt := .halting })
     (s.ctx 0).halt = .halting ∧ s.haltDone 0 = true) ∧
    (let s := (ready id id).modCtx 0 (fun c => { c with halt := .halted })
     (s.ctx 0).halt = .halted ∧ (s.parcels.map (fun p => p.key)).Nodup ∧ (s.launches.map (fun l => l.key)).Nodup ∧
      Tbl.wf Core.initial s.cores = true ∧ s.regions = []) := by decide +kernel
def savedParcel : Parcel := { twoParcels.newParcel 0 with core := 0, phase := .saved, before := .running }
theorem witness_restoring : Claims.Restoring { yardState with parcels := [savedParcel] } 0 key twoParcels savedParcel 0 := by
  constructor <;> first | exact ⟨rfl, rfl⟩ | decide +kernel
theorem witness_resumed : let s := ready (onParcel (fun p => { p with phase := .restoring })) id
    s.parcel? key = some (s.parcel key) ∧ (s.parcel key).phase = .restoring ∧ s.resumed (s.parcel key) = true ∧
    (s.parcel key).savedWatches = [] ∧ (s.core 0).index = [] := by decide +kernel

/-! #### Debugging, station masters, start-up -/

/-- Context 0 samples every 1,024 ticks into a ring of 16 records at 0x9000, and latches counters into one at 0xA000. -/
def debugWord : Nat := 0x9000 <<< 448 ||| 0xC000 <<< 384 ||| 2 <<< 352 ||| 4 <<< 347 ||| 10 <<< 342 ||| 0xA000 <<< 192 ||| 10 <<< 334 ||| 4 <<< 329
/-- The same with replay in a mode. -/
def debugState (mode : Nat) : State :=
  { ((ready id id).modCtx 0 (fun c => { c with debugAt := some 0xB000 })).setDev 0xB000 64 (debugWord ||| mode <<< 340) with tb := 1024 }
theorem ringOn_of {b : BitVec 512} {exponent size maxSize addr : Nat} (h : (decide (dbgField b 328 256 = 0 ∧ dbgField b 191 0 = 0) &&
    decide (10 ≤ exponent ∧ exponent ≤ 24) && decide (4 ≤ size ∧ size ≤ maxSize) && decide (addr % 64 = 0)) = true) :
    Claims.RingOn b exponent size maxSize addr := by
  simp only [Bool.and_eq_true, decide_eq_true_eq] at h
  exact ⟨h.1.1.1, h.1.1.2, h.1.2, h.2⟩
theorem witness_rings :
    (let c := (debugState 0).debugBlock 0
     Claims.RingOn c (dbgField c 346 342) (dbgField c 351 347) 20 (dbgField c 511 448) ∧
      Claims.RingOn c (dbgField c 338 334) (dbgField c 333 329) 24 (dbgField c 255 192)) ∧
    (debugState 0).coresOf 0 = [0] ∧ (pickSample ((debugState 0).samples 0 0) ((debugState 0).tb / 2 ^ 10 % 1024)).isSome = true ∧
    ((debugState 0).ctx 0).sampledAt ≠ (debugState 0).tb + 1 ∧ (debugState 0).latched ≠ (debugState 0).tb + 1 ∧
    (((debugState 0).residents 0).map (fun p => p.key), (debugState 0).residents 1) = ([key], []) ∧ Claims.CleanMemory (debugState 0) :=
  ⟨⟨ringOn_of (by decide +kernel), ringOn_of (by decide +kernel)⟩, by unfold Claims.CleanMemory; decide +kernel⟩
/-- A log with room for two entries; one that is full; checking against an entry that agrees and against none; a barrier whose phase
completes. -/
theorem witness_replay :
    (let c := (debugState 1).debugBlock 0
     (dbgField c 328 256, dbgField c 191 0, dbgField c 447 384 % 64, dbgField c 341 340, dbgField c 383 352) = (0, 0, 0, 1, 2) ∧
      (debugState 1).dev (dbgField c 447 384) 4 = 0 ∧ ((debugState 1).setDev 0xC000 4 2).dev 0xC000 4 = 2) ∧
    (let s := ((debugState 2).setDev 0xC000 4 1).setDev (0xC000 + 64) 32 (0x40 <<< 160 ||| 1 <<< 128 ||| 9 <<< 64)
     let e := s.dev (0xC000 + 64) 32
     dbgField (s.debugBlock 0) 341 340 = 2 ∧ s.dev 0xC000 4 = 1 ∧ (s.ctx 0).mismatched = [] ∧
      (bitsOf e 223 192, bitsOf e 191 160, bitsOf e 159 128, bitsOf e 0 0, bitsOf e 127 64) = (0, 0x40, 1, 0, 9)) ∧
    ((debugState 1).parcel? key).isSome = true ∧ ((debugState 1).memFaults, (debugState 1).poison) = ([], []) := by decide +kernel
theorem witness_dump : (debugState 0).boot = .ready ∧ ((debugState 0).ctx 0).dumping = false ∧ ((debugState 0).ctx 0).halt = .none ∧
    (debugState 0).restoring 0 = false ∧ (debugState 0).completing 0 = false := by decide +kernel
theorem witness_register_writes : [RegTarget.ctxDescriptor 63, .faultRingRidx 0, .msixEntry 3 255, .deviceWord 0x6000].all (fun t =>
    decide (({ ready id id with command := { target := t } } : State).command.target = t)) = true := by decide +kernel
theorem witness_station_masters :
    (let s := { ready id id with command := { tier := .hbm, unit := 5 } }
     s.startedPast 6 = true ∧ s.command.unit / 2 ^ 28 < 16 ∧ s.mastered (s.command.unit / 2 ^ 28) = true) ∧
    (let s := { ready id id with tests := [⟨.hbmRow, 1, 2, 3, 4, 5⟩] }
     s.tests.find? s.testable = some ⟨.hbmRow, 1, 2, 3, 4, 5⟩) ∧
    (let s := (ready id id).modBase 2 (fun b => { b with counted := (List.range 8).map (fun i => (3, i)) })
     s.mastered 2 = true ∧ s.layerServes 2 3 = true ∧ 8 ≤ ((s.base 2).counted.filter (fun y => y.1 == 3)).length) ∧
    (let s := { (ready id id).modBase 2 (fun b => { b with capacity := b.capacity &&& ~~~8#32 }) with hotRemove := [⟨2, 3, []⟩] }
     s.mastered 2 = true ∧ s.layerServes 2 3 = false ∧ s.hotRemove = [⟨2, 3, []⟩] ∧ s.layerUsed 2 3 = false) := by decide +kernel
theorem witness_heartbeats :
    (let s := { ready id id with tb := 256 }
     s.startedPast 4 = true ∧ (s.base 2).alive 1 = true ∧ (s.base 2).beat 1 + 256 ≤ s.tb ∧ s.tb < (s.base 2).beat 1 + 512) ∧
    (let s := { (ready id id).modBase 2 (fun b => { b with beat1 := 300 }) with tb := 512 }
     (s.base 2).alive 0 = true ∧ (s.base 2).beat 0 + 512 ≤ s.tb ∧ (s.base 2).alive 1 = true ∧ s.tb < (s.base 2).beat 1 + 512) ∧
    (let s := { (ready id id).modBase 2 (fun b => { b with alive1 := false }) with tb := 512 }
     (s.base 2).alive 0 = true ∧ (s.base 2).beat 0 + 512 ≤ s.tb ∧ (s.base 2).alive 1 = false) ∧
    (let s := { (ready id id).modBase 2 (fun b => { b with beat0 := 800 }) with tb := 1000 }
     s.startedPast 6 = true ∧ (s.base 2).refreshed / 800 < s.tb / 800 ∧ (s.base 2).alive (s.base 2).master = true ∧ s.tb < (s.base 2).beat (s.base 2).master + 512) ∧
    (let s := { ready id id with tb := 1000 }
     s.startedPast 6 = true ∧ (s.base 2).refreshed / 800 < s.tb / 800 ∧ (s.base 2).alive (s.base 2).master = true ∧
      (s.base 2).beat (s.base 2).master + 256 < s.tb) := by decide +kernel
/-- The device started, with its links up, and with two down: no image is verified, so a start stops at step 2. -/
theorem witness_starts :
    (let s := { ready id id with linksDown := [1, 7] }
     s.boot = .ready ∧ s.boot ≠ .off ∧ s.verified 0 = false ∧ (s.linksDown.map isPeerPort) = [false, true]) ∧
    Claims.imageChecks.all (fun y => !decide (y.1 < 2)) = true := by decide +kernel

/-! #### Steps -/

/-- The group, its launch, and what is fetched, for the loaded program's first move. -/
def fetches (w pc : Nat) : Option (Bool × Bool × Option Nat) :=
  let s0 := { State.reset.withFetchWord 64 w with schedule := [] }
  let s0 := s0.modCore 0 (fun c => { c with entries := [⟨0, BitVec.ofNat 32 pc, [0], 0, true, 0⟩] })
  let s0 := s0.modThread key 0 (fun t => { t with pc := BitVec.ofNat 32 pc })
  (s0.select 0 (isArithOpcode (w / 2 ^ 54 % 1024))).bind (fun x => (s0.launch? x.group.key.launchKey).map (fun l =>
    ((s0.core 0).fetchable l.key x.group.pc, true,
      match decode ((s0.core 0).codeWord l.key x.group.pc.toNat) ((s0.core 0).secondWord l x.group.pc.toNat) with
      | .ok _ => none
      | .error n => some n)))
/-- A word that decodes, one that fails check 2, and an address above the image. -/
theorem witness_steps : fetches 0x5200000000000000 0 = some (true, true, none) ∧ fetches 0x5201000000000000 0 = some (true, true, some 2) ∧
    (fetches 0x5200000000000000 0x40000).map (fun x => x.1) = some false ∧
    (({ State.reset.withFetchWord 64 0 with schedule := [] } : State).select 5 true).isNone = true ∧
    (State.reset.withFetchWord 64 0).schedule.length = 1 := by decide +kernel
theorem witness_event_step : let s := { ready id id with tb := 256 }
    (Instr.heartbeat 2 1).isStep = true ∧ (match exec (.heartbeat 2 1) s with
      | .next _ => true
      | _ => false) = true ∧ Tbl.wf Core.initial s.cores = true := by decide +kernel
/-- The invariant holds before the start and in the loaded state, and the loaded state has a next one. -/
theorem witness_invariant : Claims.Inv State.reset ∧ Claims.Inv (State.reset.withFetchWord 64 0x5200000000000000) ∧
    (match step (State.reset.withFetchWord 64 0x5200000000000000) with
    | .next _ => true
    | _ => false) = true :=
  ⟨by constructor <;> decide, by constructor <;> decide +kernel, by decide +kernel⟩
/-- Time passes in the loaded state. -/
theorem witness_time : let s := { State.reset.withFetchWord 64 0 with schedule := [.time 5 1] }
    s.schedule = .time 5 1 :: [] ∧ Tbl.wf Core.initial s.cores = true ∧ s.parcels.map (fun p => p.phase) = [.running] := by decide +kernel

/-! #### SHA-256 -/

/-- The one-block example "abc" of FIPS 180-4, the standard that R7 names by its algorithm. -/
theorem test_sha256_abc : (sha256 [0x61, 0x62, 0x63]).map BitVec.toNat =
    [0xBA, 0x78, 0x16, 0xBF, 0x8F, 0x01, 0xCF, 0xEA, 0x41, 0x41, 0x40, 0xDE, 0x5D, 0xAE, 0x22, 0x23,
      0xB0, 0x03, 0x61, 0xA3, 0x96, 0x17, 0x7A, 0x9C, 0xB4, 0x10, 0xFF, 0x61, 0xF2, 0x00, 0x15, 0xAD] := by decide +kernel

/-! #### A start that passes -/

/-- An image of a type with no payload: its header, version 0, and a signature of it. -/
def anImage (type : Byte) (sig : List Byte) : List Byte := [type] ++ List.replicate 31 0 ++ sha256 [] ++ sig
/-- The header of such an image. -/
def aHeader (type : Byte) : List Byte := [type] ++ List.replicate 31 0 ++ sha256 []
theorem aHeader_length (type : Byte) : (aHeader type).length = 64 := by simp [aHeader, sha256_length]
/-- The two halves of a key: 16 bytes and the root of the tree that some secret bytes make. -/
def aSeed : List Byte := List.replicate 16 7
def aSecret : List Byte := List.replicate 16 9
/-- A device whose fuses hold the digest of the key, with the three images that the key signed. -/
def signedState (key' : List Byte) (sign : Byte → List Byte) : State :=
  { ready id id with
    vendorKey := key', fuseKey := sha256 key', fuseVersions := []
    firmware := [(0, anImage 0 (sign 0)), (1, anImage 1 (sign 1)), (2, anImage 2 (sign 2))] }
theorem headerField_of (type : Byte) (rest : List Byte) (a n : Nat) (h : a + n ≤ 32) :
    headerField (aHeader type ++ rest) a n = headerField ([type] ++ List.replicate 31 0) a n := by
  have l : ([type] ++ List.replicate 31 (0 : Byte)).length = 32 := by simp
  unfold headerField aHeader
  rw [List.append_assoc, List.drop_append_of_le_length (by rw [l]; omega), List.take_append_of_le_length (by rw [List.length_drop, l]; omega)]
theorem verified_of {s : State} {type : Byte} {sig : List Byte} (hi : Tbl.get [] s.firmware type.toNat = anImage type sig)
    (hl : sig.length = 7856) (hv : s.fuseVersions = []) (hk : sha256 s.vendorKey = s.fuseKey)
    (hs : slhVerify s.vendorKey (aHeader type) sig = true) (ht : headerField ([type] ++ List.replicate 31 0) 0 4 = type.toNat)
    (hz : headerField ([type] ++ List.replicate 31 0) 8 8 = 0) : s.verified type.toNat = true := by
  have hd := aHeader_length type
  have e : anImage type sig = aHeader type ++ sig := by simp [anImage, aHeader]
  have h1 : ((aHeader type ++ sig).take ((aHeader type ++ sig).length - 7856)) = aHeader type := by
    rw [List.length_append, hl, Nat.add_sub_cancel, List.take_left' rfl]
  have h2 : (aHeader type).drop 64 = [] := List.drop_eq_nil_of_le (by rw [hd])
  have h3 : ((aHeader type ++ sig).drop 32).take 32 = sha256 [] := by
    unfold aHeader
    rw [List.append_assoc, List.drop_left' (by simp), List.take_left' (sha256_length _)]
  have h4 : 64 + 7856 ≤ (aHeader type ++ sig).length := by rw [List.length_append, hd, hl]
  simp only [State.verified, hi, e]
  rw [h1]
  simp only [h2, h3, hv, hk, headerField_of _ _ 0 4 (Nat.le_of_ble_eq_true rfl), headerField_of _ _ 8 8 (Nat.le_of_ble_eq_true rfl), ht, hz, List.drop_left' rfl, hs, h4]
  simp [Tbl.get]
theorem signed_verified {key' : List Byte} {sign : Byte → List Byte} (hl : ∀ t, (sign t).length = 7856)
    (hs : ∀ t, slhVerify key' (aHeader t) (sign t) = true) : ∀ x ∈ Claims.imageChecks, (signedState key' sign).verified x.2 = true := by
  intro x hx
  simp only [Claims.imageChecks, List.mem_cons, List.mem_nil_iff, or_false] at hx
  rcases hx with rfl | rfl | rfl
  · exact verified_of (s := signedState key' sign) (type := 0) rfl (hl 0) rfl rfl (hs 0) (by decide +kernel) (by decide +kernel)
  · exact verified_of (s := signedState key' sign) (type := 1) rfl (hl 1) rfl rfl (hs 1) (by decide +kernel) (by decide +kernel)
  · exact verified_of (s := signedState key' sign) (type := 2) rfl (hl 2) rfl rfl (hs 2) (by decide +kernel) (by decide +kernel)
/-- A state, off or ready, whose three images are verified: a start of it passes. -/
theorem witness_verified_images : ∃ s : State, s.boot = .ready ∧ ∀ x ∈ Claims.imageChecks, s.verified x.2 = true :=
  ⟨signedState (aSeed ++ slhRoot aSecret aSeed) (fun t => slhSign aSecret [] aSeed (slhRoot aSecret aSeed) [] (aHeader t)), rfl,
    signed_verified (fun _ => slhSign_length ..) fun _ => slhVerify_sign _ _ _ _ _ rfl⟩
end Sys2Proof.Tests
end

section
/-!
# Every step keeps the invariant

`Inv` speaks of five fields: the memories of the four tiers and `%tb`. Most of the model's operations update other fields and keep
it for that reason alone (`Inv.update`). The tiers are written through `Mem.write`, which keeps the canonical form
(`Inv.writeMem`, `Inv.setDev`), and only time that passes writes `%tb`, modulo 2^64 (`Inv.passTime`).

There is one lemma for each operation, `Inv.f` for `f`, in the order of the model, and each is put together from the lemmas of the
operations that `f` is made of: where `f` updates a core and then counts, its lemma reads `h.modCore.count`. An operation that ends
in an outcome, an effect or a served access keeps `Inv` in the state it goes on in (`Lands`, `EffectInv`, `ServedInv`).
-/

namespace Sys2Proof.Claims
open Machine

variable {s t u : State}

/-- Every field may change but those the invariant speaks of. -/
theorem Inv.update
    {schedule choice nextUid group command clk boot bootStatus firmware vendorKey fuseKey fuseVersions measurements signatures
    memFaults poison parcels launches ctxs cores regions slices circle replies nodes routes migrations bases steals linksDown
    chips msixTable touched images lanesDown tests errorRing hotRemove msix reports latched latchedClk window}
    (h : Inv s) : Inv { s with
      schedule, choice, nextUid, group, command, clk, boot, bootStatus, firmware, vendorKey, fuseKey, fuseVersions, measurements,
      signatures, memFaults, poison, parcels, launches, ctxs, cores, regions, slices, circle, replies, nodes, routes, migrations,
      bases, steals, linksDown, chips, msixTable, touched, images, lanesDown, tests, errorRing, hotRemove, msix, reports,
      latched, latchedClk, window } :=
  ⟨h.hbm, h.lp, h.weight, h.link, h.tb⟩

theorem Inv.ite {c : Prop} [Decidable c] (hs : Inv s) (ht : Inv t) : Inv (if c then s else t) := by
  split <;> assumption

theorem Inv.ite_fst {β : Type} {c : Prop} [Decidable c] {x y : State × β} (hx : Inv x.1) (hy : Inv y.1) :
    Inv (if c then x else y).1 := by
  split <;> assumption

theorem Inv.fst_mk {β : Type} {b : β} (h : Inv s) : Inv (s, b).1 := h

theorem Inv.fst_of_eq {β : Type} {x : State × β} {b : β} (h : Inv x.1) (e : x = (u, b)) : Inv u := by
  rw [e] at h; exact h

theorem Inv.snd_of_eq {β : Type} {x : β × State} {b : β} (h : Inv x.2) (e : x = (b, u)) : Inv u := by
  rw [e] at h; exact h

theorem Inv.foldl {α : Type} {f : State → α → State} {l : List α} (h : Inv s) (hf : ∀ s a, Inv s → Inv (f s a)) :
    Inv (l.foldl f s) :=
  List.foldlRecOn l f h (fun s hs a _ => hf s a hs)

theorem Inv.foldl_fst {α β : Type} {f : State × β → α → State × β} {l : List α} {x : State × β} (h : Inv x.1)
    (hf : ∀ x a, Inv x.1 → Inv (f x a).1) : Inv (l.foldl f x).1 :=
  List.foldlRecOn (motive := fun x : State × β => Inv x.1) l f h (fun x hx a _ => hf x a hx)

theorem Inv.getD {o : Option State} (h : Inv s) (ho : ∀ u, o = some u → Inv u) : Inv (o.getD s) := by
  cases o with
  | none => exact h
  | some u => exact ho u rfl

/-- The state that an outcome goes on in, if it does, meets the invariant. -/
def Lands (r : Host.Outcome State Fault Refusal) : Prop := ∀ v, r = .next v → Inv v

theorem Inv.lands (h : Inv s) : Lands (.next s) := by
  rintro _ ⟨⟩
  exact h

theorem Lands.refused {r : Refusal} : Lands (.refused r) := by
  rintro _ ⟨⟩

theorem Lands.ite {c : Prop} [Decidable c] {x y : Host.Outcome State Fault Refusal} (hx : Lands x) (hy : Lands y) :
    Lands (if c then x else y) := by
  split <;> assumption

/-- The state that an instruction leaves in one thread, if it leaves one, meets the invariant. -/
def EffectInv : Effect → Prop
  | .next s | .jump s _ | .stay s => Inv s
  | .trap _ | .wait _ | .fatal _ => True

theorem EffectInv.ite {c : Prop} [Decidable c] {x y : Effect} (hx : EffectInv x) (hy : EffectInv y) : EffectInv (if c then x else y) := by
  split <;> assumption

/-- The same for an access that the port has served. -/
def ServedInv : Served → Prop
  | .done s | .parked s => Inv s
  | .trap _ => True

theorem Inv.tier (h : Inv s) (t : Tier) : Mem.wf (s.tier t) = true := by
  cases t
  · exact h.hbm
  · exact h.lp
  · exact h.weight
  · exact h.link

/-! ### Machine/Access.lean -/

theorem Inv.setCore {c v} (h : Inv s) : Inv (s.setCore c v) := h.update

theorem Inv.modCore {c f} (h : Inv s) : Inv (s.modCore c f) := h.setCore

theorem Inv.modParcel {k f} (h : Inv s) : Inv (s.modParcel k f) := h.update

theorem Inv.modThread {k tix f} (h : Inv s) : Inv (s.modThread k tix f) := h.modParcel

theorem Inv.modLaunch {l f} (h : Inv s) : Inv (s.modLaunch l f) := h.update

theorem Inv.modCtx {c f} (h : Inv s) : Inv (s.modCtx c f) := h.update

theorem Inv.modBase {d f} (h : Inv s) : Inv (s.modBase d f) := h.update

theorem Inv.modSlice {n f} (h : Inv s) : Inv (s.modSlice n f) := h.update

theorem Inv.fresh (h : Inv s) : Inv s.fresh.2 := h.update

theorem Inv.modObject {o f} (h : Inv s) : Inv (s.modObject o f) := h.modCtx

theorem Inv.count {ctx n k} (h : Inv s) : Inv (s.count ctx n k) := Inv.ite h h.modCtx

theorem Inv.noteFreed {c f} (h : Inv s) : Inv (s.noteFreed c f) := h.modCore

theorem Inv.noteGone {l ps} (h : Inv s) : Inv (s.noteGone l ps) :=
  Inv.foldl (h.foldl (fun _ _ hu => hu.noteFreed)) fun _ _ hu => hu.noteFreed

/-! ### Machine/Memory.lean -/

theorem Inv.setTier {t m} (h : Inv s) (hm : Mem.wf m = true) : Inv (s.setTier t m) := by
  cases t
  · exact ⟨hm, h.lp, h.weight, h.link, h.tb⟩
  · exact ⟨h.hbm, hm, h.weight, h.link, h.tb⟩
  · exact ⟨h.hbm, h.lp, hm, h.link, h.tb⟩
  · exact ⟨h.hbm, h.lp, h.weight, hm, h.tb⟩

/-- A number is written into device memory, which keeps its canonical form (`Mem.setNat_wf`). -/
theorem Inv.setDev {a n v} (h : Inv s) : Inv (s.setDev a n v) := ⟨Mem.setNat_wf h.hbm, h.lp, h.weight, h.link, h.tb⟩

theorem Inv.putRecord {ctx r} (h : Inv s) : Inv (s.putRecord ctx r) := Inv.ite h.setDev.setDev.update h.setDev

theorem Inv.setPoison {t u} (h : Inv s) : Inv (s.setPoison t u) := Inv.ite h h.update

theorem Inv.startTest {t u cls} (h : Inv s) : Inv (s.startTest t u cls) := by
  unfold State.startTest
  split
  · exact h.update

theorem Inv.verify {t u} (h : Inv s) : Inv (s.verify t u).1 := by
  unfold State.verify
  refine Inv.ite_fst h ?_
  split
  · exact h
  · extract_lets
    split
    · exact h.update.startTest
    · exact h.update.setPoison.startTest
    · exact h.update.startTest
    · exact h.update.setPoison.startTest

theorem Inv.verifyAll {t a n} (h : Inv s) : Inv (s.verifyAll t a n).1 :=
  Inv.ite_fst h (h.foldl_fst (fun _ _ hu => Inv.ite_fst hu hu.verify))

theorem Inv.faultRecord {ctx r} (h : Inv s) : Inv (s.faultRecord ctx r) := by
  unfold State.faultRecord
  split
  · next eu => exact (h.verifyAll.fst_of_eq eu).putRecord
  · next eu => exact h.verifyAll.fst_of_eq eu

theorem Inv.rolled (h : Inv s) : Inv s.rolled := Inv.ite h h.update

theorem Inv.charge {ctx t a n} (h : Inv s) : Inv (s.charge ctx t a n) := by
  unfold State.charge
  split
  · exact Inv.ite h h.rolled.modCtx
  · exact h

theorem Inv.unbilled {ctx} (h : Inv t) : Inv (t.unbilled s ctx) := h.rolled.modCtx

theorem Inv.touch {t a n} (h : Inv s) : Inv (s.touch t a n) := by
  unfold State.touch
  split
  · exact Inv.ite h h.update
  · exact h

theorem Inv.readTier {ctx t a n} (h : Inv s) : Inv (s.readTier ctx t a n).1 := by
  unfold State.readTier
  split
  · next eu =>
      have hu := h.verifyAll.fst_of_eq eu
      exact Inv.ite_fst hu.charge.touch hu.charge.touch

/-- The bytes of a tier are written into it (`Mem.write`), which keeps its canonical form. -/
theorem Inv.writeMem {t a bs} (h : Inv s) : Inv (s.setTier t (Mem.write (s.tier t) a bs)) := h.setTier (Mem.write_wf bs (h.tier t))

theorem Inv.writeTier {ctx t a bs} (h : Inv s) : Inv (s.writeTier ctx t a bs).1 := by
  unfold State.writeTier
  refine Inv.ite_fst h ?_
  extract_lets
  split
  next eu =>
    have hu := Inv.fst_of_eq (Inv.ite_fst h.charge.touch.verify h.charge.touch) eu
    split
    next ev =>
      have hv := Inv.fst_of_eq (Inv.ite_fst hu.verify hu) ev
      exact Inv.ite_fst hv hv.update.writeMem

theorem Inv.route {die o u} (h : Inv s) : Inv (s.route die o u).1 := by
  unfold State.route
  split
  · exact h
  · split
    · exact h
    · split
      · exact h
      · exact h.modObject.update

theorem Inv.readObject {die o a n} (h : Inv s) : Inv (s.readObject die o a n).1 := by
  unfold State.readObject
  refine Inv.ite_fst h (h.foldl_fst (fun _ _ hu => ?_))
  split
  · exact hu
  · split
    · next ev =>
        have hv := hu.route.fst_of_eq ev
        split
        · exact hv
        · refine Inv.ite_fst hv ?_
          split
          · split
            · next ew => exact hv.readTier.fst_of_eq ew
            · next ew => exact hv.readTier.fst_of_eq ew

theorem Inv.mirror {o u written off bs} (h : Inv s) : Inv (s.mirror o u written off bs) := by
  unfold State.mirror
  split
  · exact h
  · exact h.foldl fun _ _ hu => hu.writeTier

theorem Inv.writeObject {die o a bs} (h : Inv s) : Inv (s.writeObject die o a bs).1 := by
  unfold State.writeObject
  refine Inv.ite_fst h (h.foldl_fst (fun _ _ hu => ?_))
  refine Inv.ite_fst hu ?_
  split
  · next ev =>
      have hv := hu.route.fst_of_eq ev
      split
      · exact hv
      · refine Inv.ite_fst hv ?_
        split
        · extract_lets
          split
          · next ew => exact (hv.writeTier.fst_of_eq ew).mirror

theorem Inv.dataError {w ctxCode obj a n code} (h : Inv s) : Inv (s.dataError w ctxCode obj a n code) := Inv.ite h.faultRecord h

theorem Inv.plainError {ctx obj a n code key} (h : Inv s) : Inv (s.plainError ctx obj a n code key) := by
  unfold State.plainError
  refine Inv.ite ?_ h
  split
  · next eu => exact (h.fresh.snd_of_eq eu).faultRecord

theorem Inv.devCheck {key a n} (h : Inv s) : Inv (s.devCheck key a n).1 := by
  unfold State.devCheck
  split
  · next eu => exact (h.verifyAll.fst_of_eq eu).plainError

/-! ### Machine/Scratchpad.lean -/

theorem Inv.debugRead {ctx} (h : Inv s) : Inv (s.debugRead ctx).1 := by
  unfold State.debugRead
  split
  · exact h
  · split
    · next eu => exact h.devCheck.fst_of_eq eu
    · next eu => exact h.devCheck.fst_of_eq eu

theorem Inv.replayLog {c k obj phase rsum con} (h : Inv s) : Inv (s.replayLog c k obj phase rsum con) :=
  Inv.ite (Inv.ite h.setDev.setDev h.setDev) (Inv.ite (Inv.ite h h.modCtx.faultRecord) h)

theorem Inv.replayEntry {k obj phase rsum con} (h : Inv s) : Inv (s.replayEntry k obj phase rsum con) := by
  unfold State.replayEntry
  split
  · next eu =>
      have hu := h.debugRead.fst_of_eq eu
      refine Inv.ite hu ?_
      split
      · next ev => exact (hu.devCheck.fst_of_eq ev).replayLog
      · next ev => exact hu.devCheck.fst_of_eq ev

theorem Inv.putBarrier {k off b} (h : Inv s) : Inv (s.putBarrier k off b) := by
  unfold State.putBarrier
  split
  · exact Inv.ite h.modParcel.replayEntry h.modParcel

theorem Inv.countBytes {k off n err} (h : Inv s) : Inv (s.countBytes k off n err) := by
  unfold State.countBytes
  split
  · exact h
  · exact h.modParcel.putBarrier

/-! ### Machine/Ops.lean -/

theorem Inv.setQueueField {ctx q hi lo v} (h : Inv s) : Inv (s.setQueueField ctx q hi lo v) := h.setDev

theorem Inv.nodeFail {n code} (h : Inv s) : Inv (s.nodeFail n code) := h.faultRecord.setQueueField.update

theorem Inv.mapCores {f} (h : Inv s) : Inv (s.mapCores f) := h.update

theorem Inv.dropSetNumbers {gone} (h : Inv s) : Inv (s.dropSetNumbers gone) := h.foldl fun _ _ hu => hu.modCore

theorem Inv.dropCircle {gone} (h : Inv s) : Inv (s.dropCircle gone) := h.update

theorem Inv.dropLaunch {l} (h : Inv s) : Inv (s.dropLaunch l) := h.noteGone.dropSetNumbers.mapCores.dropCircle.modCtx.update

theorem Inv.launchFatal {l r} (h : Inv s) : Inv (s.launchFatal l r) := by
  unfold State.launchFatal
  split
  · exact h
  · extract_lets _ _ recorded dropped
    have hr : Inv recorded := Inv.ite h.faultRecord h.faultRecord.faultRecord
    have hd : Inv dropped := hr.count.dropLaunch
    split
    · exact hd.nodeFail
    · exact hd

theorem Inv.wake {by'} (h : Inv s) : Inv (s.wake by') := h.foldl fun _ _ hu => hu.modCore

theorem Inv.performStore {k tix} (h : Inv s) : Inv (s.performStore k tix) := by
  unfold State.performStore
  split
  · exact h
  · split
    · exact h
    · exact Inv.ite h.modParcel.wake h.modParcel

theorem Inv.storePass {core} (h : Inv s) : Inv (s.storePass core) := by
  unfold State.storePass
  split
  · exact h
  · exact h.count.modCore.foldl fun _ _ hu => hu.performStore

theorem Inv.passUntil {core k tix} : ∀ {fuel s}, Inv s → Inv (State.passUntil s core k tix fuel)
  | 0, _, h => h
  | fuel + 1, s, h => by
    unfold State.passUntil
    split
    · exact Inv.ite h (Inv.passUntil h.storePass)
    · exact h

theorem Inv.flush {k tix} (h : Inv s) : Inv (s.flush k tix) := h.passUntil

theorem Inv.trap {k tix r} (h : Inv s) : Inv (s.trap k tix r) := by
  unfold State.trap
  split
  · extract_lets _ _ retired
    have hr : Inv retired := Inv.ite h.modParcel h
    refine Inv.ite hr.launchFatal ?_
    split
    · exact hr.launchFatal
    · exact hr.flush.modThread.count
  · exact h

theorem Inv.settle {core} (h : Inv s) : Inv (s.settle core) := by
  unfold State.settle
  exact Inv.ite h h.update

theorem Inv.leave {core} (h : Inv s) : Inv (s.leave core) := by
  unfold State.leave
  exact h.modCore

theorem Inv.refresh {core} (h : Inv s) : Inv (s.refresh core) := h.settle.leave

theorem Inv.join {core} (h : Inv s) : Inv (s.join core) := by
  unfold State.join
  exact h.modCore

theorem Inv.hold {g sig} (h : Inv s) : Inv (s.hold g sig) := by
  unfold State.hold
  refine h.foldl fun _ _ hu => ?_
  split
  · exact hu
  · exact hu.modThread

theorem Inv.goOn {g i t pc} (h : Inv s) : Inv (s.goOn g i t pc) := h.modParcel.modThread.count

theorem Inv.carry {g i t} {e : Effect} (h : Inv s) (he : EffectInv e) : Inv (s.carry g i t e) := by
  cases e with
  | next u => exact Inv.goOn he
  | jump u pc => exact Inv.goOn he
  | stay u => exact (Inv.modThread he).count
  | trap r => exact h.trap
  | wait w => exact h.modThread
  | fatal r => exact h.launchFatal

theorem Inv.passOver {g t} (h : Inv s) : Inv (s.passOver g t) := h.modParcel

theorem Inv.issueThread {g i body tix} (h : Inv s) (hb : ∀ s k t, Inv s → EffectInv (body s k t)) :
    Inv (issueThread g i body s tix) := by
  unfold Machine.issueThread
  split
  · exact h
  · split
    · exact h.trap
    · exact h
    · exact h.modThread
    · exact h.passOver
    · exact h.carry (hb _ _ _ h)

/-- An instruction keeps the invariant when what it does once before, in each thread, and once after does. -/
theorem Inv.issueWith {α : Type} {i} {pre : Group → List Nat → State → State × α} {body post} (h : Inv s)
    (hpre : ∀ g xs s, Inv s → Inv (pre g xs s).1) (hb : ∀ a s k t, Inv s → EffectInv (body a s k t))
    (hpost : ∀ g s, Inv s → Inv (post g s)) : Lands (issueWith i pre body post s) := by
  unfold Machine.issueWith
  split
  · exact Lands.refused
  · exact Lands.ite h.update.hold.refresh.lands
      (hpost _ _ (Inv.foldl (hpre _ _ _ h.update) fun _ _ hu => hu.issueThread (hb _))).refresh.lands

theorem Inv.issue {i body} (h : Inv s) (hb : ∀ s k t, Inv s → EffectInv (body s k t)) : Lands (issue i body s) :=
  h.issueWith (fun _ _ _ hs => hs) (fun _ => hb) (fun _ _ hs => hs)

theorem Inv.arithBody {sig f k t} (h : Inv s) : EffectInv (arithBody sig f s k t) := by
  unfold Machine.arithBody
  split
  · trivial
  · exact h.modThread

/-- Per-thread arithmetic, whatever it computes. -/
theorem Inv.issueArith {i f} (h : Inv s) : Lands (issueArith i f s) := h.issue fun _ _ _ hs => hs.arithBody

/-! ### Machine/Engine.lean -/

theorem Inv.number {k tix ctx cls} (h : Inv s) : Inv (s.number k tix ctx cls).1 := by
  unfold State.number
  extract_lets
  split
  · next eu => exact (h.fresh.snd_of_eq eu).modCore.modThread

theorem Inv.completeOn {core k tix ctx cls num restored} (h : Inv s) : Inv (s.completeOn core k tix ctx cls num restored) :=
  h.modCore.modThread

theorem Inv.complete {k tix ctx cls num restored} (h : Inv s) : Inv (s.complete k tix ctx cls num restored) := h.completeOn

theorem Inv.failOn {core k tix ctx cls num restored bar n code} (h : Inv s) :
    Inv (s.failOn core k tix ctx cls num restored bar n code) := by
  unfold State.failOn
  refine (Inv.modCore ?_).modThread
  split
  · exact h.countBytes
  · exact h

theorem Inv.fail {k tix ctx cls num restored bar n code} (h : Inv s) : Inv (s.fail k tix ctx cls num restored bar n code) := h.failOn

theorem Inv.failAtIssue {k tix ctx cls bar n code} (h : Inv s) : Inv (s.failAtIssue k tix ctx cls bar n code) := h.number.fail

theorem Inv.resolve {k tix uid ws} (h : Inv s) : Inv (s.resolve k tix uid ws) := h.modThread

theorem Inv.supply {k tix uid ws} (h : Inv s) : Inv (s.supply k tix uid ws) := h.modThread

theorem Inv.result {k tix ws} (h : Inv s) : Inv (s.result k tix ws) := by
  unfold State.result
  split
  · next eu => exact (h.fresh.snd_of_eq eu).modThread

theorem Inv.handCount {k bar n req} (h : Inv s) : Inv (s.handCount k bar n req) := by
  unfold State.handCount
  split
  · exact Inv.ite h h.modParcel
  · exact h

theorem Inv.drainReq {k req} (h : Inv s) : Inv (s.drainReq k req) := by
  unfold State.drainReq
  refine Inv.foldl (h.modParcel.modParcel.foldl (fun _ _ hu => ?_)) fun _ _ hu => hu.countBytes
  split
  · exact Inv.ite hu hu.countBytes
  · exact hu

/-! ### Machine/OperandBuffer.lean -/

theorem Inv.reap {core} (h : Inv s) : Inv (s.reap core) := (h.foldl (fun _ _ hu => hu.noteFreed)).update

theorem Inv.execObres {x} (h : Inv s) : Lands (execObres x s) := by
  unfold Machine.execObres
  refine h.issue fun _ _ _ hs => ?_
  refine EffectInv.ite trivial ?_
  extract_lets
  split
  · trivial
  · refine EffectInv.ite hs.result ?_
    extract_lets
    split
    · exact hs.fresh.modParcel.result
    · exact hs.result

theorem Inv.execObfree {x} (h : Inv s) : Lands (execObfree x s) := by
  unfold Machine.execObfree
  refine h.issue fun _ _ _ hs => ?_
  extract_lets
  split
  · exact hs.result
  · exact hs.modParcel.reap.result

theorem Inv.execObinfo {x} (h : Inv s) : Lands (execObinfo x s) := h.issue fun _ _ _ hs => hs.result

/-! ### Machine/Copy.lean -/

theorem Inv.gather {who ctx side ranges} (h : Inv s) : Inv (s.gather who ctx side ranges).1 := by
  unfold State.gather
  split
  · refine h.foldl_fst fun _ _ hu => ?_
    split
    · exact hu
    · split
      · next ev => exact (hu.readObject.fst_of_eq ev).dataError
      · next ev => exact hu.readObject.fst_of_eq ev
  · exact h
  · exact h

theorem Inv.unitSource {who ctx side got need later} (h : Inv s) : Inv (s.unitSource who ctx side got need later).1 := by
  unfold State.unitSource
  split
  · next eu => exact h.gather.fst_of_eq eu
  · next eu => exact h.gather.fst_of_eq eu

theorem Inv.scatterParts {who ctx o base chk data} (h : Inv s) : Inv (s.scatterParts who ctx o base chk data).1 := by
  unfold State.scatterParts
  refine h.foldl_fst fun _ _ hu => ?_
  refine Inv.ite_fst hu ?_
  extract_lets
  split
  · next ev =>
      have hv := hu.writeObject.fst_of_eq ev
      refine Inv.ite_fst hv.dataError (Inv.ite_fst hv ?_)
      split
      · next ew => exact (hv.readObject.fst_of_eq ew).dataError
      · next ew => exact hv.readObject.fst_of_eq ew

theorem Inv.scatter {who ctx o base chk data} (h : Inv s) : Inv (s.scatter who ctx o base chk data).1 :=
  Inv.ite_fst h (Inv.ite_fst h h.scatterParts)

theorem Inv.modCopy {core uid f} (h : Inv s) : Inv (s.modCopy core uid f) := h.modCore

theorem Inv.failCopy {core r code} (h : Inv s) : Inv (s.failCopy core r code) := h.drainReq.modCore.fail.reap

theorem Inv.addCopy {k t ctx kind bar nominal units seg} (h : Inv s) : Inv (s.addCopy k t ctx kind bar nominal units seg) := by
  unfold State.addCopy
  exact h.number.modCore

theorem Inv.checkUses {k uses} {on : State} (h : Inv on) : EffectInv (s.checkUses k uses on) := by
  unfold State.checkUses
  split
  · trivial
  · split
    · trivial
    · exact h

theorem Inv.boxBody {x out k t} (h : Inv s) : EffectInv (boxBody x out s k t) := by
  unfold Machine.boxBody
  extract_lets
  split
  · trivial
  · split
    · trivial
    · exact EffectInv.ite h.failAtIssue h.addCopy.checkUses

theorem Inv.execCpin {x} (h : Inv s) : Lands (execCpin x s) := h.issue fun _ _ _ hs => hs.boxBody

theorem Inv.execCpout {x} (h : Inv s) : Lands (execCpout x s) := h.issue fun _ _ _ hs => hs.boxBody

theorem Inv.execCptx {x} (h : Inv s) : Lands (execCptx x s) := by
  unfold Machine.execCptx
  refine h.issue fun _ _ _ hs => ?_
  extract_lets
  split
  · trivial
  · split
    · trivial
    · exact EffectInv.ite hs.failAtIssue hs.addCopy.checkUses

theorem Inv.execCpmc {x} (h : Inv s) : Lands (execCpmc x s) := by
  unfold Machine.execCpmc
  refine h.issue fun _ _ _ hs => ?_
  extract_lets
  split
  · trivial
  · split
    · trivial
    · exact EffectInv.ite hs.failAtIssue (Inv.checkUses (Inv.ite hs.number.complete hs.addCopy))

theorem Inv.overlayRead {l} (h : Inv s) : Inv (s.overlayRead l).1 := h.verifyAll

theorem Inv.loadOverlay {k t ctx bar addr kind source} (h : Inv s) : Inv (s.loadOverlay k t ctx bar addr kind source) := by
  unfold State.loadOverlay
  refine Inv.ite h.failAtIssue ?_
  extract_lets
  split
  · exact h.modLaunch.addCopy.modCopy
  · exact h.modLaunch.addCopy.modCore

theorem Inv.execOvld {x} (h : Inv s) : Lands (execOvld x s) := by
  unfold Machine.execOvld
  refine h.issue fun _ _ _ hs => ?_
  extract_lets
  split
  · trivial
  · split
    · trivial
    · split
      · trivial
      · split
        · exact hs
        · extract_lets
          split
          · next eu =>
              have hu := Inv.fst_of_eq (Inv.ite_fst hs hs.overlayRead) eu
              exact EffectInv.ite hu.failAtIssue
                (EffectInv.ite hu.dataError.failAtIssue
                  (EffectInv.ite hu.failAtIssue
                    (EffectInv.ite hu.addCopy.modCopy.handCount (EffectInv.ite hu.loadOverlay hu.loadOverlay))))

theorem Inv.unitDone {core r n now carry} (h : Inv s) : Inv (s.unitDone core r n now carry) := Inv.ite h.modCopy.handCount h.modCopy

theorem Inv.boxData {who ctx u c got} (h : Inv s) : Inv (s.boxData who ctx u c got).1 := by
  unfold State.boxData
  extract_lets
  split
  · next eu => exact h.unitSource.fst_of_eq eu
  · next eu => exact (h.unitSource.fst_of_eq eu).count

theorem Inv.boxUnit {core r c} (h : Inv s) : Inv (s.boxUnit core r c) := by
  unfold State.boxUnit
  extract_lets
  split
  · next eu => exact (h.boxData.fst_of_eq eu).failCopy
  · next eu =>
      have hu := h.boxData.fst_of_eq eu
      split
      · extract_lets
        split
        · split
          · next ev =>
              have hv := hu.scatter.fst_of_eq ev
              exact Inv.ite hv.failCopy hv.unitDone
        · exact hu.modParcel.unitDone
        · exact hu.modParcel.unitDone

theorem Inv.linCopyUnit {core r b capS capD} (h : Inv s) : Inv (s.linCopyUnit core r b capS capD) := by
  unfold State.linCopyUnit
  extract_lets
  split
  · next eu => exact (h.unitSource.fst_of_eq eu).failCopy
  · next eu =>
      have hu := h.unitSource.fst_of_eq eu
      extract_lets
      split
      · split
        · next ev =>
            have hv := hu.scatter.fst_of_eq ev
            exact Inv.ite hv.failCopy hv.unitDone

theorem Inv.beginOverlay {core r} (h : Inv s) : Inv (s.beginOverlay core r) := by
  unfold State.beginOverlay
  split
  · exact h.modCore.modCopy
  · exact h

theorem Inv.overlayUnit {core r keep bs} (h : Inv s) : Inv (overlayUnit core r keep bs s) := by
  unfold Machine.overlayUnit
  exact h.modCore.unitDone

theorem Inv.moveUnit {core r} (h : Inv s) : Inv (s.moveUnit core r) := by
  unfold State.moveUnit
  extract_lets
  split
  · exact h.boxUnit
  · split
    · exact h.linCopyUnit
    · extract_lets
      split
      · next eu => exact (h.beginOverlay.readTier.fst_of_eq eu).dataError.failCopy
      · next eu => exact (h.beginOverlay.readTier.fst_of_eq eu).overlayUnit
    · refine Inv.ite h.beginOverlay.failCopy ?_
      split
      · next eu => exact (h.beginOverlay.unitSource.fst_of_eq eu).failCopy
      · next eu => exact (h.beginOverlay.unitSource.fst_of_eq eu).overlayUnit
    · exact h

theorem Inv.execCopyUnit {core uid} (h : Inv s) : Lands (execCopyUnit core uid s) := by
  unfold Machine.execCopyUnit
  split
  · exact Lands.refused
  · exact Lands.ite h.moveUnit.refresh.lands Lands.refused

theorem Inv.execCopyComplete {core uid} (h : Inv s) : Lands (execCopyComplete core uid s) := by
  unfold Machine.execCopyComplete
  split
  · exact Lands.refused
  · exact Lands.ite Lands.refused h.modCore.complete.reap.refresh.lands

theorem Inv.execOverlayResident {core uid} (h : Inv s) : Lands (execOverlayResident core uid s) := by
  unfold Machine.execOverlayResident
  split
  · exact Lands.refused
  · exact Lands.ite Lands.refused h.modCore.modCopy.handCount.refresh.lands

/-! ### Machine/Matrix.lean -/

theorem Inv.addMatrix {k t op bar failed} (h : Inv s) : Inv (s.addMatrix k t op bar failed) := by
  unfold State.addMatrix
  exact h.number.modCore

theorem Inv.addQuery {k t op dests} (h : Inv s) : Inv (s.addQuery k t op dests) := by
  unfold State.addQuery
  split
  · next eu => exact (h.fresh.snd_of_eq eu).modThread.modCore

theorem Inv.mmaBody {x shadow k t} (h : Inv s) : EffectInv (mmaBody x shadow s k t) := by
  unfold Machine.mmaBody
  split
  · trivial
  · extract_lets
    split
    · trivial
    · refine EffectInv.ite h.failAtIssue ?_
      extract_lets
      split
      · trivial
      · split
        · trivial
        · exact h.addMatrix

theorem Inv.execMma {x} (h : Inv s) : Lands (execMma x s) := h.issue fun _ _ _ hs => hs.mmaBody

theorem Inv.execMmas {x} (h : Inv s) : Lands (execMmas x s) := h.issue fun _ _ _ hs => hs.mmaBody

theorem Inv.slotBody {op k t} (h : Inv s) : EffectInv (slotBody op s k t) := by
  unfold Machine.slotBody
  split
  · trivial
  · exact h.addMatrix

theorem Inv.execMcommit {x} (h : Inv s) : Lands (execMcommit x s) := h.issue fun _ _ _ hs => hs.slotBody

theorem Inv.execMdrop {x} (h : Inv s) : Lands (execMdrop x s) := h.issue fun _ _ _ hs => hs.slotBody

theorem Inv.execMshape {x} (h : Inv s) : Lands (execMshape x s) := by
  unfold Machine.execMshape
  refine h.issue fun _ _ _ hs => ?_
  refine EffectInv.ite trivial ?_
  extract_lets
  split
  · trivial
  · exact hs.result

theorem Inv.readChunk {r d cap c} (h : Inv s) : Inv (s.readChunk r d cap c).1 := by
  unfold State.readChunk
  refine Inv.ite_fst ?_ ?_
  · extract_lets
    split
    · next eu => exact (h.readObject.fst_of_eq eu).dataError
    · exact h.readObject
  · split
    · exact h
    · exact h

theorem Inv.fetchChunks {r} (h : Inv s) : Inv (s.fetchChunks r).1 := by
  unfold State.fetchChunks
  refine h.foldl_fst fun _ _ hu => ?_
  split
  · exact hu
  · split
    · next ev => exact hu.readChunk.fst_of_eq ev
    · next ev => exact hu.readChunk.fst_of_eq ev

/-! ### Machine/Accumulator.lean -/

theorem Inv.execAzero {x} (h : Inv s) : Lands (execAzero x s) := h.issue fun _ _ _ hs => hs.slotBody

theorem Inv.execAmov {x} (h : Inv s) : Lands (execAmov x s) := h.issue fun _ _ _ hs => hs.slotBody

theorem Inv.execAchk {x} (h : Inv s) : Lands (execAchk x s) := h.issue fun _ _ _ hs => hs.slotBody

theorem Inv.execAser {x} (h : Inv s) : Lands (execAser x s) := h.issue fun _ _ _ hs => hs.addQuery

theorem Inv.execAinfo {x} (h : Inv s) : Lands (execAinfo x s) := h.issue fun _ _ _ hs => hs.addQuery

theorem Inv.execAflag {x} (h : Inv s) : Lands (execAflag x s) := h.issue fun _ _ _ hs => hs.addQuery

theorem EffectInv.termBody {x op k t} (hop : ∀ b bar, EffectInv (op s k t b bar)) : EffectInv (termBody x op s k t) := by
  unfold Machine.termBody
  split
  · trivial
  · extract_lets
    split
    · trivial
    · exact hop _ _

theorem Inv.execTerm {x} (h : Inv s) : Lands (execTerm x s) := h.issue fun _ _ _ hs => EffectInv.termBody fun _ _ => hs.addMatrix

theorem Inv.execAdrain {x} (h : Inv s) : Lands (execAdrain x s) := by
  refine h.issue fun _ _ _ hs => EffectInv.termBody fun b bar => ?_
  extract_lets
  split
  · trivial
  · split
    · trivial
    · exact hs.addMatrix

theorem Inv.writeRecord {who r} (h : Inv s) : Inv (s.writeRecord who r).1 := by
  unfold State.writeRecord
  split
  · next eu =>
      have hu := h.fresh.snd_of_eq eu
      extract_lets
      split
      · next ev => exact (hu.writeTier.fst_of_eq ev).modCtx.fst_mk
      · next ev => exact (hu.writeTier.fst_of_eq ev).dataError

theorem Inv.drainObject {who b cap win} (h : Inv s) : Inv (s.drainObject who b cap win).1 := by
  unfold State.drainObject
  extract_lets
  split
  · next eu => exact Inv.fst_of_eq (Inv.ite_fst h.gather h) eu
  · next eu => exact (Inv.fst_of_eq (Inv.ite_fst h.gather h) eu).scatter

/-! ### Machine/SetStore.lean -/

theorem Inv.releaseIndex {l index} (h : Inv s) : Inv (s.releaseIndex l index) := h.modLaunch

theorem Inv.modSet {l index f} (h : Inv s) : Inv (s.modSet l index f) := h.modLaunch

theorem Inv.modConsist {k w f} (h : Inv s) : Inv (s.modConsist k w f) := h.modParcel

theorem Inv.newConsist {core k tixs} (h : Inv s) : Inv (s.newConsist core k tixs).1 := by
  unfold State.newConsist
  split
  · exact Inv.ite_fst h.modParcel h
  · exact h

theorem Inv.dropConsist {k w} (h : Inv s) : Inv (s.dropConsist k w) := h.noteFreed.modParcel.releaseIndex

/-! ### Machine/SetEngine.lean -/

theorem Inv.putSet {l r} (h : Inv s) : Inv (s.putSet l r) := h.modSet

theorem Inv.converted {l n} (h : Inv s) : Inv (s.converted l n) := h.count

theorem Inv.moveFar {l r} (h : Inv s) : Inv (s.moveFar l r).1 := by
  unfold State.moveFar
  exact Inv.ite_fst h (Inv.ite_fst h.putSet.converted.fst_mk h)

theorem Inv.dropSet {r} (h : Inv s) : Inv (s.dropSet r) := h.modCore.modParcel

theorem Inv.setBatch {r b} (h : Inv s) : Inv (s.setBatch r b) := h.modLaunch

theorem Inv.settleBatch {l x b} (h : Inv s) (hu : s.settleBatch l x b = some u) : Inv u := by
  obtain ⟨y, -, rfl⟩ := Option.map_eq_some_iff.mp hu
  exact h.putSet.converted

theorem Inv.closeBatch {r} (h : Inv s) : Inv (s.closeBatch r) := by
  unfold State.closeBatch
  split
  · exact h
  · refine Inv.ite h ?_
    extract_lets
    split
    · exact h.setBatch
    · refine h.setBatch.getD fun v hv => ?_
      obtain hv | ⟨-, hv⟩ := (Option.orElse_eq_some _ _ _).mp hv
      · exact h.setBatch.settleBatch hv
      · exact h.setBatch.settleBatch hv

theorem Inv.leaveSet {r} (h : Inv s) : Inv (s.leaveSet r) := Inv.ite h.dropSet.closeBatch h.dropSet

theorem Inv.endSet {r ws} (h : Inv s) : Inv (s.endSet r ws) := h.leaveSet.resolve.completeOn

theorem Inv.failSet {r code} (h : Inv s) : Inv (s.failSet r code) := (Inv.ite h.modSet h).leaveSet.resolve.failOn

theorem Inv.materialise {r far} (h : Inv s) : Inv (s.materialise r far) := by
  unfold State.materialise
  extract_lets
  split
  · exact h.count.failSet
  · exact Inv.ite h.count.failSet h.count.putSet.converted.endSet

theorem Inv.applyMutation {r ins} (h : Inv s) : Inv (s.applyMutation r ins) := by
  unfold State.applyMutation
  extract_lets
  split
  · exact h.failSet
  · exact Inv.ite h.failSet h.putSet.count.setBatch.endSet

theorem Inv.hint {r c} (h : Inv s) : Inv (s.hint r c) := by
  unfold State.hint
  extract_lets
  split
  · exact h.failSet
  · extract_lets
    split
    · exact h.failSet
    · exact h.putSet.converted.endSet

theorem Inv.freeSet {r} (h : Inv s) : Inv (s.freeSet r) := by
  unfold State.freeSet
  refine (Inv.modLaunch ?_).releaseIndex.refresh.endSet
  split
  · exact Inv.ite h h.noteFreed
  · exact h

theorem Inv.storeSet {r off cap} (h : Inv s) : Inv (s.storeSet r off cap) := h.modParcel.handCount.endSet

theorem Inv.noteLaps {r lap} (h : Inv s) : Inv (s.noteLaps r lap) := h.modThread

theorem Inv.setEffect {r far} (h : Inv s) : Inv (s.setEffect r far) := by
  unfold State.setEffect
  extract_lets
  split
  iterate 6 exact h.materialise
  · exact h.freeSet
  · exact h.applyMutation
  · exact h.applyMutation
  · exact h.count.endSet
  · exact h.endSet
  · split
    · exact h.endSet
    · exact h.endSet
  · exact h.storeSet
  · exact h.endSet
  · exact h.endSet
  · exact h.hint
  · exact h.endSet

theorem Inv.moveOperands {r} (h : Inv s) : Inv (s.moveOperands r).1 := by
  unfold State.moveOperands
  split
  · exact h
  · refine h.foldl_fst fun _ _ hu => ?_
    refine Inv.ite_fst hu ?_
    split
    · exact hu.moveFar
    · exact hu

theorem Inv.sendFar {core r} (h : Inv s) : Inv (s.sendFar core r) := by
  unfold State.sendFar
  extract_lets
  split
  · next eu => exact (h.fresh.snd_of_eq eu).update

theorem Inv.runFarRequest {k lap uid} (h : Inv s) : Inv (s.runFarRequest k lap uid) := by
  unfold State.runFarRequest
  split
  · exact h
  · refine Inv.ite h.failSet ?_
    extract_lets
    split
    · exact h.setEffect.modThread
    · exact h.setEffect

theorem Inv.runFar {k uids lap} (h : Inv s) : Inv (s.runFar k uids lap) := h.foldl fun _ _ hu => hu.runFarRequest

theorem Inv.runSet {core r} (h : Inv s) : Inv (s.runSet core r) := by
  unfold State.runSet
  refine Inv.ite h.failSet (Inv.ite ?_ h.setEffect)
  split
  · next eu => exact (h.moveOperands.fst_of_eq eu).sendFar
  · next eu => exact (h.moveOperands.fst_of_eq eu).failSet

theorem Inv.execSetRequestExecute {core} (h : Inv s) : Lands (execSetRequestExecute core s) := by
  unfold Machine.execSetRequestExecute
  extract_lets
  split
  · exact Lands.refused
  · exact Lands.ite Lands.refused h.runSet.refresh.lands

theorem Inv.execSetBuildDone {l index} (h : Inv s) : Lands (execSetBuildDone l index s) :=
  Lands.ite h.modSet.modLaunch.lands Lands.refused

theorem Inv.execIndexBlockSupply {core l} (h : Inv s) : Lands (execIndexBlockSupply core l s) := by
  unfold Machine.execIndexBlockSupply
  extract_lets
  split
  · exact Lands.ite h.modLaunch.refresh.lands Lands.refused
  · exact Lands.refused

/-! ### Machine/SetIssue.lean -/

theorem Inv.addSet {k t q result batch} (h : Inv s) : Inv (s.addSet k t q result batch) := by
  unfold State.addSet
  extract_lets
  split
  · next eu =>
      have hu := h.number.fresh.snd_of_eq eu
      exact (Inv.ite hu hu.modThread).modCore

theorem Inv.setBody {q batch k t} (h : Inv s) : EffectInv (setBody q batch s k t) := by
  unfold Machine.setBody
  split
  · trivial
  · split
    · trivial
    · exact h.addSet

theorem Inv.produceBody {d q k t} (h : Inv s) : EffectInv (produceBody d q s k t) := by
  unfold Machine.produceBody
  split
  · trivial
  · extract_lets
    split
    · trivial
    · split
      · exact h.modLaunch.addSet.result
      · exact EffectInv.ite h.addSet.result trivial

theorem Inv.execSnew {x} (h : Inv s) : Lands (execSnew x s) := h.issue fun _ _ _ hs => hs.produceBody

theorem Inv.execSfree {x} (h : Inv s) : Lands (execSfree x s) := h.issue fun _ _ _ hs => hs.setBody

theorem Inv.issueMutation {i q} (h : Inv s) : Lands (issueMutation i q s) :=
  h.issueWith (fun _ _ _ hs => hs.fresh) (fun _ _ _ _ hs => hs.setBody) fun _ _ hs => hs

theorem Inv.execSins {x} (h : Inv s) : Lands (execSins x s) := h.issueMutation

theorem Inv.execSdel {x} (h : Inv s) : Lands (execSdel x s) := h.issueMutation

theorem Inv.execShas {x} (h : Inv s) : Lands (execShas x s) := h.issue fun _ _ _ hs => hs.setBody

theorem Inv.execScard {x} (h : Inv s) : Lands (execScard x s) := h.issue fun _ _ _ hs => hs.setBody

theorem Inv.execSuni {x} (h : Inv s) : Lands (execSuni x s) := h.issue fun _ _ _ hs => hs.produceBody

theorem Inv.execSint {x} (h : Inv s) : Lands (execSint x s) := h.issue fun _ _ _ hs => hs.produceBody

theorem Inv.execSdif {x} (h : Inv s) : Lands (execSdif x s) := h.issue fun _ _ _ hs => hs.produceBody

theorem Inv.execScpy {x} (h : Inv s) : Lands (execScpy x s) := h.issue fun _ _ _ hs => hs.produceBody

theorem Inv.execSldl {x} (h : Inv s) : Lands (execSldl x s) := h.issue fun _ _ _ hs => hs.produceBody

theorem Inv.execSstl {x} (h : Inv s) : Lands (execSstl x s) := h.issue fun _ _ _ hs => hs.setBody

theorem Inv.execSnext {x} (h : Inv s) : Lands (execSnext x s) := h.issue fun _ _ _ hs => hs.setBody

theorem Inv.execSrep {x} (h : Inv s) : Lands (execSrep x s) := h.issue fun _ _ _ hs => hs.setBody

theorem Inv.execShint {x} (h : Inv s) : Lands (execShint x s) := h.issue fun _ _ _ hs => hs.setBody

theorem Inv.execScost {x} (h : Inv s) : Lands (execScost x s) := h.issue fun _ _ _ hs => hs.setBody

/-! ### Machine/Circle.lean -/

theorem Inv.modRegion {o f} (h : Inv s) : Inv (s.modRegion o f) := h.update

theorem Inv.modCircle {id f} (h : Inv s) : Inv (s.modCircle id f) := h.update

theorem Inv.dropReq {id} (h : Inv s) : Inv (s.dropReq id) := h.update

theorem Inv.sendCircle {k t x q a bar cap} (h : Inv s) : Inv (s.sendCircle k t x q a bar cap).1 := by
  unfold State.sendCircle
  split
  · next eu =>
      have hu := h.fresh.snd_of_eq eu
      split
      · next ev => exact (hu.fresh.snd_of_eq ev).modThread.update

theorem Inv.circleBody {x first ask k t} (h : Inv s) : EffectInv (circleBody x first ask s k t) := by
  unfold Machine.circleBody
  split
  · trivial
  · extract_lets _ q _ _ _ _ _ sent woken
    have hw : Inv woken := by
      cases e : q.op <;> simp only [woken, e]
      case update => exact h.sendCircle.wake
      all_goals exact h.sendCircle
    split
    · trivial
    · split
      · trivial
      · exact EffectInv.ite hw hw

theorem Inv.execCrupd {x} (h : Inv s) : Lands (execCrupd x s) := h.issue fun _ _ _ hs => hs.circleBody

theorem Inv.execCrrd {x} (h : Inv s) : Lands (execCrrd x s) := h.issue fun _ _ _ hs => hs.circleBody

theorem Inv.execCrsnap {x} (h : Inv s) : Lands (execCrsnap x s) := h.issue fun _ _ _ hs => hs.circleBody

theorem Inv.circleQueryBody {x off value k t} (h : Inv s) : EffectInv (circleQueryBody x off value s k t) := by
  unfold Machine.circleQueryBody
  extract_lets
  split
  · trivial
  · split
    · next eu => exact (h.fresh.snd_of_eq eu).result

theorem Inv.execCrlap {x} (h : Inv s) : Lands (execCrlap x s) := h.issue fun _ _ _ hs => hs.circleQueryBody

theorem Inv.execCrinfo {x} (h : Inv s) : Lands (execCrinfo x s) := h.issue fun _ _ _ hs => hs.circleQueryBody

theorem Inv.post {q slice off bytes count err final} (h : Inv s) : Inv (s.post q slice off bytes count err final) := Inv.ite h h.update

theorem Inv.answer {q slice lap value status} (h : Inv s) : Inv (s.answer q slice lap value status) := h.post.modCircle

theorem Inv.dequeue {id} (h : Inv s) : Inv (s.dequeue id) := h.update

theorem Inv.refuseReply {q slice lap code} (h : Inv s) : Inv (s.refuseReply q slice lap code) := h.post.dequeue.modCircle

theorem Inv.reapCircle (h : Inv s) : Inv s.reapCircle := h.update

theorem Inv.farFail {q code} (h : Inv s) : Inv (s.farFail q code) := by
  unfold State.farFail
  split
  · refine h.dropReq.foldl fun _ _ hu => ?_
    split
    · exact hu.failSet
    · exact hu
  · exact h.modCircle.refuseReply

theorem Inv.countAdmit {q} (h : Inv s) : Inv (s.countAdmit q) := by
  unfold State.countAdmit
  split
  · exact h
  · exact h.modCore

theorem Inv.enterSlice {q} (h : Inv s) : Inv (s.enterSlice q) := h.modSlice.modCircle.countAdmit

theorem Inv.reachSlice {q} (h : Inv s) : Inv (s.reachSlice q) := by
  unfold State.reachSlice
  extract_lets _ arrived
  have ha : Inv arrived := by
    cases e : q.op <;> simp only [arrived, e]
    case host => exact h
    all_goals exact h.modSlice
  exact Inv.ite ha.farFail (Inv.ite ha.enterSlice (Inv.ite ha.modSlice.modCircle ha.modCircle))

theorem Inv.execCircleAdmit {req} (h : Inv s) : Lands (execCircleAdmit req s) := by
  unfold Machine.execCircleAdmit
  split
  · exact Lands.refused
  · exact Lands.ite Lands.refused (Lands.ite h.reachSlice.refresh.lands (Lands.ite h.modSlice.enterSlice.refresh.lands Lands.refused))

theorem Inv.tellGuard {q admitted} (h : Inv s) : Inv (s.tellGuard q admitted) := h.resolve

theorem Inv.retireBlocked {q} (h : Inv s) : Inv (s.retireBlocked q) := by
  unfold State.retireBlocked
  split
  · exact Inv.ite h.modParcel h
  · exact h

theorem Inv.execAdmissionDecision {req} (h : Inv s) : Lands (execAdmissionDecision req s) := by
  unfold Machine.execAdmissionDecision
  split
  · exact Lands.refused
  · exact Lands.ite h.tellGuard.modThread.dropReq.refresh.lands
      (Lands.ite (Inv.ite h.retireBlocked h.tellGuard).modCircle.reapCircle.refresh.lands Lands.refused)

theorem Inv.admitSpan {q r} (h : Inv s) : Inv (s.admitSpan q r) := (h.foldl (fun _ _ hu => hu.modSlice)).modCircle.countAdmit

theorem Inv.execSpanAdmit {req} (h : Inv s) : Lands (execSpanAdmit req s) := by
  unfold Machine.execSpanAdmit
  split
  · exact Lands.refused
  · refine Lands.ite Lands.refused (Lands.ite h.farFail.refresh.lands (Lands.ite Lands.refused ?_))
    split
    · exact Lands.refused
    · exact Lands.ite (Lands.ite h.modRegion.admitSpan.refresh.lands Lands.refused)
        (Lands.ite h.admitSpan.refresh.lands (Lands.ite h.modRegion.modCircle.lands h.modCircle.lands))

theorem Inv.execSpanPartAck {req slice} (h : Inv s) : Lands (execSpanPartAck req slice s) := by
  unfold Machine.execSpanPartAck
  split
  · exact Lands.refused
  · exact Lands.ite h.modCircle.lands Lands.refused

theorem Inv.readRow {o c} (h : Inv s) : Inv (s.readRow o c).1 := by
  unfold State.readRow
  refine Inv.ite_fst h ?_
  split
  · exact h
  · split
    · next eu => exact h.readTier.fst_of_eq eu
    · next eu => exact h.readTier.fst_of_eq eu

theorem Inv.writeRow {o c row} (h : Inv s) : Inv (s.writeRow o c row) := by
  unfold State.writeRow
  split
  · exact h.writeTier
  · exact h

theorem Inv.failInRow {q slice lap code} (h : Inv s) : Inv (s.failInRow q slice lap code) := by
  unfold State.failInRow
  split
  · exact h.plainError.dropReq
  · refine (h.foldl (fun _ _ hu => ?_)).farFail
    split
    · exact hu.dataError
    · exact hu
  · exact h.dataError.refuseReply

theorem Inv.rowSettle {p : RowPass} {a n} (h : Inv p.s) : Inv (p.settle a n).s := h

theorem Inv.rowUpdate {p : RowPass} {q lap} (h : Inv p.s) : Inv (p.update q lap).s := by
  unfold RowPass.update
  extract_lets
  split
  · split
    · exact h.answer
    · exact h.rowSettle.answer
  · exact h.rowSettle.dropReq
  · exact (Inv.ite h h.runFar).dropReq
  · exact h

theorem Inv.rowAnswer {p : RowPass} {q c lap} (h : Inv p.s) : Inv (p.answerRead q c lap).s := by
  unfold RowPass.answerRead
  extract_lets
  split
  · exact h.answer
  · exact Inv.ite h.post.modCircle.answer h.post.modCircle
  · exact (Inv.ite h h.runFar).dropReq
  · exact h

theorem Inv.foldl_row {α : Type} {f : RowPass → α → RowPass} {l : List α} {p : RowPass} (h : Inv p.s)
    (hf : ∀ p a, Inv p.s → Inv (f p a).s) : Inv (l.foldl f p).s :=
  List.foldlRecOn (motive := fun p : RowPass => Inv p.s) l f h (fun p hp a _ => hf p a hp)

theorem Inv.passRow {o slice c lap due} (h : Inv s) : Inv (s.passRow o slice c lap due) := by
  unfold State.passRow
  extract_lets updates reads
  split
  · next eu => exact (h.readRow.fst_of_eq eu).foldl fun _ _ hv => hv.failInRow
  · next u row eu =>
      have hu := h.readRow.fst_of_eq eu
      extract_lets p q r
      have hq : Inv q.s := Inv.rowSettle (Inv.foldl_row (p := ⟨u, some slice, row, []⟩) hu fun _ _ hv => hv.rowUpdate)
      exact Inv.foldl_row (p := r) (Inv.ite hq hq.writeRow) fun _ _ hv => hv.rowAnswer

theorem Inv.execCircleRowPass {o slice} (h : Inv s) : Lands (execCircleRowPass o slice s) := by
  unfold Machine.execCircleRowPass
  split
  · exact Lands.ite (Inv.foldl (Inv.ite h h.passRow.modSlice) (fun _ _ hu => hu.refresh)).modRegion.reapCircle.lands
      Lands.refused
  · exact Lands.refused

theorem Inv.execLapEndReport {o slice} (h : Inv s) : Lands (execLapEndReport o slice s) := by
  unfold Machine.execLapEndReport
  split
  · exact Lands.ite h.modRegion.lands Lands.refused
  · exact Lands.refused

theorem Inv.execLapDeclare {o} (h : Inv s) : Lands (execLapDeclare o s) := by
  unfold Machine.execLapDeclare
  split
  · exact Lands.ite h.modRegion.lands Lands.refused
  · exact Lands.refused

theorem Inv.execLapStart {o slice} (h : Inv s) : Lands (execLapStart o slice s) := by
  unfold Machine.execLapStart
  split
  · exact Lands.ite h.modRegion.lands Lands.refused
  · exact Lands.refused

theorem Inv.execCircleReplyLand {k} (h : Inv s) : Lands (execCircleReplyLand k s) := by
  unfold Machine.execCircleReplyLand
  split
  · exact Lands.refused
  · exact Lands.ite Lands.refused h.update.modParcel.refresh.lands

/-! ### Machine/Consist.lean -/

theorem Inv.completeInstance {k w tix} (h : Inv s) : Inv (s.completeInstance k w tix) := by
  unfold State.completeInstance
  split
  · split
    · exact h
    · exact Inv.ite h.modParcel.modConsist.replayEntry.wake h
  · exact h

theorem Inv.leaveConsist {k w tix} (h : Inv s) : Inv (s.leaveConsist k w tix) := h.modConsist.completeInstance

theorem Inv.arriveCollective {k t w kind d val aux seg} (h : Inv s) : EffectInv (s.arriveCollective k t w kind d val aux seg) := by
  unfold State.arriveCollective
  split
  · trivial
  · exact EffectInv.ite trivial (EffectInv.ite trivial (EffectInv.ite trivial h.modThread.modConsist.completeInstance))

theorem Inv.execCnew {x} (h : Inv s) : Lands (execCnew x s) := by
  unfold Machine.execCnew
  refine h.issueWith (fun _ _ _ hs => ?_) (fun shared _ _ _ hs => ?_) fun _ _ hs => hs
  · exact Inv.ite_fst hs (Inv.ite_fst hs (Inv.ite_fst hs (Inv.ite_fst hs.newConsist hs)))
  · cases shared with
    | some w => exact hs.modThread
    | none => exact EffectInv.ite trivial hs.newConsist.modThread

theorem Inv.execCfree {x} (h : Inv s) : Lands (execCfree x s) := by
  unfold Machine.execCfree
  refine h.issue fun _ _ _ hs => ?_
  extract_lets
  split
  · exact hs.dropConsist.foldl fun _ _ hu => hu.trap
  · trivial

theorem Inv.execJoin {x} (h : Inv s) : Lands (execJoin x s) := by
  unfold Machine.execJoin
  refine h.issue fun _ _ _ hs => ?_
  extract_lets
  split
  · trivial
  · exact EffectInv.ite hs (EffectInv.ite hs.modThread hs.modConsist)

theorem Inv.execLeave {x} (h : Inv s) : Lands (execLeave x s) := by
  unfold Machine.execLeave
  refine h.issue fun _ _ _ hs => ?_
  extract_lets
  split
  · trivial
  · exact Inv.ite hs.leaveConsist hs

theorem Inv.execElect {x} (h : Inv s) : Lands (execElect x s) :=
  h.issueWith (fun _ _ _ hs => hs) (fun _ _ _ _ hs => hs.modThread) fun _ _ hs => hs

theorem Inv.execCbar {x} (h : Inv s) : Lands (execCbar x s) := h.issue fun _ _ _ hs => hs.arriveCollective

theorem Inv.execCshfl {x} (h : Inv s) : Lands (execCshfl x s) := h.issue fun _ _ _ hs => hs.arriveCollective

theorem Inv.execCreduce {x} (h : Inv s) : Lands (execCreduce x s) := h.issue fun _ _ _ hs => hs.arriveCollective

theorem Inv.execCscan {x} (h : Inv s) : Lands (execCscan x s) := h.issue fun _ _ _ hs => hs.arriveCollective

theorem Inv.execCvote {x} (h : Inv s) : Lands (execCvote x s) := h.issue fun _ _ _ hs => hs.arriveCollective

/-! ### Machine/Index.lean -/

theorem Inv.jobStatus {k at' state cursor num} (h : Inv s) : Inv (s.jobStatus k at' state cursor num) := h.modParcel

theorem Inv.modJob {core uid f} (h : Inv s) : Inv (s.modJob core uid f) := h.modCore

theorem Inv.dropJob {core j} (h : Inv s) : Inv (s.dropJob core j) := h.modCore

theorem Inv.failJob {core j code} (h : Inv s) : Inv (s.failJob core j code) :=
  (h.foldl (fun _ _ hu => hu.drainReq)).drainReq.jobStatus.dropJob.fail

theorem Inv.abortJobs {core k} (h : Inv s) : Inv (s.abortJobs core k) := h.foldl fun _ _ hu => hu.failJob

theorem Inv.suspendJob {core j cause} (h : Inv s) : Inv (s.suspendJob core j cause) :=
  Inv.ite h.jobStatus.modJob.abortJobs h.jobStatus.modJob

theorem Inv.indexBody {x scatter k t} (h : Inv s) : EffectInv (indexBody x scatter s k t) := by
  unfold Machine.indexBody
  split
  · trivial
  · extract_lets
    split
    · trivial
    · refine EffectInv.ite (EffectInv.ite h.number.modCore h.number.jobStatus.modCore.fail) ?_
      split
      · trivial
      · exact EffectInv.ite h.number.modCore.jobStatus.complete h.number.modCore

theorem Inv.execCpxg {x} (h : Inv s) : Lands (execCpxg x s) := h.issue fun _ _ _ hs => hs.indexBody

theorem Inv.execCpxs {x} (h : Inv s) : Lands (execCpxs x s) := h.issue fun _ _ _ hs => hs.indexBody

theorem Inv.execEngres {x} (h : Inv s) : Lands (execEngres x s) := by
  unfold Machine.execEngres
  refine h.issue fun _ _ _ hs => ?_
  extract_lets
  split
  · exact hs
  · split
    · exact hs.modJob
    · exact hs.modJob.handCount
    · exact hs.failJob

theorem Inv.moveRow {core j a} (h : Inv s) : Inv (s.moveRow core j a) := by
  unfold State.moveRow
  refine Inv.ite (Inv.ite h.dataError.failJob (Inv.ite h.writeObject.dataError.failJob h.writeObject.handCount.modJob)) ?_
  split
  · next eu => exact (h.readObject.fst_of_eq eu).dataError.failJob
  · next eu => exact (h.readObject.fst_of_eq eu).modParcel.modJob

theorem Inv.execIndexElement {core} (h : Inv s) : Lands (execIndexElement core s) := by
  unfold Machine.execIndexElement
  split
  · exact Lands.refused
  · exact Lands.ite Lands.refused
      (Lands.ite h.failJob.refresh.lands
        (Lands.ite h.jobStatus.dropJob.complete.refresh.lands (Inv.ite h.suspendJob (Inv.ite h.suspendJob h.moveRow)).refresh.lands))

/-! ### Machine/Control.lean -/

theorem Inv.branch {k t tgt link} (h : Inv s) : EffectInv (s.branch k t tgt link) := by
  unfold State.branch
  split
  · trivial
  · split
    · exact h
    · exact h.modThread

theorem Inv.execBra {x} (h : Inv s) : Lands (execBra x s) := h.issue fun _ _ _ hs => hs.branch

theorem Inv.nonuniform {g x} (h : Inv s) : Lands (nonuniform g x s) := by
  unfold Machine.nonuniform
  refine (h.update.foldl (fun _ _ hu => ?_)).refresh.lands
  split
  · exact hu.trap
  · exact hu.trap
  · exact hu.modThread
  · exact hu

theorem Inv.execBru {x} (h : Inv s) : Lands (execBru x s) := by
  unfold Machine.execBru
  extract_lets
  split
  · exact Lands.refused
  · refine Lands.ite (h.issue (fun _ _ _ hs => hs.branch)) ?_
    extract_lets
    split
    · exact Lands.ite h.count.nonuniform (h.count.issue (fun _ _ _ hs => hs.branch))
    · exact h.count.issue fun _ _ _ hs => hs.branch

theorem Inv.execBrx {x} (h : Inv s) : Lands (execBrx x s) := h.issue fun _ _ _ hs => hs.branch

theorem Inv.execCall {x} (h : Inv s) : Lands (execCall x s) := h.issue fun _ _ _ hs => hs.branch

theorem Inv.execCallx {x} (h : Inv s) : Lands (execCallx x s) := h.issue fun _ _ _ hs => hs.branch

theorem Inv.execRet {x} (h : Inv s) : Lands (execRet x s) := h.issue fun _ _ _ hs => hs.branch

theorem Inv.exitThread {k tix} (h : Inv s) : Inv (s.exitThread k tix) := by
  unfold State.exitThread
  split
  · extract_lets left retired moved _ ended
    have hl : Inv left := h.foldl fun _ _ hu => hu.leaveConsist
    have he : Inv ended := hl.modParcel.modCore.noteFreed
    exact Inv.ite he.abortJobs he
  · exact h

theorem Inv.execExit {x} (h : Inv s) : Lands (execExit x s) := h.issue fun _ _ _ hs => EffectInv.ite hs.exitThread trivial

theorem Inv.execYield {x} (h : Inv s) : Lands (execYield x s) := h.issue fun _ _ _ hs => hs.modThread

theorem Inv.execNop {x} (h : Inv s) : Lands (execNop x s) := h.issue fun _ _ _ hs => hs

theorem Inv.execYieldWake {core l} (h : Inv s) : Lands (execYieldWake core l s) := Lands.ite Lands.refused h.modCore.update.refresh.lands

/-! ### Machine/MatrixOrder.lean -/

theorem Inv.popMatrix {core} (h : Inv s) : Inv (s.popMatrix core) := h.modCore

theorem Inv.endMatrix {core r} (h : Inv s) : Inv (s.endMatrix core r) := by
  unfold State.endMatrix
  refine (Inv.popMatrix ?_).complete.reap
  split
  · exact h.countBytes
  · exact h

theorem Inv.failMatrix {core r code} (h : Inv s) : Inv (s.failMatrix core r code) := h.popMatrix.fail.reap

theorem Inv.ranMatrix {core} (h : Inv s) : Inv (s.ranMatrix core) := h.modCore

theorem Inv.runMatrix {core assist} (h : Inv s) : Inv (s.runMatrix core assist) := h.modCore

theorem Inv.slotRequest {core r x} (h : Inv s) : Inv (s.slotRequest core r x) := Inv.ite h.failMatrix h.modParcel.ranMatrix

theorem Inv.answerQuery {core r uid ws} (h : Inv s) : Inv (s.answerQuery core r uid ws) := h.popMatrix.supply

theorem Inv.startDrain {core r b} (h : Inv s) : Inv (s.startDrain core r b) := Inv.ite h.failMatrix h.popMatrix.modCore

theorem Inv.startMatrix {core r} (h : Inv s) : Inv (s.startMatrix core r) := by
  unfold State.startMatrix
  refine Inv.ite h.failMatrix ?_
  split
  · exact Inv.ite h.failMatrix h.runMatrix
  · exact Inv.ite h.runMatrix (Inv.ite h.failMatrix h.modParcel.runMatrix)
  iterate 5 exact h.slotRequest
  · exact Inv.ite h.failMatrix (Inv.ite h.count.runMatrix h.slotRequest)
  · exact h.startDrain
  · exact h.modParcel.answerQuery
  · exact h.answerQuery
  · exact h.answerQuery

theorem Inv.execMatrixRequestStart {core} (h : Inv s) : Lands (execMatrixRequestStart core s) := by
  unfold Machine.execMatrixRequestStart
  extract_lets
  split
  · exact Lands.ite Lands.refused h.startMatrix.refresh.lands
  · exact Lands.refused

theorem Inv.shareRead {core e} (h : Inv s) : Inv (s.shareRead core e).1 := by
  unfold State.shareRead
  extract_lets _ _ _ mark marked
  have hm : Inv marked := h.ite (h.foldl fun _ _ hu => hu.modCore)
  exact hm.modCore.fst_mk

theorem Inv.shareReads {core r reached} (h : Inv s) : Inv (s.shareReads core r reached) :=
  h.modCore.foldl fun _ _ hu => hu.shareRead.count

theorem Inv.applyStep {core r} (h : Inv s) : Inv (s.applyStep core r) := h.modParcel.modCore

theorem Inv.groupStep {core r reached} (h : Inv s) : Inv (s.groupStep core r reached) := by
  unfold State.groupStep
  extract_lets
  split
  · next eu => exact (h.shareReads.fetchChunks.fst_of_eq eu).failMatrix
  · next eu =>
      have hu := h.shareReads.fetchChunks.fst_of_eq eu
      exact Inv.ite hu.count.modCore hu.applyStep

theorem Inv.execMatrixGroupStep {core} (h : Inv s) : Lands (execMatrixGroupStep core s) := by
  unfold Machine.execMatrixGroupStep
  extract_lets
  split
  · exact Lands.ite h.groupStep.refresh.lands Lands.refused
  · exact Lands.refused

theorem Inv.execMatrixRequestComplete {core} (h : Inv s) : Lands (execMatrixRequestComplete core s) := by
  unfold Machine.execMatrixRequestComplete
  extract_lets
  split
  · exact Lands.ite h.endMatrix.refresh.lands Lands.refused
  · exact Lands.refused

theorem Inv.execSubnormalAssist {core} (h : Inv s) : Lands (execSubnormalAssist core s) := by
  unfold Machine.execSubnormalAssist
  extract_lets
  split
  · split
    · exact h.slotRequest.refresh.lands
    · exact h.applyStep.refresh.lands
  · exact h.modCore.lands
  · exact Lands.refused

theorem Inv.failDrain {core k d code} (h : Inv s) : Inv (s.failDrain core k d code) := h.modCore.fail.reap

theorem Inv.execAssistTimeout {core} (h : Inv s) : Lands (execAssistTimeout core s) := by
  unfold Machine.execAssistTimeout
  extract_lets
  split
  · exact h.failMatrix.refresh.lands
  · split
    · exact h.failDrain.refresh.lands
    · exact Lands.refused
  · exact Lands.refused

theorem Inv.drainWritten {core k d} (h : Inv s) : Inv (s.drainWritten core k d) := h.modCore.handCount

theorem Inv.writeDrain {core k d} (h : Inv s) : Inv (s.writeDrain core k d) := by
  unfold State.writeDrain
  refine Inv.ite (Inv.ite ?_ h.failDrain) (Inv.ite ?_ h.modParcel.drainWritten)
  · split
    · next eu =>
        have hu := h.writeRecord.fst_of_eq eu
        exact Inv.ite hu.failDrain hu.drainWritten
  · split
    · next eu =>
        have hu := h.drainObject.fst_of_eq eu
        exact Inv.ite hu.failDrain hu.drainWritten

theorem Inv.execDrainComplete {core k} (h : Inv s) : Lands (execDrainComplete core k s) := by
  unfold Machine.execDrainComplete
  extract_lets
  split
  · exact Lands.refused
  · extract_lets
    split
    · exact Lands.refused
    · exact Lands.ite Lands.refused h.modCore.complete.reap.refresh.lands
    · exact Lands.ite Lands.refused (Lands.ite h.count.modCore.lands h.writeDrain.refresh.lands)

/-! ### Machine/Objects.lean -/

theorem Inv.holdLeases {ctx} (h : Inv s) : Inv (s.holdLeases ctx) := h.modCtx

theorem Inv.takeLease {l k i} (h : Inv s) : Inv (s.takeLease l k i) := Inv.ite h.launchFatal h.modCtx

theorem Inv.takeLeases {k} : ∀ {fuel s}, Inv s → Inv (State.takeLeases s k fuel)
  | 0, _, h => h
  | fuel + 1, s, h => by
    unfold State.takeLeases
    split
    · exact h
    · exact Inv.ite h (Inv.ite h (Inv.takeLeases h.takeLease))

theorem Inv.resumeLeases {ctx} (h : Inv s) : Inv (s.resumeLeases ctx) := h.holdLeases.foldl fun _ _ hu => hu.takeLeases

theorem Inv.execRouteWalk {die o unit} (h : Inv s) : Lands (execRouteWalk die o unit s) := by
  unfold Machine.execRouteWalk
  extract_lets
  split
  · next eu => exact Lands.ite Lands.refused (h.route.fst_of_eq eu).lands
  · exact Lands.refused

theorem Inv.dropRegion {o} (h : Inv s) : Inv (s.dropRegion o) := by
  unfold State.dropRegion
  refine (h.foldl (fun _ _ hu => ?_)).update
  split
  · exact hu.dequeue.dropReq
  · exact hu.dequeue.farFail
  · exact hu.modCircle.refuseReply

theorem Inv.addRegion {o} (h : Inv s) : Inv (s.addRegion o) := h.update

theorem Inv.putObject {o e} (h : Inv s) : Inv (s.putObject o e) := h.modCtx

theorem Inv.freeObject {o e} (h : Inv s) : Inv (s.freeObject o e) := Inv.ite h.modCtx h.putObject

theorem Inv.execObjectTableWrite (h : Inv s) : Lands (execObjectTableWrite s) := by
  unfold Machine.execObjectTableWrite
  extract_lets _ _ _ _ _ _ _ moved swept written dropped
  have hs : Inv swept := Inv.ite h.update.dropRegion h.update
  have hw : Inv written := Inv.ite hs.freeObject hs.putObject
  have hd : Inv dropped := Inv.ite hw.dropRegion hw
  exact Lands.ite Lands.refused (Lands.ite h.lands (Inv.ite hd.addRegion hd).resumeLeases.lands)

theorem Inv.execObjectInvalidate (h : Inv s) : Lands (execObjectInvalidate s) := by
  unfold Machine.execObjectInvalidate
  extract_lets
  split
  · exact Lands.refused
  · exact h.modObject.lands

theorem Inv.endMoves {o} (h : Inv s) : Inv (s.endMoves o) := by
  unfold State.endMoves
  split
  · exact Inv.ite h.update h
  · exact h

theorem Inv.execInvalidateAck {o agent} (h : Inv s) : Lands (execInvalidateAck o agent s) := by
  unfold Machine.execInvalidateAck
  split
  · exact Lands.refused
  · exact Lands.ite h.modObject.update.endMoves.lands Lands.refused

theorem Inv.execObjectDelete (h : Inv s) : Lands (execObjectDelete s) := by
  unfold Machine.execObjectDelete
  extract_lets
  split
  · exact Lands.refused
  · exact h.update.modObject.lands

theorem Inv.execLeaseFaultBack (h : Inv s) : Lands (execLeaseFaultBack s) := by
  unfold Machine.execLeaseFaultBack
  extract_lets
  split
  · exact Lands.refused
  · exact Lands.ite h.modObject.resumeLeases.lands Lands.refused

theorem Inv.execLeaseFaultRefuse (h : Inv s) : Lands (execLeaseFaultRefuse s) := by
  unfold Machine.execLeaseFaultRefuse
  extract_lets
  split
  · exact Lands.refused
  · exact h.launchFatal.lands

theorem Inv.verifyUnit {o t loc} (h : Inv s) : Inv (s.verifyUnit o t loc) := by
  unfold State.verifyUnit
  refine h.foldl fun _ _ hu => ?_
  split
  · next ev => exact (hu.verify.fst_of_eq ev).plainError

theorem Inv.copyPlace {o t loc t' loc'} (h : Inv s) : Inv (s.copyPlace o t loc t' loc') := h.verifyUnit.writeMem.update

theorem Inv.moveUnitTo {o u d t loc} (h : Inv s) : Inv (s.moveUnitTo o u d t loc) := by
  unfold State.moveUnitTo
  extract_lets
  split
  · exact h.modObject.copyPlace.update
  · exact h.modObject.update.endMoves

theorem Inv.untouch {unit} (h : Inv s) : Inv (s.untouch unit) := h.update

theorem Inv.execMigrationPromote {o unit newLoc} (h : Inv s) : Lands (execMigrationPromote o unit newLoc s) := by
  unfold Machine.execMigrationPromote
  split
  · exact Lands.refused
  · split
    · exact Lands.refused
    · exact Lands.ite Lands.refused
        (Lands.ite (Lands.ite h.count.untouch.lands Lands.refused)
          (Lands.ite (Inv.ite h.moveUnitTo.untouch h.moveUnitTo).lands Lands.refused))

theorem Inv.execMigrationDemote (h : Inv s) : Lands (execMigrationDemote s) := by
  unfold Machine.execMigrationDemote
  extract_lets
  split
  · exact Lands.refused
  · split
    · exact Lands.refused
    · exact Lands.ite h.moveUnitTo.lands Lands.refused

theorem Inv.hostUpdate {o a bs} (h : Inv s) : Inv (s.hostUpdate o a bs) := by
  unfold State.hostUpdate
  refine Inv.ite h (h.foldl (fun _ _ hu => ?_))
  split
  · next ev => exact (hu.fresh.snd_of_eq ev).update.reachSlice

theorem Inv.hostObjectWrite {die o a bs} (h : Inv s) : Inv (s.hostObjectWrite die o a bs).1 := by
  unfold State.hostObjectWrite
  split
  · exact Inv.ite_fst h h.hostUpdate
  · exact h
  · exact h.writeObject

theorem Inv.execHostLinkWrite (h : Inv s) : Lands (execHostLinkWrite s) := by
  unfold Machine.execHostLinkWrite
  refine Lands.ite Lands.refused ?_
  split
  · next eu =>
      have hu := Inv.fst_of_eq (Inv.ite_fst h.writeTier h.hostObjectWrite) eu
      exact (Inv.ite hu.unbilled.plainError hu.unbilled.plainError.update).lands

theorem Inv.peerRoute {o link} (h : Inv s) : Inv (s.peerRoute o link) := h.modObject

theorem Inv.peerMismatch {link} (h : Inv s) : Inv (s.peerMismatch link) := by
  unfold State.peerMismatch
  split
  · next eu => exact (h.fresh.snd_of_eq eu).update

theorem Inv.execPeerPortWrite (h : Inv s) : Lands (execPeerPortWrite s) := by
  unfold Machine.execPeerPortWrite
  refine Lands.ite Lands.refused (Lands.ite h.peerRoute.peerMismatch.plainError.lands (Lands.ite h.peerRoute.lands ?_))
  split
  · next eu => exact (h.peerRoute.writeObject.fst_of_eq eu).unbilled.plainError.lands

theorem Inv.execPeerPortRead (h : Inv s) : Lands (execPeerPortRead s) := by
  unfold Machine.execPeerPortRead
  refine Lands.ite Lands.refused ?_
  extract_lets
  split
  · next eu => exact (h.peerRoute.readObject.fst_of_eq eu).unbilled.lands
  · next eu => exact (h.peerRoute.readObject.fst_of_eq eu).unbilled.plainError.lands

theorem Inv.execLinkDown (h : Inv s) : Lands (execLinkDown s) := Lands.ite Lands.refused h.update.lands

theorem Inv.execLinkUp (h : Inv s) : Lands (execLinkUp s) := Lands.ite h.update.lands Lands.refused

theorem Inv.execLinkLaneError (h : Inv s) : Lands (execLinkLaneError s) := by
  unfold Machine.execLinkLaneError
  refine Lands.ite ?_ Lands.refused
  split
  · next eu => exact (h.fresh.snd_of_eq eu).update.lands

theorem Inv.execWsRefreshWindow (h : Inv s) : Lands (execWsRefreshWindow s) :=
  Lands.ite Lands.refused (h.foldl (fun _ _ hu => hu.verify)).lands

/-! ### Machine/Nodes.lean -/

theorem Inv.applyRegion {r} (h : Inv s) : Inv (s.applyRegion r) := h.foldl fun _ _ hu => hu.foldl (fun _ _ hv => hv.passRow.modSlice)

theorem Inv.unhalt {ctx} (h : Inv s) : Inv (s.unhalt ctx) := h.mapCores

theorem Inv.finishDrain {core d} (h : Inv s) : Inv (s.finishDrain core d) := by
  unfold State.finishDrain
  exact h.drainObject.modCore

theorem Inv.finishDrains {ctx} (h : Inv s) : Inv (s.finishDrains ctx) := h.foldl fun _ _ hu => hu.foldl (fun _ _ hv => hv.finishDrain)

theorem Inv.clearContext {ctx} (h : Inv s) : Inv (s.clearContext ctx) := by
  unfold State.clearContext
  extract_lets drained _ dropped _ freed cleared emptied
  have hd : Inv dropped := h.finishDrains.foldl fun _ _ hu => hu.dropLaunch
  have hf : Inv freed := hd.foldl fun _ _ hu => hu.applyRegion.dropRegion
  have hc : Inv cleared := hf.foldl fun _ _ hu => hu.setQueueField
  have he : Inv emptied := hc.foldl fun _ _ hu => hu.modCore
  exact he.unhalt.modCtx.update

theorem Inv.contextReset {ctx} (h : Inv s) : Inv (s.contextReset ctx) := h.clearContext.faultRecord

theorem Inv.contextFatal {ctx code addr} (h : Inv s) : Inv (s.contextFatal ctx code addr) := h.faultRecord.modCtx.contextReset

theorem Inv.execContextEnable (h : Inv s) : Lands (execContextEnable s) := Lands.ite h.modCtx.lands Lands.refused

theorem Inv.execContextReset (h : Inv s) : Lands (execContextReset s) := Lands.ite h.contextReset.lands Lands.refused

theorem Inv.execBudgetWindow (h : Inv s) : Lands (execBudgetWindow s) := Lands.ite Lands.refused h.rolled.lands

theorem Inv.queueMark {ctx q} (h : Inv s) : Inv (s.queueMark ctx q) := Inv.ite h.setQueueField h

theorem Inv.queueCheck {ctx q} (h : Inv s) : Inv (s.queueCheck ctx q).1 := Inv.ite_fst h.setQueueField.faultRecord h

theorem Inv.withQueue {ctx q f} (h : Inv s) (hf : ∀ s, Inv s → Inv (f s)) : Inv (s.withQueue ctx q f) := by
  unfold State.withQueue
  split
  · next eu => exact hf _ (h.devCheck.fst_of_eq eu)
  · next eu => exact h.devCheck.fst_of_eq eu

theorem Inv.execQueueEnable (h : Inv s) : Lands (execQueueEnable s) := by
  refine Lands.ite (h.withQueue fun u hu => Inv.ite ?_ hu.setQueueField).lands Lands.refused
  split
  · next ev => exact (hu.setQueueField.queueCheck.fst_of_eq ev).queueMark
  · next ev => exact hu.setQueueField.queueCheck.fst_of_eq ev

theorem Inv.execDoorbell (h : Inv s) : Lands (execDoorbell s) := by
  refine Lands.ite (h.withQueue fun u hu => ?_).lands Lands.refused
  extract_lets v
  have hv : Inv (v.queueCheck s.command.ctx s.command.queue).1 := hu.setQueueField.queueCheck
  split
  · next ew => exact hv.fst_of_eq ew
  · next ew =>
      have hw := hv.fst_of_eq ew
      exact Inv.ite hw.setQueueField.faultRecord hw.queueMark

theorem Inv.execQueueStateClear (h : Inv s) : Lands (execQueueStateClear s) :=
  Lands.ite (h.withQueue fun _ hu => hu.setQueueField).lands Lands.refused

theorem Inv.modNode {n f} (h : Inv s) : Inv (s.modNode n f) := h.update

theorem Inv.nodeCheck {ctx at' counter} (h : Inv s) : Inv (s.nodeCheck ctx at' counter).1 := by
  unfold State.nodeCheck
  split
  · next eu =>
      have hu := h.devCheck.fst_of_eq eu
      exact Inv.ite_fst hu hu.devCheck
  · exact h.devCheck

theorem Inv.dispatchNode {ctx queue slot word code} (h : Inv s) : Inv (s.dispatchNode ctx queue slot word code) := by
  unfold State.dispatchNode
  split
  · next eu =>
      have hu := h.fresh.snd_of_eq eu
      exact Inv.ite hu.setQueueField.queueMark.update.nodeFail hu.setQueueField.queueMark.update

theorem Inv.execNodeDispatch {ctx queue} (h : Inv s) : Lands (execNodeDispatch ctx queue s) := by
  unfold Machine.execNodeDispatch
  refine Lands.ite Lands.refused ?_
  split
  · next eu =>
      have hu := h.devCheck.fst_of_eq eu
      split
      · next ev => exact Lands.ite Lands.refused (hu.nodeCheck.fst_of_eq ev).dispatchNode.lands
  · next eu => exact Lands.ite Lands.refused (h.devCheck.fst_of_eq eu).lands

theorem Inv.nodeUnit {n c} (h : Inv s) : Inv (s.nodeUnit n c).1 := by
  unfold State.nodeUnit
  extract_lets
  split
  · next eu => exact h.boxData.fst_of_eq eu
  · next eu =>
      have hu := h.boxData.fst_of_eq eu
      split
      · split
        · exact Inv.ite_fst hu hu.scatterParts
        · exact hu

theorem Inv.nodeMove {n fill} (h : Inv s) (hu : s.nodeMove n fill = some u) : Inv u := by
  unfold State.nodeMove at hu
  split at hu
  · split at hu
    · cases hu
    · split at hu
      · next ev =>
          have hv := h.devCheck.fst_of_eq ev
          split at hu <;> cases hu
          · exact hv.nodeFail
          · exact hv.modNode
      · next ev =>
          cases hu
          exact (h.devCheck.fst_of_eq ev).nodeFail
  · split at hu
    · cases hu
    · split at hu
      · cases hu
      · split at hu <;> cases hu
        · next ev => exact (h.nodeUnit.fst_of_eq ev).modNode
        · next ev => exact (h.nodeUnit.fst_of_eq ev).nodeFail

theorem Inv.execNodeTransform {node} (h : Inv s) : Lands (execNodeTransform node s) := by
  unfold Machine.execNodeTransform
  split
  · next e =>
      obtain ⟨n, -, hn⟩ := Option.bind_eq_some_iff.mp e
      exact (h.nodeMove hn).lands
  · exact Lands.refused

theorem Inv.execNodeWeightFill {node} (h : Inv s) : Lands (execNodeWeightFill node s) := by
  unfold Machine.execNodeWeightFill
  split
  · next e =>
      obtain ⟨n, -, hn⟩ := Option.bind_eq_some_iff.mp e
      exact (h.nodeMove hn).lands
  · exact Lands.refused

theorem Inv.execNodeWait {node} (h : Inv s) : Lands (execNodeWait node s) := by
  unfold Machine.execNodeWait
  split
  · exact Lands.refused
  · exact (Inv.ite h.nodeFail h.modNode).lands

theorem Inv.execNodeWaitSatisfied {node} (h : Inv s) : Lands (execNodeWaitSatisfied node s) := by
  unfold Machine.execNodeWaitSatisfied
  split
  · exact Lands.refused
  · split
    · next eu => exact Lands.ite (h.devCheck.fst_of_eq eu).modNode.lands Lands.refused
    · next eu => exact (h.devCheck.fst_of_eq eu).nodeFail.lands

theorem Inv.execNodeSignal {node} (h : Inv s) : Lands (execNodeSignal node s) := by
  unfold Machine.execNodeSignal
  split
  · exact Lands.refused
  · refine (Inv.ite h.nodeFail ?_).lands
    split
    · next eu => exact (h.devCheck.fst_of_eq eu).setDev.modNode
    · next eu => exact (h.devCheck.fst_of_eq eu).nodeFail

theorem Inv.decrement {ctx a} (h : Inv s) : Inv (s.decrement ctx a) := by
  unfold State.decrement
  exact Inv.ite h.setDev.count h.setDev

theorem Inv.decrementAll {n} (h : Inv s) : Inv (s.decrementAll n) := by
  unfold State.decrementAll
  extract_lets
  split
  · next eu =>
      have hu := h.devCheck.fst_of_eq eu
      refine hu.foldl fun _ _ hv => ?_
      extract_lets
      split
      · next ew => exact (hv.devCheck.fst_of_eq ew).decrement
      · next ew => exact hv.devCheck.fst_of_eq ew
  · next eu => exact h.devCheck.fst_of_eq eu

theorem Inv.execNodeComplete {node} (h : Inv s) : Lands (execNodeComplete node s) := by
  unfold Machine.execNodeComplete
  split
  · exact Lands.refused
  · exact h.decrementAll.update.lands

theorem Inv.packetCheck {n l} (h : Inv s) : Inv (s.packetCheck n l).1 := by
  unfold State.packetCheck
  split
  · next eu =>
      have hu := h.devCheck.fst_of_eq eu
      split
      · next ev => exact (hu.devCheck.fst_of_eq ev).devCheck
      · exact hu.devCheck
  · exact h.devCheck

theorem Inv.execNodeLaunch {node} (h : Inv s) : Lands (execNodeLaunch node s) := by
  unfold Machine.execNodeLaunch
  split
  · exact Lands.refused
  · extract_lets
    split
    · next eu =>
        have hu := h.packetCheck.fst_of_eq eu
        refine Lands.ite hu.nodeFail.lands ?_
        split
        · exact hu.faultRecord.setQueueField.update.lands
        · exact hu.modCtx.modNode.update.lands

theorem Inv.execDeadlineMiss {l} (h : Inv s) : Lands (execDeadlineMiss l s) := by
  unfold Machine.execDeadlineMiss
  split
  · exact Lands.refused
  · exact Lands.ite h.modLaunch.count.lands Lands.refused

/-! ### Machine/Timeline.lean -/

theorem Inv.execTlread {x} (h : Inv s) : Lands (execTlread x s) := h.issue fun _ _ _ hs => hs.result

theorem Inv.execEngq {x} (h : Inv s) : Lands (execEngq x s) := h.issue fun _ _ _ hs => hs.result

theorem Inv.watchArrive {k tix off c} (h : Inv s) : Inv (s.watchArrive k tix off c) :=
  Inv.ite (Inv.ite h.modParcel h) h.modParcel.putBarrier.wake

theorem Inv.execTlwatch {x} (h : Inv s) : Lands (execTlwatch x s) := by
  unfold Machine.execTlwatch
  refine h.issue fun _ _ _ hs => ?_
  refine EffectInv.ite trivial (EffectInv.ite trivial ?_)
  split
  · trivial
  · exact EffectInv.ite trivial (EffectInv.ite hs.modThread.watchArrive hs.modThread.modCore)

theorem Inv.execWatchFire {core k} (h : Inv s) : Lands (execWatchFire core k s) := by
  unfold Machine.execWatchFire
  split
  · exact Lands.refused
  · exact Lands.ite h.modCore.watchArrive.refresh.lands Lands.refused

/-! ### Machine/Scheduling.lean -/

theorem Inv.imageSegment {l i} (h : Inv s) : Inv (s.imageSegment l i).1 := h.readTier

theorem Inv.overlayBytes {l core g} (h : Inv s) : Inv (s.overlayBytes l core g).1 := by
  unfold State.overlayBytes
  split
  · exact h.readObject
  · split
    · next eu => exact (h.overlayRead.fst_of_eq eu).readTier
    · next eu => exact h.overlayRead.fst_of_eq eu

theorem Inv.segmentError {l pix addr code restoring} (h : Inv s) : Inv (s.segmentError l pix addr code restoring) := by
  unfold State.segmentError
  refine Inv.ite h.launchFatal ?_
  split
  · next eu => exact (h.fresh.snd_of_eq eu).launchFatal

theorem Inv.putSegment {l core addr source pix restoring} {r : State × Except Nat (List Byte)} (h : Inv s) (hr : Inv r.1) :
    Inv (s.putSegment l core addr source pix restoring r) := by
  unfold State.putSegment
  split
  · exact h
  · exact hr.segmentError
  · exact hr.modLaunch.modCore

theorem Inv.loadSegments {l core p} (h : Inv s) : Inv (s.loadSegments l core p) := by
  unfold State.loadSegments
  extract_lets _ _ launched loaded
  have hl : Inv loaded :=
    Inv.foldl (Inv.ite h (h.foldl fun _ _ hu => hu.putSegment hu.imageSegment)) fun _ _ hu => hu.putSegment hu.overlayBytes
  exact Inv.ite hl.unbilled hl

theorem Inv.occupyCore {l p core} (h : Inv s) : Inv (s.occupyCore l p core) := h.modCore.modLaunch.update

theorem Inv.undeque {k} (h : Inv s) : Inv (s.undeque k) := h.modLaunch

theorem Inv.beginSlice {ctx} (h : Inv s) : Inv (s.beginSlice ctx) := Inv.ite h.modCtx h

theorem Inv.putParcel {l p core} (h : Inv s) : Inv (s.putParcel l p core) := h.beginSlice.undeque.update.modCore.loadSegments

theorem Inv.beginPrepare {l k} (h : Inv s) : Inv (s.beginPrepare l k) := h.update

theorem Inv.execParcelPlace {die} (h : Inv s) : Lands (execParcelPlace die s) := by
  unfold Machine.execParcelPlace
  split
  · split
    · exact Lands.ite h.putParcel.lands Lands.refused
    · refine Inv.lands ?_
      split
      · exact Inv.ite h.takeLeases.beginPrepare h.takeLeases
      · exact h.takeLeases
  · exact Lands.refused

theorem Inv.stage {l k i a n} (h : Inv s) : Inv (s.stage l k i a n) := by
  unfold State.stage
  split
  · split
    · next eu => exact (h.readObject.fst_of_eq eu).modParcel
    · next eu => exact (h.readObject.fst_of_eq eu).plainError

theorem Inv.sdataImage {l k} (h : Inv s) : Inv (s.sdataImage l k).1 := by
  unfold State.sdataImage
  split
  · next eu => exact h.devCheck.fst_of_eq eu
  · next eu => exact h.devCheck.fst_of_eq eu

theorem Inv.prepare {l p} (h : Inv s) (hu : s.prepare l p = some u) : Inv u := by
  unfold State.prepare at hu
  extract_lets at hu
  split at hu
  · cases hu
    exact h.sdataImage.modParcel.modParcel
  · split at hu
    · cases hu
      exact h.modParcel
    · split at hu <;> cases hu
      exact h.stage.modParcel

theorem Inv.execScratchpadPrepare {k} (h : Inv s) : Lands (execScratchpadPrepare k s) := by
  unfold Machine.execScratchpadPrepare
  split
  · split
    · next e =>
        obtain ⟨-, hu⟩ := Option.ite_none_right_eq_some.mp e
        exact (h.prepare hu).lands
    · exact Lands.refused
  · exact Lands.refused

theorem Inv.execThreadsStart {k} (h : Inv s) : Lands (execThreadsStart k s) := by
  unfold Machine.execThreadsStart
  split
  · exact Lands.ite h.modParcel.refresh.lands Lands.refused
  · exact Lands.refused

theorem Inv.execStealRequest {die l} (h : Inv s) : Lands (execStealRequest die l s) := by
  unfold Machine.execStealRequest
  split
  · exact Lands.refused
  · extract_lets
    split
    · exact Lands.refused
    · exact Lands.ite h.update.lands Lands.refused

theorem Inv.execStealReply {die l} (h : Inv s) : Lands (execStealReply die l s) := by
  unfold Machine.execStealReply
  split
  · exact Lands.refused
  · exact h.update.modLaunch.lands

theorem Inv.leaveCore {l core} (h : Inv s) : Inv (s.leaveCore l core) := Inv.ite h h.noteFreed.modLaunch.modCore

theorem Inv.execParcelFree {k} (h : Inv s) : Lands (execParcelFree k s) := by
  unfold Machine.execParcelFree
  split
  · exact Lands.refused
  · refine Lands.ite ?_ Lands.refused
    extract_lets dropped noted emptied removed left
    have hd : Inv dropped := h.foldl fun _ _ hu => hu.dropConsist
    have hl : Inv left := hd.noteFreed.modCore.update.leaveCore.modLaunch
    split
    · exact hl.refresh.lands
    · exact (Inv.ite hl.count hl).refresh.lands

theorem Inv.applyRecord {l e} (h : Inv s) : Inv (s.applyRecord l e) := by
  unfold State.applyRecord
  extract_lets
  split
  · exact h
  · next eu =>
      have hu := h.charge.verifyAll.fst_of_eq eu
      exact (Inv.ite hu.count hu).drainObject
  · next eu => exact (h.charge.verifyAll.fst_of_eq eu).contextFatal

theorem Inv.applyJournal {l} (h : Inv s) : Inv (s.applyJournal l) := h.foldl fun _ _ hu => hu.applyRecord

theorem Inv.execLaunchEnd {l} (h : Inv s) : Lands (execLaunchEnd l s) := by
  unfold Machine.execLaunchEnd
  split
  · exact Lands.refused
  · exact Lands.ite h.applyJournal.dropLaunch.modNode.lands Lands.refused

theorem Inv.without {ctx} (h : Inv s) : Inv (s.without ctx) := h.mapCores.update

theorem Inv.execSliceExpiry {ctx} (h : Inv s) : Lands (execSliceExpiry ctx s) := Lands.ite h.modCtx.lands Lands.refused

theorem Inv.renewSlices : ∀ {fuel s}, Inv s → Inv (State.renewSlices s fuel)
  | 0, _, h => h
  | fuel + 1, s, h => by
    unfold State.renewSlices
    split
    · exact h
    · exact (h.foldl fun _ _ hu => hu.modCtx).renewSlices

theorem Inv.halt {ctx} (h : Inv s) : Inv (s.halt ctx) := by
  unfold State.halt
  exact (h.foldl (fun _ _ hu => hu.modCore)).modCtx

theorem Inv.execPreempt {ctx} (h : Inv s) : Lands (execPreempt ctx s) := Lands.ite h.halt.lands Lands.refused

theorem Inv.withdraw {q} (h : Inv s) : Inv (s.withdraw q) := by
  unfold State.withdraw
  extract_lets
  split
  · exact h.dropReq.update
  · exact h.dropReq.update.modThread

theorem Inv.execHaltComplete {ctx} (h : Inv s) : Lands (execHaltComplete ctx s) :=
  Lands.ite (h.foldl (fun _ _ hu => hu.withdraw)).update.modCtx.lands Lands.refused

/-- The definition is unfolded first: compared by unification alone, the image's contents would be evaluated. -/
theorem Inv.writeImage {save ctx core} (h : Inv s) : Inv (s.writeImage save ctx core) := by
  unfold State.writeImage
  have hw := h.writeMem (t := .hbm) (a := s.imageAt ctx core) (bs := imageContents save core)
  exact ⟨hw.hbm, h.lp, h.weight, h.link, h.tb⟩

theorem Inv.readImage {ctx core} (h : Inv s) : Inv (s.readImage ctx core).1 := h.foldl fun _ _ hu => hu.verify

theorem Inv.switchOut {ctx} (h : Inv s) : Inv (s.switchOut ctx) := by
  unfold State.switchOut
  extract_lets
  split
  next eu =>
    have hu := h.fresh.snd_of_eq eu
    extract_lets _ _ dropped noted freed emptied written
    have hn : Inv noted := hu.dropSetNumbers.foldl fun _ _ hv => hv.noteFreed
    have hf : Inv freed := hn.foldl fun _ _ hv => hv.noteFreed
    have he : Inv emptied := hf.foldl fun _ _ hv => hv.modCore
    have hw : Inv written := he.unhalt.foldl fun _ _ hv => hv.writeImage
    exact hw.update

theorem Inv.execSaveComplete {ctx written} (h : Inv s) : Lands (execSaveComplete ctx written s) :=
  Lands.ite (Lands.ite h.switchOut.modCtx.lands h.contextFatal.lands) Lands.refused

theorem Inv.resumeCopy {core p r} (h : Inv s) : Inv (s.resumeCopy core p r) := by
  unfold State.resumeCopy
  extract_lets
  split
  · exact Inv.ite h.modCore h.modLaunch.modCore
  · exact h.modLaunch.modCore
  · exact h.modCore

theorem Inv.resumeRequests {l p core} (h : Inv s) : Inv (s.resumeRequests l p core) := by
  unfold State.resumeRequests
  extract_lets
  split
  · next eu => exact (Inv.snd_of_eq (h.modParcel.foldl (fun _ _ hv => hv.resumeCopy)).modCore.modLaunch.fresh eu).modCtx

theorem Inv.resume {l p core} (h : Inv s) : Inv (s.resume l p core) := Inv.ite h.putParcel.resumeRequests h.putParcel

theorem Inv.restore {l p core} (h : Inv s) : Inv (s.restore l p core) := by
  unfold State.restore
  split
  · next eu => exact (h.readImage.fst_of_eq eu).launchFatal
  · next eu => exact (h.readImage.fst_of_eq eu).update.resume

theorem Inv.rejoin {p} (h : Inv s) : Inv (s.rejoin p) := by
  unfold State.rejoin
  extract_lets issued _ numbered watched
  have hn : Inv numbered := h.modCore.foldl fun _ _ hu => hu.modCore.modJob.jobStatus
  have hw : Inv watched := hn.foldl fun _ _ hu => Inv.ite hu.watchArrive hu.modCore
  exact hw.modParcel.refresh

theorem Inv.execParcelRestore {die k} (h : Inv s) : Lands (execParcelRestore die k s) := by
  unfold Machine.execParcelRestore
  split
  · exact Lands.refused
  · split
    · split
      · refine Lands.ite (h.foldl (fun _ _ hu => ?_)).lands Lands.refused
        split
        · exact hu.restore
        · exact hu
      · exact Lands.refused
    · exact Lands.ite h.rejoin.lands Lands.refused
    · exact Lands.refused

/-! ### Machine/Fetch.lean -/

theorem Inv.stand {core} (h : Inv s) : Inv (s.stand core) := Inv.ite h h.update

theorem Inv.swap {core} (h : Inv s) : Inv (s.swap core) := h.setCore

theorem Inv.endCycle {core} (h : Inv s) : Inv (s.endCycle core) := h.settle.stand.leave.join.swap.modCore

theorem Inv.execActiveSetSwap {core} (h : Inv s) : Lands (execActiveSetSwap core s) := Lands.ite Lands.refused h.endCycle.lands

theorem Inv.endCycles (h : Inv s) : Inv s.endCycles := h.foldl fun _ _ hu => Inv.ite hu hu.endCycle

theorem Inv.occupy {g i arith} (h : Inv s) : Inv (s.occupy g i arith) := Inv.ite h h.modCore

theorem Inv.begin {g i arith} (h : Inv s) : Inv (s.begin g i arith) := h.occupy.update

theorem Inv.trapGroup {g r} (h : Inv s) : Inv (s.trapGroup g r) := (h.foldl (fun _ _ hu => hu.trap)).refresh

/-- `%tb` is written here only, and modulo 2^64 (R409). -/
theorem Inv.passTime {ticks cycles} (h : Inv s) : Inv (s.passTime ticks cycles) := by
  unfold State.passTime
  extract_lets v
  have hv : Inv v := Inv.ite h h.endCycles
  exact Inv.renewSlices ⟨hv.hbm, hv.lp, hv.weight, hv.link, Nat.mod_lt _ (by decide)⟩

theorem Inv.fetchWait {core pc cycles} (h : Inv s) : Inv (s.fetchWait core pc cycles) := h.modCore

theorem Inv.meetsError {t unit kind} (h : Inv s) : Inv (s.meetsError t unit kind) := Inv.ite h h.update

/-- The environment's moves: time writes `%tb`, and a remote write the memory behind the links. -/
theorem Inv.outside {m} (h : Inv s) : Inv (s.outside m) := by
  unfold State.outside
  split
  · exact h.update
  · exact h.passTime
  · exact h.fetchWait
  · exact h.meetsError
  · exact ⟨h.hbm, h.lp, h.weight, Mem.write_wf _ h.link, h.tb⟩
  · exact h.contextFatal
  · exact h.update
  · exact h.update
  · exact h.rolled.modCtx
  · exact h

theorem Inv.nextMove (h : Inv s) : Inv s.nextMove.2 := by
  unfold State.nextMove
  split
  · exact h.update
  · exact h.update

/-! ### Machine/Integrity.lean -/

theorem Inv.execDebugControlBlock (h : Inv s) : Lands (execDebugControlBlock s) := Lands.ite h.setDev.modCtx.lands Lands.refused

theorem Inv.ringWrite {ring size bytes v} (h : Inv s) : Inv (s.ringWrite ring size bytes v) := h.setDev.setDev

theorem Inv.writeSamples {ctx c} (h : Inv s) : Inv (s.writeSamples ctx c) := by
  unfold State.writeSamples
  extract_lets
  split
  · next eu =>
      have hu := h.devCheck.fst_of_eq eu
      refine hu.foldl fun _ _ hv => ?_
      split
      · exact hv.ringWrite
      · exact hv
  · next eu => exact h.devCheck.fst_of_eq eu

theorem Inv.execPcSample {ctx} (h : Inv s) : Lands (execPcSample ctx s) := by
  unfold Machine.execPcSample
  refine Lands.ite h.debugRead.lands ?_
  split
  · next eu => exact Lands.ite (h.debugRead.fst_of_eq eu).writeSamples.modCtx.lands Lands.refused

theorem Inv.writeSeries {c} (h : Inv s) : Inv (s.writeSeries c) := by
  unfold State.writeSeries
  extract_lets
  split
  · next eu => exact (h.devCheck.fst_of_eq eu).foldl fun _ _ hv => hv.ringWrite
  · next eu => exact h.devCheck.fst_of_eq eu

theorem Inv.execCounterLatch (h : Inv s) : Lands (execCounterLatch s) := by
  unfold Machine.execCounterLatch
  refine Lands.ite h.debugRead.lands ?_
  split
  · next eu => exact Lands.ite (h.debugRead.fst_of_eq eu).writeSeries.mapCores.update.lands Lands.refused

theorem Inv.execDump (h : Inv s) : Lands (execDump s) := Lands.ite (Inv.ite h.modCtx.halt h.modCtx).lands Lands.refused

theorem Inv.execRegisterWrite (h : Inv s) : Lands (execRegisterWrite s) := by
  unfold Machine.execRegisterWrite
  refine Lands.ite Lands.refused ?_
  split
  · exact Lands.ite h.modCtx.lands Lands.refused
  · exact Lands.ite h.setDev.lands Lands.refused
  · exact Lands.ite h.update.lands Lands.refused
  · exact h.setDev.lands

theorem Inv.errorRecord {unit cls verdict place sub row addr} (h : Inv s) : Inv (s.errorRecord unit cls verdict place sub row addr) :=
  h.update

theorem Inv.execScrubRead (h : Inv s) : Lands (execScrubRead s) := by
  unfold Machine.execScrubRead
  extract_lets
  split
  · exact Lands.ite (h.foldl (fun _ _ hu => hu.verify)).lands Lands.refused

theorem Inv.execSelfTest (h : Inv s) : Lands (execSelfTest s) := by
  unfold Machine.execSelfTest
  split
  · exact Lands.refused
  · extract_lets _ ended counted cleared
    have hc : Inv counted := Inv.ite h.update.modBase h.update
    have hl : Inv cleared := Inv.ite hc.update hc
    exact hl.errorRecord.lands

theorem Inv.execLayerMapOut {stack layer} (h : Inv s) : Lands (execLayerMapOut stack layer s) := by
  unfold Machine.execLayerMapOut
  refine Lands.ite Lands.refused (Lands.ite (Lands.ite h.modBase.update.lands Lands.refused) (Lands.ite ?_ Lands.refused))
  split
  · next eu => exact (h.fresh.snd_of_eq eu).update.errorRecord.lands

theorem Inv.execHeartbeat {die master} (h : Inv s) : Lands (execHeartbeat die master s) := Lands.ite h.modBase.lands Lands.refused

theorem Inv.execMasterTakeover {die} (h : Inv s) : Lands (execMasterTakeover die s) := by
  unfold Machine.execMasterTakeover
  refine Lands.ite ?_ Lands.refused
  split
  · next eu =>
      have hu := h.fresh.snd_of_eq eu
      exact Lands.ite hu.modBase.errorRecord.lands hu.modBase.errorRecord.lands

theorem Inv.execStationMasterRefresh {die} (h : Inv s) : Lands (execStationMasterRefresh die s) := Lands.ite h.modBase.lands Lands.refused

theorem Inv.execFallbackRefresh {die} (h : Inv s) : Lands (execFallbackRefresh die s) := Lands.ite h.modBase.lands Lands.refused

/-- The device's own memories are empty afterwards; the memory behind the links and `%tb` stay. -/
theorem Inv.cleared (h : Inv s) : Inv s.cleared := ⟨rfl, rfl, rfl, h.link, h.tb⟩

theorem Inv.start {down fails} (h : Inv s) : Inv (s.start down fails) := by
  unfold State.start
  extract_lets stop _ fresh v kept
  have hv : Inv v := Inv.update (s := fresh) h.cleared
  have hk : Inv kept := Inv.ite hv ⟨h.hbm, h.lp, h.weight, hv.link, hv.tb⟩
  cases stop with
  | none => exact hk.update
  | some f => exact hk.update

theorem Inv.execColdStart {fails} (h : Inv s) : Lands (execColdStart fails s) := Lands.ite h.start.lands Lands.refused

theorem Inv.execWarmStart {fails} (h : Inv s) : Lands (execWarmStart fails s) := Lands.ite h.start.lands Lands.refused

theorem Inv.execAttestationSign (h : Inv s) : Lands (execAttestationSign s) := Lands.ite h.update.lands Lands.refused

/-! ### Machine/Port.lean -/

theorem Inv.openPort {i g xs} (h : Inv s) : Inv (openPort i g xs s).1 := h.modCore.fst_mk

theorem Inv.closePort {g} (h : Inv s) : Inv (closePort g s) := h.modCore

theorem Inv.enterPort {k a f} (h : Inv s) : Inv (s.enterPort k a f) := h.modCore.modThread

theorem Inv.issuePort {i body} (h : Inv s) (hb : ∀ s k t, Inv s → EffectInv (body s k t)) : Lands (issuePort i body s) :=
  h.issueWith (fun _ _ _ hs => hs.openPort) (fun _ => hb) fun _ _ hs => hs.closePort

theorem Inv.execLds {x} (h : Inv s) : Lands (execLds x s) := by
  unfold Machine.execLds
  refine h.issuePort fun _ _ _ hs => ?_
  extract_lets
  split
  · trivial
  · split
    · trivial
    · exact hs.enterPort

theorem Inv.execKld {x} (h : Inv s) : Lands (execKld x s) := by
  unfold Machine.execKld
  refine h.issuePort fun _ _ _ hs => ?_
  extract_lets
  split
  · trivial
  · split
    · trivial
    · exact EffectInv.ite trivial hs.enterPort

theorem Inv.queueStores {g accs} (h : Inv s) : Inv (s.queueStores g accs) := Inv.ite h h.modCore

theorem Inv.execSts {x} (h : Inv s) : Lands (execSts x s) := by
  unfold Machine.execSts
  extract_lets
  refine h.issueWith (fun _ _ _ hs => hs.queueStores) (fun rs s k t hs => ?_) fun _ _ hs => hs
  split
  · trivial
  · trivial
  · split
    · trivial
    · exact hs.modThread

theorem Inv.execKst {x} (h : Inv s) : Lands (execKst x s) := by
  unfold Machine.execKst
  extract_lets
  refine h.issueWith (fun _ _ _ hs => hs.queueStores) (fun rs s k t hs => ?_) fun _ _ hs => hs
  split
  · trivial
  · trivial
  · exact hs.modThread

theorem Inv.atomsBody {x k t} (h : Inv s) : EffectInv (atomsBody x s k t) := by
  unfold Machine.atomsBody
  extract_lets
  split
  · trivial
  · split
    · trivial
    · exact h.enterPort

theorem Inv.execAtomsAdd {x} (h : Inv s) : Lands (execAtomsAdd x s) := by
  unfold Machine.execAtomsAdd
  exact h.issuePort fun _ _ _ hs => hs.atomsBody

theorem Inv.execAtomsMin {x} (h : Inv s) : Lands (execAtomsMin x s) := by
  unfold Machine.execAtomsMin
  exact h.issuePort fun _ _ _ hs => hs.atomsBody

theorem Inv.execAtomsMax {x} (h : Inv s) : Lands (execAtomsMax x s) := by
  unfold Machine.execAtomsMax
  exact h.issuePort fun _ _ _ hs => hs.atomsBody

theorem Inv.execAtomsAnd {x} (h : Inv s) : Lands (execAtomsAnd x s) := by
  unfold Machine.execAtomsAnd
  exact h.issuePort fun _ _ _ hs => hs.atomsBody

theorem Inv.execAtomsOr {x} (h : Inv s) : Lands (execAtomsOr x s) := by
  unfold Machine.execAtomsOr
  exact h.issuePort fun _ _ _ hs => hs.atomsBody

theorem Inv.execAtomsXor {x} (h : Inv s) : Lands (execAtomsXor x s) := by
  unfold Machine.execAtomsXor
  exact h.issuePort fun _ _ _ hs => hs.atomsBody

theorem Inv.execAtomsSwap {x} (h : Inv s) : Lands (execAtomsSwap x s) := by
  unfold Machine.execAtomsSwap
  exact h.issuePort fun _ _ _ hs => hs.atomsBody

theorem Inv.execAtomsCas {x} (h : Inv s) : Lands (execAtomsCas x s) := by
  unfold Machine.execAtomsCas
  exact h.issuePort fun _ _ _ hs => hs.atomsBody

theorem Inv.barrierBody {x reads writes k t} (h : Inv s) : EffectInv (barrierBody x reads writes s k t) := by
  unfold Machine.barrierBody
  extract_lets
  split
  · trivial
  · split
    · trivial
    · exact h.enterPort

theorem Inv.execBinit {x} (h : Inv s) : Lands (execBinit x s) := by
  unfold Machine.execBinit
  exact h.issuePort fun _ _ _ hs => hs.barrierBody

theorem Inv.execArrive {x} (h : Inv s) : Lands (execArrive x s) := by
  unfold Machine.execArrive
  exact h.issuePort fun _ _ _ hs => hs.barrierBody

theorem Inv.execExpect {x} (h : Inv s) : Lands (execExpect x s) := by
  unfold Machine.execExpect
  exact h.issuePort fun _ _ _ hs => hs.barrierBody

theorem Inv.execWaitph {x} (h : Inv s) : Lands (execWaitph x s) := by
  unfold Machine.execWaitph
  exact h.issuePort fun _ _ _ hs => hs.barrierBody

theorem Inv.execTestph {x} (h : Inv s) : Lands (execTestph x s) := by
  unfold Machine.execTestph
  exact h.issuePort fun _ _ _ hs => hs.barrierBody

theorem Inv.later {k tix ws load} (h : Inv s) : Inv (s.later k tix ws load) := h.modThread

theorem Inv.strongWrite {k tix off release} (h : Inv s) : Inv (s.strongWrite k tix off release) := h.modParcel

theorem Inv.arriveAt {k t off b} (h : Inv s) : Inv (s.arriveAt k t off b) := h.strongWrite.modThread.modParcel.putBarrier.wake

theorem Inv.serveLds {k t a x} (h : Inv s) : ServedInv (s.serveLds k t a x) := by
  unfold State.serveLds
  extract_lets
  split
  · trivial
  · exact h.modParcel.later

theorem Inv.serveKld {k t a x} (h : Inv s) : ServedInv (s.serveKld k t a x) := by
  unfold State.serveKld
  extract_lets
  split
  · trivial
  · split
    · trivial
    · exact h.modParcel.later

theorem Inv.serveAtoms {k t a op x} (h : Inv s) : ServedInv (s.serveAtoms k t a op x) := by
  unfold State.serveAtoms
  extract_lets
  split
  · trivial
  · split
    · trivial
    · exact h.modParcel.strongWrite.later.wake

theorem Inv.serveBinit {k t a} (h : Inv s) : ServedInv (s.serveBinit k t a) := by
  unfold State.serveBinit
  extract_lets
  split
  · trivial
  · exact h.modParcel.strongWrite.wake

theorem Inv.serveArrive {k t a x} (h : Inv s) : ServedInv (s.serveArrive k t a x) := by
  unfold State.serveArrive
  extract_lets
  split
  · trivial
  · exact h.arriveAt.later

theorem Inv.serveExpect {k t a x} (h : Inv s) : ServedInv (s.serveExpect k t a x) := by
  unfold State.serveExpect
  extract_lets
  split
  · trivial
  · exact h.strongWrite.modThread.putBarrier.later

theorem Inv.serveWaitph {k t a} (h : Inv s) : ServedInv (s.serveWaitph k t a) := by
  unfold State.serveWaitph
  extract_lets
  split
  · exact h.modThread
  · exact h.modThread

theorem Inv.serveTestph {k t a x} (h : Inv s) : ServedInv (s.serveTestph k t a x) := h.modThread.later

theorem Inv.serveAccess {k i a} (h : Inv s) : ServedInv (s.serveAccess k i a) := by
  unfold State.serveAccess
  split
  · exact h
  · split
    · exact h.serveLds
    · exact h.serveKld
    iterate 8 exact h.serveAtoms
    · exact h.serveBinit
    · exact h.serveArrive
    · exact h.serveExpect
    · exact h.serveWaitph
    · exact h.serveTestph
    · exact h

theorem Inv.serveAll {k i} : ∀ {accs : List PAcc} {s done}, Inv s → Inv (serveAll k i accs s done).1
  | [], _, _, h => h
  | a :: rest, s, done, h => by
    have ha : ServedInv (s.serveAccess k i a) := h.serveAccess
    unfold Machine.serveAll
    split
    · next e =>
        rw [e] at ha
        exact Inv.serveAll ha
    · next e =>
        rw [e] at ha
        exact Inv.serveAll ha
    · refine (Inv.trap ?_).serveAll
      split
      · exact h.modThread
      · exact h.modThread
      · exact h

theorem Inv.execScratchpadPass {core} (h : Inv s) : Lands (execScratchpadPass core s) := by
  unfold Machine.execScratchpadPass
  split
  · exact Lands.refused
  · refine Lands.ite Lands.refused ?_
    extract_lets _ _ _ _ marked r served freed ended
    have hr : Inv served := h.count.count.modCore.serveAll
    have he : Inv ended := Inv.ite (hr.modCore.foldl fun _ _ hu => hu.modParcel) hr.modCore
    exact he.refresh.lands

theorem Inv.execLoadDeliver {t} (h : Inv s) : Lands (execLoadDeliver t s) := by
  unfold Machine.execLoadDeliver
  split
  · split
    · exact h.modThread.refresh.lands
    · exact Lands.refused
  · exact Lands.refused

theorem Inv.execStorePerform {t} (h : Inv s) : Lands (execStorePerform t s) := Lands.ite h.storePass.refresh.lands Lands.refused

theorem Inv.execEngineLanding {p k} (h : Inv s) : Lands (execEngineLanding p k s) := by
  unfold Machine.execEngineLanding
  split
  · split
    · exact Lands.ite Lands.refused h.modParcel.refresh.lands
    · exact Lands.refused
  · exact Lands.refused

theorem Inv.execEngineByteCount {p k} (h : Inv s) : Lands (execEngineByteCount p k s) := by
  unfold Machine.execEngineByteCount
  split
  · split
    · refine Lands.ite Lands.refused (Inv.refresh ?_).lands
      split
      · exact h.modParcel.countBytes.modThread
      · exact h.modParcel.countBytes
    · exact Lands.refused
  · exact Lands.refused

theorem Inv.execEngineResultWrite {t k} (h : Inv s) : Lands (execEngineResultWrite t k s) := by
  unfold Machine.execEngineResultWrite
  split
  · split
    · split
      · exact h.resolve.refresh.lands
      · exact Lands.refused
    · exact Lands.refused
  · exact Lands.refused

theorem Inv.execWaitcnt {x} (h : Inv s) : Lands (execWaitcnt x s) := h.issue fun _ _ _ hs => EffectInv.ite hs trivial

theorem Inv.execFence {x} (h : Inv s) : Lands (execFence x s) := h.issue fun _ _ _ hs => Inv.ite hs.modThread.wake hs.modThread

/-! ### Machine/System.lean -/

theorem Inv.execMfsr {x} (h : Inv s) : Lands (execMfsr x s) := by
  unfold Machine.execMfsr
  refine h.issue fun _ _ _ hs => ?_
  split
  · exact hs
  · exact hs.modThread

theorem Inv.execMtsr {x} (h : Inv s) : Lands (execMtsr x s) := h.issue fun _ _ _ hs => hs.modThread

theorem Inv.execTrap {x} (h : Inv s) : Lands (execTrap x s) := h.issue fun _ _ _ _ => trivial

theorem Inv.execBkpt {x} (h : Inv s) : Lands (execBkpt x s) := by
  unfold Machine.execBkpt
  refine h.issue fun _ _ _ hs => ?_
  extract_lets
  split
  · next eu =>
      have hu := hs.trap.debugRead.fst_of_eq eu
      exact EffectInv.ite hu.faultRecord hu

theorem Inv.execEret {x} (h : Inv s) : Lands (execEret x s) := by
  unfold Machine.execEret
  refine h.issue fun _ _ _ hs => ?_
  split
  · trivial
  · exact hs.modThread

theorem Inv.execUnassignedOpcode {w} (h : Inv s) : Lands (execUnassignedOpcode w s) := h.issue fun _ _ _ _ => trivial

theorem Inv.execClkrd {x} (h : Inv s) : Lands (execClkrd x s) := h.issue fun _ _ _ hs => EffectInv.ite trivial hs.modThread

theorem Inv.execPerfrd {x} (h : Inv s) : Lands (execPerfrd x s) :=
  h.issueWith (fun _ _ _ hs => hs) (fun _ _ _ _ hs => hs.modThread) fun _ _ hs => hs

theorem Inv.execArithmeticResultWrite {t} (h : Inv s) : Lands (execArithmeticResultWrite t s) := by
  unfold Machine.execArithmeticResultWrite
  split
  · exact Lands.ite Lands.refused h.modThread.refresh.lands
  · exact Lands.refused

/-! ### Machine/Dispatch.lean -/

/-- A case for each of the instructions; those that compute a result in each thread alone are one case. -/
theorem Inv.exec {i} (h : Inv s) : Lands (exec i s) := by
  cases i with
  | add | addImm | addLong | sub | subImm | subLong | mul | mulImm | mulhi | mad | neg | abs | min | minImm | max | maxImm | clamp
  | addc | subb | sad | and | andImm | andLong | or | orImm | orLong | xor | xorImm | xorLong | not | andn | andnImm | shl | shlImm
  | shr | shrImm | sar | sarImm | rot | rotImm | bfx | bfi | popc | clz | ctz | brev | perm | lut3 | fadd | fsub | fmul | ffma | fmin
  | fmax | fdiv | fsqrt | frcp | frsq | fexp2 | flog2 | fsin | fcos | fclass | fscale | cvt | pack | unpack | frnd | mov | sel | movi
  | moviLong | cmp | cmpImm | cmpLong | fcmp | plop | pmov | krights | kinfo | kchk => exact h.issueArith
  | div | rem | kderive => exact h.issue fun _ _ _ hs => hs.arithBody
  | bra => exact h.execBra
  | bru => exact h.execBru
  | brx => exact h.execBrx
  | call => exact h.execCall
  | callx => exact h.execCallx
  | ret => exact h.execRet
  | exit => exact h.execExit
  | yield => exact h.execYield
  | nop => exact h.execNop
  | ovld => exact h.execOvld
  | lds => exact h.execLds
  | sts => exact h.execSts
  | atomsAdd => exact h.execAtomsAdd
  | atomsMin => exact h.execAtomsMin
  | atomsMax => exact h.execAtomsMax
  | atomsAnd => exact h.execAtomsAnd
  | atomsOr => exact h.execAtomsOr
  | atomsXor => exact h.execAtomsXor
  | atomsSwap => exact h.execAtomsSwap
  | atomsCas => exact h.execAtomsCas
  | binit => exact h.execBinit
  | arrive => exact h.execArrive
  | expect => exact h.execExpect
  | waitph => exact h.execWaitph
  | testph => exact h.execTestph
  | waitcnt => exact h.execWaitcnt
  | fence => exact h.execFence
  | cnew => exact h.execCnew
  | cfree => exact h.execCfree
  | join => exact h.execJoin
  | leave => exact h.execLeave
  | elect => exact h.execElect
  | cbar => exact h.execCbar
  | cshfl => exact h.execCshfl
  | creduce => exact h.execCreduce
  | cscan => exact h.execCscan
  | cvote => exact h.execCvote
  | cpin => exact h.execCpin
  | cpout => exact h.execCpout
  | cpxg => exact h.execCpxg
  | cpxs => exact h.execCpxs
  | cpmc => exact h.execCpmc
  | cptx => exact h.execCptx
  | tlread => exact h.execTlread
  | tlwatch => exact h.execTlwatch
  | engq => exact h.execEngq
  | engres => exact h.execEngres
  | kld => exact h.execKld
  | kst => exact h.execKst
  | obres => exact h.execObres
  | obfree => exact h.execObfree
  | obinfo => exact h.execObinfo
  | mshape => exact h.execMshape
  | mma => exact h.execMma
  | mmas => exact h.execMmas
  | mcommit => exact h.execMcommit
  | mdrop => exact h.execMdrop
  | azero => exact h.execAzero
  | amov => exact h.execAmov
  | aser => exact h.execAser
  | achk => exact h.execAchk
  | term => exact h.execTerm
  | adrain => exact h.execAdrain
  | ainfo => exact h.execAinfo
  | aflag => exact h.execAflag
  | snew => exact h.execSnew
  | sfree => exact h.execSfree
  | sins => exact h.execSins
  | sdel => exact h.execSdel
  | shas => exact h.execShas
  | scard => exact h.execScard
  | suni => exact h.execSuni
  | sint => exact h.execSint
  | sdif => exact h.execSdif
  | scpy => exact h.execScpy
  | sldl => exact h.execSldl
  | sstl => exact h.execSstl
  | snext => exact h.execSnext
  | srep => exact h.execSrep
  | shint => exact h.execShint
  | scost => exact h.execScost
  | crupd => exact h.execCrupd
  | crrd => exact h.execCrrd
  | crsnap => exact h.execCrsnap
  | crlap => exact h.execCrlap
  | crinfo => exact h.execCrinfo
  | trap => exact h.execTrap
  | eret => exact h.execEret
  | mfsr => exact h.execMfsr
  | mtsr => exact h.execMtsr
  | bkpt => exact h.execBkpt
  | clkrd => exact h.execClkrd
  | perfrd => exact h.execPerfrd
  | activeSetSwap => exact h.execActiveSetSwap
  | scratchpadPass => exact h.execScratchpadPass
  | loadDeliver => exact h.execLoadDeliver
  | storePerform => exact h.execStorePerform
  | engineLanding => exact h.execEngineLanding
  | engineByteCount => exact h.execEngineByteCount
  | engineResultWrite => exact h.execEngineResultWrite
  | yieldWake => exact h.execYieldWake
  | overlayResident => exact h.execOverlayResident
  | copyUnit => exact h.execCopyUnit
  | copyComplete => exact h.execCopyComplete
  | indexElement => exact h.execIndexElement
  | watchFire => exact h.execWatchFire
  | routeWalk => exact h.execRouteWalk
  | invalidateAck => exact h.execInvalidateAck
  | migrationPromote => exact h.execMigrationPromote
  | matrixRequestStart => exact h.execMatrixRequestStart
  | matrixGroupStep => exact h.execMatrixGroupStep
  | matrixRequestComplete => exact h.execMatrixRequestComplete
  | subnormalAssist => exact h.execSubnormalAssist
  | assistTimeout => exact h.execAssistTimeout
  | drainComplete => exact h.execDrainComplete
  | setRequestExecute => exact h.execSetRequestExecute
  | setBuildDone => exact h.execSetBuildDone
  | indexBlockSupply => exact h.execIndexBlockSupply
  | circleAdmit => exact h.execCircleAdmit
  | admissionDecision => exact h.execAdmissionDecision
  | spanAdmit => exact h.execSpanAdmit
  | spanPartAck => exact h.execSpanPartAck
  | circleRowPass => exact h.execCircleRowPass
  | lapEndReport => exact h.execLapEndReport
  | lapDeclare => exact h.execLapDeclare
  | lapStart => exact h.execLapStart
  | circleReplyLand => exact h.execCircleReplyLand
  | nodeDispatch => exact h.execNodeDispatch
  | nodeLaunch => exact h.execNodeLaunch
  | nodeTransform => exact h.execNodeTransform
  | nodeWeightFill => exact h.execNodeWeightFill
  | nodeWait => exact h.execNodeWait
  | nodeWaitSatisfied => exact h.execNodeWaitSatisfied
  | nodeSignal => exact h.execNodeSignal
  | nodeComplete => exact h.execNodeComplete
  | parcelPlace => exact h.execParcelPlace
  | scratchpadPrepare => exact h.execScratchpadPrepare
  | threadsStart => exact h.execThreadsStart
  | stealRequest => exact h.execStealRequest
  | stealReply => exact h.execStealReply
  | parcelFree => exact h.execParcelFree
  | launchEnd => exact h.execLaunchEnd
  | sliceExpiry => exact h.execSliceExpiry
  | deadlineMiss => exact h.execDeadlineMiss
  | preempt => exact h.execPreempt
  | haltComplete => exact h.execHaltComplete
  | saveComplete => exact h.execSaveComplete
  | parcelRestore => exact h.execParcelRestore
  | pcSample => exact h.execPcSample
  | layerMapOut => exact h.execLayerMapOut
  | heartbeat => exact h.execHeartbeat
  | masterTakeover => exact h.execMasterTakeover
  | fallbackRefresh => exact h.execFallbackRefresh
  | coldStart => exact h.execColdStart
  | warmStart => exact h.execWarmStart
  | unassignedOpcode => exact h.execUnassignedOpcode
  | arithmeticResultWrite => exact h.execArithmeticResultWrite
  | stationMasterRefresh => exact h.execStationMasterRefresh
  | contextEnable => exact h.execContextEnable
  | contextReset => exact h.execContextReset
  | queueEnable => exact h.execQueueEnable
  | doorbell => exact h.execDoorbell
  | queueStateClear => exact h.execQueueStateClear
  | objectTableWrite => exact h.execObjectTableWrite
  | objectInvalidate => exact h.execObjectInvalidate
  | objectDelete => exact h.execObjectDelete
  | leaseFaultBack => exact h.execLeaseFaultBack
  | leaseFaultRefuse => exact h.execLeaseFaultRefuse
  | migrationDemote => exact h.execMigrationDemote
  | hostLinkWrite => exact h.execHostLinkWrite
  | peerPortWrite => exact h.execPeerPortWrite
  | peerPortRead => exact h.execPeerPortRead
  | linkDown => exact h.execLinkDown
  | linkUp => exact h.execLinkUp
  | linkLaneError => exact h.execLinkLaneError
  | debugControlBlock => exact h.execDebugControlBlock
  | dump => exact h.execDump
  | registerWrite => exact h.execRegisterWrite
  | selfTest => exact h.execSelfTest
  | scrubRead => exact h.execScrubRead
  | attestationSign => exact h.execAttestationSign
  | counterLatch => exact h.execCounterLatch
  | budgetWindow => exact h.execBudgetWindow
  | wsRefreshWindow => exact h.execWsRefreshWindow

/-! ### Machine/Step.lean -/

theorem Lands.settleEvent {r} (h : Inv s) (hr : Lands r) : Lands (settleEvent s r) := by
  unfold Machine.settleEvent
  split
  · exact h.lands
  · exact hr

theorem Inv.runMove {m} (h : Inv s) : Lands (runMove s m) := by
  unfold Machine.runMove
  split
  · split
    · exact h.lands
    · split
      · exact h.trapGroup.lands
      · exact h.begin.exec
  · exact Lands.ite (Lands.settleEvent h h.exec) h.lands
  · exact h.outside.lands

theorem Inv.step (h : Inv s) : Lands (step s) := h.nextMove.runMove

/-- Settles O41: each operation of the model keeps the invariant, so each instruction and each move of the environment does. -/
theorem everyStepKeepsTheInvariant : Obligations.EveryStepKeepsTheInvariant := fun _ _ h hv => h.step _ hv

end Sys2Proof.Claims
end

section
/-!
# Parcels are placed, started and freed: the statement fails

`Placing` asks of a prepared parcel that it stands in its deque and fits, and leaves its `savedSegs` free. The placement of a parcel
reads back every overlay segment that it brings (R146, `State.loadSegments`), whatever its phase, and bytes that cannot be read end
the launch (R405, R422). A prepared parcel that lists an overlay of an object that no table lists is therefore gone after its
placement, where the statement has it stand on its core.
-/

namespace Sys2Proof.Claims
open Machine

/-- A yard puts a prepared parcel on its core. -/
theorem exec_parcelPlace_prepared {s : State} {die core : Nat} {l : Launch} {p : Parcel}
    (hc : s.placement die = some (l, [(p, core)])) (hp : s.parcel? p.key = some p) (hr : p.phase = .prepared) :
    exec (.parcelPlace die) s = .next (s.putParcel l p core) := by
  show execParcelPlace die s = _
  simp only [execParcelPlace, hc, hp, hr, if_true]

/-- A launch of one parcel, which waits in the deque of die 0. -/
def waitingLaunch : Launch := { loadedLaunch ⟨0, 1⟩ with deques := [(0, [0])] }

/-- Its parcel, prepared, with a saved overlay segment whose bytes are those of object 5. -/
def strayParcel : Parcel :=
  { waitingLaunch.newParcel 0 with core := noCore, phase := .prepared, savedSegs := [⟨waitingLaunch.key, overlayBase, 0, some (5, 0, 0), true, []⟩] }

/-- The device with that parcel alone; its context may place without a bound, and its object table is empty. -/
def strayState : State :=
  { State.reset.modCtx 0 (fun c => { c with
      desc := BitVec.ofNat 512 (0xFFF <<< 100 ||| 0xFFFFFFFF <<< 128 ||| 0xFFFFFFFF <<< 160 ||| 1) }) with
    launches := [waitingLaunch], parcels := [strayParcel] }

theorem strayState_placing : Placing strayState 0 waitingLaunch strayParcel 0 where
  chosen := by decide +kernel
  prepared := by decide +kernel
  launch := by decide +kernel
  deques := by decide +kernel
  clean := ⟨rfl, rfl⟩

theorem strayParcel_gone : (strayState.putParcel waitingLaunch strayParcel 0).parcel? strayParcel.key = none := by decide +kernel

/-- Refutes O34: object 5 cannot be read as the overlay of `strayParcel` is loaded, so the placement ends its launch and the parcel
is gone. -/
theorem not_parcelsArePlacedStartedAndFreed : ¬ Obligations.ParcelsArePlacedStartedAndFreed := by
  unfold Obligations.ParcelsArePlacedStartedAndFreed
  rintro ⟨-, -, hplace, -⟩
  obtain ⟨v, p', hv, hp', -⟩ := hplace strayState 0 waitingLaunch strayParcel 0 strayState_placing
  rw [exec_parcelPlace_prepared strayState_placing.chosen strayState_placing.prepared.1 strayState_placing.prepared.2] at hv
  injection hv with hv
  rw [← hv, strayParcel_gone] at hp'
  cases hp'

end Sys2Proof.Claims
end

section
/-!
# What is found after an update, for pre-emption

Reads of a core, a context and a launch after the updates of `Machine/Access.lean`, reads of sparse tables after a map over their
entries, and what a fold of updates keeps.
-/

namespace Sys2Proof.Machine

variable {s u : State}

/-! ### Cores, contexts and launches -/

@[simp] theorem State.core_modCore_same {n : Nat} {f : Core → Core} : (s.modCore n f).core n = f (s.core n) := Tbl.get_put_same

theorem State.core_modCore_other {m n : Nat} {f : Core → Core} (h : m ≠ n) : (s.modCore n f).core m = s.core m :=
  Tbl.get_put_other h

@[simp] theorem State.ctx_modCtx_same {n : Nat} {f : Ctx → Ctx} : (s.modCtx n f).ctx n = f (s.ctx n) := Tbl.get_put_same

theorem State.ctx_modCtx_other {m n : Nat} {f : Ctx → Ctx} (h : m ≠ n) : (s.modCtx n f).ctx m = s.ctx m := Tbl.get_put_other h

theorem State.launch?_key {k : LKey} {l : Launch} (h : s.launch? k = some l) : l.key = k := by
  simpa using List.find?_some h

theorem State.launch?_modLaunch {k k' : LKey} {f : Launch → Launch} (hf : ∀ x, (f x).key = x.key) :
    (s.modLaunch k f).launch? k' = (s.launch? k').map (fun x => if x.key = k then f x else x) := by
  unfold State.launch? State.modLaunch
  rw [find?_map_key]
  intro x
  split <;> simp [hf]

theorem State.launch?_modLaunch_isSome {k k' : LKey} {f : Launch → Launch} (hf : ∀ x, (f x).key = x.key) :
    ((s.modLaunch k f).launch? k').isSome = (s.launch? k').isSome := by
  rw [State.launch?_modLaunch hf, Option.isSome_map]

/-- A parcel of a list whose keys are pairwise different is found under its key. -/
theorem find?_key_of_nodup {ps : List Parcel} {p : Parcel} (hn : (ps.map (fun q => q.key)).Nodup) (hp : p ∈ ps) :
    ps.find? (fun q => q.key == p.key) = some p := by
  induction ps with
  | nil => cases hp
  | cons q ps ih =>
    obtain ⟨hq, hn⟩ := List.nodup_cons.mp hn
    rcases List.mem_cons.mp hp with rfl | hp
    · simp
    · have hne : ¬ q.key = p.key := fun e => hq (List.mem_map.mpr ⟨p, hp, e.symm⟩)
      simpa [List.find?_cons, hne] using ih hn hp

/-! ### Folds of updates -/

/-- What each update of a fold relates, the fold relates. -/
theorem foldl_rel {α : Type} {R : State → State → Prop} (refl : ∀ s, R s s) (trans : ∀ {s u v}, R s u → R u v → R s v)
    {f : State → α → State} (l : List α) (step : ∀ s a, R s (f s a)) (s : State) : R s (l.foldl f s) :=
  List.foldlRecOn (motive := R s) l f (refl s) (fun u hu a _ => trans hu (step u a))

section Cores
variable {f : State → Nat → State} {l : List Nat} {m : Nat}

/-- A fold of updates of one core each leaves the cores alone that it does not name. -/
theorem core_foldl_other (hf : ∀ s n m, m ≠ n → (f s n).core m = s.core m) (h : m ∉ l) : (l.foldl f s).core m = s.core m := by
  induction l generalizing s with
  | nil => rfl
  | cons n l ih =>
    rw [List.mem_cons, not_or] at h
    rw [List.foldl_cons, ih h.2, hf s n m h.1]

/-- What such a fold makes of a core that it names once is what its one update of it makes. -/
theorem core_foldl_mem (hf : ∀ s n m, m ≠ n → (f s n).core m = s.core m) (hl : l.Nodup) (h : m ∈ l) :
    ∃ u : State, u.core m = s.core m ∧ (l.foldl f s).core m = (f u m).core m := by
  induction l generalizing s with
  | nil => cases h
  | cons n l ih =>
    obtain ⟨hn, hl⟩ := List.nodup_cons.mp hl
    rw [List.foldl_cons]
    rcases List.mem_cons.mp h with rfl | h
    · exact ⟨s, rfl, core_foldl_other hf hn⟩
    · have hm : m ≠ n := fun e => hn (e ▸ h)
      obtain ⟨u, hu, hv⟩ := ih (s := f s n) hl h
      exact ⟨u, hu.trans (hf s n m hm), hv⟩

end Cores

/-! ### Sparse tables -/

section Tables
variable {α : Type} {d : α} {t : Tbl α} {i : Nat}

theorem Tbl.get_map_filter_above [DecidableEq α] {f : Nat → α → α} {n : Nat} (h : Tbl.above n t) (hi : i ≤ n) :
    Tbl.get d ((t.map (fun e => (e.1, f e.1 e.2))).filter (fun e => e.2 != d)) i = d := by
  refine Tbl.get_above (n := n) (fun e he => ?_) hi
  obtain ⟨x, hx, rfl⟩ := List.mem_map.mp (List.mem_filter.mp he).1
  exact h x hx

/-- A change of every entry of a table in canonical form, which takes the default to itself. -/
theorem Tbl.get_map_filter [DecidableEq α] {f : Nat → α → α} (hf : f i d = d) (ht : Tbl.canon d t) :
    Tbl.get d ((t.map (fun e => (e.1, f e.1 e.2))).filter (fun e => e.2 != d)) i = f i (Tbl.get d t i) := by
  induction t with
  | nil => exact hf.symm
  | cons e t ih =>
    obtain ⟨k, v⟩ := e
    obtain ⟨-, ha, ht⟩ := ht
    by_cases hk : k = i
    · subst hk
      by_cases hv : f k v = d
      · simp [Tbl.get, hv, Tbl.get_map_filter_above ha (Nat.le_refl k)]
      · simp [Tbl.get, hv]
    · by_cases hv : f k v = d <;> simp [Tbl.get, hv, hk, ih ht]

/-- The same without canonical form, where the changed entry is not the default. -/
theorem Tbl.get_map_filter_ne [DecidableEq α] {f : Nat → α → α} (hf : f i d = d) (hv : f i (Tbl.get d t i) ≠ d) :
    Tbl.get d ((t.map (fun e => (e.1, f e.1 e.2))).filter (fun e => e.2 != d)) i = f i (Tbl.get d t i) := by
  induction t with
  | nil => exact absurd hf hv
  | cons e t ih =>
    obtain ⟨k, v⟩ := e
    by_cases hk : k = i
    · subst hk
      simp only [Tbl.get, if_true] at hv ⊢
      simp [Tbl.get, hv]
    · simp only [Tbl.get, hk, if_false] at hv ⊢
      by_cases hw : f k v = d <;> simp [Tbl.get, hw, hk, ih hv]

/-- A table made of a function's values at some keys, of which only default ones are left out. -/
theorem Tbl.get_map_keep [DecidableEq α] {f : Nat → α} {keep : Nat × α → Bool} (hk : ∀ e, keep e = false → e.2 = d) (l : List Nat) :
    Tbl.get d ((l.map (fun j => (j, f j))).filter keep) i = if i ∈ l then f i else d := by
  induction l with
  | nil => rfl
  | cons j l ih =>
    by_cases e : j = i
    · subst e
      cases hj : keep (j, f j)
      · have hd : f j = d := hk _ hj
        rw [List.map_cons, List.filter_cons_of_neg (by simp [hj]), ih]
        simp [hd]
      · simp [hj, Tbl.get]
    · cases hj : keep (j, f j) <;> simp [hj, Tbl.get, e, Ne.symm e, ih]

end Tables

/-! ### Sorting -/

theorem insertBy_sorted {x : Nat} : ∀ {l : List Nat}, l.Pairwise (· ≤ ·) →
    (insertBy (fun a b => decide (a ≤ b)) x l).Pairwise (· ≤ ·)
  | [], _ => List.pairwise_singleton _ _
  | y :: ys, h => by
    obtain ⟨hy, hs⟩ := List.pairwise_cons.mp h
    unfold insertBy
    split
    · rename_i hyx
      refine List.pairwise_cons.mpr ⟨fun z hz => ?_, insertBy_sorted hs⟩
      rcases List.mem_cons.mp ((insertBy_perm _ x ys).mem_iff.mp hz) with rfl | hz
      · simpa using hyx
      · exact hy z hz
    · rename_i hyx
      refine List.pairwise_cons.mpr ⟨fun z hz => ?_, h⟩
      have hxy : x ≤ y := by simp at hyx; omega
      rcases List.mem_cons.mp hz with rfl | hz
      · exact hxy
      · exact Nat.le_trans hxy (hy z hz)

theorem sortBy_sorted (l : List Nat) : (sortBy (fun a b => decide (a ≤ b)) l).Pairwise (· ≤ ·) :=
  List.foldlRecOn (motive := fun l : List Nat => l.Pairwise (· ≤ ·)) l _ List.Pairwise.nil (fun _ h _ _ => insertBy_sorted h)

end Sys2Proof.Machine
end

section
/-!
# Slices and the choice of pre-emption (R392, R393, R397)

`State.chosen` folds over the contexts that qualify, and keeps of two the one that R393 takes first (`State.Within`).
-/

namespace Sys2Proof.Machine

variable {s : State}

/-! ### Slices -/

theorem exec_sliceExpiry {ctx : Nat} (hr : s.resident ctx ≠ []) (he : s.expired ctx = true)
    (hw : ∀ l ∈ s.launches, s.waitsFor ctx l = false) : exec (.sliceExpiry ctx) s = .next (s.modCtx ctx Ctx.nextSlice) := by
  have h : s.renews ctx = true := by
    simp only [State.renews, Bool.and_eq_true, Bool.not_eq_true', List.isEmpty_eq_false_iff, List.any_eq_false]
    exact ⟨⟨hr, he⟩, fun l hl => by simp [hw l hl]⟩
  show execSliceExpiry ctx s = _
  rw [execSliceExpiry, if_pos h]

/-- A launch that waits for a context is another one's, and its front parcel fits on no die. -/
theorem State.waitsFor_fitsNowhere {c : Nat} {l : Launch} (h : s.waitsFor c l = true) : l.key.ctx ≠ c ∧ ∀ die < 16, ∀ pix,
    l.front die = some pix → s.place? l die (s.waitingParcel l pix) = none := by
  simp only [State.waitsFor, Bool.and_eq_true, bne_iff_ne, Bool.not_eq_true'] at h
  obtain ⟨⟨⟨⟨hc, -⟩, -⟩, hf⟩, -⟩ := h
  refine ⟨hc, fun die hd pix hp => ?_⟩
  have := List.any_eq_false.mp hf die (List.mem_range.mpr hd)
  simpa [hp] using this

/-! ### The chosen context -/

/-- R393 takes context `c` no later than `d`: the best running launch of `c` ranks lower, or as low and `c` was restored no earlier. -/
def State.Within (s : State) (c d : Nat) : Prop :=
  s.bestGrade d < s.bestGrade c ∨ (s.bestGrade d = s.bestGrade c ∧ (s.ctx d).lastRestored ≤ (s.ctx c).lastRestored)

theorem State.Within.refl (c : Nat) : s.Within c c := .inr ⟨rfl, Nat.le_refl _⟩

theorem State.Within.trans {a b c : Nat} (h : s.Within a b) (h' : s.Within b c) : s.Within a c := by
  unfold State.Within at *
  omega

/-- Of the best context so far and another one, the one that is taken first. -/
def State.better (s : State) (best : Option Nat) (c : Nat) : Option Nat :=
  match best with
  | none => some c
  | some b => if s.bestGrade b < s.bestGrade c ∨ (s.bestGrade b = s.bestGrade c ∧ (s.ctx b).lastRestored < (s.ctx c).lastRestored)
      then some c else some b

theorem State.chosen_eq : s.chosen = ((List.range 64).filter s.qualifies).foldl s.better none := rfl

/-- The one of two contexts that is kept is one of them, and neither is taken before it. -/
theorem State.better_some (b c : Nat) : ∃ x, s.better (some b) c = some x ∧ (x = b ∨ x = c) ∧ s.Within x b ∧ s.Within x c := by
  unfold State.better
  by_cases h : s.bestGrade b < s.bestGrade c ∨ (s.bestGrade b = s.bestGrade c ∧ (s.ctx b).lastRestored < (s.ctx c).lastRestored)
  · refine ⟨c, if_pos h, .inr rfl, ?_, .refl c⟩
    unfold State.Within
    omega
  · refine ⟨b, if_neg h, .inl rfl, .refl b, ?_⟩
    unfold State.Within
    omega

theorem State.foldl_better (l : List Nat) (b : Nat) : ∃ c, l.foldl s.better (some b) = some c ∧ (c = b ∨ c ∈ l) ∧ s.Within c b ∧
    ∀ d ∈ l, s.Within c d := by
  induction l generalizing b with
  | nil => exact ⟨b, rfl, .inl rfl, .refl b, by simp⟩
  | cons a l ih =>
    obtain ⟨x, hx, hm, hb, ha⟩ := s.better_some b a
    obtain ⟨c, hc, hcm, hcx, hl⟩ := ih x
    refine ⟨c, by rw [List.foldl_cons, hx, hc], ?_, hcx.trans hb, ?_⟩
    · rcases hcm with rfl | hcm
      · exact hm.imp_right (by rintro rfl; exact List.mem_cons_self)
      · exact .inr (List.mem_cons_of_mem _ hcm)
    · rintro d (_ | ⟨_, hd⟩)
      · exact hcx.trans ha
      · exact hl d hd

/-- The context that is pre-empted qualifies, and no other one that does is taken before it. -/
theorem State.chosen_some {c : Nat} (h : s.chosen = some c) : (c < 64 ∧ s.qualifies c = true) ∧
    ∀ d < 64, s.qualifies d = true → s.Within c d := by
  rw [State.chosen_eq] at h
  have hm : ∀ d, d ∈ (List.range 64).filter s.qualifies ↔ d < 64 ∧ s.qualifies d = true := by simp
  generalize (List.range 64).filter s.qualifies = l at h hm
  cases l with
  | nil => cases h
  | cons b l =>
    obtain ⟨x, hx, hxm, hxb, hxl⟩ := s.foldl_better l b
    obtain rfl : x = c := Option.some.inj (hx.symm.trans h)
    refine ⟨(hm x).mp (by simpa using hxm), fun d hd hq => ?_⟩
    rcases List.mem_cons.mp ((hm d).mpr ⟨hd, hq⟩) with rfl | hdl
    · exact hxb
    · exact hxl d hdl

/-! ### Pre-emption -/

theorem State.mem_coresOf {ctx n : Nat} : n ∈ s.coresOf ctx ↔ ∃ p ∈ s.parcels, p.key.ctx = ctx ∧ p.placed = true ∧ p.core = n := by
  simp [State.coresOf, State.resident, and_assoc]

theorem State.coresOf_nodup {ctx : Nat} : (s.coresOf ctx).Nodup := List.nodup_dedup _

theorem exec_preempt {ctx : Nat} (hc : s.chosen = some ctx) (hr : s.restoring ctx = false) (hl : s.completing ctx = false) :
    exec (.preempt ctx) s = .next (s.halt ctx) := by
  obtain ⟨⟨-, hq⟩, -⟩ := State.chosen_some hc
  simp only [State.qualifies, Bool.and_eq_true, beq_iff_eq] at hq
  obtain ⟨⟨hh, -⟩, -⟩ := hq
  show execPreempt ctx s = _
  simp [execPreempt, hh, hr, hl, hc]

/-- A core on its halt. -/
def Core.halt (c : Core) : Core := { c with halting := true }

theorem State.halt_eq (ctx : Nat) : s.halt ctx =
    ((s.coresOf ctx).foldl (fun s n => s.modCore n Core.halt) s).modCtx ctx (fun c => { c with halt := .halting }) := rfl

theorem State.halt_frame (ctx : Nat) : s.halt ctx = { s with cores := (s.halt ctx).cores, ctxs := (s.halt ctx).ctxs } := by
  have h : ∀ u : State, u = (s.coresOf ctx).foldl (fun s n => s.modCore n Core.halt) s → u = { s with cores := u.cores } := by
    rintro _ rfl
    exact foldl_rel (R := fun s u => u = { s with cores := u.cores }) (fun _ => rfl) (fun h h' => by rw [h', h])
      _ (fun _ _ => rfl) s
  rw [State.halt_eq, h _ rfl]
  rfl

theorem State.halt_core_mem {ctx n : Nat} (h : n ∈ s.coresOf ctx) : ((s.halt ctx).core n).halting = true := by
  obtain ⟨u, -, hu⟩ := core_foldl_mem (f := fun s n => s.modCore n Core.halt) (s := s)
    (fun _ _ _ h => State.core_modCore_other h) State.coresOf_nodup h
  have : (s.halt ctx).core n = (u.modCore n Core.halt).core n := hu
  rw [this, State.core_modCore_same]
  rfl

theorem State.halt_core_other {ctx n : Nat} (h : n ∉ s.coresOf ctx) : (s.halt ctx).core n = s.core n :=
  core_foldl_other (f := fun s n => s.modCore n Core.halt) (fun _ _ _ h => State.core_modCore_other h) h

end Sys2Proof.Machine

namespace Sys2Proof.Claims
open Machine

theorem preemptionChoosesTheLowestRank : PreemptionChoosesTheLowestRank := by
  refine ⟨fun s ctx hr he hw => ?_, fun s c l h => State.waitsFor_fitsNowhere h, fun s c h => ?_, fun s ctx hc hr hl => ?_⟩
  · exact ⟨_, exec_sliceExpiry hr he hw, rfl, fun n hn => State.ctx_modCtx_other hn, State.ctx_modCtx_same⟩
  · obtain ⟨⟨hc, hq⟩, hd⟩ := State.chosen_some h
    exact ⟨hc, hq, hd⟩
  · have hf := s.halt_frame ctx
    refine ⟨_, exec_preempt hc hr hl, ?_, by rw [hf], by rw [hf]; rfl, fun p hp hx hpl => ?_, fun n hn => ?_⟩
    · rw [State.halt_eq, State.ctx_modCtx_same]
    · exact State.halt_core_mem (State.mem_coresOf.mpr ⟨p, hp, hx, hpl, rfl⟩)
    · refine State.halt_core_other fun h => ?_
      obtain ⟨p, hp, hx, hpl, e⟩ := State.mem_coresOf.mp h
      exact hn p hp hx hpl e

end Sys2Proof.Claims
end

section
/-!
# The halt of a context (R394, R395, R348)

HALT_COMPLETE withdraws the blocking requests that wait (`State.withdrawAll`) and empties the issue state of the threads
(`Parcel.haltFor`).
-/

namespace Sys2Proof.Machine

variable {s : State}

/-- The blocking Circle requests of a context's resident parcels that wait for their admission. -/
def State.waiters (s : State) (ctx : Nat) : List CircleReq :=
  s.circle.filter (fun q => q.key.ctx == ctx && q.blocking && (s.resident ctx).any (fun p => p.key == q.key)
    && (q.stage == .waiting || q.stage == .spanning))

/-- The state without them. -/
def State.withdrawAll (s : State) (ctx : Nat) : State := (s.waiters ctx).foldl (fun s q => s.withdraw q) s

theorem exec_haltComplete {ctx : Nat} (hh : (s.ctx ctx).halt = .halting) (hd : s.haltDone ctx = true) :
    exec (.haltComplete ctx) s = .next (({ s.withdrawAll ctx with
      parcels := (s.withdrawAll ctx).parcels.map (fun p => p.haltFor ctx) } : State).modCtx ctx (fun c => { c with halt := .halted })) := by
  show execHaltComplete ctx s = _
  rw [execHaltComplete, if_pos ⟨hh, hd⟩]
  rfl

/-- Only Circle requests, their wait lists and parcels differ. -/
def State.OnlyRequests (s u : State) : Prop :=
  u = { s with circle := u.circle, slices := u.slices, regions := u.regions, parcels := u.parcels }

theorem State.withdraw_frame (s : State) (q : CircleReq) : s.OnlyRequests (s.withdraw q) := by
  unfold State.withdraw State.OnlyRequests
  extract_lets
  split <;> rfl

theorem State.withdraw_circle (s : State) (q : CircleReq) : (s.withdraw q).circle = s.circle.filter (fun r => r.id != q.id) := by
  unfold State.withdraw
  extract_lets
  split <;> rfl

theorem State.withdrawAll_frame (s : State) (ctx : Nat) : s.OnlyRequests (s.withdrawAll ctx) :=
  foldl_rel (R := State.OnlyRequests) (fun _ => rfl) (fun h h' => by rw [State.OnlyRequests, h', h]) _ State.withdraw_frame s

/-- A request that is withdrawn is found no more. -/
theorem State.withdrawAll_circle? {ctx : Nat} {q : CircleReq} (h : q ∈ s.waiters ctx) : (s.withdrawAll ctx).circle? q.id = none := by
  have key : ∀ (l : List CircleReq) (s : State), (q ∈ l ∨ ∀ r ∈ s.circle, r.id ≠ q.id) →
      ∀ r ∈ (l.foldl (fun s q => s.withdraw q) s).circle, r.id ≠ q.id := by
    intro l
    induction l with
    | nil => exact fun s h => h.resolve_left (by simp)
    | cons w l ih =>
      refine fun s h => ih _ ?_
      by_cases hq : q ∈ l
      · exact .inl hq
      · refine .inr fun r hr => ?_
        obtain ⟨hr, hw⟩ := List.mem_filter.mp (State.withdraw_circle s w ▸ hr)
        rcases h with h | h
        · obtain rfl : q = w := (List.mem_cons.mp h).resolve_right hq
          simpa using hw
        · exact h r hr
  refine List.find?_eq_none.mpr fun r hr => ?_
  simpa using key _ s (.inl h) r hr

@[simp] theorem Parcel.haltFor_key (p : Parcel) (ctx : Nat) : (p.haltFor ctx).key = p.key := by
  unfold Parcel.haltFor
  split <;> rfl

@[simp] theorem Parcel.haltFor_placed (p : Parcel) (ctx : Nat) : (p.haltFor ctx).placed = p.placed := by
  unfold Parcel.haltFor
  split <;> rfl

theorem Parcel.haltFor_threads {p : Parcel} {ctx : Nat} (hc : p.key.ctx = ctx) (hp : p.placed = true) :
    (p.haltFor ctx).threads = p.threads.map Thread.halted := by
  rw [Parcel.haltFor, if_pos ⟨hc, hp⟩]

theorem Thread.halted_not_short (t : Thread) (ds : List Dest) : t.halted.status ≠ .short ds := by
  unfold Thread.halted
  cases t.status <;> simp

/-- A halt is complete only when no Circle request of the context's resident parcels is on its way. -/
theorem State.haltDone_sent {ctx : Nat} {q : CircleReq} {p : Parcel} (h : s.haltDone ctx = true) (hq : q ∈ s.circle) (hc : q.key.ctx = ctx)
    (hp : p ∈ s.resident ctx) (hk : p.key = q.key) (hd : q.drop = false) : q.stage ≠ .sent := by
  simp only [State.haltDone, Bool.and_eq_true] at h
  obtain ⟨-, h⟩ := h
  have hm : q ∈ s.circle.filter (fun q => q.key.ctx == ctx && !q.drop && (s.resident ctx).any (fun p => p.key == q.key)) := by
    simp only [List.mem_filter, Bool.and_eq_true, beq_iff_eq, Bool.not_eq_true', List.any_eq_true]
    exact ⟨hq, ⟨hc, hd⟩, p, hp, hk⟩
  have := List.all_eq_true.mp h q hm
  intro e
  simp [CircleReq.holdsHalt, e] at this

end Sys2Proof.Machine

namespace Sys2Proof.Claims
open Machine

/-- HALT_COMPLETE, as the first part of `HaltedContextsAreSavedWhole` states it. -/
theorem haltComplete_halts (s : State) (ctx : Nat) (hh : (s.ctx ctx).halt = .halting) (hd : s.haltDone ctx = true) :
    ∃ v, exec (.haltComplete ctx) s = .next v ∧ (v.ctx ctx).halt = .halted ∧ SameMemory s v ∧ v.cores = s.cores ∧
      (∀ p ∈ v.parcels, p.key.ctx = ctx → p.placed = true → ∀ t ∈ p.threads, t.due = [] ∧ t.reuse = none ∧ ∀ ds, t.status ≠ .short ds) ∧
      ∀ q ∈ s.circle, q.key.ctx = ctx → (∃ p ∈ s.parcels, p.key = q.key ∧ p.placed = true) →
        (q.blocking = true → (q.stage = .waiting ∨ q.stage = .spanning) → v.circle? q.id = none) ∧ (q.drop = false → q.stage ≠ .sent) := by
  have hf := s.withdrawAll_frame ctx
  refine ⟨_, exec_haltComplete hh hd, ?_, ?_, ?_, ?_, ?_⟩
  · rw [State.ctx_modCtx_same]
  · show SameMemory s (s.withdrawAll ctx)
    rw [hf]
    rfl
  · show (s.withdrawAll ctx).cores = _
    rw [hf]
  · intro p hp hc hpl t ht
    obtain ⟨p, -, rfl⟩ := List.mem_map.mp hp
    rw [Parcel.haltFor_key] at hc
    rw [Parcel.haltFor_placed] at hpl
    rw [Parcel.haltFor_threads hc hpl] at ht
    obtain ⟨t, -, rfl⟩ := List.mem_map.mp ht
    exact ⟨rfl, rfl, t.halted_not_short⟩
  · rintro q hq hc ⟨p, hp, hk, hpl⟩
    have hr : p ∈ s.resident ctx := by simp [State.resident, hp, hk, hc, hpl]
    refine ⟨fun hb hs => ?_, State.haltDone_sent hd hq hc hr hk⟩
    refine State.withdrawAll_circle? (s := s) (ctx := ctx) ?_
    simp only [State.waiters, List.mem_filter, Bool.and_eq_true, beq_iff_eq, List.any_eq_true, Bool.or_eq_true]
    exact ⟨hq, ⟨⟨hc, hb⟩, p, hr, hk⟩, hs⟩

end Sys2Proof.Claims
end

section
/-!
# A context is saved (R396)

`State.switchOut` first empties the cores of the context, which changes cores alone (`State.vacate`), then writes an image for each of
them, and last replaces parcels and deques (`State.switchOut_eq`). The lemmas below follow these three parts.
-/

namespace Sys2Proof.Machine

variable {s u : State} {ctx : Nat}

/-! ### The cores are vacated -/

/-- Only cores and the next serial number differ, and the table of cores keeps its canonical form. -/
structure State.OnlyCores (s u : State) : Prop where
  frame : u = { s with cores := u.cores, nextUid := u.nextUid }
  canon : Tbl.canon Core.initial s.cores → Tbl.canon Core.initial u.cores

theorem State.OnlyCores.refl (s : State) : s.OnlyCores s := ⟨rfl, id⟩

theorem State.OnlyCores.trans {s u v : State} (h : s.OnlyCores u) (h' : u.OnlyCores v) : s.OnlyCores v :=
  ⟨by rw [h'.frame, h.frame], fun hc => h'.canon (h.canon hc)⟩

theorem State.modCore_onlyCores (s : State) (n : Nat) (f : Core → Core) : s.OnlyCores (s.modCore n f) := ⟨rfl, Tbl.put_canon⟩

theorem State.OnlyCores.foldl {α : Type} {f : State → α → State} (l : List α) (hf : ∀ (s : State) a, s.OnlyCores (f s a)) (s : State) :
    s.OnlyCores (l.foldl f s) :=
  foldl_rel (R := State.OnlyCores) State.OnlyCores.refl State.OnlyCores.trans l hf s

theorem State.dropSetNumbers_onlyCores (s : State) (gone : SetReq → Bool) : s.OnlyCores (s.dropSetNumbers gone) :=
  .foldl _ (fun _ _ => State.modCore_onlyCores _ _ _) s

/-- Whether a parcel is among those of a context that are resident. -/
def State.leaves (s : State) (ctx : Nat) (k : PKey) : Bool := (s.resident ctx).any (fun p => p.key == k)

/-- What is left on a core of a context once its parcels are gone. -/
def Core.vacated (c : Core) (ctx : Nat) (gone : PKey → Bool) : Core :=
  { c.dropRequests gone with
    entries := [], segments := c.segments.filter (fun g => g.launch.ctx != ctx), wakes := c.wakes.filter (fun w => w.launch.ctx != ctx) }

/-- What a core holds for the launches of a context is noted as freed on it. -/
def State.noteLaunches (s : State) (ctx n : Nat) : State :=
  s.noteFreed n { s.nothingFreed ctx with
    segments := ((s.core n).segments.filter (fun g => g.launch.ctx == ctx)).length, sets := s.nearSets n }

/-- The cores of a context give up what its parcels and its launches hold there. -/
def State.vacate (s : State) (ctx : Nat) : State :=
  let t := s.fresh.2.dropSetNumbers (fun r => s.leaves ctx r.key && !s.fresh.2.farPending r.uid)
  let t := (s.resident ctx).foldl (fun s p => s.noteFreed p.core (s.holding p)) t
  let t := (s.coresOf ctx).foldl (fun s n => s.noteLaunches ctx n) t
  (s.coresOf ctx).foldl (fun t n => t.modCore n (fun c => c.vacated ctx (s.leaves ctx))) t

/-- The images of the cores of a context are written, by the save with a serial number. -/
def State.writeImages (s : State) (save ctx : Nat) (cores : List Nat) : State := cores.foldl (fun t n => t.writeImage save ctx n) s

/-- The state with the context's cores empty, before their images are written. -/
def State.emptied (s : State) (ctx : Nat) : State := (s.vacate ctx).unhalt ctx

/-- The same with the images written. -/
def State.imaged (s : State) (ctx : Nat) : State := (s.emptied ctx).writeImages s.nextUid ctx (s.coresOf ctx)

theorem State.switchOut_eq (s : State) (ctx : Nat) : s.switchOut ctx =
    let w := s.imaged ctx
    { w with
      parcels := w.parcels.filter (fun p => !s.leaves ctx p.key) ++ (s.resident ctx).map (s.savedParcel s.nextUid),
      launches := w.launches.map (fun l => if l.key.ctx = ctx then
        l.switchedOut (s.resident ctx) (s.parcels.filter (fun p => p.phase == .saved)) else l) } := rfl

theorem State.noteFreed_onlyCores (s : State) (n : Nat) (f : Freed) : s.OnlyCores (s.noteFreed n f) := s.modCore_onlyCores n _

theorem State.vacate_onlyCores (s : State) (ctx : Nat) : s.OnlyCores (s.vacate ctx) := by
  have hfresh : s.OnlyCores s.fresh.2 := ⟨rfl, id⟩
  unfold State.vacate
  extract_lets numbered freed noted
  have hn : s.OnlyCores numbered := hfresh.trans (State.dropSetNumbers_onlyCores _ _)
  have hf : s.OnlyCores freed := hn.trans (.foldl _ (fun _ _ => State.noteFreed_onlyCores _ _ _) _)
  have hl : s.OnlyCores noted := hf.trans (.foldl _ (fun s n => s.noteFreed_onlyCores n _) _)
  exact hl.trans (.foldl _ (fun _ _ => State.modCore_onlyCores _ _ _) _)

theorem State.vacate_core {n : Nat} (h : n ∈ s.coresOf ctx) : ∃ c, (s.vacate ctx).core n = Core.vacated c ctx (s.leaves ctx) := by
  obtain ⟨u, -, hu⟩ := core_foldl_mem (f := fun t n => t.modCore n (fun c => c.vacated ctx (s.leaves ctx)))
    (s := (s.coresOf ctx).foldl (fun s n => s.noteLaunches ctx n) ((s.resident ctx).foldl (fun s p => s.noteFreed p.core (s.holding p))
      (s.fresh.2.dropSetNumbers (fun r => s.leaves ctx r.key && !s.fresh.2.farPending r.uid))))
    (fun _ _ _ h => State.core_modCore_other h) State.coresOf_nodup h
  exact ⟨u.core n, hu.trans State.core_modCore_same⟩

/-- Only the mark of a halt differs between two cores. -/
def Core.SameButHalt (c d : Core) : Prop := { d with halting := c.halting } = c

theorem State.unhalt_core (hc : Tbl.canon Core.initial s.cores) (n : Nat) : (s.core n).SameButHalt ((s.unhalt ctx).core n) := by
  have h : (s.unhalt ctx).core n =
      (if (s.residents n).all (fun p => p.key.ctx == ctx) then { s.core n with halting := false } else s.core n) :=
    Tbl.get_map_filter (i := n)
      (f := fun n (c : Core) => if (s.residents n).all (fun p => p.key.ctx == ctx) then { c with halting := false } else c)
      (by split <;> rfl) hc
  rw [h]
  split <;> rfl

theorem mem_dropRequests_copies {c : Core} {gone : PKey → Bool} {r : CopyReq} (h : r ∈ (c.dropRequests gone).copies) : gone r.key = false := by
  simpa using (List.mem_filter.mp h).2

theorem mem_dropRequests_matrix {c : Core} {gone : PKey → Bool} {r : MatrixReq} (h : r ∈ (c.dropRequests gone).matrix) :
    gone r.key = false := by
  simpa using (List.mem_filter.mp h).2

theorem mem_dropRequests_sets {c : Core} {gone : PKey → Bool} {r : SetReq} (h : r ∈ (c.dropRequests gone).sets) : gone r.key = false := by
  simpa using (List.mem_filter.mp h).2

/-- A core that holds nothing of a context: no entry, no segment of its launches, and no request of its parcels. -/
structure Core.Empties (c : Core) (ctx : Nat) (gone : PKey → Bool) : Prop where
  entries : c.entries = []
  segments : ∀ g ∈ c.segments, g.launch.ctx ≠ ctx
  copies : ∀ r ∈ c.copies, gone r.key = false
  matrix : ∀ r ∈ c.matrix, gone r.key = false
  sets : ∀ r ∈ c.sets, gone r.key = false

theorem Core.vacated_empties (c : Core) (ctx : Nat) (gone : PKey → Bool) : (c.vacated ctx gone).Empties ctx gone where
  entries := rfl
  segments g hg := by simpa using (List.mem_filter.mp hg).2
  copies _ hr := mem_dropRequests_copies hr
  matrix _ hr := mem_dropRequests_matrix hr
  sets _ hr := mem_dropRequests_sets hr

theorem Core.Empties.congr {c d : Core} {gone : PKey → Bool} (h : c.Empties ctx gone) (e : c.SameButHalt d) : d.Empties ctx gone := by
  rw [← e] at h
  exact ⟨h.entries, h.segments, h.copies, h.matrix, h.sets⟩

/-! ### The images are written -/

@[simp] theorem imageContents_length (save core : Nat) : (imageContents save core).length = imageBytes := by
  rw [imageContents, List.length_map, List.length_range]

theorem imageContents_get {save core i : Nat} (h : i < (imageContents save core).length) :
    (imageContents save core)[i] = Config.imageByte save core i := by
  simp only [imageContents, List.getElem_map, List.getElem_range]

/-- Only HBM, its check values and the images differ. -/
def State.OnlyImages (s u : State) : Prop :=
  u = { s with hbm := u.hbm, poison := u.poison, memFaults := u.memFaults, images := u.images }

theorem State.writeImage_frame (s : State) (save ctx n : Nat) : s.OnlyImages (s.writeImage save ctx n) := by
  unfold State.OnlyImages State.writeImage
  dsimp only

theorem State.writeImages_frame (s : State) (save ctx : Nat) (l : List Nat) : s.OnlyImages (s.writeImages save ctx l) :=
  foldl_rel (R := State.OnlyImages) (fun _ => rfl) (fun h h' => by rw [State.OnlyImages, h', h]) l
    (fun s n => s.writeImage_frame save ctx n) s

theorem State.writeImage_ctxs (s : State) (save ctx n : Nat) : (s.writeImage save ctx n).ctxs = s.ctxs := by
  rw [s.writeImage_frame save ctx n]

theorem State.imageAt_congr (h : u.ctxs = s.ctxs) (ctx n : Nat) : u.imageAt ctx n = s.imageAt ctx n := by
  rw [State.imageAt, State.imageAt, State.ctx_congr h]

theorem State.imageUnit_congr (h : u.ctxs = s.ctxs) (ctx n i : Nat) : u.imageUnit ctx n i = s.imageUnit ctx n i := by
  rw [State.imageUnit, State.imageUnit, State.imageAt_congr h]

theorem State.writeImage_hbm (s : State) (save ctx n : Nat) :
    (s.writeImage save ctx n).hbm = Mem.write s.hbm (s.imageAt ctx n) (imageContents save n) := by
  unfold State.writeImage
  dsimp only

/-- A byte of the image of a core, once written, is the save's. -/
theorem State.writeImage_inside {save n i : Nat} (hi : i < imageBytes) :
    Mem.byte (s.writeImage save ctx n).hbm (s.imageAt ctx n + i) = Config.imageByte save n i := by
  have hi' : i < (imageContents save n).length := by rwa [imageContents_length]
  rw [State.writeImage_hbm, Mem.byte_write_inside _ hi', imageContents_get hi']

theorem State.writeImage_outside {save n b : Nat} (hb : b < s.imageAt ctx n ∨ s.imageAt ctx n + imageBytes ≤ b) :
    Mem.byte (s.writeImage save ctx n).hbm b = Mem.byte s.hbm b := by
  rw [State.writeImage_hbm, Mem.byte_write_outside]
  rwa [imageContents_length]

/-- The images of two cores lie apart. -/
theorem State.images_apart {m n i : Nat} (h : m ≠ n) (hi : i < imageBytes) :
    s.imageAt ctx m + i < s.imageAt ctx n ∨ s.imageAt ctx n + imageBytes ≤ s.imageAt ctx m + i := by
  unfold State.imageAt imageBytes at *
  omega

theorem State.writeImages_cons (s : State) (save ctx n : Nat) (l : List Nat) :
    s.writeImages save ctx (n :: l) = (s.writeImage save ctx n).writeImages save ctx l := by
  rw [State.writeImages, State.writeImages, List.foldl_cons]

theorem State.writeImages_outside {save b : Nat} {l : List Nat} (hb : ∀ n ∈ l, b < s.imageAt ctx n ∨ s.imageAt ctx n + imageBytes ≤ b) :
    Mem.byte (s.writeImages save ctx l).hbm b = Mem.byte s.hbm b := by
  induction l generalizing s with
  | nil => rfl
  | cons n l ih =>
    rw [State.writeImages_cons, ih, State.writeImage_outside (hb n List.mem_cons_self)]
    intro m hm
    rw [State.imageAt_congr (s.writeImage_ctxs save ctx n)]
    exact hb m (List.mem_cons_of_mem n hm)

theorem State.writeImages_inside {save n i : Nat} {l : List Nat} (hl : l.Nodup) (hn : n ∈ l) (hi : i < imageBytes) :
    Mem.byte (s.writeImages save ctx l).hbm (s.imageAt ctx n + i) = Config.imageByte save n i := by
  induction l generalizing s with
  | nil => cases hn
  | cons m l ih =>
    obtain ⟨hm, hl⟩ := List.nodup_cons.mp hl
    have hat := State.imageAt_congr (s.writeImage_ctxs save ctx m) ctx
    rw [State.writeImages_cons]
    rcases List.mem_cons.mp hn with rfl | hn
    · rw [State.writeImages_outside, State.writeImage_inside hi]
      intro k hk
      rw [hat]
      exact State.images_apart (fun e => hm (e ▸ hk)) hi
    · rw [← hat]
      exact ih hl hn

theorem State.writeImages_images {save n : Nat} {l : List Nat} (h : n ∈ l ∨ ∃ i ∈ s.images, i.ctx = ctx ∧ i.core = n) :
    ∃ i ∈ (s.writeImages save ctx l).images, i.ctx = ctx ∧ i.core = n := by
  induction l generalizing s with
  | nil => exact h.resolve_left (by simp)
  | cons m l ih =>
    rw [State.writeImages_cons]
    refine ih ?_
    by_cases hm : m = n
    · subst hm
      exact .inr ⟨⟨ctx, m, []⟩, List.mem_append_right _ List.mem_cons_self, rfl, rfl⟩
    · rcases h with h | ⟨i, hi, hc, rfl⟩
      · exact .inl ((List.mem_cons.mp h).resolve_left (Ne.symm hm))
      · refine .inr ⟨i, List.mem_append_left _ (List.mem_filter.mpr ⟨hi, ?_⟩), hc, rfl⟩
        simp [Ne.symm hm]

/-- No unit of an image that has been written is poisoned. -/
theorem State.writeImages_poison {save n i : Nat} {l : List Nat} (hi : s.imageUnit ctx n i = true)
    (h : n ∈ l ∨ (Tier.hbm, i) ∉ s.poison) : (Tier.hbm, i) ∉ (s.writeImages save ctx l).poison := by
  induction l generalizing s with
  | nil => exact h.resolve_left (by simp)
  | cons m l ih =>
    rw [State.writeImages_cons]
    refine ih (s := s.writeImage save ctx m) (by rw [State.imageUnit_congr (s.writeImage_ctxs save ctx m), hi]) ?_
    by_cases hm : m = n
    · subst hm
      refine .inr fun hp => ?_
      simpa [hi] using (List.mem_filter.mp hp).2
    · exact h.imp (fun h => (List.mem_cons.mp h).resolve_left (Ne.symm hm)) (fun h hp => h (List.mem_filter.mp hp).1)

/-! ### Parcels and deques -/

theorem State.mem_resident {p : Parcel} : p ∈ s.resident ctx ↔ p ∈ s.parcels ∧ p.key.ctx = ctx ∧ p.placed = true := by
  simp [State.resident]

theorem State.leaves_iff {k : PKey} : s.leaves ctx k = true ↔ ∃ p ∈ s.resident ctx, p.key = k := by simp [State.leaves]

theorem State.leaves_ctx {k : PKey} (h : s.leaves ctx k = true) : k.ctx = ctx := by
  obtain ⟨p, hp, rfl⟩ := State.leaves_iff.mp h
  exact (State.mem_resident.mp hp).2.1

theorem State.resident_nodup (h : (s.parcels.map (fun p => p.key)).Nodup) : ((s.resident ctx).map (fun p => p.key)).Nodup :=
  (List.filter_sublist.map _).nodup h

theorem State.emptied_frame (s : State) (ctx : Nat) :
    s.emptied ctx = { s with cores := (s.emptied ctx).cores, nextUid := (s.emptied ctx).nextUid } := by
  have h : s.emptied ctx = { s.vacate ctx with cores := (s.emptied ctx).cores } := rfl
  rw [h, (s.vacate_onlyCores ctx).frame]

theorem State.imaged_frame (s : State) (ctx : Nat) : s.imaged ctx =
    { s with
      cores := (s.emptied ctx).cores, nextUid := (s.emptied ctx).nextUid, hbm := (s.imaged ctx).hbm, poison := (s.imaged ctx).poison,
      memFaults := (s.imaged ctx).memFaults, images := (s.imaged ctx).images } := by
  have h : s.imaged ctx = { s.emptied ctx with
      hbm := (s.imaged ctx).hbm, poison := (s.imaged ctx).poison, memFaults := (s.imaged ctx).memFaults, images := (s.imaged ctx).images } :=
    State.writeImages_frame _ _ _ _
  rw [h, s.emptied_frame ctx]

theorem State.switchOut_parcels (s : State) (ctx : Nat) : (s.switchOut ctx).parcels =
    s.parcels.filter (fun p => !s.leaves ctx p.key) ++ (s.resident ctx).map (s.savedParcel s.nextUid) := by
  rw [State.switchOut_eq, s.imaged_frame ctx]

theorem State.switchOut_launches (s : State) (ctx : Nat) : (s.switchOut ctx).launches = s.launches.map (fun l => if l.key.ctx = ctx then
    l.switchedOut (s.resident ctx) (s.parcels.filter (fun p => p.phase == .saved)) else l) := by
  rw [State.switchOut_eq, s.imaged_frame ctx]

/-- A parcel of another context stands as it did. -/
theorem State.switchOut_parcel?_other {k : PKey} (h : k.ctx ≠ ctx) : (s.switchOut ctx).parcel? k = s.parcel? k := by
  have hsaved : ((s.resident ctx).map (s.savedParcel s.nextUid)).find? (fun p => p.key == k) = none := by
    refine List.find?_eq_none.mpr fun p hp => ?_
    obtain ⟨q, hq, rfl⟩ := List.mem_map.mp hp
    intro e
    obtain rfl : q.key = k := eq_of_beq e
    exact h (State.mem_resident.mp hq).2.1
  have hkeep : ∀ p : Parcel, decide ((!s.leaves ctx p.key) = true ∧ (p.key == k) = true) = (p.key == k) := by
    have hl : s.leaves ctx k = false := Bool.eq_false_iff.mpr fun hl => h (State.leaves_ctx hl)
    intro p
    by_cases hp : p.key = k <;> simp [hp, hl]
  rw [State.parcel?, State.switchOut_parcels, List.find?_append, hsaved, List.find?_filter, Option.or_none]
  simp only [hkeep]
  rfl

/-- A parcel that leaves its core stands as its image holds it. -/
theorem State.switchOut_parcel?_saved {p : Parcel} (hn : (s.parcels.map (fun p => p.key)).Nodup) (hp : p ∈ s.resident ctx) :
    (s.switchOut ctx).parcel? p.key = some (s.savedParcel s.nextUid p) := by
  have hgone : (s.parcels.filter (fun p => !s.leaves ctx p.key)).find? (fun q => q.key == p.key) = none := by
    refine List.find?_eq_none.mpr fun q hq e => ?_
    have hl := (List.mem_filter.mp hq).2
    rw [eq_of_beq e, State.leaves_iff.mpr ⟨p, hp, rfl⟩] at hl
    cases hl
  rw [State.parcel?, State.switchOut_parcels, List.find?_append, hgone, Option.none_or, List.find?_map]
  show ((s.resident ctx).find? (fun q => q.key == p.key)).map _ = _
  rw [find?_key_of_nodup (State.resident_nodup hn) hp]
  rfl

/-- A parcel saved before is still saved. -/
theorem State.switchOut_mem_saved {p : Parcel} (hn : (s.parcels.map (fun p => p.key)).Nodup) (hp : p ∈ s.parcels) (hs : p.phase = .saved) :
    p ∈ (s.switchOut ctx).parcels := by
  rw [State.switchOut_parcels]
  refine List.mem_append_left _ (List.mem_filter.mpr ⟨hp, ?_⟩)
  rw [Bool.not_eq_true', Bool.eq_false_iff]
  intro hl
  obtain ⟨q, hq, hk⟩ := State.leaves_iff.mp hl
  obtain ⟨hq, -, hpl⟩ := State.mem_resident.mp hq
  obtain rfl : q = p := List.inj_on_of_nodup_map hn hq hp hk
  simp [Parcel.placed, hs] at hpl

/-- The saved parcels of a launch in the deque of a die, those that leave their cores among them, in ascending `%pix`. -/
def Launch.savedFront (l : Launch) (ps old : List Parcel) (d : Nat) : List Nat :=
  sortBy (fun a b => decide (a ≤ b))
    (((ps.filter (fun p => p.key.launchKey == l.key)).filter (fun p => dieOf p.core == d)).map (fun p => p.key.pix)
      ++ (Tbl.get [] l.deques d).filter (fun pix => old.any (fun p => p.key == ⟨l.key.ctx, l.key.launch, pix⟩)))

theorem Launch.switchedOut_deque {l : Launch} {ps old : List Parcel} {d : Nat} (hd : d < 16) :
    Tbl.get [] (l.switchedOut ps old).deques d = l.savedFront ps old d ++
      (Tbl.get [] l.deques d).filter (fun pix => !old.any (fun p => p.key == ⟨l.key.ctx, l.key.launch, pix⟩)) := by
  refine (Tbl.get_map_keep (f := fun d => l.savedFront ps old d ++
    (Tbl.get [] l.deques d).filter (fun pix => !old.any (fun p => p.key == ⟨l.key.ctx, l.key.launch, pix⟩)))
    (keep := fun e => !e.2.isEmpty) (fun e h => by simpa using h) _).trans ?_
  rw [if_pos (List.mem_range.mpr hd)]

theorem Launch.mem_savedFront {l : Launch} {ps old : List Parcel} {d x : Nat} (h : x ∈ l.savedFront ps old d) :
    (∃ p ∈ ps, p.key = ⟨l.key.ctx, l.key.launch, x⟩) ∨ ∃ p ∈ old, p.key = ⟨l.key.ctx, l.key.launch, x⟩ := by
  rcases List.mem_append.mp (sortBy_mem.mp h) with h | h
  · obtain ⟨p, hp, rfl⟩ := List.mem_map.mp h
    obtain ⟨hp, -⟩ := List.mem_filter.mp hp
    obtain ⟨hp, hk⟩ := List.mem_filter.mp hp
    refine .inl ⟨p, hp, ?_⟩
    rw [← eq_of_beq hk]
    rfl
  · exact .inr (by simpa using (List.mem_filter.mp h).2)

theorem Launch.mem_savedFront_of_leaves {l : Launch} {ps old : List Parcel} {p : Parcel} (hp : p ∈ ps) (hk : p.key.launchKey = l.key) :
    p.key.pix ∈ l.savedFront ps old (p.core / 20) := by
  refine sortBy_mem.mpr (List.mem_append_left _ (List.mem_map_of_mem (List.mem_filter.mpr ⟨List.mem_filter.mpr ⟨hp, ?_⟩, ?_⟩)))
  · simp [hk]
  · simp [dieOf]

theorem State.switchOut_launch? {l : Launch} {k : LKey} (hl : s.launch? k = some l) (hc : k.ctx = ctx) :
    (s.switchOut ctx).launch? k = some (l.switchedOut (s.resident ctx) (s.parcels.filter (fun p => p.phase == .saved))) := by
  have hk := State.launch?_key hl
  rw [State.launch?, State.switchOut_launches, find?_map_key]
  · show (s.launch? k).map _ = _
    simp [hl, hk, hc]
  · intro x
    split <;> rfl

theorem exec_saveComplete_written (hh : (s.ctx ctx).halt = .halted) : exec (.saveComplete ctx true) s =
    .next ((s.switchOut ctx).modCtx ctx (fun c => { c with halt := .none, dumping := false, sliceEnd := 0 })) := by
  show execSaveComplete ctx true s = _
  rw [execSaveComplete, if_pos hh]
  rfl

/-- The core of a parcel that left it holds nothing of the context. -/
theorem State.switchOut_core {n : Nat} (hc : Tbl.wf Core.initial s.cores = true) (hn : n ∈ s.coresOf ctx) :
    ((s.switchOut ctx).core n).Empties ctx (s.leaves ctx) := by
  obtain ⟨c, he⟩ := s.vacate_core hn
  have hv : ((s.vacate ctx).core n).Empties ctx (s.leaves ctx) := he ▸ c.vacated_empties ctx _
  have hu : (s.switchOut ctx).cores = (s.emptied ctx).cores := by rw [State.switchOut_eq, s.imaged_frame ctx]
  rw [State.core_congr hu]
  exact hv.congr (State.unhalt_core ((s.vacate_onlyCores ctx).canon (Tbl.canon_of_wf hc)) n)

theorem State.emptied_ctxs (s : State) (ctx : Nat) : (s.emptied ctx).ctxs = s.ctxs := by rw [s.emptied_frame ctx]

theorem State.emptied_imageAt (s : State) (ctx n : Nat) : (s.emptied ctx).imageAt ctx n = s.imageAt ctx n :=
  State.imageAt_congr (s.emptied_ctxs ctx) ctx n

theorem State.switchOut_otherTiers (s : State) (ctx : Nat) :
    ((s.switchOut ctx).lp, (s.switchOut ctx).weight, (s.switchOut ctx).link) = (s.lp, s.weight, s.link) := by
  rw [State.switchOut_eq, s.imaged_frame ctx]

theorem State.switchOut_hbm (s : State) (ctx : Nat) : (s.switchOut ctx).hbm = (s.imaged ctx).hbm := rfl

theorem State.switchOut_hbm_outside {b : Nat} (hb : ∀ n ∈ s.coresOf ctx, b < s.imageAt ctx n ∨ s.imageAt ctx n + imageBytes ≤ b) :
    Mem.byte (s.switchOut ctx).hbm b = Mem.byte s.hbm b := by
  have hm : (s.emptied ctx).hbm = s.hbm := by rw [s.emptied_frame ctx]
  rw [State.switchOut_hbm, State.imaged, State.writeImages_outside, hm]
  intro n hn
  rw [s.emptied_imageAt ctx n]
  exact hb n hn

theorem State.switchOut_hbm_inside {n i : Nat} (hn : n ∈ s.coresOf ctx) (hi : i < imageBytes) :
    Mem.byte (s.switchOut ctx).hbm (s.imageAt ctx n + i) = Config.imageByte s.nextUid n i := by
  rw [State.switchOut_hbm, State.imaged, ← s.emptied_imageAt ctx n]
  exact State.writeImages_inside State.coresOf_nodup hn hi

theorem State.switchOut_poison {n i : Nat} (hn : n ∈ s.coresOf ctx) (hi : s.imageUnit ctx n i = true) :
    (Tier.hbm, i) ∉ (s.switchOut ctx).poison := by
  have hu : (s.emptied ctx).imageUnit ctx n i = true := by
    rw [State.imageUnit_congr (s.emptied_ctxs ctx), hi]
  exact State.writeImages_poison (l := s.coresOf ctx) hu (.inl hn)

theorem State.switchOut_images {n : Nat} (hn : n ∈ s.coresOf ctx) : ∃ i ∈ (s.switchOut ctx).images, i.ctx = ctx ∧ i.core = n :=
  State.writeImages_images (l := s.coresOf ctx) (.inl hn)

theorem State.savedParcel_savedSegs (s : State) (save : Nat) (p : Parcel) :
    (s.savedParcel save p).savedSegs.map (fun g => g.addr) = ((s.core p.core).segments.filter (fun g =>
      g.launch == p.key.launchKey && decide (262144 ≤ g.addr) && g.resident)).map (fun g => g.addr) := by
  rw [State.savedParcel, List.map_map]
  rfl

end Sys2Proof.Machine

namespace Sys2Proof.Claims
open Machine

variable {s : State} {ctx : Nat}

/-- Where a saved parcel stands: at the front of the deque of its die, among the saved ones of its launch, in ascending `%pix`. -/
theorem saved_at_front (hn : (s.parcels.map (fun p => p.key)).Nodup) {p : Parcel} (hp : p ∈ s.resident ctx) (hd : p.core < 320)
    {l : Launch} (hl : s.launch? p.key.launchKey = some l) :
    ∃ l' front, (s.switchOut ctx).launch? l.key = some l' ∧ p.key.pix ∈ front ∧ front.Pairwise (· ≤ ·) ∧
      (∀ x ∈ front, ∃ r ∈ (s.switchOut ctx).parcels, r.key = ⟨l.key.ctx, l.key.launch, x⟩ ∧ r.phase = .saved) ∧
      Tbl.get [] l'.deques (p.core / 20) = front ++ (Tbl.get [] l.deques (p.core / 20)).filter (fun x =>
        !s.parcels.any (fun r => r.key == ⟨l.key.ctx, l.key.launch, x⟩ && r.phase == .saved)) := by
  obtain ⟨hps, hc, -⟩ := State.mem_resident.mp hp
  have hk := State.launch?_key hl
  refine ⟨_, l.savedFront (s.resident ctx) (s.parcels.filter (fun p => p.phase == .saved)) (p.core / 20),
    hk ▸ State.switchOut_launch? hl hc, Launch.mem_savedFront_of_leaves hp hk.symm, sortBy_sorted _, fun x hx => ?_, ?_⟩
  · rcases Launch.mem_savedFront hx with ⟨q, hq, e⟩ | ⟨q, hq, e⟩
    · refine ⟨s.savedParcel s.nextUid q, ?_, e, rfl⟩
      rw [State.switchOut_parcels]
      exact List.mem_append_right _ (List.mem_map_of_mem hq)
    · obtain ⟨hq, hs⟩ := List.mem_filter.mp hq
      exact ⟨q, State.switchOut_mem_saved hn hq (eq_of_beq hs), e, eq_of_beq hs⟩
  · rw [Launch.switchedOut_deque (by omega)]
    simp only [List.any_filter, Bool.and_comm]

/-- What SAVE_COMPLETE leaves on the core of a parcel that it takes off. -/
theorem saved_core_empty (hc : Tbl.wf Core.initial s.cores = true) {p : Parcel} (hp : p ∈ s.resident ctx) :
    let c := (s.switchOut ctx).core p.core
    c.entries = [] ∧ (∀ g ∈ c.segments, g.launch.ctx ≠ ctx) ∧ (∀ r ∈ c.copies, r.key ≠ p.key) ∧ (∀ r ∈ c.matrix, r.key ≠ p.key) ∧
      ∀ r ∈ c.sets, r.key ≠ p.key := by
  obtain ⟨hps, hx, hpl⟩ := State.mem_resident.mp hp
  have he := State.switchOut_core hc (State.mem_coresOf.mpr ⟨p, hps, hx, hpl, rfl⟩)
  have hleft : ∀ k, s.leaves ctx k = false → k ≠ p.key := by
    rintro k hk rfl
    rw [State.leaves_iff.mpr ⟨p, hp, rfl⟩] at hk
    cases hk
  exact ⟨he.entries, he.segments, fun r hr => hleft _ (he.copies r hr), fun r hr => hleft _ (he.matrix r hr),
    fun r hr => hleft _ (he.sets r hr)⟩

end Sys2Proof.Claims
end

section
/-!
# A context ends where its images cannot be written (R373, R405)

`State.NoMoreOf` is what the steps of a context reset keep up to its end: they add no launch and no region, and a halted context
keeps its descriptor. A context that is halted differs from one that nothing was written to, so that a new budget window
(`State.rolled`) cannot unlist it.
-/

namespace Sys2Proof.Machine

variable {ctx : Nat} {s t u : State}

/-! ### Check values and fault records -/

/-- Only HBM, check values, self-tests and interrupts differ. -/
def State.OnlyRecords (s u : State) : Prop :=
  u = { s with hbm := u.hbm, memFaults := u.memFaults, poison := u.poison, tests := u.tests, msix := u.msix }

namespace State.OnlyRecords

theorem refl (s : State) : OnlyRecords s s := rfl

theorem trans (h : OnlyRecords s t) (h' : OnlyRecords t u) : OnlyRecords s u := by
  rw [OnlyRecords, h', h]

theorem fst_of_eq {β : Type} {x : State × β} {b : β} (h : OnlyRecords s x.1) (e : x = (u, b)) : OnlyRecords s u := by
  rw [e] at h; exact h

theorem ctxs (h : OnlyRecords s u) : u.ctxs = s.ctxs := by rw [h]
theorem nodes (h : OnlyRecords s u) : u.nodes = s.nodes := by rw [h]
theorem launches (h : OnlyRecords s u) : u.launches = s.launches := by rw [h]
theorem regions (h : OnlyRecords s u) : u.regions = s.regions := by rw [h]

theorem setPoison {k : Tier} {n : Nat} : OnlyRecords s (s.setPoison k n) := by
  unfold State.setPoison
  split <;> rfl

theorem verify {k : Tier} {n : Nat} : OnlyRecords s (s.verify k n).1 := by
  unfold State.verify
  split
  · rfl
  · split
    · rfl
    · extract_lets w
      have hw : OnlyRecords s w := rfl
      split
      · exact hw.trans rfl
      · exact (hw.trans setPoison).trans rfl
      · exact hw.trans rfl
      · exact (hw.trans setPoison).trans rfl

theorem verifyAll {k : Tier} {a n : Nat} : OnlyRecords s (s.verifyAll k a n).1 := by
  unfold State.verifyAll
  split
  · rfl
  · refine List.foldlRecOn (motive := fun x : State × Nat => OnlyRecords s x.1) _ _ (refl s) fun x hx i _ => ?_
    split
    · exact hx
    · exact hx.trans verify

theorem setDev {a n v : Nat} : OnlyRecords s (s.setDev a n v) := rfl

theorem putRecord {n : Nat} {r : FaultRec} : OnlyRecords s (s.putRecord n r) := by
  unfold State.putRecord
  extract_lets ring widx ridx sz lost written advanced
  have h : OnlyRecords s advanced := setDev.trans setDev
  split
  · exact h.trans rfl
  · exact setDev

theorem faultRecord {n : Nat} {r : FaultRec} : OnlyRecords s (s.faultRecord n r) := by
  unfold State.faultRecord
  split
  · next h => exact (verifyAll.fst_of_eq h).trans putRecord
  · next h => exact verifyAll.fst_of_eq h

end State.OnlyRecords

/-! ### What a context reset keeps up to its end -/

/-- No launch and no region comes to be, and a context that is halted stays so, with its descriptor. -/
structure State.NoMoreOf (ctx : Nat) (s u : State) : Prop where
  launches : ∀ l ∈ u.launches, l ∈ s.launches
  regions : ∀ r ∈ u.regions, ∃ r' ∈ s.regions, r'.obj = r.obj
  halted : (s.ctx ctx).halt = .halted → (u.ctx ctx).halt = .halted ∧ (u.ctx ctx).desc = (s.ctx ctx).desc

namespace State.NoMoreOf

theorem refl (s : State) : NoMoreOf ctx s s := ⟨fun _ h => h, fun r h => ⟨r, h, rfl⟩, fun h => ⟨h, rfl⟩⟩

theorem trans (h : NoMoreOf ctx s t) (h' : NoMoreOf ctx t u) : NoMoreOf ctx s u where
  launches l hl := h.launches l (h'.launches l hl)
  regions r hr := by
    obtain ⟨r', hr', e'⟩ := h'.regions r hr
    obtain ⟨r'', hr'', e⟩ := h.regions r' hr'
    exact ⟨r'', hr'', e.trans e'⟩
  halted hh := by
    obtain ⟨ht, hd⟩ := h.halted hh
    obtain ⟨hu, he⟩ := h'.halted ht
    exact ⟨hu, he.trans hd⟩

/-- Every field may change but these three. -/
theorem of_eq (hl : u.launches = s.launches) (hr : u.regions = s.regions) (hc : u.ctxs = s.ctxs) : NoMoreOf ctx s u where
  launches _ h := hl ▸ h
  regions r h := ⟨r, hr ▸ h, rfl⟩
  halted h := by rw [State.ctx_congr hc]; exact ⟨h, rfl⟩

theorem foldl {α : Type} {f : State → α → State} (l : List α) (hf : ∀ s a, NoMoreOf ctx s (f s a)) (s : State) :
    NoMoreOf ctx s (l.foldl f s) := foldl_rel (R := NoMoreOf ctx) refl trans l hf s

theorem foldl_fst {α β : Type} {f : State × β → α → State × β} {l : List α} {x : State × β} (hf : ∀ x a, NoMoreOf ctx x.1 (f x a).1) :
    NoMoreOf ctx x.1 (l.foldl f x).1 :=
  List.foldlRecOn (motive := fun y : State × β => NoMoreOf ctx x.1 y.1) l f (refl _) (fun y hy a _ => hy.trans (hf y a))

theorem fst_of_eq {β : Type} {x : State × β} {b : β} (h : NoMoreOf ctx s x.1) (e : x = (u, b)) : NoMoreOf ctx s u := by
  rw [e] at h; exact h

/-- A change of a context that keeps its descriptor and its halt. -/
theorem modCtx {n : Nat} {f : Ctx → Ctx} (hf : ∀ c, (f c).halt = c.halt ∧ (f c).desc = c.desc) : NoMoreOf ctx s (s.modCtx n f) where
  launches _ h := h
  regions r h := ⟨r, h, rfl⟩
  halted h := by
    by_cases e : ctx = n
    · subst e
      rw [State.ctx_modCtx_same, (hf _).1, (hf _).2]
      exact ⟨h, rfl⟩
    · rw [State.ctx_modCtx_other e]
      exact ⟨h, rfl⟩

/-! ### Memory -/

theorem setTier {k : Tier} {m : Mem} : NoMoreOf ctx s (s.setTier k m) := by
  cases k <;> exact of_eq rfl rfl rfl

theorem of_records (h : s.OnlyRecords u) : NoMoreOf ctx s u := of_eq h.launches h.regions h.ctxs

theorem verify {k : Tier} {n : Nat} : NoMoreOf ctx s (s.verify k n).1 := of_records .verify

theorem verifyAll {k : Tier} {a n : Nat} : NoMoreOf ctx s (s.verifyAll k a n).1 := of_records .verifyAll

/-- A halted context is listed, and stays so when the counts of its budget window restart. -/
theorem rolled : NoMoreOf ctx s s.rolled := by
  unfold State.rolled
  split
  · exact refl s
  · refine ⟨fun _ h => h, fun r h => ⟨r, h, rfl⟩, fun hh => ?_⟩
    have hne : ({ s.ctx ctx with hbmBytes := 0, energy := 0 } : Ctx) ≠ Ctx.initial := fun e => by
      have := congrArg Ctx.halt e
      rw [hh] at this
      cases this
    have h := Tbl.get_map_filter_ne (d := Ctx.initial) (t := s.ctxs) (i := ctx)
      (f := fun _ (c : Ctx) => { c with hbmBytes := 0, energy := 0 }) rfl hne
    unfold State.ctx
    rw [h]
    exact ⟨hh, rfl⟩

theorem charge {n : Nat} {k : Tier} {a m : Nat} : NoMoreOf ctx s (s.charge n k a m) := by
  unfold State.charge
  split
  · split
    · exact refl s
    · exact rolled.trans (modCtx fun _ => ⟨rfl, rfl⟩)
  · exact refl s

theorem touch {k : Tier} {a n : Nat} : NoMoreOf ctx s (s.touch k a n) := by
  unfold State.touch
  split
  · split
    · exact refl s
    · exact of_eq rfl rfl rfl
  · exact refl s

theorem readTier {n : Nat} {k : Tier} {a m : Nat} : NoMoreOf ctx s (s.readTier n k a m).1 := by
  unfold State.readTier
  split
  next w e h =>
    have hw : NoMoreOf ctx s ((w.charge n k a m).touch k a m) := ((verifyAll.fst_of_eq h).trans charge).trans touch
    split <;> exact hw

theorem writeTier {n : Nat} {k : Tier} {a : Nat} {bs : List Byte} : NoMoreOf ctx s (s.writeTier n k a bs).1 := by
  unfold State.writeTier
  extract_lets m w c first last
  have hw : NoMoreOf ctx s w := charge.trans touch
  split
  · exact refl s
  · split
    next v e h =>
      have hv : NoMoreOf ctx s v := by
        split at h
        · exact hw.trans (verify.fst_of_eq h)
        · exact hw.fst_of_eq h
      split
      next x e' h' =>
        have hx : NoMoreOf ctx s x := by
          split at h'
          · exact hv.trans (verify.fst_of_eq h')
          · exact hv.fst_of_eq h'
        split
        · exact hx
        · extract_lets y
          have hy : NoMoreOf ctx x y := of_eq rfl rfl rfl
          exact hx.trans (hy.trans setTier)

theorem route {die : Nat} {o : OKey} {n : Nat} : NoMoreOf ctx s (s.route die o n).1 := by
  unfold State.route
  split
  · exact refl s
  · split
    · exact refl s
    · split
      · exact refl s
      · extract_lets w
        have hw : NoMoreOf ctx s w := modCtx fun _ => ⟨rfl, rfl⟩
        exact hw.trans (of_eq rfl rfl rfl)

theorem readObject {die : Nat} {o : OKey} {a n : Nat} : NoMoreOf ctx s (s.readObject die o a n).1 := by
  unfold State.readObject
  split
  · exact refl s
  · refine foldl_fst (x := (s, Except.ok [])) fun x piece => ?_
    split
    · exact refl _
    · next w bs =>
      split
      next y d? h =>
        have hy : NoMoreOf ctx w y := route.fst_of_eq h
        split
        · exact hy
        · split
          · exact hy
          · split
            split
            · next h' => exact hy.trans (readTier.fst_of_eq h')
            · next h' => exact hy.trans (readTier.fst_of_eq h')

theorem mirror {o : OKey} {n : Nat} {written : Tier × Nat} {off : Nat} {bs : List Byte} :
    NoMoreOf ctx s (s.mirror o n written off bs) := by
  unfold State.mirror
  split
  · exact refl s
  · exact foldl _ (fun _ _ => writeTier) s

theorem writeObject {die : Nat} {o : OKey} {a : Nat} {bs : List Byte} : NoMoreOf ctx s (s.writeObject die o a bs).1 := by
  unfold State.writeObject
  split
  · exact refl s
  · refine foldl_fst (x := (s, 0)) fun x piece => ?_
    split
    · exact refl _
    · split
      next y d? h =>
        have hy : NoMoreOf ctx x.1 y := route.fst_of_eq h
        split
        · exact hy
        · split
          · exact hy
          · split
            extract_lets
            split
            next h' => exact (hy.trans (writeTier.fst_of_eq h')).trans mirror

/-! ### Records and drains -/

theorem faultRecord {n : Nat} {r : FaultRec} : NoMoreOf ctx s (s.faultRecord n r) := of_records .faultRecord

theorem dataError {w : Issuer} {c o a n code : Nat} : NoMoreOf ctx s (s.dataError w c o a n code) := by
  unfold State.dataError
  split
  · exact faultRecord
  · exact refl s

theorem gather {who : Issuer} {c : Nat} {side : Side} {ranges : List (Nat × Nat)} : NoMoreOf ctx s (s.gather who c side ranges).1 := by
  unfold State.gather
  split
  · refine foldl_fst (x := (s, Except.ok [])) fun x p => ?_
    split
    · exact refl _
    · split
      · next h => exact (readObject.fst_of_eq h).trans dataError
      · next h => exact readObject.fst_of_eq h
  · exact refl s
  · exact refl s

theorem scatterParts {who : Issuer} {c : Nat} {o : OKey} {base : Nat} {chk : Bool} {data : Gather} :
    NoMoreOf ctx s (s.scatterParts who c o base chk data).1 := by
  unfold State.scatterParts
  refine foldl_fst (x := (s, 0)) fun x p => ?_
  split
  · exact refl _
  · extract_lets w die
    split
    next y e h =>
      have hy : NoMoreOf ctx w y := writeObject.fst_of_eq h
      split
      · exact hy.trans dataError
      · split
        · exact hy
        · split
          · next h' => exact (hy.trans (readObject.fst_of_eq h')).trans dataError
          · next h' => exact hy.trans (readObject.fst_of_eq h')

theorem scatter {who : Issuer} {c : Nat} {o : OKey} {base : Nat} {chk : Bool} {data : Gather} :
    NoMoreOf ctx s (s.scatter who c o base chk data).1 := by
  unfold State.scatter
  split
  · exact refl s
  · split
    · exact refl s
    · exact scatterParts

theorem drainObject {who : Issuer} {b : BitVec 256} {cap : QWord} {win : List Nat} : NoMoreOf ctx s (s.drainObject who b cap win).1 := by
  have hg : ∀ {w} {g : Except Nat Gather} {c : Prop} [Decidable c] {x : State × Except Nat Gather}, NoMoreOf ctx s x.1 →
      (if c then x else (s, .ok [])) = (w, g) → NoMoreOf ctx s w := by
    intro w g c _ x hx h
    split at h
    · exact hx.fst_of_eq h
    · exact (refl s).fst_of_eq h
  unfold State.drainObject
  extract_lets
  split
  · next h => exact hg gather h
  · next h => exact (hg gather h).trans scatter

theorem finishDrain {core : Nat} {d : Drain} : NoMoreOf ctx s (s.finishDrain core d) := by
  unfold State.finishDrain
  extract_lets
  exact drainObject.trans (of_eq rfl rfl rfl)

theorem finishDrains {c : Nat} : NoMoreOf ctx s (s.finishDrains c) := foldl _ (fun _ _ => foldl _ (fun _ _ => finishDrain) _) s

/-! ### The launches of a context end -/

theorem modCore {n : Nat} {f : Core → Core} : NoMoreOf ctx s (s.modCore n f) := of_eq rfl rfl rfl

theorem noteFreed {n : Nat} {f : Freed} : NoMoreOf ctx s (s.noteFreed n f) := modCore

theorem noteGone {l : LKey} {ps : List Parcel} : NoMoreOf ctx s (s.noteGone l ps) :=
  (foldl _ (fun _ _ => noteFreed) s).trans (foldl _ (fun _ _ => noteFreed) _)

theorem dropSetNumbers {gone : SetReq → Bool} : NoMoreOf ctx s (s.dropSetNumbers gone) := foldl _ (fun _ _ => modCore) s

theorem setQueueField {n q hi lo v : Nat} : NoMoreOf ctx s (s.setQueueField n q hi lo v) := by
  unfold State.setQueueField
  exact of_eq (State.setDev_launches _ _ _ _) (State.setDev_regions _ _ _ _) (State.setDev_ctxs _ _ _ _)

theorem mapCores {f : Nat → Core → Core} : NoMoreOf ctx s (s.mapCores f) := of_eq rfl rfl rfl

theorem dropCircle {gone : PKey → Bool} : NoMoreOf ctx s (s.dropCircle gone) where
  launches _ h := h
  regions r h := by
    obtain ⟨r', hr', rfl⟩ := List.mem_map.mp h
    exact ⟨r', hr', rfl⟩
  halted h := ⟨h, rfl⟩

theorem dropLaunch {l : LKey} : NoMoreOf ctx s (s.dropLaunch l) := by
  unfold State.dropLaunch
  extract_lets gone placed places cut left
  have hc : NoMoreOf ctx s cut := (noteGone.trans dropSetNumbers).trans mapCores
  have hl : NoMoreOf ctx s left := hc.trans dropCircle
  have hm : NoMoreOf ctx left (left.modCtx l.ctx (fun c => { c with
      leases := c.leases.filter (fun e => leaseField e 255 224 != l.launch),
      journal := c.journal.filter (fun r => r.launch != l.launch) })) := modCtx fun _ => ⟨rfl, rfl⟩
  clear_value left
  exact hl.trans ⟨fun x hx => (List.mem_filter.mp hx).1, hm.regions, hm.halted⟩

end State.NoMoreOf

/-! ### The end of a context -/

theorem State.dropLaunch_key {l : LKey} {x : Launch} (h : x ∈ (s.dropLaunch l).launches) : x.key ≠ l := by
  simpa using (List.mem_filter.mp h).2

/-- The launches that are dropped one after another are gone. -/
theorem State.foldl_dropLaunch_key {ks : List LKey} {x : Launch} (h : x ∈ (ks.foldl (fun s l => s.dropLaunch l) s).launches) :
    x ∈ s.launches ∧ x.key ∉ ks := by
  induction ks generalizing s with
  | nil => exact ⟨h, by simp⟩
  | cons k ks ih =>
    obtain ⟨hx, hk⟩ := ih h
    refine ⟨(NoMoreOf.dropLaunch (ctx := 0)).launches x hx, ?_⟩
    rw [List.mem_cons, not_or]
    exact ⟨State.dropLaunch_key hx, hk⟩

/-- The launches of a context end, its drains first (R373). -/
def State.endLaunches (s : State) (ctx : Nat) : State :=
  (((s.finishDrains ctx).launches.filter (fun l => l.key.ctx == ctx)).map (fun l => l.key)).foldl (fun s l => s.dropLaunch l) (s.finishDrains ctx)

/-- Steps 1 to 3 of a context reset but for the context's own record and what stands under its number (R373). -/
def State.resetSteps (s : State) (ctx : Nat) : State :=
  let cores := (((s.finishDrains ctx).parcels.filter (fun p => p.key.ctx == ctx && p.placed)).map (fun p => p.core)).dedup
  let freed := ((s.endLaunches ctx).regions.filter (fun r => r.obj.ctx == ctx)).foldl (fun s r => (s.applyRegion r).dropRegion r.obj)
    (s.endLaunches ctx)
  let stopped := (List.range 16).foldl (fun s q => s.setQueueField ctx q 119 116 3) freed
  (cores.foldl (fun s n => s.modCore n (fun c => { c with timelines := [], jobCursors := [] })) stopped).unhalt ctx

/-- The record of a context after its reset (R373). -/
def Ctx.reset (c : Ctx) : Ctx :=
  { Ctx.initial with
    desc := c.desc &&& ~~~ 2#512, debugAt := c.debugAt, lastLaunch := c.lastLaunch, hbmBytes := c.hbmBytes, energy := c.energy }

theorem State.clearContext_eq (s : State) (ctx : Nat) : s.clearContext ctx =
    { (s.resetSteps ctx).modCtx ctx Ctx.reset with
      images := (s.resetSteps ctx).images.filter (fun i => i.ctx != ctx),
      nodes := (s.resetSteps ctx).nodes.filter (fun n => n.ctx != ctx),
      routes := (s.resetSteps ctx).routes.filter (fun r => r.obj.ctx != ctx),
      migrations := (s.resetSteps ctx).migrations.filter (fun m => m.obj.ctx != ctx) } := rfl

/-- The record of a reset touches neither contexts nor nodes nor launches. -/
theorem State.contextReset_records (s : State) (ctx : Nat) : (s.clearContext ctx).OnlyRecords (s.contextReset ctx) := .faultRecord

theorem State.contextReset_ctx (s : State) (ctx : Nat) : (s.contextReset ctx).ctx ctx = ((s.resetSteps ctx).ctx ctx).reset := by
  rw [State.ctx_congr (s.contextReset_records ctx).ctxs, State.clearContext_eq]
  exact State.ctx_modCtx_same

theorem State.contextReset_nodes {n : Node} (h : n ∈ (s.contextReset ctx).nodes) : n.ctx ≠ ctx := by
  rw [(s.contextReset_records ctx).nodes, State.clearContext_eq] at h
  simpa using (List.mem_filter.mp h).2

theorem State.contextReset_launches (s : State) (ctx : Nat) : (s.contextReset ctx).launches = (s.resetSteps ctx).launches := by
  rw [(s.contextReset_records ctx).launches, State.clearContext_eq]
  rfl

theorem State.endLaunches_noMore (s : State) (ctx : Nat) : NoMoreOf ctx s (s.endLaunches ctx) :=
  NoMoreOf.finishDrains.trans (.foldl _ (fun _ _ => .dropLaunch) _)

theorem State.endLaunches_key {l : Launch} (h : l ∈ (s.endLaunches ctx).launches) : l.key.ctx ≠ ctx := by
  obtain ⟨hm, hk⟩ := State.foldl_dropLaunch_key h
  exact fun e => hk (List.mem_map_of_mem (List.mem_filter.mpr ⟨hm, by simp [e]⟩))

/-- Without a region of the context, what follows the end of its launches adds nothing. -/
theorem State.resetSteps_noMore (hr : ∀ r ∈ s.regions, r.obj.ctx ≠ ctx) : NoMoreOf ctx (s.endLaunches ctx) (s.resetSteps ctx) := by
  have hnone : (s.endLaunches ctx).regions.filter (fun r => r.obj.ctx == ctx) = [] := by
    refine List.filter_eq_nil_iff.mpr fun r hm e => ?_
    obtain ⟨r', hr', eo⟩ := (s.endLaunches_noMore ctx).regions r hm
    exact hr r' hr' (by rw [eo]; exact eq_of_beq e)
  unfold State.resetSteps
  rw [hnone, List.foldl_nil]
  exact ((NoMoreOf.foldl _ (fun _ _ => .setQueueField) _).trans (.foldl _ (fun _ _ => .modCore) _)).trans .mapCores

theorem exec_saveComplete_failed (hh : (s.ctx ctx).halt = .halted) :
    exec (.saveComplete ctx false) s = .next (s.contextFatal ctx 2 ((s.ctx ctx).field 447 384)) := by
  show execSaveComplete ctx false s = _
  rw [execSaveComplete, if_pos hh]
  rfl

theorem Ctx.enabled_eq (c : Ctx) : c.enabled = c.desc.getLsbD 0 := by
  have h : c.field 0 0 = bit (c.desc.getLsbD 0) := by
    rw [Ctx.field, bit]
    cases hb : c.desc.getLsbD 0 <;> simp_all [BitVec.getLsbD]
  rw [Ctx.enabled, h]
  cases c.desc.getLsbD 0 <;> rfl

/-- A context with ENABLE cleared (R405). -/
def Ctx.disabled (c : Ctx) : Ctx := { c with desc := c.desc &&& ~~~ 1#512 }

/-- A context-fatal event resets the disabled context, behind its record (R405). -/
theorem State.contextFatal_eq (s : State) (ctx code addr : Nat) :
    ∃ w, s.OnlyRecords w ∧ s.contextFatal ctx code addr = (w.modCtx ctx Ctx.disabled).contextReset ctx :=
  ⟨_, .faultRecord, rfl⟩

/-- A context-fatal event empties the context. -/
theorem State.contextFatal_empty (s : State) (ctx code addr : Nat) : let v := s.contextFatal ctx code addr
    ((v.ctx ctx).objects, (v.ctx ctx).leases, (v.ctx ctx).counters, (v.ctx ctx).halt) = ([], [], [], .none) ∧ ∀ n ∈ v.nodes, n.ctx ≠ ctx := by
  obtain ⟨w, -, he⟩ := s.contextFatal_eq ctx code addr
  dsimp only
  rw [he, State.contextReset_ctx]
  exact ⟨rfl, fun n => State.contextReset_nodes⟩

/-- One of a halted context without regions disables it and ends its launches. -/
theorem State.contextFatal_noRegions {code addr : Nat} (hh : (s.ctx ctx).halt = .halted) (hr : ∀ r ∈ s.regions, r.obj.ctx ≠ ctx) :
    ((s.contextFatal ctx code addr).ctx ctx).enabled = false ∧ ∀ l ∈ (s.contextFatal ctx code addr).launches, l.key.ctx ≠ ctx := by
  obtain ⟨w, hw, he⟩ := s.contextFatal_eq ctx code addr
  have hu : (w.modCtx ctx Ctx.disabled).ctx ctx = (s.ctx ctx).disabled := by
    rw [State.ctx_modCtx_same, State.ctx_congr hw.ctxs]
  have hru : ∀ r ∈ (w.modCtx ctx Ctx.disabled).regions, r.obj.ctx ≠ ctx := by
    rw [State.modCtx_regions, hw.regions]
    exact hr
  generalize w.modCtx ctx Ctx.disabled = u at he hu hru
  have hm := State.resetSteps_noMore hru
  rw [he, State.contextReset_ctx, State.contextReset_launches]
  refine ⟨?_, fun l hl => State.endLaunches_key (hm.launches l hl)⟩
  have hd := (((u.endLaunches_noMore ctx).trans hm).halted (by rw [hu]; exact hh)).2
  rw [Ctx.enabled_eq, Ctx.reset, hd, hu]
  simp [Ctx.disabled]

end Sys2Proof.Machine

namespace Sys2Proof.Claims
open Machine

theorem haltedContextsAreSavedWhole : HaltedContextsAreSavedWhole := by
  refine ⟨haltComplete_halts, fun s ctx hh hn _ hc => ?_, fun s ctx hh => ?_⟩
  · refine ⟨_, exec_saveComplete_written hh, by rw [State.ctx_modCtx_same], by rw [State.ctx_modCtx_same],
      fun k hk => State.switchOut_parcel?_other hk, ?_, fun b hb => State.switchOut_hbm_outside hb,
      ⟨s.nextUid, fun n hn i hi => State.switchOut_hbm_inside hn hi⟩, fun p hp hx hpl hd => ?_⟩
    · rw [State.modCtx_lp, State.modCtx_weight, State.modCtx_link, s.switchOut_otherTiers ctx]
    · have hr : p ∈ s.resident ctx := State.mem_resident.mpr ⟨hp, hx, hpl⟩
      have hcore : p.core ∈ s.coresOf ctx := State.mem_coresOf.mpr ⟨p, hp, hx, hpl, rfl⟩
      obtain ⟨he, hg, hcp, hm, hs⟩ := saved_core_empty hc hr
      exact ⟨⟨_, State.switchOut_parcel?_saved hn hr, rfl, rfl, rfl, rfl, rfl, rfl, s.savedParcel_savedSegs _ p⟩,
        State.switchOut_images hcore, fun u hu => State.switchOut_poison hcore hu, he, hg, hcp, hm, hs,
        fun l hl => saved_at_front hn hr hd hl⟩
  · obtain ⟨he, hnode⟩ := s.contextFatal_empty ctx 2 ((s.ctx ctx).field 447 384)
    exact ⟨_, exec_saveComplete_failed hh, he, hnode, State.contextFatal_noRegions hh⟩

end Sys2Proof.Claims
end

section
/-!
# What a parcel is allotted on a core (R22, R23, R28, R178, R245)

`State.fits` says that every search of an allotment succeeds; each search gives what is apart from what is taken.
-/

namespace Sys2Proof.Machine

/-! ### Bits of a number -/

theorem testBit_bitsOf (x hi lo i : Nat) : (bitsOf x hi lo).testBit i = (decide (i < hi + 1 - lo) && x.testBit (lo + i)) := by
  rw [bitsOf, Nat.testBit_mod_two_pow, Nat.testBit_shiftRight]

/-- Replaced bits read as the new value, the others as before. -/
theorem testBit_setBits {x hi lo v : Nat} (h : lo ≤ hi + 1) (i : Nat) :
    (setBits x hi lo v).testBit i = if lo ≤ i ∧ i ≤ hi then v.testBit (i - lo) else x.testBit i := by
  obtain ⟨n, hn⟩ : ∃ n, hi + 1 = lo + n := ⟨hi + 1 - lo, by omega⟩
  have hlen : hi + 1 - lo = n := by omega
  have hx : x = 2 ^ lo * (2 ^ n * (x / 2 ^ lo / 2 ^ n) + bitsOf x hi lo) + x % 2 ^ lo := by
    rw [bitsOf, hlen, Nat.shiftRight_eq_div_pow, Nat.div_add_mod, Nat.div_add_mod]
  have hset : setBits x hi lo v = 2 ^ lo * (2 ^ n * (x / 2 ^ lo / 2 ^ n) + v % 2 ^ n) + x % 2 ^ lo := by
    have hsub : x - bitsOf x hi lo * 2 ^ lo = 2 ^ lo * (2 ^ n * (x / 2 ^ lo / 2 ^ n)) + x % 2 ^ lo := by
      rw [Nat.mul_add] at hx
      rw [Nat.mul_comm (bitsOf x hi lo)]
      omega
    rw [setBits, hsub, hlen, Nat.mul_add, Nat.mul_comm (v % 2 ^ n)]
    omega
  have hv : v % 2 ^ n < 2 ^ n := Nat.mod_lt _ (Nat.two_pow_pos n)
  have hm : x % 2 ^ lo < 2 ^ lo := Nat.mod_lt _ (Nat.two_pow_pos lo)
  rw [hset, Nat.testBit_two_pow_mul_add _ hm, Nat.testBit_two_pow_mul_add _ hv, Nat.testBit_mod_two_pow, Nat.testBit_mod_two_pow,
    Nat.testBit_div_two_pow, Nat.testBit_div_two_pow]
  by_cases h1 : i < lo
  · simp [h1, show ¬ (lo ≤ i ∧ i ≤ hi) by omega]
  · by_cases h2 : i - lo < n
    · simp [h1, h2, show lo ≤ i ∧ i ≤ hi by omega]
    · simp [h1, h2, show ¬ (lo ≤ i ∧ i ≤ hi) by omega, show i - lo - n + n + lo = i by omega]

theorem setBits_lt {x hi lo v w : Nat} (h : lo ≤ hi + 1) (hw : hi < w) (hx : x < 2 ^ w) : setBits x hi lo v < 2 ^ w := by
  refine Nat.lt_pow_two_of_testBit _ fun i hi' => ?_
  rw [testBit_setBits h, if_neg (by omega)]
  exact Nat.testBit_lt_two_pow (Nat.lt_of_lt_of_le hx (Nat.pow_le_pow_right (by decide) hi'))

theorem testBit_of_lt {x n i : Nat} (h : x < 2 ^ n) (hi : n ≤ i) : x.testBit i = false :=
  Nat.testBit_lt_two_pow (Nat.lt_of_lt_of_le h (Nat.pow_le_pow_right (by decide) hi))

/-! ### Reservation records (R245) -/

/-- The record of a reservation whose granules start at `f`, in a residency place. -/
def placedWord (w : BitVec 256) (f place : Nat) : BitVec 256 := BitVec.ofNat 256 (setBits (setBits w.toNat 234 226 f) 225 223 place)

theorem rsvField_eq (w : BitVec 256) (hi lo : Nat) : rsvField w hi lo = bitsOf w.toNat hi lo := by
  rw [rsvField, BitVec.extractLsb'_toNat, bitsOf]

theorem placedWord_testBit (w : BitVec 256) (f place i : Nat) : (placedWord w f place).toNat.testBit i =
    if 223 ≤ i ∧ i ≤ 225 then place.testBit (i - 223) else if 226 ≤ i ∧ i ≤ 234 then f.testBit (i - 226) else w.toNat.testBit i := by
  have h1 : setBits w.toNat 234 226 f < 2 ^ 256 := setBits_lt (by decide) (by decide) w.isLt
  have h2 : setBits (setBits w.toNat 234 226 f) 225 223 place < 2 ^ 256 := setBits_lt (by decide) (by decide) h1
  rw [placedWord, BitVec.toNat_ofNat, Nat.mod_eq_of_lt h2, testBit_setBits (by decide), testBit_setBits (by decide)]

theorem rsvFirst_placedWord {w : BitVec 256} {f place : Nat} (hf : f < 512) : rsvFirst (placedWord w f place) = f := by
  rw [rsvFirst, rsvField_eq]
  refine Nat.eq_of_testBit_eq fun i => ?_
  rw [testBit_bitsOf, placedWord_testBit]
  by_cases hi : i < 9
  · simp [hi, show ¬ (226 + i ≤ 225) by omega, show 226 + i ≤ 234 by omega]
  · simp [hi, testBit_of_lt (n := 9) (i := i) hf (by omega)]

theorem rsvCount_placedWord (w : BitVec 256) (f place : Nat) : rsvCount (placedWord w f place) = rsvCount w := by
  rw [rsvCount, rsvCount, rsvField_eq, rsvField_eq]
  refine Nat.eq_of_testBit_eq fun i => ?_
  rw [testBit_bitsOf, testBit_bitsOf, placedWord_testBit]
  by_cases hi : i < 10
  · simp [show ¬ (223 ≤ 212 + i) by omega, show ¬ (226 ≤ 212 + i) by omega]
  · simp [hi]

theorem owner_placedWord {w : BitVec 256} {f place : Nat} (hp : place < 8) : bitsOf (placedWord w f place).toNat 225 223 = place := by
  refine Nat.eq_of_testBit_eq fun i => ?_
  rw [testBit_bitsOf, placedWord_testBit]
  by_cases hi : i < 3
  · simp [hi, show 223 + i ≤ 225 by omega]
  · simp [hi, testBit_of_lt (n := 3) (i := i) hp (by omega)]

/-- A reservation's record without its granules and its place. -/
def Reservation.unplaced (r : Reservation) : Reservation := { r with word := BitVec.ofNat 256 (setBits r.word.toNat 234 223 0) }

theorem unplaced_placedWord (r : Reservation) (f place : Nat) : ({ r with word := placedWord r.word f place } : Reservation).unplaced = r.unplaced := by
  have h : setBits (placedWord r.word f place).toNat 234 223 0 = setBits r.word.toNat 234 223 0 := by
    refine Nat.eq_of_testBit_eq fun i => ?_
    rw [testBit_setBits (by decide), testBit_setBits (by decide), placedWord_testBit]
    by_cases hi : 223 ≤ i ∧ i ≤ 234
    · simp [hi]
    · simp [hi, show ¬ (223 ≤ i ∧ i ≤ 225) by omega, show ¬ (226 ≤ i ∧ i ≤ 234) by omega]
  rw [Reservation.unplaced, Reservation.unplaced, h]

/-! ### The reservations of a restored parcel (R28) -/

/-- What decides where further reservations go: the numbers and the granules in use. -/
def Reservation.extent (r : Reservation) : Nat × Nat × Nat := (r.num, rsvFirst r.word, rsvCount r.word)

theorem freeRun_congr {rs rs' : List Reservation} (h : rs.map Reservation.extent = rs'.map Reservation.extent) (n : Nat) :
    freeRun rs n = freeRun rs' n := by
  have key : ∀ (rs : List Reservation) f, rs.all (fun r => decide (f + n ≤ rsvFirst r.word) || decide (rsvFirst r.word + rsvCount r.word ≤ f)) =
      (rs.map Reservation.extent).all (fun x => decide (f + n ≤ x.2.1) || decide (x.2.1 + x.2.2 ≤ f)) := by
    intro rs f
    rw [List.all_map]
    rfl
  simp only [freeRun, key, h]

theorem freeRun_some {rs : List Reservation} {n f : Nat} (h : freeRun rs n = some f) :
    f < 512 ∧ ∀ r ∈ rs, f + n ≤ rsvFirst r.word ∨ rsvFirst r.word + rsvCount r.word ≤ f := by
  have hall := List.find?_some h
  simp only [List.all_eq_true, Bool.or_eq_true, decide_eq_true_eq] at hall
  refine ⟨?_, hall⟩
  have hm := List.mem_range.mp (List.mem_of_find?_eq_some h)
  rcases Nat.eq_zero_or_pos n with rfl | hn
  · by_contra hf
    have h0 : freeRun rs 0 = some 0 := by
      rw [freeRun, show 513 - 0 = 512 + 1 from rfl, List.range_succ_eq_map, List.find?_cons_of_pos (by simp)]
    rw [h0] at h
    cases h
    exact hf (by decide)
  · omega

theorem placeRsv_some {held : List Reservation} {place : Nat} {r x : Reservation} (h : placeRsv held place r = some x) :
    (∀ y ∈ held, y.num ≠ r.num) ∧ ∃ f, freeRun held (rsvCount r.word) = some f ∧ x = { r with word := placedWord r.word f place } := by
  unfold placeRsv at h
  split at h
  · cases h
  · next hn =>
    obtain ⟨f, hf, rfl⟩ := Option.map_eq_some_iff.mp h
    refine ⟨fun y hy e => hn ?_, f, hf, rfl⟩
    rw [List.any_eq_true]
    exact ⟨y, hy, by simpa using e⟩

/-- A reservation finds its room wherever the granules in use are the same, in whatever place. -/
theorem placeRsv_congr {held held' : List Reservation} (h : held.map Reservation.extent = held'.map Reservation.extent) (a b : Nat)
    (r : Reservation) : (placeRsv held a r).map Reservation.extent = (placeRsv held' b r).map Reservation.extent := by
  have hany : held.any (fun y => y.num == r.num) = held'.any (fun y => y.num == r.num) := by
    have key : ∀ rs : List Reservation, rs.any (fun y => y.num == r.num) = (rs.map Reservation.extent).any (fun x => x.1 == r.num) := by
      intro rs
      rw [List.any_map]
      rfl
    rw [key, key, h]
  unfold placeRsv
  rw [hany, freeRun_congr h]
  split
  · rfl
  · cases hf : freeRun held' (rsvCount r.word) with
    | none => simp only [Option.map_none]
    | some f =>
      have hlt := (freeRun_some hf).1
      show some (r.num, rsvFirst (placedWord r.word f a), rsvCount (placedWord r.word f a)) =
        some (r.num, rsvFirst (placedWord r.word f b), rsvCount (placedWord r.word f b))
      rw [rsvFirst_placedWord hlt, rsvFirst_placedWord hlt, rsvCount_placedWord, rsvCount_placedWord]

/-- One more reservation beside those placed so far, if it fits. -/
def addRsv (held : List Reservation) (place : Nat) (done : Option (List Reservation)) (x : Reservation) : Option (List Reservation) :=
  done.bind (fun done => (placeRsv (held ++ done) place x).map (fun y => done ++ [y]))

theorem placeRsvs_eq (held : List Reservation) (place : Nat) (rs : List Reservation) :
    placeRsvs held place rs = rs.foldl (addRsv held place) (some []) := rfl

theorem foldl_addRsv_none (held : List Reservation) (place : Nat) (rs : List Reservation) : rs.foldl (addRsv held place) none = none := by
  induction rs with
  | nil => rfl
  | cons r rs ih => exact ih

/-- Whether reservations fit depends on no place. -/
theorem placeRsvs_isSome_congr (held : List Reservation) (a b : Nat) (rs : List Reservation) :
    (placeRsvs held a rs).isSome = (placeRsvs held b rs).isSome := by
  have key : ∀ (rs : List Reservation) (x y : Option (List Reservation)), x.map (List.map Reservation.extent) = y.map (List.map Reservation.extent) →
      (rs.foldl (addRsv held a) x).isSome = (rs.foldl (addRsv held b) y).isSome := by
    intro rs
    induction rs with
    | nil =>
      intro x y h
      simpa using congrArg Option.isSome h
    | cons r rs ih =>
      refine fun x y h => ih _ _ ?_
      cases x with
      | none =>
        cases y with
        | none => simp only [addRsv, Option.bind_none]
        | some y => cases h
      | some x =>
        cases y with
        | none => cases h
        | some y =>
          have hxy : x.map Reservation.extent = y.map Reservation.extent := by simpa using h
          have hp := placeRsv_congr (held := held ++ x) (held' := held ++ y) (by simp [hxy]) a b r
          simp only [addRsv, Option.bind_some, Option.map_map]
          have hmap : ∀ (z : List Reservation) (o : Option Reservation), o.map (List.map Reservation.extent ∘ fun w => z ++ [w]) =
              (o.map Reservation.extent).map (fun e => z.map Reservation.extent ++ [e]) := by
            intro z o
            cases o <;> simp
          rw [hmap, hmap, hp, hxy]
  rw [placeRsvs_eq, placeRsvs_eq]
  exact key rs _ _ rfl

/-- Where the reservations of a parcel go: each keeps what it is, takes the place, and is apart from those held. -/
theorem placeRsvs_some {held rs out : List Reservation} {place : Nat} (hp : place < 8) (h : placeRsvs held place rs = some out) :
    out.map Reservation.unplaced = rs.map Reservation.unplaced ∧ ∀ r ∈ out, bitsOf r.word.toNat 225 223 = place ∧ ∀ y ∈ held, y.num ≠ r.num ∧
      (rsvFirst y.word + rsvCount y.word ≤ rsvFirst r.word ∨ rsvFirst r.word + rsvCount r.word ≤ rsvFirst y.word) := by
  have key : ∀ (rs done : List Reservation), rs.foldl (addRsv held place) (some done) = some out →
      (∀ r ∈ done, bitsOf r.word.toNat 225 223 = place ∧ ∀ y ∈ held, y.num ≠ r.num ∧
        (rsvFirst y.word + rsvCount y.word ≤ rsvFirst r.word ∨ rsvFirst r.word + rsvCount r.word ≤ rsvFirst y.word)) →
      out.map Reservation.unplaced = done.map Reservation.unplaced ++ rs.map Reservation.unplaced ∧
        ∀ r ∈ out, bitsOf r.word.toNat 225 223 = place ∧ ∀ y ∈ held, y.num ≠ r.num ∧
          (rsvFirst y.word + rsvCount y.word ≤ rsvFirst r.word ∨ rsvFirst r.word + rsvCount r.word ≤ rsvFirst y.word) := by
    intro rs
    induction rs with
    | nil =>
      rintro done ⟨⟩ hd
      exact ⟨by simp, hd⟩
    | cons r rs ih =>
      intro done h hd
      rw [List.foldl_cons] at h
      cases hr : placeRsv (held ++ done) place r with
      | none =>
        rw [addRsv, Option.bind_some, hr, Option.map_none, foldl_addRsv_none] at h
        cases h
      | some x =>
        rw [addRsv, Option.bind_some, hr] at h
        obtain ⟨hnum, f, hf, rfl⟩ := placeRsv_some hr
        obtain ⟨hlt, hfree⟩ := freeRun_some hf
        obtain ⟨hm, ho⟩ := ih _ h fun q hq => by
          rcases List.mem_append.mp hq with hq | hq
          · exact hd q hq
          · obtain rfl := List.mem_singleton.mp hq
            refine ⟨owner_placedWord hp, fun y hy => ⟨hnum y (List.mem_append_left _ hy), ?_⟩⟩
            show _ ≤ rsvFirst (placedWord r.word f place) ∨ rsvFirst (placedWord r.word f place) + rsvCount (placedWord r.word f place) ≤ _
            rw [rsvFirst_placedWord hlt, rsvCount_placedWord]
            exact (hfree y (List.mem_append_left _ hy)).symm
        refine ⟨?_, ho⟩
        rw [hm, List.map_append, List.map_singleton, unplaced_placedWord, List.map_cons, List.append_assoc]
        rfl
  have := key rs [] (by rw [← placeRsvs_eq]; exact h) (by simp)
  simpa using this

/-! ### Ranges, places and slots -/

theorem mod_roundUp (n m : Nat) : roundUp n m % m = 0 := Nat.mul_mod_left _ _

theorem lowestGap_some {taken : List (Nat × Nat)} {size limit step a : Nat} (h : lowestGap taken size limit step = some a) :
    a % step = 0 ∧ a + size ≤ limit ∧ ∀ r ∈ taken, a + size ≤ r.1 ∨ r.1 + r.2 ≤ a := by
  have hp := List.find?_some h
  simp only [Bool.and_eq_true, List.all_eq_true, Bool.or_eq_true, decide_eq_true_eq] at hp
  obtain ⟨hc, hl⟩ := hp
  refine ⟨?_, hl, hc⟩
  rcases List.mem_cons.mp (sortBy_mem.mp (List.mem_of_find?_eq_some h)) with rfl | hm
  · exact Nat.zero_mod _
  · obtain ⟨r, -, rfl⟩ := List.mem_map.mp hm
    exact mod_roundUp _ _

theorem freePlace_some {hs : List Freed} {i : Nat} (h : freePlace hs = some i) : i < 8 ∧ ∀ f ∈ hs, f.place ≠ some i := by
  have hp := List.find?_some h
  simp only [List.all_eq_true, bne_iff_ne] at hp
  exact ⟨List.mem_range.mp (List.mem_of_find?_eq_some h), hp⟩

/-- A change of the slots of threads alone is seen by nothing that reads no slot. -/
theorem giveSlots_map {β : Type} {f : Thread → β} (hf : ∀ t n, f { t with slot := n } = f t) (taken : List Nat) (ts : List Thread) :
    (giveSlots taken ts).map f = ts.map f := by
  have key : ∀ (ts : List Thread) (r : List Nat × List Thread), ((ts.foldl (fun (r : List Nat × List Thread) t =>
      if t.exited then (r.1, r.2 ++ [t]) else
        let u := giveSlot r.1 t
        (u.slot :: r.1, r.2 ++ [u])) r).2).map f = r.2.map f ++ ts.map f := by
    intro ts
    induction ts with
    | nil => intro r; simp
    | cons t ts ih =>
      intro r
      rw [List.foldl_cons, ih]
      split
      · simp
      · simp [giveSlot, hf]
  exact key ts (taken, [])

end Sys2Proof.Machine

namespace Sys2Proof.Claims
open Machine

variable {s : State} {p : Parcel} {core : Nat}

theorem PlacedApart.congr {q : Parcel} (h : PlacedApart s p) (hc : q.core = p.core) (hpl : q.place = p.place)
    (hs : (q.spBase, q.spSize) = (p.spBase, p.spSize)) (hl : (q.slotBase, q.slots) = (p.slotBase, p.slots)) : PlacedApart s q := by
  obtain ⟨hb, hz⟩ := Prod.mk.inj hs
  obtain ⟨ha, hn⟩ := Prod.mk.inj hl
  constructor
  · rw [hc, hpl]; exact h.place
  · rw [hc, hpl, hb, hz, ha, hn]; exact h.late
  · rw [hc, hb, hz]; exact h.spad
  · rw [hc, ha, hn]; exact h.slots

/-- The searches that `State.fits` makes succeed. -/
theorem fits_searches {l : Launch} (h : s.fits l p core = true) : (placeRsvs (s.rsvsTaken core) 0 p.resv).isSome = true ∧
    ∃ place sp slot, freePlace (s.taken core) = some place ∧ spadGap (s.taken core) p = some sp ∧ slotGap (s.taken core) p = some slot := by
  simp only [State.fits, Bool.and_eq_true, Option.isSome_iff_exists] at h
  obtain ⟨⟨⟨⟨⟨⟨⟨⟨hr, -⟩, -⟩, -⟩, sp, hsp⟩, slot, hslot⟩, place, hplace⟩, -⟩, -⟩ := h
  exact ⟨Option.isSome_iff_exists.mpr hr, place, sp, slot, hplace, hsp, hslot⟩

/-- What the residents of a core hold is taken there, and so is what was freed there in this cycle. -/
theorem mem_taken_of_resident {q : Parcel} (h : q ∈ s.residents core) : s.holding q ∈ s.taken core :=
  List.mem_append_left _ (List.mem_map_of_mem h)

theorem mem_taken_of_freed {f : Freed} (h : f ∈ (s.core core).freed) (hc : f.clk = s.clk) : f ∈ s.taken core :=
  List.mem_append_right _ (List.mem_filter.mpr ⟨h, by simpa using hc⟩)

/-- A parcel that fits is allotted what nothing on the core holds. -/
theorem allot_placedApart {l : Launch} (h : s.fits l p core = true) : PlacedApart s (s.allot p core) := by
  obtain ⟨-, place, sp, slot, hplace, hsp, hslot⟩ := fits_searches h
  obtain ⟨hlt, hplaces⟩ := freePlace_some hplace
  obtain ⟨hmod, hle, hspad⟩ := lowestGap_some hsp
  obtain ⟨-, hle', hslots⟩ := lowestGap_some hslot
  have ePlace : (s.allot p core).place = place := by simp [State.allot, hplace]
  have eSpad : (s.allot p core).spBase = sp := by simp [State.allot, hsp]
  have eSlot : (s.allot p core).slotBase = slot := by simp [State.allot, hslot]
  have eCore : (s.allot p core).core = core := rfl
  have eSize : (s.allot p core).spSize = p.spSize := rfl
  have eCount : (s.allot p core).slots = p.slots := rfl
  constructor
  · rw [ePlace, eCore]
    exact ⟨hlt, fun q hq e => hplaces _ (mem_taken_of_resident hq) (congrArg some e)⟩
  · rw [ePlace, eCore, eSpad, eSlot, eSize, eCount]
    intro f hf hc
    have hm := mem_taken_of_freed hf hc
    exact ⟨hplaces f hm, hspad _ (List.mem_map_of_mem hm), hslots _ (List.mem_map_of_mem hm)⟩
  · rw [eCore, eSpad, eSize]
    exact ⟨hmod, hle, fun q hq => hspad _ (List.mem_map_of_mem (mem_taken_of_resident hq))⟩
  · rw [eCore, eSlot, eCount]
    exact ⟨hle', fun q hq => hslots _ (List.mem_map_of_mem (mem_taken_of_resident hq))⟩

/-- Its reservations are its own, with its new place as OWNER. -/
theorem allot_rsvsReturn {l : Launch} (h : s.fits l p core = true) : RsvsReturn s p (s.allot p core) := by
  obtain ⟨hr, place, -, -, hplace, -⟩ := fits_searches h
  rw [placeRsvs_isSome_congr _ 0 place] at hr
  obtain ⟨out, hout⟩ := Option.isSome_iff_exists.mp hr
  have ePlace : (s.allot p core).place = place := by simp [State.allot, hplace]
  have eResv : (s.allot p core).resv = out := by simp [State.allot, hplace, hout]
  obtain ⟨hm, ho⟩ := placeRsvs_some (freePlace_some hplace).1 hout
  unfold RsvsReturn
  rw [ePlace, eResv]
  exact ⟨hm, fun r hr => ⟨(ho r hr).1, fun y hy => (ho r hr).2 y (List.mem_append_left _ hy)⟩⟩

end Sys2Proof.Claims
end

section
/-!
# A saved parcel returns to a core (R28, R146, R243)

A restore reads the parcel's image back, puts the parcel on its core (`State.putParcel`) and hands its requests over
(`State.resumeRequests`). With clean memory and no overlay to read again each of these goes through; `PutOn` and `Resumes` say what
the last two leave alone.
-/

namespace Sys2Proof.Machine

variable {s t u v : State} {l : Launch} {p : Parcel} {core : Nat}

/-! ### The placement of one parcel -/

theorem State.placement_some {die : Nat} {g : List (Parcel × Nat)} (h : s.placement die = some (l, g)) :
    ∃ pix, s.place? l die (s.waitingParcel l pix) = some g := by
  obtain ⟨x, -, hx⟩ := List.exists_of_findSome?_eq_some h
  split at hx
  · cases hx
  · next pix _ =>
    dsimp only at hx
    split at hx
    · obtain ⟨y, hy, e⟩ := Option.map_eq_some_iff.mp hx
      obtain ⟨rfl, rfl⟩ := Prod.mk.inj e
      exact ⟨pix, hy⟩
    · cases hx

/-- A parcel that is placed alone fits on its core, a core of the die. -/
theorem State.place?_single {die : Nat} {w : Parcel} (h : s.place? l die w = some [(p, core)]) : core / 20 = die ∧ s.fits l p core = true := by
  unfold State.place? at h
  split at h
  · obtain ⟨n, hn, hx⟩ := List.exists_of_findSome?_eq_some h
    obtain ⟨i, hi, rfl⟩ := List.mem_map.mp hn
    split at hx
    · next hf =>
      obtain ⟨rfl, rfl⟩ := Prod.mk.inj (List.singleton_inj.mp (Option.some.inj hx))
      exact ⟨by have := List.mem_range.mp hi; omega, hf⟩
    · cases hx
  · next g _ =>
    obtain ⟨n, hn, hx⟩ := List.exists_of_findSome?_eq_some h
    obtain ⟨i, hi, rfl⟩ := List.mem_map.mp hn
    split at hx
    · next hf =>
      obtain ⟨q, rfl, e⟩ := List.map_eq_singleton_iff.mp (Option.some.inj hx)
      obtain ⟨rfl, rfl⟩ := Prod.mk.inj e
      have hi := List.mem_range.mp hi
      refine ⟨by omega, ?_⟩
      simpa [State.groupFits] using hf
    · cases hx

theorem State.placement_single {die : Nat} (h : s.placement die = some (l, [(p, core)])) : core / 20 = die ∧ s.fits l p core = true := by
  obtain ⟨pix, hp⟩ := State.placement_some h
  exact State.place?_single hp

/-! ### Reads of clean memory -/

/-- No memory error is pending, and no unit is poisoned. -/
def State.Clean (s : State) : Prop := s.memFaults = [] ∧ s.poison = []

theorem State.Clean.verify (h : s.Clean) (k : Tier) (n : Nat) : s.verify k n = (s, 0) := by
  simp [State.verify, State.poisoned, h.1, h.2]

theorem State.Clean.verifyAll (h : s.Clean) (k : Tier) (a n : Nat) : s.verifyAll k a n = (s, 0) := by
  unfold State.verifyAll
  split
  · rfl
  · refine List.foldlRecOn (motive := fun x : State × Nat => x = (s, 0)) _ _ rfl fun x hx i _ => ?_
    subst hx
    simpa using h.verify k _

theorem State.Clean.readTier_hbm (h : s.Clean) (n a m : Nat) :
    s.readTier n .hbm a m = (s.charge n .hbm a m, .ok (Mem.read ((s.charge n .hbm a m).tier .hbm) a m)) := by
  rw [State.readTier, h.verifyAll]
  rfl

theorem State.Clean.readImage (h : s.Clean) (ctx n : Nat) : s.readImage ctx n = (s, none) := by
  simp [State.readImage, h.1, h.2]

/-! ### The segments of a placement -/

/-- Only contexts' counts, launches and cores differ; the launch stays, and its core keeps all but its segments. -/
structure State.Loads (k : LKey) (core : Nat) (s u : State) : Prop where
  frame : u = { s with ctxs := u.ctxs, window := u.window, launches := u.launches, cores := u.cores }
  launch : (u.launch? k).isSome = (s.launch? k).isSome
  core : { u.core core with segments := [] } = { s.core core with segments := [] }

namespace State.Loads

variable {k : LKey}

theorem refl (s : State) : Loads k core s s := ⟨rfl, rfl, rfl⟩

theorem trans (h : Loads k core s t) (h' : Loads k core t u) : Loads k core s u :=
  ⟨by rw [h'.frame, h.frame], h'.launch.trans h.launch, h'.core.trans h.core⟩

theorem clean (h : Loads k core s u) (hc : s.Clean) : u.Clean := by
  rw [h.frame]
  exact hc

/-- A change of contexts and of the budget window alone. -/
theorem of_ctxs (h : u = { s with ctxs := u.ctxs, window := u.window }) : Loads k core s u := by
  rw [h]
  exact ⟨rfl, rfl, rfl⟩

theorem rolled : Loads k core s s.rolled := of_ctxs (by unfold State.rolled; split <;> rfl)

theorem modCtx {n : Nat} {f : Ctx → Ctx} : Loads k core s (s.modCtx n f) := of_ctxs rfl

theorem charge {n : Nat} {tier : Tier} {a m : Nat} : Loads k core s (s.charge n tier a m) := by
  unfold State.charge
  split
  · split
    · exact refl s
    · exact rolled.trans modCtx
  · exact refl s

theorem putSegment {addr pix : Nat} {source : Option (Nat × Nat × Nat)} {back : Bool} {bs : List Byte} (h : Loads k core s t) :
    Loads k core s (s.putSegment k core addr source pix back (t, .ok bs)) := by
  unfold State.putSegment
  split
  · exact refl s
  · next he => cases he
  · refine h.trans ⟨rfl, State.launch?_modLaunch_isSome (fun _ => rfl), ?_⟩
    rw [State.core_modCore_same]
    rfl

theorem imageSegment {i pix : Nat} {back : Bool} (hc : s.Clean) :
    Loads k core s (s.putSegment k core (16384 * i) none pix back (s.imageSegment l i)) := by
  rw [State.imageSegment, hc.readTier_hbm]
  exact charge.putSegment

end State.Loads

/-- The segments of a parcel that brings no overlay are loaded (R126). -/
theorem State.loadSegments_loads (hc : s.Clean) (hs : p.savedSegs = []) : Loads l.key core s (s.loadSegments l core p) := by
  have hmiss : (s.core core).missingSegs p = [] := by rw [Core.missingSegs, hs]; rfl
  unfold State.loadSegments
  extract_lets missing back image overlays
  have hi : Loads l.key core s image := by
    simp only [image]
    split
    · exact .refl s
    · exact List.foldlRecOn (motive := Loads l.key core s) _ _ (.refl s) fun u hu i _ => hu.trans (.imageSegment (hu.clean hc))
  have ho : overlays = image := by simp only [overlays, missing, hmiss]; rfl
  rw [ho]
  split
  · exact (hi.trans .rolled).trans .modCtx
  · exact hi

/-! ### A parcel is put on a core -/

/-- What a core holds of the matrix, the set and the index engine. -/
def Core.engineQueues (c : Core) : List MatrixReq × List SetReq × List IndexJob := (c.matrix, c.sets, c.index)

/-- A parcel stands on its core with its allotment; memory, its launch and the engines of the core are as they were. -/
structure State.PutOn (l : LKey) (p : Parcel) (core : Nat) (s u : State) : Prop where
  parcels : u.parcels = s.parcels.filter (fun x => x.key != p.key) ++ [{ s.allot p core with phase := p.phase.placed }]
  memory : (u.hbm, u.lp, u.weight, u.link) = (s.hbm, s.lp, s.weight, s.link)
  launch : (u.launch? l).isSome = (s.launch? l).isSome
  core : (u.core core).engineQueues = (s.core core).engineQueues

theorem State.beginSlice_frame (s : State) (n : Nat) : s.beginSlice n = { s with ctxs := (s.beginSlice n).ctxs } := by
  unfold State.beginSlice
  split <;> rfl

theorem State.beginSlice_cores (s : State) (n : Nat) : (s.beginSlice n).cores = s.cores := by rw [s.beginSlice_frame n]

theorem State.beginSlice_launches (s : State) (n : Nat) : (s.beginSlice n).launches = s.launches := by rw [s.beginSlice_frame n]

theorem State.allot_beginSlice (s : State) (n : Nat) : (s.beginSlice n).allot p core = s.allot p core := by
  rw [s.beginSlice_frame n]
  rfl

theorem Core.engineQueues_of_segments {c d : Core} (h : { d with segments := [] } = { c with segments := [] }) :
    d.engineQueues = c.engineQueues := by
  have := congrArg Core.engineQueues h
  exact this

/-- The state with a parcel on its core and out of its deque, before its segments are loaded. -/
def State.standOn (s : State) (p : Parcel) (core : Nat) : State :=
  let w := s.beginSlice p.key.ctx
  let q := { w.allot p core with phase := p.phase.placed }
  ({ w.undeque p.key with parcels := w.parcels.filter (fun (x : Parcel) => x.key != p.key) ++ [q] } : State).modCore core
    (fun c => { c with recentExit := c.recentExit.filter (fun e => !q.held.any (fun t => t.slot == e.1)) })

theorem State.putParcel_eq (s : State) (l : Launch) (p : Parcel) (core : Nat) :
    s.putParcel l p core = (s.standOn p core).loadSegments l core p := rfl

theorem State.standOn_putOn (s : State) (k : LKey) (p : Parcel) (core : Nat) : PutOn k p core s (s.standOn p core) where
  parcels := by
    have h : (s.standOn p core).parcels = (s.beginSlice p.key.ctx).parcels.filter (fun x => x.key != p.key) ++
        [{ (s.beginSlice p.key.ctx).allot p core with phase := p.phase.placed }] := rfl
    rw [h, State.allot_beginSlice, s.beginSlice_frame]
  memory := by
    have h : ((s.standOn p core).hbm, (s.standOn p core).lp, (s.standOn p core).weight, (s.standOn p core).link) =
        ((s.beginSlice p.key.ctx).hbm, (s.beginSlice p.key.ctx).lp, (s.beginSlice p.key.ctx).weight, (s.beginSlice p.key.ctx).link) := rfl
    rw [h, s.beginSlice_frame]
  launch := by
    have h : ((s.standOn p core).launch? k).isSome = ((s.beginSlice p.key.ctx).launch? k).isSome :=
      State.launch?_modLaunch_isSome (fun _ => rfl)
    rw [h, State.launch?_congr (s.beginSlice_launches _)]
  core := by
    have h : ((s.standOn p core).core core).engineQueues = ((s.beginSlice p.key.ctx).core core).engineQueues := by
      simp only [State.standOn, State.core_modCore_same]
      rfl
    rw [h, State.core_congr (s.beginSlice_cores _)]

theorem State.standOn_clean (hc : s.Clean) : (s.standOn p core).Clean := by
  have h : (s.standOn p core).Clean ↔ (s.beginSlice p.key.ctx).Clean := Iff.rfl
  rw [h, s.beginSlice_frame]
  exact hc

theorem State.putParcel_putOn (hc : s.Clean) (hs : p.savedSegs = []) : PutOn l.key p core s (s.putParcel l p core) := by
  have h := s.standOn_putOn l.key p core
  have hl : Loads l.key core (s.standOn p core) (s.putParcel l p core) := State.loadSegments_loads (State.standOn_clean hc) hs
  refine ⟨?_, ?_, hl.launch.trans h.launch, (Core.engineQueues_of_segments hl.core).trans h.core⟩
  · rw [hl.frame, ← h.parcels]
  · rw [hl.frame, ← h.memory]

/-! ### The requests of a restored parcel -/

/-- Only launches and cores differ, and a core keeps what it holds of three engines. -/
structure State.Resumes (core : Nat) (s u : State) : Prop where
  frame : u = { s with launches := u.launches, cores := u.cores }
  core : (u.core core).engineQueues = (s.core core).engineQueues

namespace State.Resumes

theorem refl (s : State) : Resumes core s s := ⟨rfl, rfl⟩

theorem trans (h : Resumes core s t) (h' : Resumes core t u) : Resumes core s u :=
  ⟨by rw [h'.frame, h.frame], h'.core.trans h.core⟩

theorem modLaunch {k : LKey} {f : Launch → Launch} : Resumes core s (s.modLaunch k f) := ⟨rfl, rfl⟩

theorem modCore {f : Core → Core} (hf : ∀ c, (f c).engineQueues = c.engineQueues) : Resumes core s (s.modCore core f) :=
  ⟨rfl, by rw [State.core_modCore_same, hf]⟩

theorem resumeCopy {r : CopyReq} : Resumes core s (s.resumeCopy core p r) := by
  unfold State.resumeCopy
  extract_lets k order overlay
  have ho : ∀ addr source, Resumes core s (overlay addr source) := fun addr source =>
    modLaunch.trans (modCore fun c => by split <;> rfl)
  split
  · split
    · exact modCore fun _ => rfl
    · exact ho _ _
  · exact ho _ _
  · exact modCore fun _ => rfl

end State.Resumes

/-- What a core holds of three engines once a parcel's requests stand behind its own. -/
def Core.queuesWith (c : Core) (p : Parcel) (core : Nat) : List MatrixReq × List SetReq × List IndexJob :=
  (c.matrix ++ p.savedMatrix, c.sets ++ p.savedSets.map (fun r => if r.restored then { r with core := core } else r), c.index ++ p.savedJobs)

theorem Core.queuesWith_congr {c d : Core} (h : d.engineQueues = c.engineQueues) : d.queuesWith p core = c.queuesWith p core := by
  obtain ⟨hm, hr⟩ := Prod.mk.inj h
  obtain ⟨hs, hi⟩ := Prod.mk.inj hr
  rw [Core.queuesWith, Core.queuesWith, hm, hs, hi]

/-- The requests of a saved parcel go to its core, behind those that stand there. -/
theorem State.resumeRequests_spec {k : LKey} (s : State) : let u := s.resumeRequests k p core
    u.parcels = (s.modParcel p.key Parcel.restored).parcels ∧ (u.hbm, u.lp, u.weight, u.link) = (s.hbm, s.lp, s.weight, s.link) ∧
      (u.core core).engineQueues = (s.core core).queuesWith p core := by
  intro u
  obtain ⟨w, hw, hu⟩ : ∃ w, Resumes core (s.modParcel p.key Parcel.restored) w ∧ u.parcels = w.parcels ∧
      (u.hbm, u.lp, u.weight, u.link) = (w.hbm, w.lp, w.weight, w.link) ∧ (u.core core).engineQueues = (w.core core).queuesWith p core := by
    refine ⟨p.savedCopies.foldl (fun s r => s.resumeCopy core p r) (s.modParcel p.key Parcel.restored), ?_, rfl, rfl, ?_⟩
    · exact List.foldlRecOn (motive := Resumes core (s.modParcel p.key Parcel.restored)) _ _ (.refl _) fun u hu r _ => hu.trans .resumeCopy
    · have hcores : u.cores = ((p.savedCopies.foldl (fun s r => s.resumeCopy core p r) (s.modParcel p.key Parcel.restored)).modCore core
          (fun c => { c with
            index := c.index ++ p.savedJobs,
            matrix := c.matrix ++ p.savedMatrix,
            sets := c.sets ++ p.savedSets.map (fun r => if r.restored then { r with core := core } else r) })).cores := rfl
      rw [State.core_congr hcores, State.core_modCore_same]
      rfl
  obtain ⟨hp, hm, hc⟩ := hu
  refine ⟨hp.trans (by rw [hw.frame]), hm.trans (by rw [hw.frame]; rfl), hc.trans (Core.queuesWith_congr ?_)⟩
  exact hw.core

/-! ### The parcel that returns -/

/-- The parcel of a restore as it stands on its core. -/
def State.returned (s : State) (p : Parcel) (core : Nat) : Parcel := ({ s.allot p core with phase := p.phase.placed } : Parcel).restored

/-- A saved parcel that brings no overlay returns from clean memory. -/
theorem State.restore_spec (hc : s.Clean) (hs : p.savedSegs = []) (hl : (s.launch? l.key).isSome = true) : let u := s.restore l p core
    u.parcel? p.key = some (s.returned p core) ∧ (u.hbm, u.lp, u.weight, u.link) = (s.hbm, s.lp, s.weight, s.link) ∧
      (u.core core).engineQueues = (s.core core).queuesWith p core := by
  intro u
  obtain ⟨w, hw, hu⟩ : ∃ w, PutOn l.key p core s w ∧ u = w.resumeRequests l.key p core := by
    have hr : u = State.resume { s with images := s.images.map (fun (i : Image) =>
        if i.ctx = p.key.ctx ∧ i.core = p.core then { i with left := i.left ++ [p] } else i) } l p core := by
      simp only [u, State.restore, hc.readImage]
    generalize hi : s.images.map _ = is at hr
    have hput : PutOn l.key p core { s with images := is } (State.putParcel { s with images := is } l p core) := State.putParcel_putOn hc hs
    refine ⟨_, ⟨hput.parcels, hput.memory, hput.launch, hput.core⟩, ?_⟩
    rw [hr, State.resume, if_pos (hput.launch.trans hl)]
  obtain ⟨hp, hm, hq⟩ := w.resumeRequests_spec (k := l.key) (p := p) (core := core)
  refine ⟨?_, hu ▸ hm.trans hw.memory, hu ▸ hq.trans (Core.queuesWith_congr hw.core)⟩
  have hgone : (s.parcels.filter (fun x => x.key != p.key)).find? (fun x => x.key == p.key) = none :=
    List.find?_eq_none.mpr fun x hx e => by simpa [eq_of_beq e] using (List.mem_filter.mp hx).2
  have hat : w.parcel? p.key = some { s.allot p core with phase := p.phase.placed } := by
    rw [State.parcel?, hw.parcels, List.find?_append, hgone, Option.none_or]
    exact List.find?_cons_of_pos (beq_self_eq_true p.key)
  rw [hu, State.parcel?_congr hp, State.parcel?_modParcel (f := Parcel.restored) (fun _ => rfl), hat]
  rfl

theorem exec_parcelRestore_saved {die : Nat} {k : PKey} (hp : s.parcel? k = some p) (hs : p.phase = .saved)
    (hc : s.placement die = some (l, [(p, core)])) (hl : s.launch? l.key = some l) (hk : l.key = k.launchKey) (hf : l.front die = some k.pix) :
    exec (.parcelRestore die k) s = .next (s.restore l p core) := by
  show execParcelRestore die k s = _
  have hl' : s.launch? k.launchKey = some l := hk ▸ hl
  simp [execParcelRestore, hp, hs, hc, hk, hf, hl']

theorem get_keepTags {recs : Tbl (BitVec 64)} (h : Tbl.wf 0 recs = true) (i : Nat) :
    Tbl.get 0 (keepTags recs) i = Tbl.get 0 recs i &&& (1#64 <<< 39) :=
  Tbl.get_map_filter (d := (0 : BitVec 64)) (f := fun _ (x : BitVec 64) => x &&& (1#64 <<< 39)) (by simp) (Tbl.canon_of_wf h)

/-! ### A parcel goes on (R243) -/

theorem exec_parcelRestore_resumed {die : Nat} {k : PKey} (hp : s.parcel? k = some p) (hs : p.phase = .restoring)
    (hr : s.resumed p = true) : exec (.parcelRestore die k) s = .next (s.rejoin p) := by
  show execParcelRestore die k s = _
  simp [execParcelRestore, hp, hs, hr]

/-- The timeline of an engine context raised to what had been issued when its parcel was saved (R243 step 2). -/
def Core.raised (c : Core) (p : Parcel) (k : Nat) : Core :=
  let saved := ((p.savedIssued[k]?).getD 0).toNat
  if (c.timeline k).issued < saved then c.modTimeline k (fun t => { t with issued := saved }) else c

theorem Core.timeline_modTimeline_same (c : Core) (k : Nat) (f : Timeline → Timeline) : (c.modTimeline k f).timeline k = f (c.timeline k) :=
  Tbl.get_put_same

theorem Core.timeline_modTimeline_other {c : Core} {k n : Nat} {f : Timeline → Timeline} (h : n ≠ k) :
    (c.modTimeline k f).timeline n = c.timeline n := Tbl.get_put_other h

theorem Core.raised_issued (c : Core) (p : Parcel) (k : Nat) :
    ((c.raised p k).timeline k).issued = max (c.timeline k).issued ((p.savedIssued[k]?).getD 0).toNat := by
  unfold Core.raised
  extract_lets saved
  split
  · rw [Core.timeline_modTimeline_same]
    show saved = max _ saved
    omega
  · omega

theorem Core.raised_other {c : Core} {p : Parcel} {k n : Nat} (h : n ≠ k) : (c.raised p k).timeline n = c.timeline n := by
  unfold Core.raised
  extract_lets saved
  split
  · exact Core.timeline_modTimeline_other h
  · rfl

theorem Core.raised_index (c : Core) (p : Parcel) (k : Nat) : (c.raised p k).index = c.index := by
  unfold Core.raised
  extract_lets saved
  split <;> rfl

theorem Core.foldl_raised_other {c : Core} {n : Nat} {l : List Nat} (h : n ∉ l) :
    (l.foldl (fun c k => c.raised p k) c).timeline n = c.timeline n := by
  induction l generalizing c with
  | nil => rfl
  | cons k l ih =>
    rw [List.mem_cons, not_or] at h
    rw [List.foldl_cons, ih h.2, Core.raised_other h.1]

theorem Core.foldl_raised_issued {c : Core} {n : Nat} {l : List Nat} (hl : l.Nodup) (h : n ∈ l) :
    ((l.foldl (fun c k => c.raised p k) c).timeline n).issued = max (c.timeline n).issued ((p.savedIssued[n]?).getD 0).toNat := by
  induction l generalizing c with
  | nil => cases h
  | cons k l ih =>
    obtain ⟨hk, hl⟩ := List.nodup_cons.mp hl
    rw [List.foldl_cons]
    rcases List.mem_cons.mp h with rfl | h
    · rw [Core.foldl_raised_other hk, Core.raised_issued]
    · have hne : n ≠ k := fun e => hk (e ▸ h)
      rw [ih hl h, Core.raised_other hne]

/-- Every timeline of a core, raised. -/
def Core.allRaised (c : Core) (p : Parcel) : Core := (List.range 7).foldl (fun c k => c.raised p k) c

theorem Core.allRaised_index (c : Core) (p : Parcel) : (c.allRaised p).index = c.index :=
  List.foldlRecOn (motive := fun d : Core => d.index = c.index) _ _ rfl fun d hd k _ => (d.raised_index p k).trans hd

/-- A parcel as it goes on. -/
def Parcel.resumed (p : Parcel) : Parcel := { p with phase := .running, savedWatches := [], savedIssued := [] }

/-- A parcel without suspended jobs and saved watches goes on once its timelines are raised. -/
theorem State.rejoin_eq (hw : p.savedWatches = []) (hj : ∀ j ∈ (s.core p.core).index, j.key ≠ p.key) :
    s.rejoin p = ((s.modCore p.core (fun c => c.allRaised p)).modParcel p.key Parcel.resumed).refresh p.core := by
  have hnone : ((s.modCore p.core (fun c => c.allRaised p)).core p.core).index.filter (fun j => j.key == p.key) = [] := by
    rw [State.core_modCore_same, Core.allRaised_index]
    exact List.filter_eq_nil_iff.mpr fun j hj' => by simpa using hj j hj'
  unfold State.rejoin
  extract_lets raised jobs numbered entered
  have hjobs : jobs = [] := hnone
  have hn : numbered = raised := by simp only [numbered, hjobs, List.foldl_nil]
  have he : entered = raised := by simp only [entered, hw, List.foldl_nil, hn]
  rw [he]
  rfl

theorem State.refresh_timelines (s : State) (core n : Nat) : ((s.refresh core).core n).timelines = (s.core n).timelines := by
  have hs : (s.settle core).cores = s.cores := by unfold State.settle; split <;> rfl
  by_cases h : n = core
  · subst h
    show (((s.settle n).leave n).core n).timelines = _
    unfold State.leave
    rw [State.core_modCore_same, State.core_congr hs]
  · show (((s.settle core).leave core).core n).timelines = _
    unfold State.leave
    rw [State.core_modCore_other h, State.core_congr hs]

end Sys2Proof.Machine

namespace Sys2Proof.Claims
open Machine

theorem registersOf_of_sameData {t u : Thread} (h : t.SameData u) : registersOf u = registersOf t := by
  simp only [registersOf, h.tix, h.g, h.p, h.c, h.srseed, h.tcause, h.tpc, h.tsav0, h.tsav1, h.tstate, h.counts]

/-- What a refresh of a core leaves of a parcel: all but its threads and its count, and of a thread its registers. -/
theorem refresh_parcel?_kept {s : State} {core : Nat} {k : PKey} {p : Parcel} (h : s.parcel? k = some p) :
    ∃ q, (s.refresh core).parcel? k = some q ∧ { q with threads := p.threads, retired := p.retired } = p ∧
      q.threads.map registersOf = p.threads.map registersOf := by
  rw [State.refresh_parcel?, h]
  refine ⟨_, rfl, ?_⟩
  dsimp only
  split
  · exact ⟨rfl, rfl⟩
  · split
    · refine ⟨rfl, ?_⟩
      show (p.threads.map (s.settleThread core p)).map registersOf = _
      rw [List.map_map]
      exact List.map_congr_left fun t _ => registersOf_of_sameData State.settleThread_sameData
    · exact ⟨rfl, rfl⟩

theorem restoredParcelsHoldWhatTheyHeld : RestoredParcelsHoldWhatTheyHeld := by
  refine ⟨fun s die k l p core h => ?_, fun s die k p hp hs hr hw hj => ?_⟩
  · obtain ⟨hk, hl, hf⟩ := h.launch
    obtain ⟨hs, hb⟩ := h.saved
    obtain rfl := State.parcel?_key h.parcel
    obtain ⟨hdie, hfit⟩ := State.placement_single h.chosen
    obtain ⟨hp', hm, hq⟩ := State.restore_spec (core := core) h.clean h.segments (by rw [hl]; rfl)
    obtain ⟨hmat, hq⟩ := Prod.mk.inj hq
    obtain ⟨hset, hidx⟩ := Prod.mk.inj hq
    refine ⟨_, _, exec_parcelRestore_saved h.parcel hs h.chosen hl hk hf, hp', rfl, hdie, ?_, ?_, rfl, allot_rsvsReturn hfit, ?_,
      fun hwf i => get_keepTags hwf i, hmat, hset, hidx, hm⟩
    · show (if p.before = .running then ParcelPhase.restoring else p.before) = _
      rw [if_pos hb]
    · exact (allot_placedApart hfit).congr rfl rfl rfl rfl
    · show ((giveSlots _ p.threads).map Thread.restored).map _ = _
      rw [List.map_map]
      exact giveSlots_map (f := (fun t => (registersOf t, t.pc)) ∘ Thread.restored) (fun _ _ => rfl) _ _
  · obtain rfl := State.parcel?_key hp
    have hat : ((s.modCore p.core (fun c => c.allRaised p)).modParcel p.key Parcel.resumed).parcel? p.key = some p.resumed := by
      have h : (s.modCore p.core (fun c => c.allRaised p)).parcel? p.key = some p := hp
      rw [State.parcel?_modParcel (f := Parcel.resumed) (fun _ => rfl), h, Option.map_some]
    obtain ⟨q, hq, hkept, hregs⟩ := refresh_parcel?_kept (core := p.core) hat
    refine ⟨_, q, exec_parcelRestore_resumed hp hs hr, ?_, ?_, ?_, ?_, hregs, ?_, fun n hn => ?_⟩
    · rw [State.rejoin_eq hw hj, hq]
    · have h := congrArg Parcel.phase hkept
      exact h
    · have h := congrArg keptParts hkept
      exact h
    · have h := congrArg (fun p : Parcel => (p.resv, p.recs)) hkept
      exact h
    · rw [State.rejoin_eq hw hj]
      show (_, _, _, _) = _
      simp
    · rw [State.rejoin_eq hw hj, Core.timeline, State.refresh_timelines]
      show (((s.modCore p.core (fun c => c.allRaised p)).core p.core).timeline n).issued = _
      rw [State.core_modCore_same]
      exact Core.foldl_raised_issued List.nodup_range (List.mem_range.mpr hn)

/-- Settles O55: the choice of the context, its halt and its save, and the return of its parcels. -/
theorem preemptionSavesAndRestores : Obligations.PreemptionSavesAndRestores :=
  ⟨preemptionChoosesTheLowestRank, haltedContextsAreSavedWhole, restoredParcelsHoldWhatTheyHeld⟩

end Sys2Proof.Claims
end

section
/-!
# What a refresh of a core leaves alone (R113 to R115)

After each issue the waits of a core are re-evaluated, and threads leave its entries: of the device only threads, counts of retired
instructions and the entries of that core may differ.
-/

namespace Sys2Proof.Machine

variable {s : State} {core : Nat}

theorem State.settle_cores : (s.settle core).cores = s.cores := by
  unfold State.settle
  split <;> rfl

theorem State.refresh_core_same : ∃ es, (s.refresh core).core core = { s.core core with entries := es } := by
  unfold State.refresh State.leave
  rw [State.core_modCore_same, State.core_congr State.settle_cores]
  exact ⟨_, rfl⟩

theorem State.refresh_core_other {n : Nat} (h : n ≠ core) : (s.refresh core).core n = s.core n := by
  unfold State.refresh State.leave
  rw [State.core_modCore_other h, State.core_congr State.settle_cores]

/-- A core keeps everything but its entries. -/
theorem State.refresh_core (n : Nat) : ∃ es, (s.refresh core).core n = { s.core n with entries := es } := by
  by_cases h : n = core
  · subst h
    exact State.refresh_core_same
  · exact ⟨_, State.refresh_core_other h⟩

/-- A thread stands as it did, or as the re-evaluation of its wait leaves it. -/
theorem State.refresh_thread?_cases {k : PKey} {x : Nat} {t : Thread} (h : s.thread? k x = some t) :
    ∃ u, (s.refresh core).thread? k x = some u ∧ (u = t ∨ ∃ p, u = s.settleThread core p t) := by
  obtain ⟨p, hp, ht⟩ := State.thread?_parcel h
  have settled : (s.settleParcel core p).thread? x = some (s.settleThread core p t) := by
    show (p.threads.map (s.settleThread core p)).find? (fun t => t.tix == x) = _
    rw [find?_map_key (fun t => by rw [State.settleThread_tix])]
    exact congrArg (Option.map _) ht
  unfold State.thread?
  rw [State.refresh_parcel?, hp]
  dsimp only [Option.map_some]
  split
  · exact ⟨t, ht, .inl rfl⟩
  · split
    · exact ⟨_, settled, .inr ⟨p, rfl⟩⟩
    · exact ⟨t, ht, .inl rfl⟩

end Sys2Proof.Machine

namespace Sys2Proof.Claims
open Machine

variable {s : State} {core : Nat}

/-- Every field may change but those `SameRest` speaks of. -/
theorem SameRest.update {t : Thread} {pc status g p c srseed due detect retired reuse} :
    SameRest t { t with pc, status, g, p, c, srseed, due, detect, retired, reuse } :=
  ⟨rfl, rfl, rfl, rfl, rfl, rfl, rfl, rfl, rfl, rfl, rfl⟩

theorem Untouched.refl (t : Thread) : Untouched t t := ⟨.update, rfl, rfl, fun _ => ⟨rfl, rfl, rfl⟩⟩

/-- The wait of a thread ends. -/
theorem Untouched.setStatus (t : Thread) (st : Status) : Untouched t { t with status := st } :=
  ⟨.update, rfl, rfl, fun _ => ⟨rfl, rfl, rfl⟩⟩

/-- A WAITPH retires as its phase is done. -/
theorem Untouched.waitph {t : Thread} {off : Nat} {ph : Word} (h : t.status = .phase off ph) (pc : Word) (d : Detect) :
    Untouched t { t.retire pc with status := .ready, detect := d } :=
  ⟨.update, rfl, rfl, fun hn => absurd h (hn off ph)⟩

theorem settleThread_untouched (p : Parcel) (t : Thread) : Untouched t (s.settleThread core p t) := by
  unfold State.settleThread
  split
  case h_3 hs =>
    split
    · exact .waitph hs _ _
    · exact .refl t
  case h_5 => exact .refl t
  all_goals
    split
    · exact .setStatus t _
    · exact .refl t

theorem refresh_untouched {k : PKey} {x : Nat} {t : Thread} (h : s.thread? k x = some t) :
    ∃ u, (s.refresh core).thread? k x = some u ∧ Untouched t u := by
  obtain ⟨u, hu, rfl | ⟨p, rfl⟩⟩ := State.refresh_thread?_cases (core := core) h
  · exact ⟨u, hu, .refl u⟩
  · exact ⟨_, hu, settleThread_untouched p t⟩

theorem outerParts_refresh : outerParts (s.refresh core) = outerParts s := by
  show outerParts (s.settle core) = _
  unfold State.settle
  split <;> rfl

theorem parcelParts_refresh (k : PKey) : ((s.refresh core).parcel? k).map parcelParts = (s.parcel? k).map parcelParts := by
  rw [State.refresh_parcel?, Option.map_map]
  congr 1
  funext p
  dsimp only [Function.comp]
  split
  · rfl
  · split <;> rfl

end Sys2Proof.Claims
end


section
/-!
# Per-thread arithmetic leaves the rest alone (R38, R153, R216)

Each instruction of the arithmetic blocks is one function of a thread (`Arithmetic`), which writes the instruction's destinations and,
where it rounds stochastically, the thread's generator (`WritesOnly`). What a group's issue does around that function is said by
`issue_arith`.
-/

namespace Sys2Proof.Machine

/-- A destination of a field that an instruction writes is one of its targets. -/
theorem Sig.mem_targets {sig : Sig} {f : FieldUse} {d : Dest} (hf : f ∈ sig.fields) (hw : f.acc.writes = true) (hd : d ∈ f.dests) :
    d ∈ sig.targets :=
  List.mem_append_right _ (List.mem_flatMap.mpr ⟨f, List.mem_filter.mpr ⟨hf, hw⟩, hd⟩)

theorem Sig.mem_targets_reg {sig : Sig} {d : BitVec 9} {n j : Nat} {acc : Acc} (hf : ⟨d, .reg n, acc, false⟩ ∈ sig.fields)
    (hw : acc.writes = true) (hj : j < n) : Dest.g (d.toNat + j) ∈ sig.targets :=
  Sig.mem_targets hf hw (List.mem_map.mpr ⟨j, List.mem_range.mpr hj, rfl⟩)

end Sys2Proof.Machine

namespace Sys2Proof.Claims
open Machine

/-! ### What a thread's result writes -/

/-- Thread `u` is `t` after writes to destinations `ds` and steps of its generator. -/
structure WritesOnly (ds : List Dest) (t u : Thread) : Prop where
  outside : RegistersOutside ds t u
  rest : ∃ g p c srseed, u = { t with g, p, c, srseed }

namespace WritesOnly

variable {ds : List Dest} {t u v : Thread}

theorem trans (h : WritesOnly ds t u) (h' : WritesOnly ds u v) : WritesOnly ds t v := by
  obtain ⟨⟨hg, hp, hc⟩, _, _, _, _, rfl⟩ := h
  obtain ⟨⟨hg', hp', hc'⟩, _, _, _, _, rfl⟩ := h'
  exact ⟨⟨fun n hn => (hg' n hn).trans (hg n hn), fun n h16 hn => (hp' n h16 hn).trans (hp n h16 hn),
    fun n hn => (hc' n hn).trans (hc n hn)⟩, _, _, _, _, rfl⟩

theorem setReg {n : Nat} (h : Dest.g n ∈ ds) (w : Word) : WritesOnly ds t (t.setReg n w) :=
  ⟨⟨fun _ hm => Thread.reg_setReg_other t w fun e => hm (e ▸ h), fun _ _ _ => rfl, fun _ _ => rfl⟩, _, _, _, _, rfl⟩

theorem setPred {n : Nat} (h : Dest.p n ∈ ds) (b : Bool) : WritesOnly ds t (t.setPred n b) :=
  ⟨⟨fun _ _ => rfl, fun _ _ hm => Thread.pred_setPred_other t (by rintro rfl; exact hm h) b, fun _ _ => rfl⟩, _, _, _, _, rfl⟩

theorem setCap {n : Nat} (h : Dest.c n ∈ ds) (k : QWord) : WritesOnly ds t (t.setCap n k) :=
  ⟨⟨fun _ _ => rfl, fun _ _ _ => rfl, fun _ hm => Thread.cap_setCap_other t k fun e => hm (e ▸ h)⟩, _, _, _, _, rfl⟩

theorem setSeed (w : Word) : WritesOnly ds t { t with srseed := w } :=
  ⟨⟨fun _ _ => rfl, fun _ _ _ => rfl, fun _ _ => rfl⟩, _, _, _, _, rfl⟩

theorem refl : WritesOnly ds t t := setSeed t.srseed

theorem setPair {n : Nat} (h : ∀ j < 2, Dest.g (n + j) ∈ ds) (w : DWord) : WritesOnly ds t (t.setPair n w) :=
  (setReg (h 0 (by decide)) _).trans (setReg (h 1 (by decide)) _)

/-- A result of a type writes one register, or the pair of a 64-bit type. -/
theorem out {d : BitVec 9} {ty : TypeCode} (h : ∀ j < ty.regs, Dest.g (d.toNat + j) ∈ ds) (b : Nat) : WritesOnly ds t (t.out d ty b) := by
  unfold TypeCode.regs at h
  unfold Thread.out
  split <;> rename_i hb
  · exact setPair (by simpa [hb] using h) _
  · exact setReg (h 0 (by simp [hb])) _

theorem out32 {d : BitVec 9} (h : ∀ j < 1, Dest.g (d.toNat + j) ∈ ds) (b : Nat) : WritesOnly ds t (t.out32 d b) :=
  setReg (h 0 (by decide)) _

theorem rounding (w : BitVec 3) : WritesOnly ds t (t.rounding w).2 := by
  unfold Thread.rounding
  split
  · exact setSeed _
  · exact refl

end WritesOnly

/-! ### The function of each instruction -/

/-- An instruction computes one function in each thread, which writes its destinations alone where no operand traps. -/
def Arithmetic (i : Instr) : Prop :=
  ∃ f : Thread → Except Trap Thread, (∀ s, exec i s = issue i (arithBody i.sig f) s) ∧
    ∀ t, noTrap i t → ∃ u, f t = .ok u ∧ WritesOnly i.sig.targets t u

namespace Arithmetic

variable {i : Instr} {d : BitVec 9} {acc : Acc}

/-- An instruction that never traps. -/
theorem of_arith {f : Thread → Thread} (he : ∀ s, Machine.exec i s = issueArith i f s) (hw : ∀ t, WritesOnly i.sig.targets t (f t)) :
    Arithmetic i :=
  ⟨_, he, fun t _ => ⟨_, rfl, hw t⟩⟩

/-- Its result is of a type. -/
theorem out {ty : TypeCode} {b : Thread → Nat} (he : ∀ s, Machine.exec i s = issueArith i (fun t => t.out d ty (b t)) s)
    (hf : ⟨d, .reg ty.regs, acc, false⟩ ∈ i.sig.fields) (hw : acc.writes = true) : Arithmetic i :=
  of_arith he fun _ => .out (fun _ => Sig.mem_targets_reg hf hw) _

/-- Its result is of 32 bits. -/
theorem out32 {b : Thread → Nat} (he : ∀ s, Machine.exec i s = issueArith i (fun t => t.out32 d (b t)) s)
    (hf : ⟨d, .reg 1, acc, false⟩ ∈ i.sig.fields) (hw : acc.writes = true) : Arithmetic i :=
  of_arith he fun _ => .out32 (fun _ => Sig.mem_targets_reg hf hw) _

/-- Its result is a predicate. -/
theorem outPred {b : Thread → Bool} (he : ∀ s, Machine.exec i s = issueArith i (fun t => t.outPred d (b t)) s)
    (hf : ⟨d, .pred, acc, false⟩ ∈ i.sig.fields) (hw : acc.writes = true) : Arithmetic i :=
  of_arith he fun _ => .setPred (Sig.mem_targets hf hw (List.mem_singleton_self _)) _

end Arithmetic

/-- DIV and REM compute where the divisor is not 0. -/
theorem arithmetic_division {i : Instr} {x : RWord} {e : Thread → Int}
    (he : ∀ s, exec i s = issue i (arithBody i.sig fun t => if t.intB x = 0 then .error .divz else .ok (t.outInt x.d x.ty 0 (e t))) s)
    (hn : ∀ t, noTrap i t → t.intB x ≠ 0) (hf : ⟨x.d, .reg x.ty.regs, .w, false⟩ ∈ i.sig.fields) : Arithmetic i :=
  ⟨_, he, fun t h => ⟨_, if_neg (hn t h), .out (fun _ => Sig.mem_targets_reg hf rfl) _⟩⟩

/-- ADDC and SUBB write their carry too (R158). -/
theorem arithmetic_carry {i : Instr} {x : RWord} {e : Thread → Int} (hs : i.sig = sigCarry x)
    (he : ∀ s, exec i s = issueArith i (fun t => (t.outInt x.d x.ty 0 (e t)).setPred x.predC (carryOut x.ty (e t))) s) :
    Arithmetic i := by
  refine .of_arith he fun t => ?_
  rw [hs]
  exact .trans (.out (fun _ => Sig.mem_targets_reg (List.mem_cons_self) rfl) _) (.setPred List.mem_cons_self _)

theorem arithmetic_cvt (x : RWord) : Arithmetic (.cvt x) :=
  .of_arith (fun _ => rfl) fun _ => .trans (.rounding _) (.out (fun _ => Sig.mem_targets_reg List.mem_cons_self rfl) _)

/-- PACK rounds twice; at 8 bits it also reads its destination (R172). -/
theorem arithmetic_pack (x : RWord) : Arithmetic (.pack x) := by
  refine .of_arith (fun _ => rfl) fun t => ?_
  have hw : (if x.ty.bits = 8 then Acc.rw else .w).writes = true := by split <;> rfl
  refine .trans (.trans (.rounding x.v) (.rounding x.v)) ?_
  split <;> exact .out32 (fun _ => Sig.mem_targets_reg List.mem_cons_self hw) _

theorem arithmetic_unpack (x : RWord) : Arithmetic (.unpack x) :=
  .of_arith (fun _ => rfl) fun _ => .setPair (fun _ => Sig.mem_targets_reg List.mem_cons_self rfl) _

/-- PMOV in its two directions (R177). -/
theorem arithmetic_pmov (x : RWord) : Arithmetic (.pmov x) := by
  refine .of_arith (fun _ => rfl) fun t => ?_
  show WritesOnly (if x.v == 1 then _ else _ : Sig).targets t _
  split
  · exact .setPred (Sig.mem_targets List.mem_cons_self rfl (List.mem_singleton_self _)) _
  · exact .out32 (fun _ => Sig.mem_targets_reg List.mem_cons_self rfl) _

theorem arithmetic_kderive (x : RWord) : Arithmetic (.kderive x) := by
  refine ⟨_, fun _ => rfl, fun t h => ?_⟩
  obtain ⟨hk, hd, hl⟩ : capObj (t.capField x.a) ≠ 0 ∧ (capRights (t.capField x.a)).testBit 4 = true ∧
    t.d64 x.b x.zb + t.d64 x.c x.zc ≤ capLen (t.capField x.a) := h
  dsimp only
  rw [if_neg hk, if_neg (by simp [hd]), if_neg (Nat.not_lt.mpr hl)]
  exact ⟨_, rfl, .setCap (Sig.mem_targets List.mem_cons_self rfl (List.mem_singleton_self _)) _⟩

/-- KINFO reads a field of 32 or of 48 bits (R216). -/
theorem arithmetic_kinfo (x : RWord) : Arithmetic (.kinfo x) := by
  refine .of_arith (fun _ => rfl) fun t => ?_
  have hf : ⟨x.d, if x.v.toNat ≤ 1 then .reg 1 else .reg 2, .w, false⟩ ∈ (Instr.kinfo x).sig.fields := List.mem_cons_self
  dsimp only
  split
  · next hv =>
    rw [if_pos (by omega)] at hf
    exact .out32 (fun _ => Sig.mem_targets_reg hf rfl) _
  · next hv =>
    rw [if_pos (by omega)] at hf
    exact .out32 (fun _ => Sig.mem_targets_reg hf rfl) _
  · next hv =>
    rw [if_neg (by omega)] at hf
    exact .setPair (fun _ => Sig.mem_targets_reg hf rfl) _
  · next h0 h1 _ =>
    rw [if_neg (Nat.not_le.mpr (Nat.lt_of_le_of_ne (Nat.pos_of_ne_zero h0) (Ne.symm h1)))] at hf
    exact .setPair (fun _ => Sig.mem_targets_reg hf rfl) _

/-- Every instruction of the arithmetic blocks, by what it writes. -/
theorem arithmetic_of_perThread {i : Instr} (h : perThread i = true) : Arithmetic i := by
  cases i with
  | add | addImm | addLong | sub | subImm | subLong | mul | mulImm | mulhi | mad | neg | abs | min | minImm | max | maxImm | clamp
  | sad | and | andImm | andLong | or | orImm | orLong | xor | xorImm | xorLong | not | andn | andnImm | shl | shlImm | shr | shrImm
  | sar | sarImm | rot | rotImm | bfx | bfi | brev | lut3 | fadd | fsub | fmul | ffma | fmin | fmax | fdiv | fsqrt | frcp | frsq
  | fexp2 | flog2 | fsin | fcos | fscale | frnd | mov | sel | movi | moviLong =>
    exact .out (fun _ => rfl) List.mem_cons_self rfl
  | popc | clz | ctz | perm | fclass | kchk => exact .out32 (fun _ => rfl) List.mem_cons_self rfl
  | cmp | cmpImm | cmpLong | fcmp | plop => exact .outPred (fun _ => rfl) List.mem_cons_self rfl
  | div x | rem x => exact arithmetic_division (x := x) (fun _ => rfl) (fun _ h => h) List.mem_cons_self
  | addc x | subb x => exact arithmetic_carry (x := x) rfl fun _ => rfl
  | cvt x => exact arithmetic_cvt x
  | pack x => exact arithmetic_pack x
  | unpack x => exact arithmetic_unpack x
  | pmov x => exact arithmetic_pmov x
  | kderive x => exact arithmetic_kderive x
  | krights x =>
    exact .of_arith (fun _ => rfl) fun _ => .setCap (Sig.mem_targets List.mem_cons_self rfl (List.mem_singleton_self _)) _
  | kinfo x => exact arithmetic_kinfo x
  | _ => cases h

end Sys2Proof.Claims

namespace Sys2Proof.Machine

variable {s : State} {g : Group} {i : Instr} {f : Thread → Except Trap Thread}

/-! ### Counters -/

/-- Every counter but one is unchanged. -/
def State.CountersBut (c n : Nat) (s u : State) : Prop :=
  ∀ m j, (m ≠ c ∨ j ≠ n) → Tbl.get 0 (u.ctx m).counters j = Tbl.get 0 (s.ctx m).counters j

theorem State.CountersBut.of_ctxs {c n : Nat} {u : State} (h : u.ctxs = s.ctxs) : s.CountersBut c n u := fun m j _ => by
  rw [State.ctx_congr h]

theorem State.CountersBut.trans {c n : Nat} {u v : State} (h : s.CountersBut c n u) (h' : u.CountersBut c n v) : s.CountersBut c n v :=
  fun m j hm => (h' m j hm).trans (h m j hm)

theorem State.count_countersBut (c n k : Nat) : s.CountersBut c n (s.count c n k) := by
  intro m j hm
  unfold State.count
  split
  · rfl
  · by_cases hc : m = c
    · subst hc
      rw [State.ctx_modCtx_same]
      exact Tbl.get_put_other (hm.resolve_left (not_not_intro rfl))
    · rw [State.ctx_modCtx_other hc]

/-- A thread that computes counts the operands it reuses, and nothing else (R59, R413). -/
theorem issueThread_arith_counters {x : Nat} {t t1 : Thread} (ht : s.thread? g.key x = some t)
    (hr : s.readiness g i.sig x = .go) (hf : f t = .ok t1) :
    s.CountersBut g.key.ctx 0x010 (issueThread g i (arithBody i.sig f) s x) := by
  rw [issueThread_go ht hr]
  simp only [arithBody, hf, State.carry]
  exact .trans (.of_ctxs rfl) (State.count_countersBut _ _ _)

theorem fold_arith_counters : ∀ (xs : List Nat) (s : State), xs.Nodup →
    (∀ x ∈ xs, ∃ t t1, s.thread? g.key x = some t ∧ s.readiness g i.sig x = .go ∧ f t = .ok t1 ∧ t1.tix = t.tix) →
    s.CountersBut g.key.ctx 0x010 (xs.foldl (issueThread g i (arithBody i.sig f)) s)
  | [], _, _, _ => .of_ctxs rfl
  | x :: xs, s, hn, h => by
    obtain ⟨hx, hn⟩ := List.nodup_cons.mp hn
    obtain ⟨t, t1, ht, hr, hf, h1⟩ := h x List.mem_cons_self
    obtain ⟨-, others⟩ := issueThread_arith ht hr hf h1
    have only := issueThread_arith_onlyThreads ht hr hf
    refine .trans (issueThread_arith_counters ht hr hf) (fold_arith_counters xs _ hn fun y hy => ?_)
    obtain ⟨t', t1', ht', hr', hf', h1'⟩ := h y (List.mem_cons_of_mem _ hy)
    have same := others g.key y (.inr fun e => hx (e ▸ hy))
    refine ⟨t', t1', same.trans ht', ?_, hf', h1'⟩
    rw [← hr']
    unfold State.readiness
    rw [same, only.launch?]

/-- The group of `issue_arith` counts the operands that its threads reuse. -/
theorem issue_arith_counters {u : State} (hg : s.group = some g) (hn : g.tixs.Nodup)
    (h : ∀ x ∈ g.tixs, ∃ t t1, s.thread? g.key x = some t ∧ s.readiness g i.sig x = .go ∧ f t = .ok t1 ∧ t1.tix = t.tix)
    (hu : issue i (arithBody i.sig f) s = .next u) : s.CountersBut g.key.ctx 0x010 u := by
  have hh : s.held g i.sig = false := State.held_eq_false fun x hx ds => by
    obtain ⟨t, t1, -, hr, -⟩ := h x hx
    simp [hr]
  unfold issue at hu
  rw [issueWith_next hg hh] at hu
  injection hu with hu
  rw [← hu]
  have folded := fold_arith_counters (g := g) (i := i) (f := f) (sortBy (fun a b => decide (a % 32 ≤ b % 32)) g.tixs)
    { s with group := none } (sortBy_nodup.mpr hn) fun x hx => h x (sortBy_mem.mp hx)
  exact .trans (.trans (.of_ctxs rfl) folded) (.of_ctxs State.refresh_ctxs)

end Sys2Proof.Machine

namespace Sys2Proof.Claims
open Machine

/-! ### The group's issue -/

variable {s : State} {g : Group} {i : Instr}

theorem outerParts_of_onlyThreads {u : State} (h : State.OnlyThreads { s with group := none } u) : outerParts u = outerParts s := by
  have := congrArg outerParts h.rest
  exact this

/-- A group of which no thread traps: what `issue_arith` asks of its threads. -/
theorem Goes.computes {f : Thread → Except Trap Thread} (h : Goes s g i)
    (hf : ∀ t, noTrap i t → ∃ u, f t = .ok u ∧ WritesOnly i.sig.targets t u)
    (ht : ∀ x ∈ g.tixs, ∀ t, s.thread? g.key x = some t → noTrap i t) :
    ∀ x ∈ g.tixs, ∃ t t1, s.thread? g.key x = some t ∧ s.readiness g i.sig x = .go ∧ f t = .ok t1 ∧ t1.tix = t.tix := by
  intro x hx
  obtain ⟨t, l, hxt, hl, -, hgo⟩ := h.go x hx
  obtain ⟨u, hu, -, _, _, _, _, rfl⟩ := hf t (ht x hx t hxt)
  exact ⟨t, _, hxt, (State.readiness_eq hxt hl).trans hgo, hu, rfl⟩

/-- What a thread is after it has retired a per-thread instruction. -/
theorem WritesOnly.after {t u : Thread} (h : WritesOnly i.sig.targets t u) :
    let t' := t.after (u.mark i.sig) g i
    RegistersOutside i.sig.targets t t' ∧ SameRest t t' ∧ t'.due = t.due ++ [i.sig.targets] ∧ t'.detect = t.detect ∧
      t'.status = t.status := by
  obtain ⟨⟨hg, hp, hc⟩, _, _, _, _, rfl⟩ := h
  exact ⟨⟨hg, hp, hc⟩, .update, rfl, rfl, rfl⟩

theorem onlyThreads_refresh {v : State} (h : State.OnlyThreads { s with group := none } v)
    (hc : s.CountersBut g.key.ctx 0x010 (v.refresh g.core)) : OnlyThreads s (v.refresh g.core) g.core g.key.ctx where
  outer := outerParts_refresh.trans (outerParts_of_onlyThreads h)
  parcels k := (parcelParts_refresh k).trans (h.parcels k)
  cores n := by
    obtain ⟨es, he⟩ := State.refresh_core (s := v) (core := g.core) n
    rw [he, State.core_congr h.cores]
    rfl
  otherCores n hn := (State.refresh_core_other hn).trans (State.core_congr h.cores n)
  contexts n := by
    rw [State.ctx_congr State.refresh_ctxs]
    exact h.ctxs n
  counters := hc

/-- Settles O1: the group's threads compute each alone (`arithmetic_of_perThread`), and around them only waits, entries and the
counter of reused operands change. -/
theorem perThreadArithmeticLeavesTheRestAlone : Obligations.PerThreadArithmeticLeavesTheRestAlone := by
  intro i s g hi hgo hno
  obtain ⟨f, hexec, hf⟩ := arithmetic_of_perThread hi
  have hs := hgo.computes hf hno
  obtain ⟨v, hv, hin, hout, honly⟩ := issue_arith hgo.group hgo.nodup hs
  refine ⟨_, (hexec s).trans hv, onlyThreads_refresh honly (issue_arith_counters hgo.group hgo.nodup hs hv), fun x hx t ht => ?_,
    fun k x hkx t ht => refresh_untouched ((hout k x hkx).trans ht)⟩
  obtain ⟨t1, hft, hw⟩ := hf t (hno x hx t ht)
  obtain ⟨hregs, hrest, hdue, hdet, hstat⟩ := hw.after (g := g)
  obtain ⟨t0, l, ht0, -, hready, -⟩ := hgo.go x hx
  obtain rfl : t0 = t := Option.some.inj (ht0.symm.trans ht)
  exact ⟨_, State.refresh_thread (hin x hx _ t1 ht hft) (by rw [hstat, hready]; rfl), hregs, hrest, hdue, hdet⟩

end Sys2Proof.Claims
end

section
/-!
# A false guard has no effect (R38)

A group of which every thread passes over its instruction changes no more than those threads and their parcels' counts
(`State.PassedOver`). What an instruction does once before its threads and once after them comes to nothing where none executes
(`Idle`).
-/

namespace Sys2Proof.Machine

variable {s u v : State} {g : Group} {i : Instr}

/-! ### One thread passes over -/

/-- The thread after an instruction whose guard is false. -/
def Thread.passed (t : Thread) (g : Group) : Thread := (t.retire (t.pc + BitVec.ofNat 32 g.size)).withReuse none

/-- The parcel after one of its threads has passed over an instruction. -/
def Parcel.passOver (p : Parcel) (g : Group) (t : Thread) : Parcel :=
  (p.retire t.tix (t.pc + BitVec.ofNat 32 g.size)).modThread t.tix (fun t => t.withReuse none)

theorem State.passOver_eq (s : State) (g : Group) (t : Thread) : s.passOver g t = s.modParcel g.key (fun p => p.passOver g t) := rfl

theorem Parcel.thread?_passOver {p : Parcel} {t : Thread} (h : p.thread? t.tix = some t) :
    (p.passOver g t).thread? t.tix = some (t.passed g) := by
  show ((p.modThread t.tix fun u => u.retire _).modThread t.tix _).thread? t.tix = _
  rw [Parcel.thread?_modThread (hf := by exact fun _ h => h), Parcel.thread?_modThread (hf := by exact fun _ h => h), h]
  rfl

theorem Parcel.thread?_passOver_other {p : Parcel} {t : Thread} {y : Nat} (h : y ≠ t.tix) : (p.passOver g t).thread? y = p.thread? y :=
  (Parcel.thread?_modThread_other (p := p.retire t.tix _) (f := fun u => u.withReuse none) (fun _ h => h) h).trans
    (Parcel.thread?_modThread_other (f := fun u => u.retire _) (fun _ h => h) h)

theorem State.thread?_passOver {t : Thread} (ht : s.thread? g.key t.tix = some t) :
    (s.passOver g t).thread? g.key t.tix = some (t.passed g) := by
  obtain ⟨p, hp, hpt⟩ := State.thread?_parcel ht
  have hq : (s.passOver g t).parcel? g.key = some (p.passOver g t) := by
    rw [State.passOver_eq, State.parcel?_modParcel (f := fun p => p.passOver g t) (fun _ => rfl), hp, Option.map_some]
  rw [State.thread?_eq hq, Parcel.thread?_passOver hpt]

theorem State.thread?_passOver_other {t : Thread} {k : PKey} {y : Nat} (h : k ≠ g.key ∨ y ≠ t.tix) :
    (s.passOver g t).thread? k y = s.thread? k y := by
  rw [State.passOver_eq]
  unfold State.thread?
  by_cases hk : k = g.key
  · subst hk
    rw [State.parcel?_modParcel (f := fun p => p.passOver g t) (fun _ => rfl)]
    cases s.parcel? g.key with
    | none => rfl
    | some p => exact Parcel.thread?_passOver_other (h.resolve_left (not_not_intro rfl))
  · rw [State.parcel?_modParcel_other (f := fun p => p.passOver g t) (fun _ => rfl) hk]

/-! ### A whole group passes over -/

/-- The parcels of state `u` are those of `s` after threads `xs` of a group have passed over an instruction. -/
structure State.PassedOver (g : Group) (xs : List Nat) (s u : State) : Prop where
  parcels : ∀ k, (u.parcel? k).map Claims.parcelParts = (s.parcel? k).map Claims.parcelParts
  passed : ∀ x ∈ xs, ∀ t, s.thread? g.key x = some t → u.thread? g.key x = some (t.passed g)
  others : ∀ k y, (k ≠ g.key ∨ y ∉ xs) → u.thread? k y = s.thread? k y

namespace State.PassedOver

theorem congr {s' u' : State} {xs : List Nat} (h : PassedOver g xs s u) (hs : s'.parcels = s.parcels) (hu : u'.parcels = u.parcels) :
    PassedOver g xs s' u' where
  parcels k := by rw [State.parcel?_congr hs, State.parcel?_congr hu, h.parcels]
  passed x hx t ht := by
    rw [State.thread?_congr hs] at ht
    rw [State.thread?_congr hu, h.passed x hx t ht]
  others k y hky := by rw [State.thread?_congr hs, State.thread?_congr hu, h.others k y hky]

theorem nil (s : State) : PassedOver g [] s s := ⟨fun _ => rfl, by simp, fun _ _ _ => rfl⟩

theorem cons {t : Thread} {xs : List Nat} (ht : s.thread? g.key t.tix = some t) (hx : t.tix ∉ xs)
    (h : PassedOver g xs (s.passOver g t) u) : PassedOver g (t.tix :: xs) s u where
  parcels k := by
    have one : s.OnlyThreads (s.modParcel g.key fun p => p.passOver g t) := State.modParcel_onlyThreads (fun _ => rfl)
    exact (h.parcels k).trans (one.parcels k)
  passed y hy t' ht' := by
    rcases List.mem_cons.mp hy with rfl | hy
    · obtain rfl := Option.some.inj (ht.symm.trans ht')
      rw [h.others _ _ (.inr hx), State.thread?_passOver ht]
    · exact h.passed y hy t' ((State.thread?_passOver_other (.inr fun e => hx (e ▸ hy))).trans ht')
  others k y hky := by
    rw [List.mem_cons, not_or] at hky
    rw [h.others k y (hky.imp_right And.right), State.thread?_passOver_other (hky.imp_right And.left)]

end State.PassedOver

theorem fold_passOver (body : Body) : ∀ (xs : List Nat) (s : State), xs.Nodup →
    (∀ x ∈ xs, ∃ t, s.thread? g.key x = some t ∧ s.readiness g i.sig x = .skip) →
    s.PassedOver g xs (xs.foldl (issueThread g i body) s) ∧ ∃ parcels, xs.foldl (issueThread g i body) s = { s with parcels }
  | [], s, _, _ => ⟨.nil s, _, rfl⟩
  | x :: xs, s, hn, h => by
    obtain ⟨hx, hxs⟩ := List.nodup_cons.mp hn
    obtain ⟨t, ht, hr⟩ := h x List.mem_cons_self
    obtain rfl := State.thread?_tix ht
    rw [List.foldl_cons, issueThread_skip ht hr]
    obtain ⟨hover, ps, hps⟩ := fold_passOver body xs (s.passOver g t) hxs fun y hy => by
      obtain ⟨t', ht', hr'⟩ := h y (List.mem_cons_of_mem _ hy)
      have same : (s.passOver g t).thread? g.key y = s.thread? g.key y := State.thread?_passOver_other (.inr fun e => hx (e ▸ hy))
      refine ⟨t', same.trans ht', ?_⟩
      rw [← hr']
      unfold State.readiness
      rw [same]
      rfl
    exact ⟨hover.cons ht hx, ps, hps⟩

/-! ### What surrounds the threads -/

/-- State `u` is `s` but for its parcels, a serial number taken, and a table of cores that reads the same. -/
structure State.SameButParcels (s u : State) : Prop where
  only : ∃ parcels cores nextUid, u = { s with parcels, cores, nextUid }
  cores : ∀ n, u.core n = s.core n

/-- What an instruction does before and after its threads comes to nothing where none executes. -/
structure Idle {α : Type} (pre : Group → List Nat → State → State × α) (post : Group → State → State) : Prop where
  before : ∀ g s, ∃ cores nextUid, (pre g [] s).1 = { s with cores, nextUid }
  after : ∀ (g : Group) (s : State) parcels, s.SameButParcels (post g { (pre g [] s).1 with parcels }) ∧
    (post g { (pre g [] s).1 with parcels }).parcels = parcels

/-- Nothing is done after the threads, and before them at most a number is taken. -/
theorem Idle.of_pre {α : Type} {pre : Group → List Nat → State → State × α} (h : ∀ g s, ∃ nextUid, (pre g [] s).1 = { s with nextUid }) :
    Idle pre (fun _ s => s) where
  before g s := by
    obtain ⟨n, hn⟩ := h g s
    exact ⟨_, n, hn⟩
  after g s ps := by
    obtain ⟨n, hn⟩ := h g s
    rw [hn]
    exact ⟨⟨⟨_, _, _, rfl⟩, fun _ => rfl⟩, rfl⟩

/-- The entry that an instruction makes in the port is removed where no thread uses it. -/
theorem closePort_openPort_core (i : Instr) (g : Group) (s : State) (parcels : List Parcel) (n : Nat) :
    (closePort g { (openPort i g [] s).1 with parcels }).core n = s.core n := by
  show (closePort g (State.modCore { s with parcels } g.core fun c => { c with port := c.port ++ [⟨g.key, g.pc, i, [], [], 0⟩] })).core n =
    State.core { s with parcels } n
  unfold closePort
  by_cases h : n = g.core
  · subst h
    rw [State.core_modCore_same, State.core_modCore_same]
    simp
  · rw [State.core_modCore_other h, State.core_modCore_other h]

theorem Idle.port (i : Instr) : Idle (openPort i) closePort where
  before _ _ := ⟨_, _, rfl⟩
  after g s parcels := ⟨⟨⟨_, _, _, rfl⟩, closePort_openPort_core i g s parcels⟩, rfl⟩

/-- A group of which every thread passes over its instruction. -/
theorem issueWith_passOver {α : Type} {pre : Group → List Nat → State → State × α} {body : α → Body} {post : Group → State → State}
    (hidle : Idle pre post) (hg : s.group = some g) (hn : g.tixs.Nodup)
    (hs : ∀ x ∈ g.tixs, ∃ t, s.thread? g.key x = some t ∧ s.readiness g i.sig x = .skip) :
    ∃ u, issueWith i pre body post s = .next (u.refresh g.core) ∧ s.PassedOver g g.tixs u ∧
      State.SameButParcels { s with group := none } u := by
  have hskip : ∀ x ∈ g.tixs, s.readiness g i.sig x = .skip := fun x hx => (hs x hx).choose_spec.2
  have hheld : s.held g i.sig = false := State.held_eq_false fun x hx ds => by simp [hskip x hx]
  have hnone : s.executing g i.sig = [] := List.filter_eq_nil_iff.mpr fun x hx => by simp [hskip x hx]
  obtain ⟨cores, uid, hpre⟩ := hidle.before g { s with group := none }
  have hm : ∀ x, x ∈ sortBy (fun a b => decide (a % 32 ≤ b % 32)) g.tixs ↔ x ∈ g.tixs := fun x => sortBy_mem
  obtain ⟨hover, ps, hps⟩ := fold_passOver (g := g) (i := i) (body (pre g [] { s with group := none }).2)
    (sortBy (fun a b => decide (a % 32 ≤ b % 32)) g.tixs) (pre g [] { s with group := none }).1 (sortBy_nodup.mpr hn) fun x hx => by
      rw [hpre]
      exact hs x ((hm x).mp hx)
  obtain ⟨hsame, hparcels⟩ := hidle.after g { s with group := none } ps
  have hnext := issueWith_next (pre := pre) (body := body) (post := post) hg hheld
  rw [hnone, hps] at hnext
  rw [hps] at hover
  refine ⟨_, hnext, ?_, hsame⟩
  have h := hover.congr (s' := s) (by rw [hpre]) hparcels
  exact ⟨h.parcels, fun x hx => h.passed x ((hm x).mpr hx), fun k y hky => h.others k y (hky.imp_right fun h hy => h ((hm y).mp hy))⟩

end Sys2Proof.Machine

namespace Sys2Proof.Claims
open Machine

variable {s : State} {g : Group} {i : Instr}

/-! ### Every instruction is idle where no thread executes it -/

/-- An instruction is issued with nothing but its threads' effects. -/
def IssuesIdly (i : Instr) (s : State) : Prop :=
  ∃ (α : Type) (pre : Group → List Nat → State → State × α) (body : α → Body) (post : Group → State → State),
    exec i s = issueWith i pre body post s ∧ Idle pre post

theorem IssuesIdly.of_pre {α : Type} {pre : Group → List Nat → State → State × α} {body : α → Body}
    (he : exec i s = issueWith i pre body (fun _ s => s) s) (h : ∀ g s, ∃ nextUid, (pre g [] s).1 = { s with nextUid }) : IssuesIdly i s :=
  ⟨α, pre, body, _, he, .of_pre h⟩

theorem IssuesIdly.issue {body : Body} (he : exec i s = issue i body s) : IssuesIdly i s := .of_pre he fun _ _ => ⟨_, rfl⟩

theorem IssuesIdly.port {body : Body} (he : exec i s = issuePort i body s) : IssuesIdly i s := ⟨_, _, _, _, he, .port i⟩

theorem IssuesIdly.mutation {q : Thread → SetAsk} (he : exec i s = issueMutation i q s) : IssuesIdly i s :=
  .of_pre he fun _ _ => ⟨_, rfl⟩

theorem PassesOver.readiness (h : PassesOver s g i) :
    ∀ x ∈ g.tixs, ∃ t, s.thread? g.key x = some t ∧ s.readiness g i.sig x = .skip := fun x hx => by
  obtain ⟨t, l, ht, hl, -, hskip⟩ := h.skip x hx
  exact ⟨t, ht, (State.readiness_eq ht hl).trans hskip⟩

/-- A BRU that no thread executes diverges in none (R124). -/
theorem exec_bru_passOver {x : BWord} (h : PassesOver s g (.bru x)) :
    exec (.bru x) s = issue (.bru x) (fun s k t => s.branch k t (x.target t.pc) none) s := by
  have hnone : s.executing g (Instr.bru x).sig = [] := List.filter_eq_nil_iff.mpr fun y hy => by
    obtain ⟨-, -, hskip⟩ := h.readiness y hy
    simp [hskip]
  show execBru x s = _
  unfold execBru
  simp [h.group, hnone]

theorem issuesIdly (hi : i.isStep = false) (h : PassesOver s g i) : IssuesIdly i s := by
  by_cases hp : perThread i = true
  · obtain ⟨f, hexec, -⟩ := arithmetic_of_perThread hp
    exact .issue (hexec s)
  replace hi : (perThread i || i.isStep) = false := by simp [hp, hi]
  cases i with
  | bru => exact .issue (exec_bru_passOver h)
  | lds | kld | atomsAdd | atomsMin | atomsMax | atomsAnd | atomsOr | atomsXor | atomsSwap | atomsCas | binit | arrive | expect
  | waitph | testph => exact .port rfl
  | sts x => exact .of_pre (execSts.eq_1 x s) fun _ _ => ⟨_, rfl⟩
  | kst x => exact .of_pre (execKst.eq_1 x s) fun _ _ => ⟨_, rfl⟩
  | cnew x => exact .of_pre (execCnew.eq_1 x s) fun _ _ => ⟨_, rfl⟩
  | elect x => exact .of_pre (execElect.eq_1 x s) fun _ _ => ⟨_, rfl⟩
  | perfrd x => exact .of_pre (execPerfrd.eq_1 x s) fun _ _ => ⟨_, rfl⟩
  | sins | sdel => exact .mutation rfl
  | bra | brx | call | callx | ret | exit | yield | nop | ovld | waitcnt | fence | cfree | join | leave | cbar | cshfl | creduce | cscan
  | cvote | cpin | cpout | cpxg | cpxs | cpmc | cptx | tlread | tlwatch | engq | engres | obres | obfree | obinfo | mshape | mma
  | mmas | mcommit | mdrop | azero | amov | aser | achk | term | adrain | ainfo | aflag | snew | sfree | shas | scard | suni | sint
  | sdif | scpy | sldl | sstl | snext | srep | shint | scost | crupd | crrd | crsnap | crlap | crinfo | trap | eret | mfsr | mtsr
  | bkpt | clkrd | unassignedOpcode => exact .issue rfl
  | _ => cases hi

/-- What a thread is after it has passed over an instruction. -/
theorem passed_kept (t : Thread) (g : Group) : SameRest t (t.passed g) ∧ (t.passed g).pc = t.pc + BitVec.ofNat 32 g.size ∧
    (t.passed g).retired = retiredNext t := ⟨.update, rfl, rfl⟩

/-- Settles O2: no thread executes, so what the issue does but for the threads that pass over comes to nothing (`issuesIdly`). -/
theorem falseGuardHasNoEffect : Obligations.FalseGuardHasNoEffect := by
  intro i s g hi h
  obtain ⟨α, pre, body, post, hexec, hidle⟩ := issuesIdly hi h
  obtain ⟨u, hu, hover, ⟨ps, cores, uid, rfl⟩, hcores⟩ := issueWith_passOver (body := body) hidle h.group h.nodup h.readiness
  refine ⟨_, hexec.trans hu, ?_, fun n => ?_, fun k => ?_, fun n => ?_, fun x hx t ht => ?_, fun k x hkx t ht => ?_⟩
  · show ({ outerParts (State.refresh _ g.core) with nextUid := s.nextUid } : State) = _
    rw [outerParts_refresh]
    rfl
  · obtain ⟨es, he⟩ := State.refresh_core (s := { s with group := none, parcels := ps, cores := cores, nextUid := uid }) (core := g.core) n
    rw [he, hcores]
    rfl
  · exact (parcelParts_refresh k).trans (hover.parcels k)
  · exact State.ctx_congr State.refresh_ctxs n
  · obtain ⟨t0, l, ht0, -, hready, -⟩ := h.skip x hx
    obtain rfl : t0 = t := Option.some.inj (ht0.symm.trans ht)
    obtain ⟨hrest, hpc, hret⟩ := passed_kept t0 g
    have hst : (t0.passed g).status = .ready := hready
    exact ⟨_, State.refresh_thread (hover.passed x hx t0 ht) (by rw [hst]; rfl), hrest, hpc, hret, hst, rfl, rfl, rfl⟩
  · exact refresh_untouched ((hover.others k x hkx).trans ht)

end Sys2Proof.Claims
end

section
/-!
# The fields of a word

An appended vector is a stretch of a word exactly where its two parts are the two parts of that stretch. So a word is the encoding of
a format's fields exactly where its opcode, guard and fields are those and the format's reserved bits are 0: one equivalence for each
format, read from left to right by decoding and from right to left by encoding.
-/

namespace Sys2Proof

/-! ### Parts of a word -/

theorem append_eq_extract_iff {l m n k : Nat} (a : BitVec m) (b : BitVec n) (w : BitVec l) :
    a ++ b = w.extractLsb' k (m + n) ↔ a = w.extractLsb' (k + n) m ∧ b = w.extractLsb' k n := by
  rw [← BitVec.extractLsb'_append_extractLsb'_eq_extractLsb' rfl]
  constructor
  · intro h
    have high := congrArg (fun x : BitVec (m + n) => x.extractLsb' n m) h
    have low := congrArg (fun x : BitVec (m + n) => x.extractLsb' 0 n) h
    simp only [BitVec.extractLsb'_append_eq_left, BitVec.extractLsb'_append_eq_right] at high low
    exact ⟨high, low⟩
  · rintro ⟨rfl, rfl⟩
    rfl

/-- A word is the stretch of all its bits. -/
theorem eq_word_iff {n : Nat} {v w : BitVec n} : v = w ↔ v = w.extractLsb' 0 n := by rw [BitVec.extractLsb'_eq_self]

variable {w : DWord}

theorem flagBit_eq_extract_iff {b : Bool} {n : Nat} : flagBit b = w.extractLsb' n 1 ↔ b = w.getLsbD n := by
  have e : w.extractLsb' n 1 = flagBit (w.getLsbD n) := by
    apply BitVec.eq_of_getLsbD_eq
    intro i hi
    obtain rfl : i = 0 := by omega
    simp [flagBit]
  rw [e]
  exact BitVec.ofBool_eq_iff_eq

theorem zero_eq_extract_iff {n : Nat} : 0#1 = w.extractLsb' n 1 ↔ false = w.getLsbD n := flagBit_eq_extract_iff (b := false)

theorem one_eq_extract_iff {n : Nat} : 1#1 = w.extractLsb' n 1 ↔ true = w.getLsbD n := flagBit_eq_extract_iff (b := true)

theorem twoFlags_eq_extract_iff {x y : Bool} {n : Nat} :
    flagBit x ++ flagBit y = w.extractLsb' n 2 ↔ w.getLsbD (n + 1) = x ∧ w.getLsbD n = y := by
  refine (append_eq_extract_iff _ _ w).trans ?_
  simp only [flagBit_eq_extract_iff, @eq_comm _ x, @eq_comm _ y]

theorem TypeCode.ofBits_code (ty : TypeCode) : TypeCode.ofBits ty.code = ty := by cases ty <;> rfl

theorem TypeCode.code_ofBits : ∀ b, (TypeCode.ofBits b).code = b := by decide

theorem TypeCode.code_eq_iff {ty : TypeCode} {b : BitVec 4} : ty.code = b ↔ ty = TypeCode.ofBits b :=
  ⟨fun h => by rw [← h, ofBits_code], fun h => by rw [h, code_ofBits]⟩

theorem encodeGuard_eq_extract_iff {g : Guard} : encodeGuard g = w.extractLsb' 48 6 ↔ guardOf w = some g := by
  have bits (x y : Bool) (p : BitVec 4) : (flagBit x ++ flagBit y ++ p : BitVec 6) = w.extractLsb' 48 6 ↔
      x = w.getLsbD 53 ∧ y = w.getLsbD 52 ∧ p = w.extractLsb' 48 4 := by
    refine (append_eq_extract_iff _ _ _).trans ?_
    simp only [append_eq_extract_iff]
    simp only [flagBit_eq_extract_iff, Nat.reduceAdd, and_assoc]
  cases g with
  | always =>
    refine (bits false false 0#4).trans ?_
    unfold guardOf
    cases w.getLsbD 53 <;> cases w.getLsbD 52 <;> simp [@eq_comm _ 0#4]
  | onTrue p =>
    refine (bits true false p).trans ?_
    unfold guardOf
    cases w.getLsbD 53 <;> cases w.getLsbD 52 <;> simp [@eq_comm _ p]
  | onFalse p =>
    refine (bits true true p).trans ?_
    unfold guardOf
    cases w.getLsbD 53 <;> cases w.getLsbD 52 <;> simp [@eq_comm _ p]

/-! ### The formats (R57 to R66) -/

variable {op : BitVec 10}

theorem encodeR_eq_iff {x : RWord} :
    encodeR op x = w ↔ op = w.extractLsb' 54 10 ∧ guardOf w = some x.guard ∧ x = rFields x.guard w := by
  cases x
  rw [encodeR, eq_word_iff]
  refine (append_eq_extract_iff _ _ _).trans ?_
  simp only [append_eq_extract_iff]
  simp only [encodeGuard_eq_extract_iff, flagBit_eq_extract_iff, TypeCode.code_eq_iff, rFields, RWord.mk.injEq, Nat.reduceAdd,
    true_and, and_assoc]

theorem encodeI_eq_iff {x : IWord} :
    encodeI op x = w ↔ op = w.extractLsb' 54 10 ∧ guardOf w = some x.guard ∧ x = iFields x.guard w ∧
      w.getLsbD 8 = false ∧ w.getLsbD 7 = false := by
  cases x
  rw [encodeI, eq_word_iff]
  refine (append_eq_extract_iff _ _ _).trans ?_
  have flags : 0#2 = w.extractLsb' 7 2 ↔ w.getLsbD 8 = false ∧ w.getLsbD 7 = false := twoFlags_eq_extract_iff (x := false) (y := false)
  simp only [append_eq_extract_iff]
  simp only [encodeGuard_eq_extract_iff, flags, TypeCode.code_eq_iff, iFields, IWord.mk.injEq, Nat.reduceAdd, true_and]
  tauto

theorem encodeL_eq_iff {x : LWord} {w2 : DWord} :
    encodeL op x = [w, w2] ↔ op = w.extractLsb' 54 10 ∧ guardOf w = some x.guard ∧ x = lFields x.guard w w2 ∧
      w.extractLsb' 9 21 = 0#21 ∧ w.getLsbD 8 = true ∧ w.getLsbD 7 = false := by
  cases x
  rw [encodeL, List.cons.injEq, List.cons.injEq, eq_word_iff]
  refine (and_congr_left' (append_eq_extract_iff _ _ _)).trans ?_
  simp only [append_eq_extract_iff]
  simp only [encodeGuard_eq_extract_iff, one_eq_extract_iff, zero_eq_extract_iff, TypeCode.code_eq_iff, lFields, LWord.mk.injEq, Nat.reduceAdd, true_and]
  tauto

theorem encodeM_eq_iff {x : MWord} :
    encodeM op x = w ↔ op = w.extractLsb' 54 10 ∧ guardOf w = some x.guard ∧ x = mFields x.guard w := by
  cases x
  rw [encodeM, eq_word_iff]
  refine (append_eq_extract_iff _ _ _).trans ?_
  simp only [append_eq_extract_iff]
  simp only [encodeGuard_eq_extract_iff, mFields, MWord.mk.injEq, Nat.reduceAdd, true_and, and_assoc]

theorem encodeB_eq_iff {x : BWord} :
    encodeB op x = w ↔ op = w.extractLsb' 54 10 ∧ guardOf w = some x.guard ∧ x = bFields x.guard w ∧
      w.extractLsb' 7 9 = 0#9 ∧ w.extractLsb' 0 5 = 0#5 := by
  cases x
  rw [encodeB, eq_word_iff]
  refine (append_eq_extract_iff _ _ _).trans ?_
  simp only [append_eq_extract_iff]
  simp only [encodeGuard_eq_extract_iff, bFields, BWord.mk.injEq, Nat.reduceAdd, true_and]
  tauto

theorem encodeE_eq_iff {x : EWord} :
    encodeE op x = w ↔ op = w.extractLsb' 54 10 ∧ guardOf w = some x.guard ∧ x = eFields x.guard w := by
  cases x
  rw [encodeE, eq_word_iff]
  refine (append_eq_extract_iff _ _ _).trans ?_
  simp only [append_eq_extract_iff]
  simp only [encodeGuard_eq_extract_iff, flagBit_eq_extract_iff, eFields, EWord.mk.injEq, Nat.reduceAdd, true_and, and_assoc]

theorem encodeS_eq_iff {x : SWord} :
    encodeS op x = w ↔ op = w.extractLsb' 54 10 ∧ guardOf w = some x.guard ∧ x = sFields x.guard w ∧
      w.extractLsb' 10 8 = 0#8 ∧ w.extractLsb' 7 2 = 0#2 := by
  cases x
  rw [encodeS, eq_word_iff]
  refine (append_eq_extract_iff _ _ _).trans ?_
  simp only [append_eq_extract_iff]
  simp only [encodeGuard_eq_extract_iff, flagBit_eq_extract_iff, sFields, SWord.mk.injEq, Nat.reduceAdd, true_and]
  tauto

theorem encodeC_eq_iff {x : CWord} :
    encodeC op x = w ↔ op = w.extractLsb' 54 10 ∧ guardOf w = some x.guard ∧ x = cFields x.guard w ∧ w.extractLsb' 0 12 = 0#12 := by
  cases x
  rw [encodeC, eq_word_iff]
  refine (append_eq_extract_iff _ _ _).trans ?_
  simp only [append_eq_extract_iff]
  simp only [encodeGuard_eq_extract_iff, cFields, CWord.mk.injEq, Nat.reduceAdd, true_and]
  tauto

end Sys2Proof
end

section
/-!
# Decoding and encoding agree

Each row of the opcode map names instructions whose words are those of the row's format (`Shape.Row`), and each instruction that is no
step of the device is named by a row or is a word of no row (`named_of_not_isStep`). With the equivalence of each format, decoding
a word by its row is the same as being a well-formed instruction of that row with that word (`decode_eq_ok_iff`).
-/

namespace Sys2Proof

variable {op : BitVec 10} {shape : Shape} {i : Instr} {w : DWord} {second : Option DWord}

/-! ### Rows of the opcode map (R75) -/

/-- What a row of the opcode map says of the instructions it names: the words they have, when their form is well-formed (R62), and that
an L form names the registers of its one-word form. -/
def Shape.Row (op : BitVec 10) : Shape → Prop
  | .r f => ∀ x, encode (f x) = [encodeR op x] ∧ (f x).formOk = true
  | .i f none => ∀ x, encode (f x) = [encodeI op x] ∧ (f x).formOk = true
  | .i f (some l) => (∀ x, encode (f x) = [encodeI op x] ∧ (f x).formOk = true) ∧
      ∀ x : LWord, encode (l x) = encodeL op x ∧ (l x).formOk = longOk x.ty x.imm64 ∧
        ∀ imm21, (f ⟨x.guard, x.d, x.a, imm21, x.ty, x.v⟩).sig = (l x).sig
  | .m f => ∀ x, encode (f x) = [encodeM op x] ∧ (f x).formOk = true
  | .b f => ∀ x, encode (f x) = [encodeB op x] ∧ (f x).formOk = true
  | .e f => ∀ x, encode (f x) = [encodeE op x] ∧ (f x).formOk = true
  | .s f => ∀ x, encode (f x) = [encodeS op x] ∧ (f x).formOk = true
  | .c f => ∀ x, encode (f x) = [encodeC op x] ∧ (f x).formOk = true

/-- Every row of the map, each by what `encode`, `Instr.formOk` and `Instr.sig` say of its constructor. -/
theorem row_of_mem : ∀ e ∈ opcodes, e.2.Row (BitVec.ofNat 10 e.1) := by
  simp only [opcodes, List.forall_mem_append]
  and_intros
  all_goals
    simp only [opcodes0, opcodes1, opcodes2, opcodes3, opcodes4, opcodes5, opcodes6, opcodes7, opcodes8, opcodes9, opcodesA, opcodesB,
      opcodesC, opcodesD, opcodesE, opcodesF, List.forall_mem_cons, List.not_mem_nil, false_imp_iff,
      implies_true, and_true, Shape.Row]
    and_intros <;> intros <;> and_intros <;> intros <;> rfl

theorem findShape_mem {n : Nat} {l : List (Nat × Shape)} (h : findShape n l = some shape) : (n, shape) ∈ l := by
  induction l with
  | nil => cases h
  | cons e l ih =>
    unfold findShape at h
    split at h
    · rename_i hk
      obtain rfl := beq_iff_eq.mp hk
      obtain rfl := Option.some.inj h
      exact List.mem_cons_self
    · exact List.mem_cons_of_mem _ (ih h)

theorem shapeOf_mem {n : Nat} (h : shapeOf n = some shape) : (n, shape) ∈ opcodes := by
  unfold shapeOf at h
  simp only [opcodes, List.mem_append, or_assoc]
  split at h <;> simp only [findShape_mem h, true_or, or_true]

theorem row_of_shapeOf (h : shapeOf op.toNat = some shape) : shape.Row op := by
  simpa using row_of_mem _ (shapeOf_mem h)

/-- A row names an instruction. -/
def Shape.Names : Shape → Instr → Prop
  | .r f, i => ∃ x, i = f x
  | .i f long, i => (∃ x, i = f x) ∨ ∃ l x, long = some l ∧ i = l x
  | .m f, i => ∃ x, i = f x
  | .b f, i => ∃ x, i = f x
  | .e f, i => ∃ x, i = f x
  | .s f, i => ∃ x, i = f x
  | .c f, i => ∃ x, i = f x

/-! ### Decoding by a row (R78) -/

theorem Instr.wellFormed_iff : i.wellFormed = true ↔ i.sig.early = none ∧ i.sig.check7 = true ∧ i.formOk = true := by
  simp [Instr.wellFormed, and_assoc]

theorem unassigned_formOk_iff : (Instr.unassignedOpcode w).formOk = true ↔ shapeOf (w.extractLsb' 54 10).toNat = none :=
  Option.isNone_iff_eq_none

theorem finishDecode_eq_ok_iff {clean : Bool} {j : Instr} :
    finishDecode clean i = .ok j ↔ clean = true ∧ i.sig.early = none ∧ i.sig.check7 = true ∧ i = j := by
  unfold finishDecode
  cases clean <;> cases i.sig.early <;> cases i.sig.check7 <;> simp

/-- What the row of its opcode makes of a word with guard `g`. -/
def Shape.read (shape : Shape) (g : Guard) (w : DWord) (second : Option DWord) : Except Nat Instr :=
  match shape with
  | .r f => finishDecode true (f (rFields g w))
  | .i f long => decodeI f long g w second
  | .m f => finishDecode true (f (mFields g w))
  | .b f => finishDecode (w.extractLsb' 7 9 == 0#9 && w.extractLsb' 0 5 == 0#5) (f (bFields g w))
  | .e f => finishDecode true (f (eFields g w))
  | .s f => finishDecode (w.extractLsb' 10 8 == 0#8 && w.extractLsb' 7 2 == 0#2) (f (sFields g w))
  | .c f => finishDecode (w.extractLsb' 0 12 == 0#12) (f (cFields g w))

theorem decode_unassigned (h : shapeOf (w.extractLsb' 54 10).toNat = none) : decode w second = .ok (.unassignedOpcode w) := by
  unfold decode
  rw [h]

theorem decode_eq_ok_iff_read (h : shapeOf (w.extractLsb' 54 10).toNat = some shape) :
    decode w second = .ok i ↔ ∃ g, guardOf w = some g ∧ shape.read g w second = .ok i := by
  unfold decode
  rw [h]
  cases guardOf w with
  | none => simp
  | some g => exact ⟨fun h => ⟨g, rfl, h⟩, fun ⟨_, hg, h⟩ => by cases hg; exact h⟩

/-- `i` has the words `w`, or `w` and `second`. -/
def HasWords (i : Instr) (w : DWord) (second : Option DWord) : Prop :=
  encode i = [w] ∨ ∃ w2, second = some w2 ∧ encode i = [w, w2]

/-- A format of one word: `fields` are read from a word, and `enc` writes one. -/
theorem finishDecode_iff {F : Type} {f : F → Instr} {guard : F → Guard} {fields : Guard → DWord → F} {enc : F → DWord} {clean : Bool}
    (hg : ∀ g, guard (fields g w) = g)
    (he : ∀ x, enc x = w ↔ guardOf w = some (guard x) ∧ x = fields (guard x) w ∧ clean = true)
    (hf : ∀ x, encode (f x) = [enc x] ∧ (f x).formOk = true) :
    (∃ g, guardOf w = some g ∧ finishDecode clean (f (fields g w)) = .ok i) ↔
      (∃ x, i = f x) ∧ i.wellFormed = true ∧ HasWords i w second := by
  constructor
  · rintro ⟨g, hw, h⟩
    obtain ⟨hc, h3, h7, rfl⟩ := finishDecode_eq_ok_iff.mp h
    have hx : enc (fields g w) = w := (he _).mpr ⟨by rw [hg, hw], by rw [hg], hc⟩
    exact ⟨⟨_, rfl⟩, Instr.wellFormed_iff.mpr ⟨h3, h7, (hf _).2⟩, .inl (by rw [(hf _).1, hx])⟩
  · rintro ⟨⟨x, rfl⟩, hwf, hi⟩
    obtain ⟨h3, h7, -⟩ := Instr.wellFormed_iff.mp hwf
    have hx : enc x = w := by simpa [HasWords, (hf x).1] using hi
    obtain ⟨hw, hfx, hc⟩ := (he x).mp hx
    exact ⟨_, hw, by rw [← hfx]; exact finishDecode_eq_ok_iff.mpr ⟨hc, h3, h7, rfl⟩⟩

/-- Format I: bit 8 tells the L form, whose registers are those of the one-word form. -/
theorem decodeI_eq_ok_iff {f : IWord → Instr} {long : Option (LWord → Instr)} {g : Guard} :
    decodeI f long g w second = .ok i ↔
      w.getLsbD 7 = false ∧ (f (iFields g w)).sig.early = none ∧ (f (iFields g w)).sig.check7 = true ∧
        (w.getLsbD 8 = false ∧ f (iFields g w) = i ∨
          w.getLsbD 8 = true ∧ ∃ l w2, long = some l ∧ second = some w2 ∧ w.extractLsb' 9 21 = 0#21 ∧
            longOk (iFields g w).ty w2 = true ∧ l (lFields g w w2) = i) := by
  unfold decodeI
  dsimp only
  generalize w.getLsbD 7 = reserved, w.getLsbD 8 = isLong, (f (iFields g w)).sig.early = early, (f (iFields g w)).sig.check7 = aligned
  cases reserved with
  | true => simp
  | false =>
    cases early with
    | some n => simp
    | none =>
      cases isLong with
      | false => cases aligned <;> simp
      | true =>
        cases long with
        | none => simp
        | some l =>
          cases second with
          | none => simp
          | some w2 => cases aligned <;> simp <;> split <;> simp_all

theorem Shape.Row.short {f : IWord → Instr} {long : Option (LWord → Instr)} (h : (Shape.i f long).Row op) (x : IWord) :
    encode (f x) = [encodeI op x] ∧ (f x).formOk = true := by
  cases long with
  | none => exact h x
  | some l => exact h.1 x

theorem Shape.Row.long {f : IWord → Instr} {l : LWord → Instr} (h : (Shape.i f (some l)).Row op) (x : LWord) :
    encode (l x) = encodeL op x ∧ (l x).formOk = longOk x.ty x.imm64 ∧
      ∀ imm21, (f ⟨x.guard, x.d, x.a, imm21, x.ty, x.v⟩).sig = (l x).sig := h.2 x

/-- Format I, with its L form. -/
theorem decodeI_iff {f : IWord → Instr} {long : Option (LWord → Instr)} (row : (Shape.i f long).Row (w.extractLsb' 54 10)) :
    (∃ g, guardOf w = some g ∧ decodeI f long g w second = .ok i) ↔
      (Shape.i f long).Names i ∧ i.wellFormed = true ∧ HasWords i w second := by
  simp only [decodeI_eq_ok_iff, Shape.Names]
  constructor
  · rintro ⟨g, hw, h0, h3, h7, ⟨h8, rfl⟩ | ⟨h8, l, w2, rfl, rfl, hz, hl, rfl⟩⟩
    · obtain ⟨he, hf⟩ := row.short (iFields g w)
      have hx : encodeI (w.extractLsb' 54 10) (iFields g w) = w := encodeI_eq_iff.mpr ⟨rfl, hw, rfl, h8, h0⟩
      exact ⟨.inl ⟨_, rfl⟩, Instr.wellFormed_iff.mpr ⟨h3, h7, hf⟩, .inl (by rw [he, hx])⟩
    · obtain ⟨he, hf, hs⟩ := row.long (lFields g w w2)
      have hx : encodeL (w.extractLsb' 54 10) (lFields g w w2) = [w, w2] := encodeL_eq_iff.mpr ⟨rfl, hw, rfl, hz, h8, h0⟩
      have hs : (f (iFields g w)).sig = (l (lFields g w w2)).sig := hs _
      rw [hs] at h3 h7
      exact ⟨.inr ⟨l, _, rfl, rfl⟩, Instr.wellFormed_iff.mpr ⟨h3, h7, hf.trans hl⟩, .inr ⟨w2, rfl, by rw [he, hx]⟩⟩
  · rintro ⟨⟨x, rfl⟩ | ⟨l, x, rfl, rfl⟩, hwf, hi⟩ <;> obtain ⟨h3, h7, hform⟩ := Instr.wellFormed_iff.mp hwf
    · have hx : encodeI (w.extractLsb' 54 10) x = w := by simpa [HasWords, (row.short x).1] using hi
      obtain ⟨-, hw, hfx, h8, h0⟩ := encodeI_eq_iff.mp hx
      rw [hfx] at h3 h7
      exact ⟨_, hw, h0, h3, h7, .inl ⟨h8, by rw [← hfx]⟩⟩
    · obtain ⟨he, hf, hs⟩ := row.long x
      obtain ⟨w2, hsecond, hx⟩ : ∃ w2, second = some w2 ∧ encodeL (w.extractLsb' 54 10) x = [w, w2] := by
        simpa [HasWords, he, encodeL] using hi
      obtain ⟨-, hw, hfx, hz, h8, h0⟩ := encodeL_eq_iff.mp hx
      have hs : (f (iFields x.guard w)).sig = (l x).sig := by rw [hfx]; exact (row.long _).2.2 _
      rw [hform] at hf
      refine ⟨_, hw, h0, hs ▸ h3, hs ▸ h7, .inr ⟨h8, l, w2, rfl, hsecond, hz, ?_, by rw [← hfx]⟩⟩
      rw [hfx] at hf
      exact hf.symm

/-- A word decodes by its row to the well-formed instructions of that row that have it as their word. -/
theorem decode_eq_ok_iff (h : shapeOf (w.extractLsb' 54 10).toNat = some shape) :
    decode w second = .ok i ↔ shape.Names i ∧ i.wellFormed = true ∧ HasWords i w second := by
  have row := row_of_shapeOf h
  rw [decode_eq_ok_iff_read h]
  cases shape with
  | r f => exact finishDecode_iff (guard := RWord.guard) (fun _ => rfl) (fun x => by simp [encodeR_eq_iff]) row
  | i f long => exact decodeI_iff row
  | m f => exact finishDecode_iff (guard := MWord.guard) (fun _ => rfl) (fun x => by simp [encodeM_eq_iff]) row
  | b f => exact finishDecode_iff (guard := BWord.guard) (fun _ => rfl) (fun x => by simp [encodeB_eq_iff]) row
  | e f => exact finishDecode_iff (guard := EWord.guard) (fun _ => rfl) (fun x => by simp [encodeE_eq_iff]) row
  | s f => exact finishDecode_iff (guard := SWord.guard) (fun _ => rfl) (fun x => by simp [encodeS_eq_iff]) row
  | c f => exact finishDecode_iff (guard := CWord.guard) (fun _ => rfl) (fun x => by simp [encodeC_eq_iff]) row

/-! ### Every instruction has its row (R74, R75) -/

/-- `i` has the words of the format of its opcode's row, which names it, or is itself a word of no row. -/
inductive Rowed : Instr → Prop
  | unassigned (w : DWord) : Rowed (.unassignedOpcode w)
  | formatR {op f x} (words : encode (f x) = [encodeR op x]) (row : shapeOf op.toNat = some (.r f)) : Rowed (f x)
  | formatI {op f x long} (words : encode (f x) = [encodeI op x]) (row : shapeOf op.toNat = some (.i f long)) : Rowed (f x)
  | formatL {op f l x} (words : encode (l x) = encodeL op x) (row : shapeOf op.toNat = some (.i f (some l))) : Rowed (l x)
  | formatM {op f x} (words : encode (f x) = [encodeM op x]) (row : shapeOf op.toNat = some (.m f)) : Rowed (f x)
  | formatB {op f x} (words : encode (f x) = [encodeB op x]) (row : shapeOf op.toNat = some (.b f)) : Rowed (f x)
  | formatE {op f x} (words : encode (f x) = [encodeE op x]) (row : shapeOf op.toNat = some (.e f)) : Rowed (f x)
  | formatS {op f x} (words : encode (f x) = [encodeS op x]) (row : shapeOf op.toNat = some (.s f)) : Rowed (f x)
  | formatC {op f x} (words : encode (f x) = [encodeC op x]) (row : shapeOf op.toNat = some (.c f)) : Rowed (f x)

/-- Every constructor with a word, by the format of its row. -/
theorem rowed_of_not_isStep (h : i.isStep = false) : Rowed i := by
  cases i
  case add x | sub x | mul x | mulhi x | mad x | div x | rem x | neg x | abs x | min x | max x | clamp x | addc x | subb x |
    sad x | and x | or x | xor x | not x | andn x | shl x | shr x | sar x | rot x | bfx x | bfi x | popc x | clz x | ctz x |
    brev x | perm x | lut3 x | fadd x | fsub x | fmul x | ffma x | fmin x | fmax x | fdiv x | fsqrt x | frcp x | frsq x |
    fexp2 x | flog2 x | fsin x | fcos x | fclass x | fscale x | cvt x | pack x | unpack x | frnd x | mov x | sel x | cmp x |
    fcmp x | plop x | pmov x | brx x | callx x | ret x | exit x | yield x | nop x | cnew x | cfree x | join x | leave x |
    elect x | cbar x | cshfl x | creduce x | cscan x | cvote x | tlread x | kderive x | krights x | kinfo x | kchk x |
    obres x | obfree x | obinfo x | mcommit x | mdrop x | azero x | amov x | aser x | achk x | ainfo x | aflag x | snew x |
    sfree x | sins x | sdel x | shas x | scard x | suni x | sint x | sdif x | scpy x | sldl x | sstl x | snext x | srep x |
    shint x | scost x =>
    exact .formatR rfl rfl
  case addImm x | subImm x | mulImm x | minImm x | maxImm x | andImm x | orImm x | xorImm x | andnImm x | shlImm x | shrImm x |
    sarImm x | rotImm x | movi x | cmpImm x =>
    exact .formatI rfl rfl
  case addLong x | subLong x | andLong x | orLong x | xorLong x | moviLong x | cmpLong x =>
    exact .formatL rfl rfl
  case lds x | sts x | atomsAdd x | atomsMin x | atomsMax x | atomsAnd x | atomsOr x | atomsXor x | atomsSwap x | atomsCas x |
    binit x | arrive x | expect x | waitph x | testph x | kld x | kst x =>
    exact .formatM rfl rfl
  case bra x | bru x | call x =>
    exact .formatB rfl rfl
  case ovld x | cpin x | cpout x | cpxg x | cpxs x | cpmc x | cptx x | tlwatch x | engq x | engres x | mshape x | mma x |
    mmas x | term x | adrain x | crupd x | crrd x | crsnap x | crlap x | crinfo x =>
    exact .formatE rfl rfl
  case fence x | trap x | eret x | mfsr x | mtsr x | bkpt x | clkrd x | perfrd x =>
    exact .formatS rfl rfl
  case waitcnt x =>
    exact .formatC rfl rfl
  case unassignedOpcode w => exact .unassigned w
  all_goals cases h

/-- The row of the opcode in its first word names the instruction. -/
def Instr.Named (i : Instr) : Prop :=
  ∃ w shape, shapeOf (w.extractLsb' 54 10).toNat = some shape ∧ shape.Names i ∧ (encode i = [w] ∨ ∃ w2, encode i = [w, w2])

theorem Instr.named_of_opcode {op : BitVec 10} (row : shapeOf op.toNat = some shape) (h : w.extractLsb' 54 10 = op)
    (name : shape.Names i) (words : encode i = [w] ∨ ∃ w2, encode i = [w, w2]) : i.Named :=
  ⟨w, shape, by rw [h, row], name, words⟩

theorem Rowed.cases (h : Rowed i) : (∃ w, i = .unassignedOpcode w) ∨ i.Named := by
  cases h with
  | unassigned w => exact .inl ⟨w, rfl⟩
  | formatR words row => exact .inr (Instr.named_of_opcode row (encodeR_opcode _) ⟨_, rfl⟩ (.inl words))
  | formatI words row => exact .inr (Instr.named_of_opcode row (encodeI_opcode _) (.inl ⟨_, rfl⟩) (.inl words))
  | formatL words row => exact .inr (Instr.named_of_opcode row (encodeL_opcode _) (.inr ⟨_, _, rfl, rfl⟩) (.inr ⟨_, words⟩))
  | formatM words row => exact .inr (Instr.named_of_opcode row (encodeM_opcode _) ⟨_, rfl⟩ (.inl words))
  | formatB words row => exact .inr (Instr.named_of_opcode row (encodeB_opcode _) ⟨_, rfl⟩ (.inl words))
  | formatE words row => exact .inr (Instr.named_of_opcode row (encodeE_opcode _) ⟨_, rfl⟩ (.inl words))
  | formatS words row => exact .inr (Instr.named_of_opcode row (encodeS_opcode _) ⟨_, rfl⟩ (.inl words))
  | formatC words row => exact .inr (Instr.named_of_opcode row (encodeC_opcode _) ⟨_, rfl⟩ (.inl words))

end Sys2Proof

namespace Sys2Proof.Claims

theorem isStep_eq_false_of_hasWords {i : Instr} {w : DWord} {second : Option DWord} (h : HasWords i w second) : i.isStep = false := by
  unfold Instr.isStep
  obtain h | ⟨w2, -, h⟩ := h <;> rw [h] <;> rfl

theorem decode_encode {i : Instr} (hs : i.isStep = false) (hw : i.wellFormed = true) :
    (∃ w, encode i = [w] ∧ Reads w i) ∨ ∃ w w2, encode i = [w, w2] ∧ decode w (some w2) = .ok i := by
  obtain ⟨w, rfl⟩ | ⟨w, shape, row, name, words | ⟨w2, words⟩⟩ := (rowed_of_not_isStep hs).cases
  · have none : shapeOf (w.extractLsb' 54 10).toNat = none := by
      obtain ⟨-, -, form⟩ := Instr.wellFormed_iff.mp hw
      exact unassigned_formOk_iff.mp form
    exact .inl ⟨w, rfl, fun _ => decode_unassigned none⟩
  · exact .inl ⟨w, words, fun _ => (decode_eq_ok_iff row).mpr ⟨name, hw, .inl words⟩⟩
  · exact .inr ⟨w, w2, words, (decode_eq_ok_iff row).mpr ⟨name, hw, .inr ⟨w2, rfl, words⟩⟩⟩

theorem encode_decode {i : Instr} {w : DWord} {second : Option DWord} (h : decode w second = .ok i) :
    i.isStep = false ∧ i.wellFormed = true ∧ HasWords i w second := by
  cases row : shapeOf (w.extractLsb' 54 10).toNat with
  | none =>
    obtain rfl := Except.ok.inj ((decode_unassigned row).symm.trans h)
    exact ⟨rfl, Instr.wellFormed_iff.mpr ⟨rfl, rfl, unassigned_formOk_iff.mpr row⟩, .inl rfl⟩
  | some shape =>
    obtain ⟨-, hw, words⟩ := (decode_eq_ok_iff row).mp h
    exact ⟨isStep_eq_false_of_hasWords words, hw, words⟩

/-- Settles O38: a word decodes by the row of its opcode to exactly the well-formed instructions of that row that have it as their word
(`decode_eq_ok_iff`), and every instruction has its row (`rowed_of_not_isStep`). -/
theorem decodingAndEncodingAgree : Obligations.DecodingAndEncodingAgree :=
  ⟨fun _ => decode_encode, fun _ _ _ => encode_decode⟩

/-! ### Words written out from the spec -/

/-- The word of a well-formed instruction of one word decodes to it. -/
theorem reads_of_encode {i : Instr} {w : DWord} (hw : i.wellFormed = true) (he : encode i = [w]) : Reads w i := by
  have hs : i.isStep = false := isStep_eq_false_of_hasWords (second := none) (.inl he)
  obtain ⟨v, hv, h⟩ | ⟨v, v2, hv, -⟩ := decode_encode hs hw
  · obtain ⟨rfl, -⟩ := List.cons.inj (he.symm.trans hv)
    exact h
  · cases he.symm.trans hv

/-- Settles O37: each instruction is well-formed and its fields, written out by its format, give the word. -/
theorem wordsOfTheSpecDecode : Obligations.WordsOfTheSpecDecode := by
  unfold Obligations.WordsOfTheSpecDecode
  and_intros <;> exact reads_of_encode rfl rfl

end Sys2Proof.Claims
end

section
/-!
# A step runs the decoded instruction

The issue stage's choice names the word at its group's address (`State.select_some`), and the state in which `exec` runs differs in the
issue slot, the entry's age and a count of the core alone (`State.begin_frame`, `State.begin_core_other`). As time passes, the present
cycle ends on every core that runs something (`State.endCycles_turn`), and slices are renewed.
-/

namespace Sys2Proof.Machine

variable {s : State} {core : Nat} {arith : Bool}

/-! ### The next move -/

theorem step_of_schedule {m : Move} {rest : List Move} (h : s.schedule = m :: rest) :
    step s = runMove { s with schedule := rest } m := by
  unfold step State.nextMove
  rw [h]

theorem runMove_issue_none (h : s.select core arith = none) : runMove s (.issue core arith) = .next s := by
  unfold runMove
  simp only [h]

theorem runMove_issue_ok {x : Selected} {i : Instr} (h : s.select core arith = some x) (hw : x.what = .ok i) :
    runMove s (.issue core arith) = exec i (s.begin x.group i arith) := by
  unfold runMove
  simp only [h, hw]

theorem runMove_issue_error {x : Selected} {r : Trap} (h : s.select core arith = some x) (hw : x.what = .error r) :
    runMove s (.issue core arith) = .next (s.trapGroup x.group r) := by
  unfold runMove
  simp only [h, hw]

theorem runMove_event {i : Instr} {v : State} (hi : i.isStep = true) (h : exec i s = .next v) : runMove s (.event i) = .next v := by
  unfold runMove
  simp only [hi, if_true, h, settleEvent]

/-! ### Fetching and selection (R78, R118, R126, R128) -/

section Fetch
variable {c : Core} {l : Launch} {pc : Word}

theorem Core.fetch_ok {i : Instr} (hf : c.fetchable l.key pc = true)
    (hd : decode (c.codeWord l.key pc.toNat) (c.secondWord l pc.toNat) = .ok i) : c.fetch l pc = .ok i := by
  simp [Core.fetch, hf, hd]

theorem Core.fetch_illegal {n : Nat} (hf : c.fetchable l.key pc = true)
    (hd : decode (c.codeWord l.key pc.toNat) (c.secondWord l pc.toNat) = .error n) : c.fetch l pc = .error (.illegal n pc) := by
  simp [Core.fetch, hf, hd]

theorem Core.fetch_ovlmiss (hf : c.fetchable l.key pc = false) : c.fetch l pc = .error (.ovlmiss pc) := by
  simp [Core.fetch, hf]

end Fetch

/-- The issue stage chooses a group of its own core, with what the word at the group's address is. -/
theorem State.select_some {x : Selected} (h : s.select core arith = some x) : x.group.core = core ∧
    ∃ l, s.launch? x.group.key.launchKey = some l ∧ x.what = (s.core core).fetch l x.group.pc := by
  unfold State.select at h
  obtain ⟨-, h⟩ := Option.ite_none_left_eq_some.mp h
  dsimp only at h
  split at h
  · cases h
  · rename_i e y rest hsort
    obtain rfl := Option.some.inj h
    obtain ⟨e', -, found⟩ := List.mem_filterMap.mp (sortBy_mem.mp (hsort ▸ List.mem_cons_self))
    split at found
    · cases found
    · split at found
      · cases found
      · rename_i l hl
        obtain ⟨-, found⟩ := Option.ite_none_right_eq_some.mp found
        obtain ⟨-, rfl⟩ := Prod.mk.inj (Option.some.inj found)
        exact ⟨rfl, l, hl, rfl⟩

theorem State.select_what {x : Selected} {l : Launch} (h : s.select core arith = some x)
    (hl : s.launch? x.group.key.launchKey = some l) : x.what = (s.core core).fetch l x.group.pc := by
  obtain ⟨-, l', hl', hw⟩ := State.select_some h
  obtain rfl := Option.some.inj (hl'.symm.trans hl)
  exact hw

/-! ### The state in which the instruction executes (R118, R152, R419) -/

section Begin
variable {g : Group} {i : Instr}

theorem State.begin_frame : s.begin g i arith = { s with cores := (s.begin g i arith).cores, group := some (g.sized i) } := by
  unfold State.begin State.occupy
  split <;> rfl

theorem State.begin_core_other {n : Nat} (h : n ≠ g.core) : (s.begin g i arith).core n = s.core n := by
  show (s.occupy (g.sized i) i arith).core n = s.core n
  unfold State.occupy
  split
  · rfl
  · exact State.core_modCore_other h

theorem State.begin_entries (n : Nat) : ((s.begin g i arith).core n).entries.map (fun e => (e.place, e.pc, e.tixs, e.active)) =
    (s.core n).entries.map (fun e => (e.place, e.pc, e.tixs, e.active)) := by
  by_cases h : n = g.core
  · subst h
    show ((s.occupy (g.sized i) i arith).core _).entries.map _ = _
    unfold State.occupy
    split
    · rfl
    · rw [show g.core = (g.sized i).core from rfl, State.core_modCore_same]
      split <;> simp only [List.map_map] <;> refine List.map_congr_left fun e _ => ?_ <;> dsimp only [Function.comp] <;> split <;> rfl
  · rw [State.begin_core_other h]

/-- The group's core keeps its queues, engines and port. -/
theorem State.begin_quietCore (n : Nat) : Claims.quietCore { (s.begin g i arith).core n with arithFree := 0, otherFree := 0 } =
    Claims.quietCore { s.core n with arithFree := 0, otherFree := 0 } := by
  by_cases h : n = g.core
  · subst h
    show Claims.quietCore { (s.occupy (g.sized i) i arith).core _ with arithFree := 0, otherFree := 0 } = _
    unfold State.occupy
    split
    · rfl
    · rw [show g.core = (g.sized i).core from rfl, State.core_modCore_same]
      split <;> rfl
  · rw [State.begin_core_other h]

end Begin
/-! ### The end of the cycle (R115, R120) -/

/-- `u` is `s` but for its parcels and cores. -/
def State.OnlyParcelsAndCores (s u : State) : Prop := u = { s with parcels := u.parcels, cores := u.cores }

theorem State.OnlyParcelsAndCores.trans {s u v : State} (h : s.OnlyParcelsAndCores u) (h' : u.OnlyParcelsAndCores v) :
    s.OnlyParcelsAndCores v := by
  unfold State.OnlyParcelsAndCores at *
  rw [h', h]

theorem State.settle_onlyParcelsAndCores (n : Nat) : s.OnlyParcelsAndCores (s.settle n) := by
  unfold State.settle
  split <;> rfl

theorem State.stand_onlyParcelsAndCores (n : Nat) : s.OnlyParcelsAndCores (s.stand n) := by
  unfold State.stand
  split <;> rfl

theorem State.setCore_onlyParcelsAndCores (n : Nat) (c : Core) : s.OnlyParcelsAndCores (s.setCore n c) := rfl

/-- Waits end, threads leave and join entries, and the swaps and the turn are written to the core. -/
theorem State.endCycle_onlyParcelsAndCores (n : Nat) : s.OnlyParcelsAndCores (s.endCycle n) := by
  have leave (u : State) : u.OnlyParcelsAndCores (u.leave n) := State.setCore_onlyParcelsAndCores n _
  have join (u : State) : u.OnlyParcelsAndCores (u.join n) := State.setCore_onlyParcelsAndCores n _
  have swap (u : State) : u.OnlyParcelsAndCores (u.swap n) := State.setCore_onlyParcelsAndCores n _
  have waits := (State.settle_onlyParcelsAndCores n).trans (State.stand_onlyParcelsAndCores (s := s.settle n) n)
  exact (((waits.trans (leave _)).trans (join _)).trans (swap _)).trans (State.setCore_onlyParcelsAndCores n _)

theorem State.stand_cores (n : Nat) : (s.stand n).cores = s.cores := by
  unfold State.stand
  split <;> rfl

theorem State.endCycle_core_other {m n : Nat} (h : m ≠ n) : (s.endCycle n).core m = s.core m := by
  have leave (u : State) : (u.leave n).core m = u.core m := State.core_modCore_other h
  have join (u : State) : (u.join n).core m = u.core m := State.core_modCore_other h
  have swap (u : State) : (u.swap n).core m = u.core m := Tbl.get_put_other h
  unfold State.endCycle
  rw [State.core_modCore_other h, swap, join, leave, State.core_congr (State.stand_cores n), State.core_congr State.settle_cores]

theorem State.endCycle_turn (n : Nat) : ((s.endCycle n).core n).turn = s.clk + 1 := by
  unfold State.endCycle
  rw [State.core_modCore_same]

/-- The cycle is that of `s`, and no core that has ended it begins it anew. -/
structure State.Ending (s u : State) : Prop where
  frame : s.OnlyParcelsAndCores u
  turn : ∀ n, s.clk < (s.core n).turn → s.clk < (u.core n).turn

theorem State.Ending.clk {u : State} (h : s.Ending u) : u.clk = s.clk := by rw [h.frame]

theorem State.Ending.refl (s : State) : s.Ending s := ⟨rfl, fun _ => id⟩

theorem State.Ending.trans {s u v : State} (h : s.Ending u) (h' : u.Ending v) : s.Ending v where
  frame := h.frame.trans h'.frame
  turn n hn := h.clk ▸ h'.turn n (h.clk.symm ▸ h.turn n hn)

/-- The cycle ends on a core, once. -/
def State.endOnce (s : State) (n : Nat) : State := if s.clk < (s.core n).turn then s else s.endCycle n

theorem State.endOnce_ending (s : State) (n : Nat) : s.Ending (s.endOnce n) := by
  unfold State.endOnce
  split
  · exact .refl s
  · refine ⟨State.endCycle_onlyParcelsAndCores n, fun m hm => ?_⟩
    by_cases h : m = n
    · subst h; rw [State.endCycle_turn]; omega
    · rwa [State.endCycle_core_other h]

theorem State.endOnce_turn (s : State) (n : Nat) : s.clk < ((s.endOnce n).core n).turn := by
  unfold State.endOnce
  split
  · assumption
  · rw [State.endCycle_turn]; omega

theorem State.foldl_endOnce_ending (l : List Nat) (s : State) : s.Ending (l.foldl State.endOnce s) :=
  foldl_rel .refl .trans l State.endOnce_ending s

theorem State.foldl_endOnce_turn {n : Nat} {l : List Nat} (h : n ∈ l) (s : State) : s.clk < ((l.foldl State.endOnce s).core n).turn := by
  induction l generalizing s with
  | nil => cases h
  | cons m l ih =>
    rw [List.foldl_cons]
    have clk := (s.endOnce_ending m).clk
    rcases List.mem_cons.mp h with rfl | h
    · have := ((State.foldl_endOnce_ending l (s.endOnce n))).turn n
      rw [clk] at this
      exact this (s.endOnce_turn n)
    · have := ih h (s.endOnce m)
      rwa [clk] at this

theorem State.endCycles_eq (s : State) : s.endCycles = s.busyCores.foldl State.endOnce s := rfl

theorem State.endCycles_onlyParcelsAndCores (s : State) : s.OnlyParcelsAndCores s.endCycles :=
  (State.foldl_endOnce_ending s.busyCores s).frame

/-- The cycle has ended on every core that runs a parcel. -/
theorem State.endCycles_turn {p : Parcel} (hp : p ∈ s.parcels) (hr : p.phase = .running) : s.clk < (s.endCycles.core p.core).turn := by
  refine State.foldl_endOnce_turn (List.mem_append_right _ ?_) s
  exact List.mem_map.mpr ⟨p, List.mem_filter.mpr ⟨hp, by simp [hr]⟩, rfl⟩

/-! ### Time passes (R2, R392, R409, R419) -/

/-- Slices are renewed: no context changes but for the end of its slice. -/
structure State.Renews (s u : State) : Prop where
  frame : u = { s with ctxs := u.ctxs }
  ctx : ∀ n, { u.ctx n with sliceEnd := 0 } = { s.ctx n with sliceEnd := 0 }

theorem State.Renews.refl (s : State) : s.Renews s := ⟨rfl, fun _ => rfl⟩

theorem State.Renews.trans {s u v : State} (h : s.Renews u) (h' : u.Renews v) : s.Renews v :=
  ⟨by rw [h'.frame, h.frame], fun n => (h'.ctx n).trans (h.ctx n)⟩

theorem State.modCtx_nextSlice_renews (s : State) (n : Nat) : s.Renews (s.modCtx n Ctx.nextSlice) where
  frame := rfl
  ctx m := by
    by_cases h : m = n
    · subst h; rw [State.ctx_modCtx_same]; rfl
    · rw [State.ctx_modCtx_other h]

theorem State.renewSlices_renews : ∀ (k : Nat) (s : State), s.Renews (s.renewSlices k)
  | 0, s => .refl s
  | k + 1, s => by
    unfold State.renewSlices
    split
    · exact .refl s
    · exact (foldl_rel .refl .trans _ State.modCtx_nextSlice_renews s).trans (State.renewSlices_renews k _)

/-- An entry that a change of every entry does not make the default. -/
theorem Tbl.get_map_filter_listed {α : Type} {d : α} [DecidableEq α] {t : Tbl α} {i : Nat} {f : Nat → α → α} (hd : Tbl.get d t i ≠ d)
    (hf : f i (Tbl.get d t i) ≠ d) :
    Tbl.get d ((t.map (fun e => (e.1, f e.1 e.2))).filter (fun e => e.2 != d)) i = f i (Tbl.get d t i) := by
  induction t with
  | nil => exact absurd rfl hd
  | cons e t ih =>
    obtain ⟨k, v⟩ := e
    by_cases hk : k = i
    · subst hk
      simp only [Tbl.get, if_true] at hf ⊢
      simp [Tbl.get, hf]
    · simp only [Tbl.get, hk, if_false] at hd hf ⊢
      by_cases hw : f k v = d <;> simp [Tbl.get, hw, hk, ih hd hf]

/-- The state from whose end the cycles pass: with the first of them the present cycle ends. -/
def State.cycleEnded (s : State) (cycles : Nat) : State := if cycles = 0 then s else s.endCycles

theorem State.cycleEnded_onlyParcelsAndCores (cycles : Nat) : s.OnlyParcelsAndCores (s.cycleEnded cycles) := by
  unfold State.cycleEnded
  split
  · rfl
  · exact s.endCycles_onlyParcelsAndCores

/-- A core after some cycles, as its interval counts hold them. -/
def State.counted (s : State) (cycles n : Nat) (c : Core) : Core := { c with counts := s.intervalCounts n cycles c }

/-- Ticks and cycles have passed; slices are not renewed yet. -/
def State.timePassed (s : State) (ticks cycles : Nat) : State :=
  { (s.cycleEnded cycles).mapCores ((s.cycleEnded cycles).counted cycles) with tb := (s.tb + ticks) % 2 ^ 64, clk := s.clk + cycles }

theorem State.passTime_eq (ticks cycles : Nat) : s.passTime ticks cycles = (s.timePassed ticks cycles).renewSlices (ticks / 10000 + 1) := rfl

theorem State.timePassed_frame (ticks cycles : Nat) : s.timePassed ticks cycles = { s with
    parcels := (s.cycleEnded cycles).parcels, cores := (s.timePassed ticks cycles).cores,
    tb := (s.tb + ticks) % 2 ^ 64, clk := s.clk + cycles } := by
  unfold State.timePassed State.mapCores
  rw [s.cycleEnded_onlyParcelsAndCores cycles]

/-- No cycle passes: the counts of a core that holds nothing stay 0. -/
theorem State.counted_initial (n : Nat) : s.counted 0 n Core.initial = Core.initial := by
  simp [State.counted, State.intervalCounts, satCount, Core.initial, CoreCounts.zero]

theorem State.timePassed_entries {ticks : Nat} (h : Tbl.wf Core.initial s.cores = true) (n : Nat) :
    ((s.timePassed ticks 0).core n).entries = (s.core n).entries := by
  have e : (s.timePassed ticks 0).core n = s.counted 0 n (s.core n) :=
    Tbl.get_map_filter (s.counted_initial n) (Tbl.canon_of_wf h)
  rw [e]
  rfl

theorem State.timePassed_turn {ticks cycles : Nat} (hc : 0 < cycles) {p : Parcel} (hp : p ∈ s.parcels) (hr : p.phase = .running) :
    s.clk < ((s.timePassed ticks cycles).core p.core).turn := by
  have ended : s.cycleEnded cycles = s.endCycles := if_neg (by omega)
  have turn := State.endCycles_turn hp hr
  have later {c : Core} (h : s.clk < c.turn) : c ≠ Core.initial := by
    rintro rfl
    exact absurd h (Nat.not_lt_zero _)
  have e : (s.timePassed ticks cycles).core p.core = s.endCycles.counted cycles p.core (s.endCycles.core p.core) := by
    unfold State.timePassed
    rw [ended]
    exact Tbl.get_map_filter_listed (later turn) (later turn)
  rw [e]
  exact turn

end Sys2Proof.Machine

namespace Sys2Proof.Claims
open Machine

/-- Time moves the clocks on and ends the present cycle; what else it does, it does to the counts of cores and to slices. -/
theorem time_passes {s : State} {ticks cycles : Nat} (hw : Tbl.wf Core.initial s.cores = true) : ∃ v, runMove s (.time ticks cycles) = .next v ∧
    v.tb = (s.tb + ticks) % 2 ^ 64 ∧ v.clk = s.clk + cycles ∧ SameMemory s v ∧
    (∀ n, { v.ctx n with sliceEnd := 0 } = { s.ctx n with sliceEnd := 0 }) ∧
    (cycles = 0 → v.parcels = s.parcels ∧ ∀ n, (v.core n).entries = (s.core n).entries) ∧
    (0 < cycles → ∀ p ∈ s.parcels, p.phase = .running → s.clk < (v.core p.core).turn) := by
  refine ⟨s.passTime ticks cycles, rfl, ?_⟩
  rw [State.passTime_eq]
  obtain ⟨frame, ctx⟩ := State.renewSlices_renews (ticks / 10000 + 1) (s.timePassed ticks cycles)
  generalize (s.timePassed ticks cycles).renewSlices (ticks / 10000 + 1) = v at frame ctx
  have passed := s.timePassed_frame ticks cycles
  have cores (n : Nat) : v.core n = (s.timePassed ticks cycles).core n := State.core_congr (congrArg State.cores frame) n
  refine ⟨congrArg State.tb frame, congrArg State.clk frame, ?_, fun n => (ctx n).trans ?_, ?_, ?_⟩
  · unfold SameMemory
    rw [frame, passed]
  · rw [State.ctx, congrArg State.ctxs passed]
    rfl
  · rintro rfl
    exact ⟨(congrArg State.parcels frame).trans rfl, fun n => by rw [cores, State.timePassed_entries hw]⟩
  · intro hc p hp hr
    rw [cores]
    exact State.timePassed_turn hc hp hr

/-- The state in which a chosen instruction executes: the group is named with the instruction's size, and the core's issue slot is
taken. -/
theorem begin_only_takes_the_slot (s : State) (g : Group) (i : Instr) (arith : Bool) : let u := s.begin g i arith
    u.group = some { g with size := i.size } ∧ u.parcels = s.parcels ∧ SameMemory s u ∧ u.launches = s.launches ∧ u.ctxs = s.ctxs ∧
      (∀ n, n ≠ g.core → u.core n = s.core n) ∧ u.schedule = s.schedule ∧
      (u.core g.core).entries.map (fun e => (e.place, e.pc, e.tixs, e.active)) =
        (s.core g.core).entries.map (fun e => (e.place, e.pc, e.tixs, e.active)) ∧
      quietCore { u.core g.core with arithFree := 0, otherFree := 0 } = quietCore { s.core g.core with arithFree := 0, otherFree := 0 } := by
  intro u
  have frame : u = { s with cores := u.cores, group := some (g.sized i) } := State.begin_frame
  exact ⟨rfl, by rw [frame], by unfold SameMemory; rw [frame], by rw [frame], by rw [frame],
    fun _ => State.begin_core_other, by rw [frame], State.begin_entries _, State.begin_quietCore _⟩

/-- Settles O39: each move by its case of `runMove`, an issue by what the issue stage has chosen (`State.select_what`). -/
theorem aStepRunsTheDecodedInstruction : Obligations.AStepRunsTheDecodedInstruction := by
  unfold Obligations.AStepRunsTheDecodedInstruction
  refine ⟨?_, ?_, ?_, ?_, ?_, ?_⟩
  · intro s core arith rest x l i hm s0 hx hl hf hd
    obtain ⟨rfl, -⟩ := State.select_some hx
    have what := (State.select_what hx hl).trans (Core.fetch_ok hf hd)
    exact ⟨_, (step_of_schedule hm).trans (runMove_issue_ok hx what), begin_only_takes_the_slot s0 x.group i arith⟩
  · intro s core arith rest x l n hm s0 hx hl hf hd
    have what := (State.select_what hx hl).trans (Core.fetch_illegal hf hd)
    exact (step_of_schedule hm).trans (runMove_issue_error hx what)
  · intro s core arith rest x l hm s0 hx hl hf
    have what := (State.select_what hx hl).trans (Core.fetch_ovlmiss hf)
    exact (step_of_schedule hm).trans (runMove_issue_error hx what)
  · intro s core arith rest hm hx
    exact (step_of_schedule hm).trans (runMove_issue_none hx)
  · intro s i rest v hm hi hv
    exact (step_of_schedule hm).trans (runMove_event hi hv)
  · intro s t c rest hm hw
    obtain ⟨v, hv, time⟩ := time_passes (s := { s with schedule := rest }) (ticks := t) (cycles := c) hw
    exact ⟨v, (step_of_schedule hm).trans hv, time⟩

end Sys2Proof.Claims
end

section
/-!
# Traps are raised and returned from (R78, R398 to R403, R411)

What a trap makes of a thread with nothing under way is said once (`State.trap_thread`), and what an instruction of one thread does is
the effect of that thread (`Alone.issue_eq`). An instruction beyond the register budget executes in no thread, so what surrounds its
threads leaves parcels and launches alone (`issuesAround`).
-/

namespace Sys2Proof.Machine

variable {s : State} {k : PKey} {t : Thread} {r : Trap} {h : Word}

/-! ### Taking a trap (R401) -/

/-- Queued stores that a thread does not have are not waited for. -/
theorem State.flush_eq_self (ht : s.thread? k t.tix = some t) (hq : t.storeQ = []) : s.flush k t.tix = s := by
  have passes (n : Nat) : s.passUntil (s.coreOf k) k t.tix n = s := by
    cases n with
    | zero => rfl
    | succ n => simp [State.passUntil, ht, hq]
  exact passes _

theorem Thread.landLoads_eq_self (h : t.deliver = []) : t.landLoads = t := by
  obtain ⟨⟩ := t
  simp only at h
  subst h
  rfl

@[simp] theorem Thread.write_tix (t : Thread) (w : Write) : (t.write w).tix = t.tix := by
  unfold Thread.write
  split <;> rfl

@[simp] theorem Thread.writeAll_tix (t : Thread) (ws : List Write) : (t.writeAll ws).tix = t.tix :=
  List.foldlRecOn (motive := fun u : Thread => u.tix = t.tix) ws _ rfl fun u hu w _ => (u.write_tix w).trans hu

@[simp] theorem Thread.landLoads_tix (t : Thread) : t.landLoads.tix = t.tix :=
  List.foldlRecOn (motive := fun u : Thread => u.tix = t.tix) _ _ rfl fun _ hu _ _ => by simp [hu]

/-- The thread as its instruction leaves it: retired, where the trap completes it. -/
def Thread.completed (t : Thread) (r : Trap) : Thread := if r.completes then t.retire t.pc else t

/-- The thread that has taken a trap with its handler at `h`. -/
def Thread.trapped (t : Thread) (r : Trap) (h : Word) : Thread :=
  { t.completed r with
    tcause := r.cause, taddr := BitVec.ofInt 64 r.addr, tpc := if r.completes then t.pc + 8 else t.pc, tstate := 1, reuse := none,
    pc := h, status := .ready }

theorem State.trap_thread (ht : s.thread? k t.tix = some t) (hc : Claims.CanTrap s k t h) (hk : r.kind ≠ 4) :
    (s.trap k t.tix r).thread? k t.tix = some (t.trapped r h) := by
  obtain ⟨⟨l, hl, hh⟩, hstate, hstores, hloads⟩ := hc
  unfold State.trap
  rw [ht, hl]
  dsimp only
  simp only [hstate, hk, hh, if_false, Bool.false_eq_true]
  rw [State.thread?_congr (State.count_parcels' ..)]
  generalize hv : (if r.completes = true then s.modParcel k (fun p => p.retire t.tix t.pc) else s) = v
  have hvt : v.thread? k t.tix = some (t.completed r) := by
    rw [← hv]
    unfold Thread.completed
    split
    · rw [State.thread?_retire, ht]; rfl
    · exact ht
  have empty : (t.completed r).storeQ = [] ∧ (t.completed r).deliver = [] ∧ (t.completed r).tix = t.tix := by
    unfold Thread.completed
    split <;> exact ⟨hstores, hloads, rfl⟩
  obtain ⟨hq, hd, hx⟩ := empty
  have hflush : v.flush k t.tix = v := hx ▸ State.flush_eq_self (hx.symm ▸ hvt) hq
  rw [hflush, State.thread?_modThread, hvt, Option.map_some, Thread.landLoads_eq_self hd]
  · rfl
  · exact fun u hu => u.landLoads_tix.trans hu

/-! ### What the records of a device leave alone -/

theorem State.OnlyRecords.parcels {u : State} (h : s.OnlyRecords u) : u.parcels = s.parcels := by rw [h]

theorem State.faultRecord_parcels (s : State) (n : Nat) (f : FaultRec) : (s.faultRecord n f).parcels = s.parcels :=
  State.OnlyRecords.faultRecord.parcels

theorem State.devCheck_parcels (s : State) (key : PKey) (a n : Nat) : (s.devCheck key a n).1.parcels = s.parcels := by
  show (State.plainError (s.verifyAll .hbm a n).1 key.ctx 0 a n _ key).parcels = s.parcels
  rw [← State.OnlyRecords.parcels (State.OnlyRecords.verifyAll (s := s) (k := .hbm) (a := a) (n := n))]
  unfold State.plainError
  split
  · exact State.faultRecord_parcels _ _ _
  · rfl

theorem State.debugRead_parcels (s : State) (ctx : Nat) : (s.debugRead ctx).1.parcels = s.parcels := by
  unfold State.debugRead
  split
  · rfl
  · rename_i a _
    have kept := s.devCheck_parcels ⟨ctx, 0, 0⟩ a 64
    split <;> rename_i u _ e <;> rwa [e] at kept

/-! ### The targets of a branch (R131, R403) -/

section BranchFault
variable {c : Core} {l : LKey} {a : Word}

theorem Core.branchFault_none (ha : a.toNat % 8 = 0) (hf : c.fetchable l a = true) : c.branchFault l a = none := by
  simp [Core.branchFault, ha, hf]

theorem Core.branchFault_unaligned (ha : a.toNat % 8 ≠ 0) : c.branchFault l a = some (.unaligned a.toNat) := by
  simp [Core.branchFault, ha]

theorem Core.branchFault_ovlmiss (ha : a.toNat % 8 = 0) (hf : c.fetchable l a = false) : c.branchFault l a = some (.ovlmiss a) := by
  simp [Core.branchFault, ha, hf]

end BranchFault

/-! ### A thread beyond its register budget (R78) -/

theorem issueThread_illegal {g : Group} {i : Instr} {body : Body} {x : Nat} {t : Thread} (ht : s.thread? g.key x = some t)
    (hr : s.readiness g i.sig x = .illegal) : issueThread g i body s x = s.trap g.key x (.illegal 8 t.pc) := by
  unfold issueThread
  simp only [ht, hr]

end Sys2Proof.Machine

namespace Sys2Proof.Claims
open Machine

variable {s : State} {g : Group} {i : Instr} {t : Thread} {h : Word}

/-! ### One thread issues -/

/-- An instruction of one thread does what the thread's effect is. -/
theorem Alone.issue_eq {body : Body} (ha : Alone s g i t) : issue i body s =
    .next ((State.carry { s with group := none } g i t (body { s with group := none } g.key t)).refresh g.core) := by
  obtain ⟨l, hl, hgo⟩ := ha.go
  have hr : s.readiness g i.sig t.tix = .go := (State.readiness_eq ha.thread hl).trans hgo
  rw [issue_one ha.group ha.alone ha.thread hr]
  exact congrArg (fun u => Host.Outcome.next (State.refresh u g.core)) (issueThread_go ha.thread hr)

/-- The cause and the address that a trap saves, and the PC it returns to. -/
structure Saves (r : Trap) (t : Thread) (cause : Word) (addr : Nat) (tpc : Word) : Prop where
  cause : r.cause = cause
  addr : r.addr = addr
  tpc : (if r.completes then t.pc + 8 else t.pc) = tpc

theorem Saves.illegal (t : Thread) (check : Nat) : Saves (.illegal check t.pc) t (Trap.illegal check t.pc).cause t.pc.toNat t.pc :=
  ⟨rfl, rfl, if_neg Bool.false_ne_true⟩

theorem illegal_cause (check : Nat) (pc : Word) : (Trap.illegal check pc).cause = BitVec.ofNat 32 (check % 256 * 256 + 1) := by
  simp [Trap.cause, Trap.illegal]

/-- The trap that TRAP and BKPT complete with. -/
def completing (kind n : Nat) : Trap := { kind := kind, addr := n, completes := true }

theorem Saves.completing (t : Thread) (kind n : Nat) :
    Saves (completing kind n) t (BitVec.ofNat 32 (kind % 256)) n (t.pc + 8) :=
  ⟨by simp [Claims.completing, Trap.cause], rfl, if_pos rfl⟩

theorem trapped_retired {r : Trap} (hr : r.completes = true) : (t.trapped r h).retired = retiredNext t := by
  show (t.completed r).retired = _
  rw [Thread.completed, if_pos hr]
  rfl

/-- A thread that has taken the trap of its instruction, whatever its reuse buffer holds, once its core has re-evaluated its waits. -/
theorem trapTaken_refresh {v : State} {k : PKey} {core addr : Nat} {r : Trap} {cause tpc : Word} {q : Option (Nat × Nat × List Nat)}
    (hs : Saves r t cause addr tpc) (hv : v.thread? k t.tix = some ((t.trapped r h).withReuse q)) :
    TrapTaken (v.refresh core) k t ((t.trapped r h).withReuse q) cause (BitVec.ofNat 64 addr) tpc 1 h := by
  have kept : RegistersOutside [] t (t.completed r) ∧
      ((t.completed r).tsav0, (t.completed r).tsav1, (t.completed r).srseed) = (t.tsav0, t.tsav1, t.srseed) := by
    unfold Thread.completed
    split <;> exact ⟨⟨fun _ _ => rfl, fun _ _ _ => rfl, fun _ _ => rfl⟩, rfl⟩
  obtain ⟨⟨hg, hp, hc⟩, hsaved⟩ := kept
  have htaddr : BitVec.ofInt 64 r.addr = BitVec.ofNat 64 addr := by rw [hs.addr, BitVec.ofInt_natCast]
  exact ⟨State.refresh_thread hv rfl, rfl, rfl, hs.cause, htaddr, hs.tpc, rfl, ⟨hg, hp, hc⟩, hsaved⟩

/-- An instruction whose effect is a trap. -/
theorem Alone.traps {body : Body} {r : Trap} {cause tpc : Word} {addr : Nat} (ha : Alone s g i t) (hc : CanTrap s g.key t h)
    (he : exec i s = issue i body s) (hb : body { s with group := none } g.key t = .trap r) (hk : r.kind ≠ 4)
    (hs : Saves r t cause addr tpc) :
    ∃ u, exec i s = .next u ∧ TrapTaken u g.key t (t.trapped r h) cause (BitVec.ofNat 64 addr) tpc 1 h := by
  have taken : (State.trap { s with group := none } g.key t.tix r).thread? g.key t.tix = some (t.trapped r h) :=
    State.trap_thread ha.thread hc hk
  refine ⟨_, he.trans ha.issue_eq, ?_⟩
  rw [hb]
  exact trapTaken_refresh (q := none) hs taken

/-! ### TRAP, BKPT and unassigned words (R78, R411) -/

theorem trap_completes (x : SWord) (ha : Alone s g (.trap x) t) (hc : CanTrap s g.key t h) :
    CompletesAndTraps (.trap x) s g t 0x0008 x.n h := by
  obtain ⟨u, hu, taken⟩ := ha.traps hc rfl rfl (by simp) (.completing t 0x08 x.n)
  exact ⟨u, _, hu, taken, trapped_retired rfl⟩

/-- The debug block that BKPT reads, and the record that it may write, leave the thread that has trapped alone. -/
theorem bkpt_completes (x : SWord) (ha : Alone s g (.bkpt x) t) (hc : CanTrap s g.key t h) :
    CompletesAndTraps (.bkpt x) s g t 0x0007 x.n h := by
  let r := completing 0x07 x.n
  have taken : (State.trap { s with group := none } g.key t.tix r).thread? g.key t.tix = some (t.trapped r h) :=
    State.trap_thread ha.thread hc (by simp [r, completing])
  obtain ⟨body, he, v, hb, hv⟩ : ∃ body : Body, exec (.bkpt x) s = issue (.bkpt x) body s ∧
      ∃ v, body { s with group := none } g.key t = .stay v ∧ v.parcels = (State.trap { s with group := none } g.key t.tix r).parcels := by
    refine ⟨_, rfl, ?_⟩
    dsimp only
    split
    · exact ⟨_, rfl, (State.faultRecord_parcels _ _ _).trans (State.debugRead_parcels _ _)⟩
    · exact ⟨_, rfl, State.debugRead_parcels _ _⟩
  have hcarried : (State.carry { s with group := none } g (.bkpt x) t (.stay v)).thread? g.key t.tix =
      some ((t.trapped r h).withReuse (nextReuse (.bkpt x) g.tixs)) := by
    unfold State.carry
    rw [State.thread?_congr (State.count_parcels' ..), State.thread?_modThread, State.thread?_congr hv, taken]
    · rfl
    · exact fun _ hu => hu
  have hretired : ((t.trapped r h).withReuse (nextReuse (.bkpt x) g.tixs)).retired = retiredNext t := trapped_retired (r := r) (h := h) rfl
  have hnext := he.trans ha.issue_eq
  rw [hb] at hnext
  exact ⟨_, _, hnext, trapTaken_refresh (.completing t 0x07 x.n) hcarried, hretired⟩

theorem unassigned_traps (w : DWord) (ha : Alone s g (.unassignedOpcode w) t) (hc : CanTrap s g.key t h) :
    ∃ u t', exec (.unassignedOpcode w) s = .next u ∧ TrapTaken u g.key t t' 0x0101 (BitVec.ofNat 64 t.pc.toNat) t.pc 1 h := by
  obtain ⟨u, hu, taken⟩ := ha.traps hc rfl rfl (by simp [Trap.illegal]) (.illegal t 1)
  rw [illegal_cause] at taken
  exact ⟨u, _, hu, taken⟩

/-! ### An instruction beyond the register budget (R78) -/

/-- Around threads of which none executes, an instruction leaves parcels, launches and contexts alone; after them it does so in every
state, whatever they have done. -/
structure Around {α : Type} (pre : Group → List Nat → State → State × α) (post : Group → State → State) : Prop where
  before : ∀ g s, ∃ cores nextUid, (pre g [] s).1 = { s with cores, nextUid }
  after : ∀ g s, (post g s).parcels = s.parcels

/-- An instruction is issued with no more around its threads than `Around` allows. -/
def IssuesAround (i : Instr) (s : State) : Prop :=
  ∃ (α : Type) (pre : Group → List Nat → State → State × α) (body : α → Body) (post : Group → State → State),
    exec i s = issueWith i pre body post s ∧ Around pre post

theorem IssuesAround.of_pre {α : Type} {pre : Group → List Nat → State → State × α} {body : α → Body}
    (he : exec i s = issueWith i pre body (fun _ s => s) s)
    (hpre : ∀ g s, ∃ cores nextUid, (pre g [] s).1 = { s with cores, nextUid }) : IssuesAround i s :=
  ⟨α, pre, body, _, he, hpre, fun _ _ => rfl⟩

theorem IssuesAround.issue {body : Body} (he : exec i s = issue i body s) : IssuesAround i s := .of_pre he fun _ _ => ⟨_, _, rfl⟩

theorem IssuesAround.port {body : Body} (he : exec i s = issuePort i body s) : IssuesAround i s :=
  ⟨_, _, _, _, he, fun _ _ => ⟨_, _, rfl⟩, fun _ _ => rfl⟩

theorem IssuesAround.mutation {q : Thread → SetAsk} (he : exec i s = issueMutation i q s) : IssuesAround i s :=
  .of_pre he fun _ _ => ⟨_, _, rfl⟩

/-- A BRU that no thread executes diverges in none (R124). -/
theorem exec_bru_of_executing_nil {x : BWord} (hg : s.group = some g) (hnone : s.executing g (Instr.bru x).sig = []) :
    exec (.bru x) s = Machine.issue (.bru x) (fun s k t => s.branch k t (x.target t.pc) none) s := by
  show execBru x s = _
  unfold execBru
  simp [hg, hnone]

theorem issuesAround (hi : i.isStep = false) (hg : s.group = some g) (hnone : s.executing g i.sig = []) : IssuesAround i s := by
  by_cases hp : perThread i = true
  · obtain ⟨f, hexec, -⟩ := arithmetic_of_perThread hp
    exact .issue (hexec s)
  replace hi : (perThread i || i.isStep) = false := by simp [hp, hi]
  cases i with
  | bru => exact .issue (exec_bru_of_executing_nil hg hnone)
  | lds | kld | atomsAdd | atomsMin | atomsMax | atomsAnd | atomsOr | atomsXor | atomsSwap | atomsCas | binit | arrive | expect
  | waitph | testph => exact .port rfl
  | sts x => exact .of_pre (execSts.eq_1 x s) fun _ _ => ⟨_, _, rfl⟩
  | kst x => exact .of_pre (execKst.eq_1 x s) fun _ _ => ⟨_, _, rfl⟩
  | cnew x => exact .of_pre (execCnew.eq_1 x s) fun _ _ => ⟨_, _, rfl⟩
  | elect x => exact .of_pre (execElect.eq_1 x s) fun _ _ => ⟨_, _, rfl⟩
  | perfrd x => exact .of_pre (execPerfrd.eq_1 x s) fun _ _ => ⟨_, _, rfl⟩
  | sins | sdel => exact .mutation rfl
  | bra | brx | call | callx | ret | exit | yield | nop | ovld | waitcnt | fence | cfree | join | leave | cbar | cshfl | creduce | cscan
  | cvote | cpin | cpout | cpxg | cpxs | cpmc | cptx | tlread | tlwatch | engq | engres | obres | obfree | obinfo | mshape | mma
  | mmas | mcommit | mdrop | azero | amov | aser | achk | term | adrain | ainfo | aflag | snew | sfree | shas | scard | suni | sint
  | sdif | scpy | sldl | sstl | snext | srep | shint | scost | crupd | crrd | crsnap | crlap | crinfo | trap | eret | mfsr | mtsr
  | bkpt | clkrd | unassignedOpcode => exact .issue rfl
  | _ => cases hi

theorem AloneIllegal.readiness_eq (ha : AloneIllegal s g i t) : ∀ x ∈ g.tixs, s.readiness g i.sig x = .illegal := by
  obtain ⟨l, hl, hill⟩ := ha.illegal
  rw [ha.alone]
  exact List.forall_mem_singleton.mpr ((State.readiness_eq ha.thread hl).trans hill)

theorem AloneIllegal.executing_eq_nil (ha : AloneIllegal s g i t) : s.executing g i.sig = [] :=
  List.filter_eq_nil_iff.mpr fun x hx => by simp [ha.readiness_eq x hx]

/-- The thread of a group takes the trap of check 8, and what surrounds it leaves it alone. -/
theorem issueWith_illegal {α : Type} {pre : Group → List Nat → State → State × α} {body : α → Body} {post : Group → State → State}
    (haround : Around pre post) (ha : AloneIllegal s g i t) (hc : CanTrap s g.key t h) :
    ∃ u, issueWith i pre body post s = .next (State.refresh u g.core) ∧ u.thread? g.key t.tix = some (t.trapped (.illegal 8 t.pc) h) := by
  have hheld : s.held g i.sig = false := State.held_eq_false fun x hx ds => by simp [ha.readiness_eq x hx]
  have hr : s.readiness g i.sig t.tix = .illegal := ha.readiness_eq _ (by simp [ha.alone])
  obtain ⟨cores, uid, hpre⟩ := haround.before g { s with group := none }
  refine ⟨_, issueWith_next ha.group hheld, ?_⟩
  rw [State.thread?_congr (haround.after ..), ha.executing_eq_nil, hpre, ha.alone]
  generalize hu : ({ s with group := none, cores := cores, nextUid := uid } : State) = u
  have ht : u.thread? g.key t.tix = some t := hu ▸ ha.thread
  have hru : u.readiness g i.sig t.tix = .illegal := hu ▸ hr
  show (issueThread g i _ u t.tix).thread? g.key t.tix = _
  rw [issueThread_illegal ht hru]
  exact State.trap_thread ht (hu ▸ hc) (by simp [Trap.illegal])

theorem budget_traps (hi : i.isStep = false) (ha : AloneIllegal s g i t) (hc : CanTrap s g.key t h) :
    ∃ u t', exec i s = .next u ∧ TrapTaken u g.key t t' 0x0801 (BitVec.ofNat 64 t.pc.toNat) t.pc 1 h := by
  obtain ⟨α, pre, body, post, he, haround⟩ := issuesAround hi ha.group ha.executing_eq_nil
  obtain ⟨u, hu, ht⟩ := issueWith_illegal (body := body) haround ha hc
  have taken := trapTaken_refresh (core := g.core) (q := none) (.illegal t 8) ht
  rw [illegal_cause] at taken
  exact ⟨_, _, he.trans hu, taken⟩

/-! ### ERET (R403) -/

section OnlyThreads
variable {u : State}

theorem enginesKept_refresh (hu : State.OnlyThreads { s with group := none } u) (core : Nat) : EnginesKept s (u.refresh core) := fun n => by
  obtain ⟨es, he⟩ := State.refresh_core (s := u) (core := core) n
  rw [he, State.core_congr hu.cores]
  rfl

/-- Where only threads have changed, and of these one, nothing has changed elsewhere but by the waits that end. -/
theorem elsewhere_refresh {k : PKey} {x : Nat} (hu : State.OnlyThreads { s with group := none } u)
    (hother : ∀ k' y, (k' ≠ k ∨ y ≠ x) → u.thread? k' y = s.thread? k' y) (core : Nat) : Elsewhere s (u.refresh core) k x true where
  outer := by
    show ({ outerParts (u.refresh core) with nextUid := s.nextUid } : State) = _
    rw [outerParts_refresh, outerParts_of_onlyThreads hu]
    rfl
  contexts n := by rw [State.ctx_congr State.refresh_ctxs n]; exact hu.ctxs n
  parcels k' _ := (parcelParts_refresh k').trans (hu.parcels k')
  threads k' y hky t ht := refresh_untouched ((hother k' y hky).trans ht)

end OnlyThreads

/-- The thread out of handler mode (R403). -/
def leaveHandler (t : Thread) : Thread := { t with tstate := 0, reuse := none }

/-- The thread that ERET has retired. -/
def returned (i : Instr) (g : Group) (t : Thread) : Thread := ((leaveHandler t).retire t.tpc).withReuse (nextReuse i g.tixs)

/-- What ERET does in a thread whose target faults with `e`, if it does. -/
def eretEffect (e : Option Trap) (s : State) (k : PKey) (t : Thread) : Effect :=
  match e with
  | some r => .trap r
  | none => .jump (s.modThread k t.tix leaveHandler) t.tpc

theorem exec_eret (x : SWord) (s : State) : exec (.eret x) s =
    Machine.issue (.eret x) (fun s k t => eretEffect ((s.core (s.coreOf k)).branchFault k.launchKey t.tpc) s k t) s := rfl

theorem Alone.eret_eq {x : SWord} {e : Option Trap} (ha : Alone s g (.eret x) t)
    (hf : (s.core g.core).branchFault g.key.launchKey t.tpc = e) :
    exec (.eret x) s = .next ((State.carry { s with group := none } g (.eret x) t
      (eretEffect e { s with group := none } g.key t)).refresh g.core) := by
  rw [← ha.core] at hf
  rw [exec_eret, ha.issue_eq, ← hf]
  rfl

theorem eret_branchFaults (x : SWord) : BranchFaults (.eret x) (fun t => t.tpc) := fun _ _ _ ha =>
  ⟨fun hna => ha.eret_eq (Core.branchFault_unaligned hna), fun hal hnf => ha.eret_eq (Core.branchFault_ovlmiss hal hnf)⟩

theorem eret_returns (x : SWord) (ha : Alone s g (.eret x) t) (hreach : Reaches s g t.tpc) : ∃ u t', exec (.eret x) s = .next u ∧
    RetiredAt u g.key t t' t.tpc ∧ t'.tstate = 0 ∧ RegistersOutside [] t t' ∧
    (t'.tcause, t'.taddr, t'.tpc, t'.tsav0, t'.tsav1, t'.srseed) = (t.tcause, t.taddr, t.tpc, t.tsav0, t.tsav1, t.srseed) ∧
    (t'.counts, t'.pend, t'.deliver, t'.storeQ) = (t.counts, t.pend, t.deliver, t.storeQ) ∧
    Elsewhere s u g.key t.tix true ∧ EnginesKept s u := by
  obtain ⟨halign, hfetch⟩ := hreach
  have hleave : ∀ u : Thread, u.tix = t.tix → (leaveHandler u).tix = t.tix := fun _ hu => hu
  let u := (State.modThread { s with group := none } g.key t.tix leaveHandler).goOn g (.eret x) t t.tpc
  have hu : State.OnlyThreads { s with group := none } u := State.modThread_onlyThreads.trans State.goOn_onlyThreads
  have hthread : u.thread? g.key t.tix = some (returned (.eret x) g t) := by
    rw [State.thread?_goOn, State.thread?_modThread hleave]
    exact congrArg (Option.map _) (congrArg (Option.map leaveHandler) ha.thread)
  have hother (k' : PKey) (y : Nat) (hky : k' ≠ g.key ∨ y ≠ t.tix) : u.thread? k' y = s.thread? k' y := by
    rw [State.thread?_goOn_other hky, State.thread?_modThread_other hleave hky]
    rfl
  have hready : (returned (.eret x) g t).status = .ready := ha.ready
  have hretired : RetiredAt (u.refresh g.core) g.key t (returned (.eret x) g t) t.tpc :=
    ⟨State.refresh_thread hthread (by rw [hready]; rfl), rfl, hready, rfl⟩
  exact ⟨_, _, ha.eret_eq (Core.branchFault_none halign hfetch), hretired, rfl, ⟨fun _ _ => rfl, fun _ _ _ => rfl, fun _ _ => rfl⟩,
    rfl, rfl, elsewhere_refresh hu hother _, enginesKept_refresh hu _⟩

/-- Settles O27: a thread with nothing under way takes the trap of its instruction (`State.trap_thread`), also that of check 8 where
none executes (`issuesAround`), and ERET is a branch to `%tpc` that leaves handler mode. -/
theorem trapsAreRaisedAndReturnedFrom : Obligations.TrapsAreRaisedAndReturnedFrom :=
  ⟨fun x _ _ _ _ ha hc => trap_completes x ha hc, fun x _ _ _ _ ha hc => bkpt_completes x ha hc,
    fun w _ _ _ _ ha hc => unassigned_traps w ha hc, fun _ _ _ _ _ hi ha hc _ _ => budget_traps hi ha hc,
    fun x _ _ _ ha hreach => eret_returns x ha hreach, eret_branchFaults⟩

end Sys2Proof.Claims
end

section
/-!
# Numbers and the rationals they stand for (R14, R85, R86)

A value that is a number is read as a rational by `ratOf`. Comparison, negation, addition and multiplication of numbers are those of the
rationals, and −0 is kept apart by what `NegZero` says.
-/

namespace Sys2Proof.Claims
open Machine

variable {v w : Val}

theorem ratOf_fin (s : Bool) (n d : Nat) : ratOf (.fin s n d) = (sgnNat s n : ℚ) / d := by
  cases s <;> simp [ratOf, sgnNat, neg_div]

theorem Number.fin {s : Bool} {n d : Nat} (h : d ≠ 0) : Number (.fin s n d) := ⟨s, n, d, rfl, h⟩

/-- A number is a fraction with a sign, whose denominator is positive. -/
theorem Number.fraction (h : Number v) : ∃ (s : Bool) (n d : Nat), v = .fin s n d ∧ (0 : ℚ) < d := by
  obtain ⟨s, n, d, rfl, hd⟩ := h
  exact ⟨s, n, d, rfl, by exact_mod_cast Nat.pos_of_ne_zero hd⟩

/-! ### Comparison (R86) -/

theorem Number.lt_iff (hv : Number v) (hw : Number w) : v.lt w = true ↔ ratOf v < ratOf w := by
  obtain ⟨s, n, d, rfl, hd⟩ := hv.fraction
  obtain ⟨t, m, e, rfl, he⟩ := hw.fraction
  rw [ratOf_fin, ratOf_fin, div_lt_div_iff₀ hd he]
  simp only [Val.lt, decide_eq_true_eq]
  exact_mod_cast Iff.rfl

theorem Number.eq_iff (hv : Number v) (hw : Number w) : v.eq w = true ↔ ratOf v = ratOf w := by
  obtain ⟨s, n, d, rfl, hd⟩ := hv.fraction
  obtain ⟨t, m, e, rfl, he⟩ := hw.fraction
  rw [ratOf_fin, ratOf_fin, div_eq_div_iff hd.ne' he.ne']
  simp only [Val.eq, decide_eq_true_eq]
  exact_mod_cast Iff.rfl

theorem Number.le_iff (hv : Number v) (hw : Number w) : v.le w = true ↔ ratOf v ≤ ratOf w := by
  rw [Val.le, Bool.or_eq_true, hv.lt_iff hw, hv.eq_iff hw, le_iff_lt_or_eq]

/-! ### Arithmetic (R14, R86) -/

theorem sgnNat_natAbs (a : Int) : sgnNat (decide (a < 0)) a.natAbs = a := by
  unfold sgnNat
  split <;> rename_i h <;> simp only [decide_eq_true_eq] at h <;> omega

theorem sgnNat_mul (s t : Bool) (n m : Nat) : sgnNat (s != t) (n * m) = sgnNat s n * sgnNat t m := by
  cases s <;> cases t <;> simp [sgnNat]

/-- The sum of two numbers as a fraction: the exact sum, and at 0 a sign that both had, or that of the direction. -/
theorem add_fin (down s t : Bool) (n d m e : Nat) : Val.add down (.fin s n d) (.fin t m e) =
    if sgnNat s n * e + sgnNat t m * d = 0 then .fin (if s = t then s else down) 0 1
    else .fin (decide (sgnNat s n * e + sgnNat t m * d < 0)) (sgnNat s n * e + sgnNat t m * d).natAbs (d * e) := by
  simp only [Val.add]
  split
  · split <;> rfl
  · rfl

theorem Number.add (down : Bool) (hv : Number v) (hw : Number w) : Number (v.add down w) := by
  obtain ⟨s, n, d, rfl, hd⟩ := hv
  obtain ⟨t, m, e, rfl, he⟩ := hw
  rw [add_fin]
  split
  · exact .fin one_ne_zero
  · exact .fin (Nat.mul_ne_zero hd he)

theorem ratOf_add (down : Bool) (hv : Number v) (hw : Number w) : ratOf (v.add down w) = ratOf v + ratOf w := by
  obtain ⟨s, n, d, rfl, hd⟩ := hv.fraction
  obtain ⟨t, m, e, rfl, he⟩ := hw.fraction
  have exact : ratOf (.fin s n d) + ratOf (.fin t m e) = ((sgnNat s n * e + sgnNat t m * d : Int) : ℚ) / (d * e) := by
    rw [ratOf_fin, ratOf_fin, div_add_div _ _ hd.ne' he.ne']
    push_cast
    ring
  rw [exact, add_fin]
  split <;> rename_i h
  · rw [h, ratOf_fin]
    simp [sgnNat]
  · rw [ratOf_fin, sgnNat_natAbs]
    push_cast
    rfl

theorem Number.mul (hv : Number v) (hw : Number w) : Number (v.mul w) := by
  obtain ⟨s, n, d, rfl, hd⟩ := hv
  obtain ⟨t, m, e, rfl, he⟩ := hw
  exact .fin (Nat.mul_ne_zero hd he)

theorem ratOf_mul (hv : Number v) (hw : Number w) : ratOf (v.mul w) = ratOf v * ratOf w := by
  obtain ⟨s, n, d, rfl, -⟩ := hv
  obtain ⟨t, m, e, rfl, -⟩ := hw
  rw [Val.mul, ratOf_fin, ratOf_fin, ratOf_fin, sgnNat_mul, div_mul_div_comm]
  push_cast
  rfl

/-- A sum is −0 where both its terms are. -/
theorem negZero_add_iff (hv : Number v) (hw : Number w) : NegZero (v.add false w) ↔ NegZero v ∧ NegZero w := by
  obtain ⟨s, n, d, rfl, hd⟩ := hv
  obtain ⟨t, m, e, rfl, he⟩ := hw
  have negZero_fin (s : Bool) (n d : Nat) : NegZero (.fin s n d) ↔ s = true ∧ n = 0 := by simp [NegZero]
  rw [add_fin, negZero_fin, negZero_fin]
  split <;> rename_i h <;> rw [negZero_fin]
  · cases s <;> cases t <;> simp [sgnNat] at h ⊢
    have exact : n * e + m * d = 0 := by zify; linarith
    simpa [hd, he] using exact
  · have nonzero : ¬ (n = 0 ∧ m = 0) := by
      rintro ⟨rfl, rfl⟩
      exact h (by simp [sgnNat])
    have : (sgnNat s n * e + sgnNat t m * d).natAbs ≠ 0 := Int.natAbs_ne_zero.mpr h
    tauto

/-! ### The values of a format (R85) -/

theorem Number.scaled (neg : Bool) (n : Nat) (e : Int) : Number (Val.scaled neg n e) := by
  unfold Val.scaled
  split
  · exact .fin (Nat.two_pow_pos _).ne'
  · exact .fin one_ne_zero

theorem ratOf_scaled (n : Nat) (e : Int) : ratOf (Val.scaled false n e) = n * 2 ^ e := by
  unfold Val.scaled
  split <;> rename_i h
  · obtain ⟨k, rfl⟩ : ∃ k : Nat, e = -k := ⟨e.natAbs, by omega⟩
    simp [ratOf_fin, sgnNat, zpow_neg, div_eq_mul_inv]
  · obtain ⟨k, rfl⟩ : ∃ k : Nat, e = k := ⟨e.toNat, by omega⟩
    simp [ratOf_fin, sgnNat]

end Sys2Proof.Claims
end

section
/-!
# Rounding takes a neighbour (R85, R92)

The patterns 0, 1, 2, … of a format stand for magnitudes that rise (`Fmt.step`), and between two of them that are neighbours lies a value
whose integer part, in units of the last place, is that of the lower one (`Fmt.magnitude_eq`). Each direction of rounding then decides
between the two.
-/

namespace Sys2Proof.Machine

/-! ### The binary exponent of a magnitude -/

theorem two_zpow_pos (e : Int) : (0 : ℚ) < 2 ^ e := zpow_pos two_pos e

/-- What `log2Frac` decides: whether 2^e is at most n/d. -/
theorem log2Frac_test {n d : Nat} (hd : 0 < d) (e : Int) :
    (if e < 0 then decide (d ≤ n * 2 ^ e.natAbs) else decide (d * 2 ^ e.toNat ≤ n)) = true ↔ (2 : ℚ) ^ e ≤ n / d := by
  have hd : (0 : ℚ) < d := by exact_mod_cast hd
  rw [le_div_iff₀ hd]
  split <;> rename_i h <;> rw [decide_eq_true_eq]
  · obtain ⟨k, rfl⟩ : ∃ k : Nat, e = -k := ⟨e.natAbs, by omega⟩
    rw [zpow_neg, zpow_natCast, inv_mul_le_iff₀ (by positivity), Int.natAbs_neg, Int.natAbs_natCast]
    rw [mul_comm n]
    exact_mod_cast Iff.rfl
  · obtain ⟨k, rfl⟩ : ∃ k : Nat, e = k := ⟨e.toNat, by omega⟩
    rw [zpow_natCast, Int.toNat_natCast, mul_comm d]
    exact_mod_cast Iff.rfl

/-- ⌊log2 (n/d)⌋ is the exponent of the power of two at or below n/d. -/
theorem log2Frac_spec {n d : Nat} (hn : 0 < n) (hd : 0 < d) :
    (2 : ℚ) ^ log2Frac n d ≤ n / d ∧ (n : ℚ) / d < 2 ^ (log2Frac n d + 1) := by
  have bounds (m : Nat) (hm : 0 < m) : (2 : ℚ) ^ (Nat.log2 m : Int) ≤ m ∧ (m : ℚ) < 2 ^ ((Nat.log2 m : Int) + 1) := by
    have low := Nat.log2_self_le hm.ne'
    have high : m < 2 ^ (Nat.log2 m + 1) := Nat.lt_log2_self
    constructor
    · rw [zpow_natCast]; exact_mod_cast low
    · rw [show ((Nat.log2 m : Int) + 1) = ((Nat.log2 m + 1 : Nat) : Int) by push_cast; rfl, zpow_natCast]; exact_mod_cast high
  obtain ⟨hn1, hn2⟩ := bounds n hn
  obtain ⟨hd1, hd2⟩ := bounds d hd
  have hdq : (0 : ℚ) < d := by exact_mod_cast hd
  unfold log2Frac
  simp only [log2Frac_test hd]
  split <;> rename_i h
  · refine ⟨h, ?_⟩
    rw [div_lt_iff₀ hdq]
    calc (n : ℚ) < 2 ^ ((Nat.log2 n : Int) + 1) := hn2
      _ = 2 ^ ((Nat.log2 n : Int) - Nat.log2 d + 1) * 2 ^ (Nat.log2 d : Int) := by rw [← zpow_add₀ two_ne_zero]; ring_nf
      _ ≤ _ := mul_le_mul_of_nonneg_left hd1 (two_zpow_pos _).le
  · refine ⟨?_, by rw [sub_add_cancel]; exact not_le.mp h⟩
    rw [le_div_iff₀ hdq]
    calc (2 : ℚ) ^ ((Nat.log2 n : Int) - Nat.log2 d - 1) * d
        ≤ 2 ^ ((Nat.log2 n : Int) - Nat.log2 d - 1) * 2 ^ ((Nat.log2 d : Int) + 1) :=
          mul_le_mul_of_nonneg_left hd2.le (two_zpow_pos _).le
      _ = 2 ^ (Nat.log2 n : Int) := by rw [← zpow_add₀ two_ne_zero]; ring_nf
      _ ≤ n := hn1

/-- `overTwo` divides by a power of two. -/
theorem overTwo_spec {n d : Nat} (hd : 0 < d) (q : Int) :
    0 < (overTwo n d q).2 ∧ (n : ℚ) / d = ((overTwo n d q).1 : ℚ) / (overTwo n d q).2 * 2 ^ q := by
  unfold overTwo
  split <;> rename_i h
  · obtain ⟨k, rfl⟩ : ∃ k : Nat, q = -k := ⟨q.natAbs, by omega⟩
    refine ⟨hd, ?_⟩
    rw [zpow_neg, zpow_natCast, Int.natAbs_neg, Int.natAbs_natCast]
    push_cast
    field_simp
  · obtain ⟨k, rfl⟩ : ∃ k : Nat, q = k := ⟨q.toNat, by omega⟩
    refine ⟨Nat.mul_pos hd (Nat.two_pow_pos _), ?_⟩
    rw [zpow_natCast, Int.toNat_natCast]
    push_cast
    field_simp

namespace Fmt

variable {f : Fmt}

/-! ### The magnitudes of a format's patterns -/

/-- The magnitude that a pattern without its sign stands for, the exponent unbounded above (R85). -/
def mag (f : Fmt) (b : Nat) : ℚ :=
  if b / 2 ^ f.fracBits = 0 then (b : ℚ) * 2 ^ (1 - (f.bias : Int) - f.fracBits)
  else ((2 ^ f.fracBits + b % 2 ^ f.fracBits : Nat) : ℚ) * 2 ^ (((b / 2 ^ f.fracBits : Nat) : Int) - f.bias - f.fracBits)

/-- The unit in the last place of the magnitudes above E binades. -/
def ulp (f : Fmt) (E : Nat) : ℚ := 2 ^ ((E : Int) + 1 - f.bias - f.fracBits)

theorem ulp_pos (f : Fmt) (E : Nat) : 0 < f.ulp E := two_zpow_pos _

/-- A significand k in the binade above E binades, the end of the binade included. -/
structure InBinade (f : Fmt) (E k : Nat) : Prop where
  high : k ≤ 2 * 2 ^ f.fracBits
  low : E = 0 ∨ 2 ^ f.fracBits ≤ k

theorem mag_of_binade {E k : Nat} (h : f.InBinade E k) : f.mag (E * 2 ^ f.fracBits + k) = k * f.ulp E := by
  have hM : 0 < 2 ^ f.fracBits := Nat.two_pow_pos _
  obtain ⟨high, low⟩ := h
  rcases Nat.lt_or_ge k (2 ^ f.fracBits) with hk | hk
  · obtain rfl : E = 0 := low.resolve_right (by omega)
    simp [mag, ulp, Nat.div_eq_of_lt hk]
  · obtain ⟨m, rfl⟩ := Nat.exists_eq_add_of_le hk
    have split : E * 2 ^ f.fracBits + (2 ^ f.fracBits + m) = m + 2 ^ f.fracBits * (E + 1) := by ring
    have above : m / 2 ^ f.fracBits + (E + 1) ≠ 0 := Nat.succ_ne_zero _
    rw [mag, split, Nat.add_mul_div_left _ _ hM, Nat.add_mul_mod_self_left, if_neg above]
    rcases Nat.lt_or_ge m (2 ^ f.fracBits) with hm | hm
    · rw [Nat.div_eq_of_lt hm, Nat.mod_eq_of_lt hm]
      simp [ulp]
    · obtain rfl : m = 2 ^ f.fracBits := by omega
      rw [Nat.div_self hM, Nat.mod_self, ulp, show ((1 + (E + 1) : Nat) : Int) - f.bias - f.fracBits = E + 1 - f.bias - f.fracBits + 1 by
        push_cast; ring, zpow_add_one₀ two_ne_zero]
      push_cast
      ring

/-- Every pattern lies in a binade, not at its end. -/
theorem exists_binade (f : Fmt) (b : Nat) : ∃ E k, b = E * 2 ^ f.fracBits + k ∧ f.InBinade E k ∧ k < 2 * 2 ^ f.fracBits := by
  have hM : 0 < 2 ^ f.fracBits := Nat.two_pow_pos _
  have split := Nat.div_add_mod' b (2 ^ f.fracBits)
  have rest := Nat.mod_lt b hM
  cases hE : b / 2 ^ f.fracBits with
  | zero =>
    rw [hE] at split
    exact ⟨0, b, by omega, ⟨by omega, .inl rfl⟩, by omega⟩
  | succ E =>
    rw [hE, Nat.succ_mul] at split
    exact ⟨E, 2 ^ f.fracBits + b % 2 ^ f.fracBits, by omega, ⟨by omega, .inr (by omega)⟩, by omega⟩

theorem mag_lt_succ (f : Fmt) (b : Nat) : f.mag b < f.mag (b + 1) := by
  obtain ⟨E, k, rfl, hk, hlt⟩ := f.exists_binade b
  have next : f.InBinade E (k + 1) := ⟨hlt, hk.low.imp_right fun h => by omega⟩
  rw [Nat.add_assoc, mag_of_binade hk, mag_of_binade next]
  push_cast
  have := f.ulp_pos E
  linarith

theorem mag_strictMono (f : Fmt) : StrictMono f.mag := strictMono_nat_of_lt_succ f.mag_lt_succ

/-! ### What rounding starts from (R92) -/

/-- The pattern below a magnitude n/d: E binades below its own, and its integer part in units of the last place; the remainder is r of b
parts of a unit. -/
structure Floor (f : Fmt) (n d E k r b : Nat) : Prop where
  binade : f.InBinade E k
  inner : k < 2 * 2 ^ f.fracBits
  part : r < b
  exact : (n : ℚ) / d = (k + r / b) * f.ulp E
  magnitude : ∀ neg mode, f.magnitude neg n d mode = E * 2 ^ f.fracBits + k + if mode.up neg k r b then 1 else 0

theorem magnitude_eq (f : Fmt) (neg : Bool) (n d : Nat) (mode : RMode) :
    let x := overTwo n d (f.quantum n d)
    f.magnitude neg n d mode = (f.quantum n d + f.fracBits + f.bias - 1).toNat * 2 ^ f.fracBits + x.1 / x.2 +
      if mode.up neg (x.1 / x.2) (x.1 % x.2) x.2 then 1 else 0 := by
  simp only [magnitude, Nat.add_assoc]
  split <;> rfl

theorem two_zpow_add (q : Int) (i : Nat) : (2 : ℚ) ^ (q + i) = (2 ^ i : Nat) * 2 ^ q := by
  rw [zpow_add₀ two_ne_zero, zpow_natCast, mul_comm]
  push_cast
  rfl

/-- In units of the last place a magnitude has at most one digit more than the fraction of the format. -/
theorem lt_quantum (f : Fmt) {n d : Nat} (hn : 0 < n) (hd : 0 < d) :
    (n : ℚ) / d < (2 ^ (f.fracBits + 1) : Nat) * 2 ^ f.quantum n d := by
  rw [← two_zpow_add]
  refine (log2Frac_spec hn hd).2.trans_le (zpow_le_zpow_right₀ one_le_two ?_)
  unfold quantum
  push_cast
  omega

/-- Above the subnormal magnitudes it has that digit. -/
theorem quantum_le (f : Fmt) {n d : Nat} (hn : 0 < n) (hd : 0 < d) (h : f.quantum n d ≠ 1 - (f.bias : Int) - f.fracBits) :
    (2 ^ f.fracBits : Nat) * 2 ^ f.quantum n d ≤ (n : ℚ) / d := by
  rw [← two_zpow_add]
  convert (log2Frac_spec hn hd).1 using 2
  unfold quantum at h ⊢
  omega

theorem exists_floor (f : Fmt) {n d : Nat} (hn : 0 < n) (hd : 0 < d) : ∃ E k r b, f.Floor n d E k r b := by
  have below := f.lt_quantum hn hd
  have above := f.quantum_le hn hd
  have digits := f.magnitude_eq (n := n) (d := d)
  obtain ⟨hb, hx⟩ := overTwo_spec (n := n) hd (f.quantum n d)
  obtain ⟨E, hE⟩ : ∃ E : Nat, f.quantum n d + f.fracBits + f.bias - 1 = E :=
    ⟨(f.quantum n d + f.fracBits + f.bias - 1).toNat, by unfold quantum; omega⟩
  generalize f.quantum n d = q at *
  dsimp only at digits
  generalize (overTwo n d q).1 = a at *
  generalize (overTwo n d q).2 = b at *
  have hu : f.ulp E = 2 ^ q := by
    unfold ulp
    congr 1
    omega
  have hq := two_zpow_pos q
  have hbq : (0 : ℚ) < b := by exact_mod_cast hb
  rw [hx, mul_lt_mul_iff_left₀ hq, div_lt_iff₀ hbq] at below
  rw [hx, mul_le_mul_iff_left₀ hq, le_div_iff₀ hbq] at above
  have inner : a / b < 2 ^ f.fracBits * 2 := by
    rw [Nat.div_lt_iff_lt_mul hb, ← pow_succ]
    exact_mod_cast below
  have least : E = 0 ∨ 2 ^ f.fracBits ≤ a / b := by
    refine (Nat.eq_zero_or_pos E).imp_right fun h => (Nat.le_div_iff_mul_le hb).mpr ?_
    exact_mod_cast above (by omega)
  have whole : (a : ℚ) / b = (a / b : Nat) + (a % b : Nat) / b := by
    rw [eq_comm, add_div' _ _ _ hbq.ne']
    congr 1
    exact_mod_cast Nat.div_add_mod' a b
  refine ⟨E, a / b, a % b, b, ⟨by omega, least⟩, by omega, Nat.mod_lt _ hb, by rw [hx, whole, hu], fun neg mode => ?_⟩
  rw [digits, hE, Int.toNat_natCast]

/-! ### The patterns of finite magnitudes (R84, R85) -/

/-- The largest finite magnitude lies below the patterns of the infinities and NaNs, and the fraction has a digit. -/
structure Regular (f : Fmt) : Prop where
  fits : f.top < 2 ^ (f.expBits + f.fracBits)
  finite : f.noInf = false → f.top / 2 ^ f.fracBits < 2 ^ f.expBits - 1
  number : f.noInf = true → f.nan ≠ 0 → f.top < (2 ^ f.expBits - 1) * 2 ^ f.fracBits + (2 ^ f.fracBits - 1)
  digit : 0 < f.fracBits

theorem regular_of_mem (hf : f ∈ Claims.formats) : f.Regular := by
  have all : ∀ f ∈ Claims.formats, f.top < 2 ^ (f.expBits + f.fracBits) ∧
      (f.noInf = false → f.top / 2 ^ f.fracBits < 2 ^ f.expBits - 1) ∧
      (f.noInf = true → f.nan ≠ 0 → f.top < (2 ^ f.expBits - 1) * 2 ^ f.fracBits + (2 ^ f.fracBits - 1)) ∧ 0 < f.fracBits := by decide
  obtain ⟨h1, h2, h3, h4⟩ := all f hf
  exact ⟨h1, h2, h3, h4⟩

/-- The value of a pattern up to the largest finite magnitude. -/
theorem Regular.value_eq (hf : f.Regular) {b : Nat} (hb : b ≤ f.top) : f.value b =
    if b / 2 ^ f.fracBits = 0 then .scaled false b (1 - (f.bias : Int) - f.fracBits)
    else .scaled false (2 ^ f.fracBits + b % 2 ^ f.fracBits) ((b / 2 ^ f.fracBits : Nat) - f.bias - f.fracBits) := by
  have hM : 0 < 2 ^ f.fracBits := Nat.two_pow_pos _
  have hlt : b < 2 ^ (f.expBits + f.fracBits) := hb.trans_lt hf.fits
  have exponent : bitsOf b (f.expBits + f.fracBits - 1) f.fracBits = b / 2 ^ f.fracBits := by
    have := hf.digit
    rw [bitsOf, show f.expBits + f.fracBits - 1 + 1 - f.fracBits = f.expBits by omega, Nat.mod_eq_of_lt]
    · exact Nat.shiftRight_eq_div_pow _ _
    · rwa [Nat.shiftRight_eq_div_pow, Nat.div_lt_iff_lt_mul hM, ← pow_add]
  have split := Nat.div_add_mod' b (2 ^ f.fracBits)
  have notNan : (f.noInf && f.nan != 0 && b / 2 ^ f.fracBits == 2 ^ f.expBits - 1 && b % 2 ^ f.fracBits == 2 ^ f.fracBits - 1) = false := by
    by_contra h
    simp only [Bool.not_eq_false, Bool.and_eq_true, bne_iff_ne, ne_eq, beq_iff_eq] at h
    obtain ⟨⟨⟨h1, h2⟩, h3⟩, h4⟩ := h
    rw [h3, h4] at split
    exact absurd (hf.number h1 h2) (by omega)
  have notInf : (!f.noInf && b / 2 ^ f.fracBits == 2 ^ f.expBits - 1) = false := by
    by_contra h
    simp only [Bool.not_eq_false, Bool.and_eq_true, Bool.not_eq_true', beq_iff_eq] at h
    exact absurd (Nat.div_le_div_right (c := 2 ^ f.fracBits) hb) (by have := hf.finite h.1; omega)
  simp only [value, exponent, notNan, notInf, Nat.testBit_lt_two_pow hlt, Bool.false_eq_true, if_false]
  split <;> rename_i h
  · rw [Nat.mod_eq_of_lt ((Nat.div_eq_zero_iff_lt hM).mp h)]
  · rfl

theorem Regular.number_value (hf : f.Regular) {b : Nat} (hb : b ≤ f.top) : Claims.Number (f.value b) := by
  rw [hf.value_eq hb]
  split <;> exact .scaled _ _ _

theorem Regular.ratOf_value (hf : f.Regular) {b : Nat} (hb : b ≤ f.top) : Claims.ratOf (f.value b) = f.mag b := by
  rw [hf.value_eq hb, mag]
  split <;> exact Claims.ratOf_scaled _ _

/-! ### Rounding of a magnitude (R92) -/

variable {n d E k r b : Nat}

section
variable (h : f.Floor n d E k r b)
include h

theorem Floor.part_pos : (0 : ℚ) < b := by exact_mod_cast (Nat.zero_le r).trans_lt h.part

theorem Floor.mag_eq : f.mag (E * 2 ^ f.fracBits + k) = k * f.ulp E := mag_of_binade h.binade

theorem Floor.mag_succ : f.mag (E * 2 ^ f.fracBits + k + 1) = (k + 1 : ℚ) * f.ulp E := by
  have next : f.InBinade E (k + 1) := ⟨h.inner, h.binade.low.imp_right fun h => by omega⟩
  rw [Nat.add_assoc, mag_of_binade next]
  push_cast
  rfl

/-- Above the pattern below it, a magnitude has r of b parts of a unit. -/
theorem Floor.above : (n : ℚ) / d = f.mag (E * 2 ^ f.fracBits + k) + r * (f.ulp E / b) := by
  rw [h.mag_eq, h.exact]
  ring

theorem Floor.below : (n : ℚ) / d < f.mag (E * 2 ^ f.fracBits + k + 1) := by
  have hr : (r : ℚ) / b < 1 := (div_lt_one h.part_pos).mpr (by exact_mod_cast h.part)
  rw [h.mag_succ, h.exact]
  exact mul_lt_mul_of_pos_right (by linarith) (f.ulp_pos E)

/-- Against the middle between its neighbours it has 2r against b parts. -/
theorem Floor.middle : (n : ℚ) / d + n / d =
    f.mag (E * 2 ^ f.fracBits + k) + f.mag (E * 2 ^ f.fracBits + k + 1) + ((2 * r : Nat) - b : ℚ) * (f.ulp E / b) := by
  rw [h.mag_eq, h.mag_succ, h.exact]
  have := h.part_pos.ne'
  push_cast
  field_simp
  ring

/-- The largest magnitude of the format that is not above it. -/
theorem Floor.round_rz (hn : 0 < n) : f.round .rz (.fin false n d) = min (E * 2 ^ f.fracBits + k) f.top := by
  simp only [round, hn.ne', if_false, h.magnitude, RMode.up, overflow, sign, Bool.false_eq_true, Nat.zero_add, Nat.add_zero,
    Bool.false_and]
  split <;> omega

/-- A magnitude below the largest finite one rounds to the pattern below it, or the next, as the direction says. -/
theorem Floor.round_eq {mode : RMode} (hn : 0 < n) (ht : E * 2 ^ f.fracBits + k < f.top) (hm : ∀ u, mode ≠ .sr u) :
    f.round mode (.fin false n d) = E * 2 ^ f.fracBits + k + if mode.up false k r b then 1 else 0 := by
  have fits : ¬ f.top < E * 2 ^ f.fracBits + k + if mode.up false k r b then 1 else 0 := by split <;> omega
  cases mode with
  | sr u => exact absurd rfl (hm u)
  | _ => simp only [round, hn.ne', if_false, h.magnitude, fits, sign, Bool.false_eq_true, Nat.zero_add]

end

end Fmt

end Sys2Proof.Machine

namespace Sys2Proof.Claims
open Machine

/-- Below the largest finite magnitude the four modes choose between the two neighbours `p` and `p + 1`. -/
theorem round_between {f : Fmt} {n d E k r b : Nat} (reg : f.Regular) (h : f.Floor n d E k r b) (hn : 0 < n) (hd : 0 < d)
    (ht : E * 2 ^ f.fracBits + k < f.top) :
    let x : Val := .fin false n d
    let p := E * 2 ^ f.fracBits + k
    let half := (f.value p).add false (f.value (p + 1))
    let twice := x.add false x
    x.lt (f.value (p + 1)) ∧ f.round .rm x = p ∧ f.round .rp x = (if (f.value p).eq x then p else p + 1) ∧
      (twice.lt half → f.round .rne x = p) ∧ (half.lt twice → f.round .rne x = p + 1) ∧
      (half.eq twice → f.round .rne x = if p % 2 = 0 then p else p + 1) := by
  intro x p half twice
  have hx : Number x := .fin hd.ne'
  have hxr : ratOf x = n / d := by simp [x, ratOf_fin, sgnNat]
  have lo := reg.number_value ht.le
  have hi := reg.number_value ht
  have hhalf : Number half := lo.add false hi
  have htwice : Number twice := hx.add false hx
  have unit : 0 < f.ulp E / b := div_pos (f.ulp_pos E) h.part_pos
  have middle : ratOf twice = ratOf half + ((2 * r : Nat) - b : ℚ) * (f.ulp E / b) := by
    rw [ratOf_add _ hx hx, ratOf_add _ lo hi, hxr, reg.ratOf_value ht.le, reg.ratOf_value ht, h.middle]
  have nearest : f.round .rne x = p + if b < 2 * r ∨ b = 2 * r ∧ k % 2 = 1 then 1 else 0 := by
    simp only [x, h.round_eq hn ht (mode := .rne) (by simp), RMode.up, Bool.or_eq_true, Bool.and_eq_true, decide_eq_true_eq, beq_iff_eq, p]
  have parity : p % 2 = k % 2 := by
    obtain ⟨m, hm⟩ := Nat.exists_eq_add_of_lt reg.digit
    have : E * 2 ^ f.fracBits = 2 * (E * 2 ^ m) := by rw [hm]; ring
    omega
  refine ⟨?_, ?_, ?_, fun hlt => ?_, fun hlt => ?_, fun heq => ?_⟩
  · rw [hx.lt_iff hi, hxr, reg.ratOf_value ht]
    exact h.below
  · simpa [RMode.up] using h.round_eq hn ht (mode := .rm) (by simp)
  · have same : (f.value p).eq x = true ↔ r = 0 := by
      rw [lo.eq_iff hx, hxr, reg.ratOf_value ht.le, h.above, left_eq_add, mul_eq_zero, or_iff_left unit.ne']
      exact_mod_cast Iff.rfl
    rw [h.round_eq hn ht (mode := .rp) (by simp)]
    by_cases hr : r = 0 <;> simp [RMode.up, same, hr, p]
  · rw [htwice.lt_iff hhalf, middle, add_lt_iff_neg_left] at hlt
    have hlt : 2 * r < b := by exact_mod_cast sub_neg.mp (neg_of_mul_neg_left hlt unit.le)
    rw [nearest, if_neg (by omega), Nat.add_zero]
  · rw [hhalf.lt_iff htwice, middle, lt_add_iff_pos_right, mul_pos_iff_of_pos_right unit, sub_pos] at hlt
    have hlt : b < 2 * r := by exact_mod_cast hlt
    rw [nearest, if_pos (.inl hlt)]
  · rw [hhalf.eq_iff htwice, middle, left_eq_add, mul_eq_zero, or_iff_left unit.ne', sub_eq_zero] at heq
    have heq : b = 2 * r := by exact_mod_cast heq.symm
    rw [nearest, parity]
    rcases Nat.mod_two_eq_zero_or_one k with hk | hk <;> simp [heq, hk]

/-- R92: the neighbours of a magnitude, and the mode that chooses between them. -/
theorem roundingTakesANeighbour : RoundingTakesANeighbour := by
  intro f hf n d hn hd x lo half twice
  have reg := Fmt.regular_of_mem hf
  obtain ⟨E, k, r, b, h⟩ := f.exists_floor hn hd
  have hlo : lo = min (E * 2 ^ f.fracBits + k) f.top := h.round_rz hn
  have le_top : lo ≤ f.top := hlo ▸ Nat.min_le_right _ _
  refine ⟨le_top, ?_, fun ht => ?_⟩
  · have hx : Number x := .fin hd.ne'
    have hxr : ratOf x = n / d := by simp [x, ratOf_fin, sgnNat]
    rw [(reg.number_value le_top).le_iff hx, reg.ratOf_value le_top, hxr, h.above]
    have : f.mag lo ≤ f.mag (E * 2 ^ f.fracBits + k) := f.mag_strictMono.monotone (hlo ▸ Nat.min_le_left _ _)
    have := mul_nonneg (Nat.cast_nonneg (α := ℚ) r) (div_nonneg (f.ulp_pos E).le h.part_pos.le)
    linarith
  · have hp : lo = E * 2 ^ f.fracBits + k := by omega
    clear_value lo
    subst hp
    exact round_between reg h hn hd ht

/-! ### The two signs (R92) -/

/-- The mode that rounds a negated value as a mode rounds the value. -/
def mirrored : RMode → RMode
  | .rp => .rm
  | .rm => .rp
  | mode => mode

theorem up_mirrored (mode : RMode) (k r d : Nat) : mode.up true k r d = (mirrored mode).up false k r d := by
  cases mode <;> rfl

theorem magnitude_mirrored (f : Fmt) (n d : Nat) (mode : RMode) : f.magnitude true n d mode = f.magnitude false n d (mirrored mode) := by
  simp only [Fmt.magnitude, up_mirrored]

theorem overflow_mirrored (f : Fmt) (mode : RMode) : f.overflow true mode = f.sign true + f.overflow false (mirrored mode) := by
  cases mode <;> simp [Fmt.overflow, mirrored, Fmt.sign]

/-- A magnitude that is not 0 rounds with a sign as without it, in the mirrored direction. -/
theorem round_mirrored (f : Fmt) (mode : RMode) {n d : Nat} (hn : 0 < n) :
    f.round mode (.fin true n d) = f.sign true + f.round (mirrored mode) (.fin false n d) := by
  have same (m : RMode) : (if f.top < f.magnitude true n d m then f.overflow true m else f.sign true + f.magnitude true n d m) =
      f.sign true + (if f.top < f.magnitude false n d (mirrored m) then f.overflow false (mirrored m)
        else f.sign false + f.magnitude false n d (mirrored m)) := by
    rw [magnitude_mirrored]
    split
    · exact overflow_mirrored f m
    · simp [Fmt.sign]
  cases mode with
  | sr u =>
    simp only [Fmt.round, hn.ne', if_false, mirrored]
    split
    · exact same .rne
    · exact same (.sr u)
  | rne | rz | rp | rm =>
    simp only [Fmt.round, hn.ne', if_false]
    exact same _

theorem roundingMirrorsTheSign : RoundingMirrorsTheSign := fun f _ _ _ hn _ =>
  ⟨round_mirrored f .rz hn, round_mirrored f .rne hn, round_mirrored f .rp hn, round_mirrored f .rm hn, fun u => round_mirrored f (.sr u) hn⟩

/-- Settles O10: between two neighbouring patterns of a format the mode decides (`round_between`), and the sign only exchanges the
directed modes (`round_mirrored`). -/
theorem roundingTreatsTheSignsAlike : Obligations.RoundingTreatsTheSignsAlike := ⟨roundingTakesANeighbour, roundingMirrorsTheSign⟩

end Sys2Proof.Claims
end

section
/-!
# Special registers, clocks and counters (R94, R225, R409 to R413)

An instruction of one thread that only changes its thread is retired with that change, and nothing else of the device differs
(`Alone.updates`). What each of MFSR, MTSR, CLKRD and PERFRD writes is then a fact about the thread alone.
-/

namespace Sys2Proof.Machine

variable {s : State} {k : PKey} {core x : Nat} {t : Thread}

/-- A thread that the re-evaluation of waits would not change in its parcel stands as it did. -/
theorem State.refresh_thread?_of_settled (h : s.thread? k x = some t) (hs : ∀ p : Parcel, p.key = k → s.settleThread core p t = t) :
    (s.refresh core).thread? k x = some t := by
  obtain ⟨p, hp, ht⟩ := State.thread?_parcel h
  have settled : (s.settleParcel core p).thread? x = some t := by
    show (p.threads.map (s.settleThread core p)).find? (fun t => t.tix == x) = some t
    rw [find?_map_key (fun t => by rw [State.settleThread_tix])]
    exact (congrArg (Option.map _) ht).trans (congrArg some (hs p (State.parcel?_key hp)))
  unfold State.thread?
  rw [State.refresh_parcel?, hp]
  dsimp only [Option.map_some]
  split
  · exact ht
  · split
    · exact settled
    · exact ht

/-- A thread whose wait is not over goes on waiting. -/
theorem State.refresh_thread?_waiting {w : Wait} (h : s.thread? k x = some t) (hw : t.status = .engine w)
    (hover : s.waitOver core k t w = false) : (s.refresh core).thread? k x = some t :=
  State.refresh_thread?_of_settled h fun p hp => by
    subst hp
    simp [State.settleThread, hw, hover]

/-! ### What a write of a special register keeps -/

@[simp] theorem Thread.setSpecial_tix (n v : Nat) : (t.setSpecial n v).tix = t.tix := by unfold Thread.setSpecial; split <;> rfl
@[simp] theorem Thread.setSpecial_status (n v : Nat) : (t.setSpecial n v).status = t.status := by
  unfold Thread.setSpecial; split <;> rfl
@[simp] theorem Thread.setSpecial_retired (n v : Nat) : (t.setSpecial n v).retired = t.retired := by
  unfold Thread.setSpecial; split <;> rfl

/-- Writing a special register leaves the registers, the queues and `%tstate` alone. -/
theorem Thread.setSpecial_kept (t : Thread) (n v : Nat) :
    ((t.setSpecial n v).g, (t.setSpecial n v).p, (t.setSpecial n v).c) = (t.g, t.p, t.c) ∧
    ((t.setSpecial n v).counts, (t.setSpecial n v).pend, (t.setSpecial n v).deliver, (t.setSpecial n v).storeQ,
      (t.setSpecial n v).due) = (t.counts, t.pend, t.deliver, t.storeQ, t.due) ∧
    (t.setSpecial n v).tstate = t.tstate := by
  unfold Thread.setSpecial; split <;> exact ⟨rfl, rfl, rfl⟩

end Sys2Proof.Machine

namespace Sys2Proof.Claims
open Machine

variable {s : State} {g : Group} {i : Instr} {t : Thread} {f : Thread → Thread}

/-! ### An instruction that changes its thread alone -/

/-- The thread that an instruction has retired with the change `f`. -/
def retiredWith (i : Instr) (g : Group) (t : Thread) (f : Thread → Thread) : Thread :=
  ((f t).retire (t.pc + BitVec.ofNat 32 g.size)).withReuse (nextReuse i g.tixs)

/-- A change that leaves the thread's number, its status and its count of instructions alone. -/
structure KeepsStanding (f : Thread → Thread) : Prop where
  tix : ∀ t, (f t).tix = t.tix
  status : ∀ t, (f t).status = t.status
  retired : ∀ t, (f t).retired = t.retired

/-- An instruction whose effect is a change of its thread retires it with that change, and leaves the rest alone. -/
theorem Alone.updates {body : Body} (ha : Alone s g i t) (hf : KeepsStanding f) (he : exec i s = issue i body s)
    (hb : body { s with group := none } g.key t = .next (State.modThread { s with group := none } g.key t.tix f)) :
    ∃ u, exec i s = .next u ∧ RetiredAt u g.key t (retiredWith i g t f) (t.pc + BitVec.ofNat 32 g.size) ∧
      Elsewhere s u g.key t.tix true ∧ EnginesKept s u := by
  have keep : ∀ u : Thread, u.tix = t.tix → (f u).tix = t.tix := fun u hu => (hf.tix u).trans hu
  let u := (State.modThread { s with group := none } g.key t.tix f).goOn g i t (t.pc + BitVec.ofNat 32 g.size)
  have hnext : exec i s = .next (u.refresh g.core) := by
    rw [he, ha.issue_eq, hb]
    rfl
  have hu : State.OnlyThreads { s with group := none } u := State.modThread_onlyThreads.trans State.goOn_onlyThreads
  have hthread : u.thread? g.key t.tix = some (retiredWith i g t f) := by
    rw [State.thread?_goOn, State.thread?_modThread keep]
    exact congrArg (Option.map _) (congrArg (Option.map f) ha.thread)
  have hother (k' : PKey) (y : Nat) (hky : k' ≠ g.key ∨ y ≠ t.tix) : u.thread? k' y = s.thread? k' y := by
    rw [State.thread?_goOn_other hky, State.thread?_modThread_other keep hky]
    rfl
  have hready : (retiredWith i g t f).status = .ready := (hf.status t).trans ha.ready
  have hretired : (retiredWith i g t f).retired = retiredNext t := congrArg bump (hf.retired t)
  exact ⟨_, hnext, ⟨State.refresh_thread hthread (by rw [hready]; rfl), rfl, hready, hretired⟩,
    elsewhere_refresh hu hother _, enginesKept_refresh hu _⟩

/-- A value written to one register, or to a pair, and due as the result of an arithmetic instruction. -/
def readOut (i : Instr) (d : BitVec 9) (wide : Bool) (v : Nat) (t : Thread) : Thread :=
  (if wide then t.out64 d v else t.out32 d v).mark i.sig

theorem readOut_keepsStanding (i : Instr) (d : BitVec 9) (wide : Bool) (v : Nat) : KeepsStanding (readOut i d wide v) := by
  cases wide <;> exact ⟨fun _ => rfl, fun _ => rfl, fun _ => rfl⟩

theorem retiredWith_sameRest (h : SameRest t (f t)) : SameRest t (retiredWith i g t f) :=
  ⟨h.tix, h.slot, h.role, h.traps, h.pend, h.deliver, h.storeQ, h.counts, h.own, h.fences, h.farLaps⟩

theorem readOut_sameRest (d : BitVec 9) (wide : Bool) (v : Nat) : SameRest t (readOut i d wide v t) := by
  cases wide <;> exact .update

/-- An instruction that writes the value `v` is a register read of it, up to the width of the destination. -/
theorem Alone.readsOut {body : Body} {d : BitVec 9} {wide : Bool} {v w : Nat} (ha : Alone s g i t)
    (he : exec i s = issue i body s)
    (hb : body { s with group := none } g.key t =
      .next (State.modThread { s with group := none } g.key t.tix (readOut i d wide v)))
    (hv : v % 2 ^ (if wide then 64 else 32) = w % 2 ^ (if wide then 64 else 32)) : ReadsOut i s g t d.toNat wide w := by
  obtain ⟨u, hu, hret, helse, hengines⟩ := ha.updates (readOut_keepsStanding i d wide v) he hb
  refine ⟨u, _, hu, hret, ?_, retiredWith_sameRest (readOut_sameRest d wide v), ?_, ?_, helse, hengines⟩
  all_goals cases wide
  case refine_1.false =>
    exact ⟨fun n hn => Thread.reg_setReg_other t _ (by simpa using hn), fun _ _ _ => rfl, fun _ _ => rfl⟩
  case refine_1.true =>
    have outside (n : Nat) (hn : Dest.g n ∉ [Dest.g d.toNat, .g (d.toNat + 1)]) : n ≠ d.toNat ∧ n ≠ d.toNat + 1 := by
      simpa using hn
    exact ⟨fun n hn => Thread.reg_setPair_other t _ (outside n hn).1 (outside n hn).2, fun _ _ _ => rfl, fun _ _ => rfl⟩
  case refine_2.false =>
    show ((t.setReg d.toNat (BitVec.ofNat 32 v)).reg d.toNat).toNat = _
    rw [Thread.reg_setReg_same, BitVec.toNat_ofNat]
    exact hv
  case refine_2.true =>
    show ((t.setPair d.toNat (BitVec.ofNat 64 v)).pair d.toNat).toNat = _
    rw [Thread.pair_setPair_same, BitVec.toNat_ofNat]
    exact hv
  case refine_3.false | refine_3.true => rfl

/-! ### MFSR (R409, R411) -/

/-- MFSR of a special register that holds `w`. -/
theorem mfsr_readsOut {x : SWord} {l : Launch} {wide : Bool} {n w : Nat} (ha : Alone s g (.mfsr x) t)
    (hl : s.launch? g.key.launchKey = some l) (hwide : wideSpecial n = wide)
    (hv : s.special g.key l t n % 2 ^ (if wide then 64 else 32) = w % 2 ^ (if wide then 64 else 32)) :
    x.n = n → ReadsOut (.mfsr x) s g t x.d.toNat wide w := by
  rintro rfl
  have hl' : State.launch? { s with group := none } g.key.launchKey = some l := hl
  refine ha.readsOut (d := x.d) (v := s.special g.key l t x.n) rfl ?_ hv
  simp only [hl', hwide]
  rfl

theorem special_tid (s : State) (k : PKey) (l : Launch) (t : Thread) :
    s.special k l t 0 % 2 ^ 32 = (k.pix * l.p + t.tix) % 2 ^ 32 := by
  show (BitVec.ofNat 32 (k.pix * l.p + t.tix)).toNat % 2 ^ 32 = _
  rw [BitVec.toNat_ofNat, Nat.mod_mod]

theorem special_parcels (s : State) (k : PKey) (l : Launch) (t : Thread) : s.special k l t 0x005 % 2 ^ 32 = l.n % 2 ^ 32 :=
  Nat.mod_mod l.n (2 ^ 32)

theorem special_core {s : State} {k : PKey} {n : Nat} (h : s.coreOf k = n) (l : Launch) (t : Thread) : s.special k l t 0x008 = n := h

theorem special_xhash {s : State} {k : PKey} {p : Parcel} (hp : s.parcel? k = some p) (l : Launch) (t : Thread) :
    s.special k l t 0x013 = p.xhash.toNat :=
  congrArg (fun q : Parcel => q.xhash.toNat) (State.parcel_eq hp)

/-! ### MTSR (R411) -/

/-- The operand that MTSR writes to special register `n`, at the width of that register. -/
def specialOperand (x : SWord) (n : Nat) (t : Thread) : Nat := if wideSpecial n then t.d64 x.a x.za else t.u x.a x.za

theorem setSpecial_keepsStanding (n v : Nat) : KeepsStanding (fun t => t.setSpecial n v) :=
  ⟨fun t => t.setSpecial_tix n v, fun t => t.setSpecial_status n v, fun t => t.setSpecial_retired n v⟩

/-- MTSR writes its operand and retires; `post` is what the special registers hold then. -/
theorem mtsr_writesSpecial {n : Nat} {post : SWord → Thread → Thread → Prop}
    (h : ∀ x t pc r, post x t (((t.setSpecial n (specialOperand x n t)).retire pc).withReuse r)) : WritesSpecial n post := by
  intro x s g t ha hn
  subst hn
  obtain ⟨u, hu, hret, helse, hengines⟩ :=
    ha.updates (f := fun u => u.setSpecial x.n (specialOperand x x.n t)) (setSpecial_keepsStanding _ _) rfl rfl
  obtain ⟨hregs, hqueues, hstate⟩ := t.setSpecial_kept x.n (specialOperand x x.n t)
  exact ⟨u, _, hu, hret, hregs, hqueues, hstate, h x t _ _, helse, hengines⟩

theorem u_eq_wordS (x : SWord) (t : Thread) : t.u x.a x.za = (wordS x t).toNat := by
  unfold Thread.u wordS
  cases x.za <;> rfl

theorem ofNat_u (x : SWord) (t : Thread) : BitVec.ofNat 32 (t.u x.a x.za) = wordS x t := by
  rw [u_eq_wordS, BitVec.ofNat_toNat, BitVec.setWidth_eq]

theorem ofNat_d64 (x : SWord) (t : Thread) : BitVec.ofNat 64 (t.d64 x.a x.za) = if x.za then 0 else t.pair x.a.toNat := by
  unfold Thread.d64
  cases x.za
  · exact (BitVec.ofNat_toNat ..).trans (BitVec.setWidth_eq _)
  · rfl

theorem tcause_masked (x : SWord) (t : Thread) :
    (BitVec.ofNat 32 (t.u x.a x.za % 2 ^ 27)).toNat = (wordS x t).toNat % 2 ^ 27 := by
  rw [BitVec.toNat_ofNat, u_eq_wordS]
  exact Nat.mod_eq_of_lt (by omega)

theorem srStore_u (x : SWord) (t : Thread) :
    srStore (BitVec.ofNat 32 (t.u x.a x.za)) = if wordS x t = 0 then 1 else wordS x t := by
  rw [ofNat_u]
  unfold srStore
  split <;> simp_all

/-! ### CLKRD (R412) -/

/-- What CLKRD does: it waits for the older effects of its thread, or reads a clock. -/
def clkrdEffect (x : SWord) (s : State) (k : PKey) (t : Thread) : Effect :=
  if x.mod.getLsbD 1 && !s.waitOver (s.coreOf k) k t .sync then .wait .sync
  else .next (s.modThread k t.tix (readOut (.clkrd x) x.d true (if x.mod.getLsbD 0 then s.clk else s.tb)))

theorem exec_clkrd (x : SWord) (s : State) : exec (.clkrd x) s = Machine.issue (.clkrd x) (clkrdEffect x) s := rfl

/-- A thread has no older effects under way exactly where its wait for them is over. -/
theorem waitOver_sync {k : PKey} {core : Nat} : s.waitOver core k t .sync = true ↔
    t.due = [] ∧ t.deliver = [] ∧ t.storeQ = [] ∧ s.undecided k t.tix = false := by
  simp [State.waitOver, and_assoc]

theorem waitOver_sync_false {k : PKey} {core : Nat}
    (h : t.due ≠ [] ∨ t.deliver ≠ [] ∨ t.storeQ ≠ [] ∨ s.undecided k t.tix = true) : s.waitOver core k t .sync = false := by
  rw [← Bool.not_eq_true, waitOver_sync]
  rintro ⟨hdue, hdeliver, hstores, hdecided⟩
  simp [hdue, hdeliver, hstores, hdecided] at h

theorem clkrd_reads (x : SWord) (ha : Alone s g (.clkrd x) t)
    (hdone : x.mod.getLsbD 1 = false ∨ t.due = [] ∧ t.deliver = [] ∧ t.storeQ = [] ∧ s.undecided g.key t.tix = false) :
    ReadsOut (.clkrd x) s g t x.d.toNat true (if x.mod.getLsbD 0 then s.clk else s.tb) := by
  refine ha.readsOut (exec_clkrd x s) (v := if x.mod.getLsbD 0 then s.clk else s.tb) (if_neg ?_) rfl
  rw [Bool.and_eq_true, Bool.not_eq_true', not_and, Bool.not_eq_false]
  intro hsync
  exact waitOver_sync.mpr (hdone.resolve_left (by simp [hsync]))

theorem clkrdEffect_wait {x : SWord} {k : PKey} (hsync : x.mod.getLsbD 1 = true)
    (hunder : t.due ≠ [] ∨ t.deliver ≠ [] ∨ t.storeQ ≠ [] ∨ s.undecided k t.tix = true) : clkrdEffect x s k t = .wait .sync :=
  if_pos (by rw [hsync, waitOver_sync_false hunder]; rfl)

/-- The thread in wait for its older effects. -/
def awaitingSync (t : Thread) : Thread := { t with status := .engine .sync, reuse := none }

/-- CLKRD.sync stays where it is while older effects of its thread are under way. -/
theorem clkrd_waits (x : SWord) (ha : Alone s g (.clkrd x) t) (hsync : x.mod.getLsbD 1 = true)
    (hunder : t.due ≠ [] ∨ t.deliver ≠ [] ∨ t.storeQ ≠ [] ∨ s.undecided g.key t.tix = true) :
    ∃ u t', exec (.clkrd x) s = .next u ∧ u.thread? g.key t.tix = some t' ∧ t'.status = .engine .sync ∧ t'.pc = t.pc ∧
      t'.retired = t.retired ∧ RegistersOutside [] t t' := by
  have hnext := (exec_clkrd x s).trans ha.issue_eq
  rw [clkrdEffect_wait (s := { s with group := none }) hsync hunder] at hnext
  have hthread : (State.modThread { s with group := none } g.key t.tix awaitingSync).thread? g.key t.tix = some (awaitingSync t) :=
    (State.thread?_modThread (f := awaitingSync) fun _ hu => hu).trans (congrArg (Option.map awaitingSync) ha.thread)
  exact ⟨_, awaitingSync t, hnext, State.refresh_thread?_waiting hthread rfl (waitOver_sync_false hunder), rfl, rfl, rfl, fun _ _ => rfl,
    fun _ _ _ => rfl, fun _ _ => rfl⟩

/-! ### PERFRD (R413) -/

/-- One thread's PERFRD reads the counter as its group found it. -/
theorem exec_perfrd (x : SWord) (s : State) : exec (.perfrd x) s =
    Machine.issue (.perfrd x) (fun u k t => .next (u.modThread k t.tix
      (readOut (.perfrd x) x.d true (State.counter { s with group := none } k t x.n)))) s := by
  show execPerfrd x s = _
  unfold execPerfrd Machine.issue issueWith
  cases s.group <;> rfl

theorem counter_eq {s : State} {k : PKey} {p : Parcel} (hp : s.parcel? k = some p) (t : Thread) (n : Nat) :
    s.counter k t n = if n = 0 then t.retired else if n = 1 then p.retired else Tbl.get 0 (s.ctx k.ctx).counters n := by
  unfold State.counter
  split
  · rfl
  · exact congrArg Parcel.retired (State.parcel_eq hp)
  · rename_i h0 h1
    rw [if_neg h0, if_neg h1]

theorem perfrd_reads (x : SWord) {p : Parcel} (ha : Alone s g (.perfrd x) t) (hp : s.parcel? g.key = some p) :
    ReadsOut (.perfrd x) s g t x.d.toNat true
      (if x.n = 0 then t.retired else if x.n = 1 then p.retired else Tbl.get 0 (s.ctx g.key.ctx).counters x.n) :=
  ha.readsOut (exec_perfrd x s) rfl (congrArg (· % 2 ^ 64) (counter_eq (s := { s with group := none }) hp t x.n))

/-- Settles O28: each of the four instructions changes its thread alone (`Alone.updates`), MFSR, CLKRD and PERFRD by a register read
(`Alone.readsOut`); CLKRD.sync waits exactly while `waitOver` of its wait is false. -/
theorem specialRegistersAreReadAndWritten : Obligations.SpecialRegistersAreReadAndWritten := by
  unfold Obligations.SpecialRegistersAreReadAndWritten
  refine ⟨?_, ?_, ?_, ?_, ?_, ?_, ?_, fun x _ _ _ ha => clkrd_reads x ha, fun x _ _ _ ha => clkrd_waits x ha,
    fun x _ _ _ _ ha hp => perfrd_reads x ha hp⟩
  · intro x s g t l p ha hl hp d reads pairs
    have narrow {n w : Nat} (hw : wideSpecial n = false) (hv : s.special g.key l t n % 2 ^ 32 = w % 2 ^ 32) : reads n w :=
      mfsr_readsOut ha hl hw hv
    have wide {n w : Nat} (hw : wideSpecial n = true) (hv : s.special g.key l t n % 2 ^ 64 = w % 2 ^ 64) : pairs n w :=
      mfsr_readsOut ha hl hw hv
    exact ⟨narrow rfl (special_tid ..), narrow rfl rfl, narrow rfl rfl, narrow rfl rfl, narrow rfl rfl, narrow rfl (special_parcels ..),
      narrow rfl rfl, narrow rfl rfl, narrow rfl (congrArg (· % 2 ^ 32) (special_core ha.core l t)), wide rfl rfl, wide rfl rfl,
      narrow rfl rfl, wide rfl (congrArg (· % 2 ^ 64) (special_xhash hp l t)), narrow rfl rfl, narrow rfl rfl, wide rfl rfl,
      narrow rfl rfl, narrow rfl rfl, narrow rfl rfl, narrow rfl rfl⟩
  · exact mtsr_writesSpecial fun x t _ _ => ⟨srStore_u x t, rfl⟩
  · exact mtsr_writesSpecial fun x t _ _ => ⟨tcause_masked x t, rfl⟩
  · exact mtsr_writesSpecial fun x t _ _ => ⟨ofNat_d64 x t, rfl⟩
  · exact mtsr_writesSpecial fun x t _ _ => ⟨ofNat_u x t, rfl⟩
  · exact mtsr_writesSpecial fun x t _ _ => ⟨ofNat_u x t, rfl⟩
  · exact mtsr_writesSpecial fun x t _ _ => ⟨ofNat_u x t, rfl⟩

end Sys2Proof.Claims
end

section
/-!
# A TERM runs at the head of matrix order: the statement fails

A TERM whose result has a subnormal rounding waits for the signal box (R106), and its effect is held back. The statement has the
parcel then stand unchanged as a whole, its threads with it. A step re-evaluates the waits of its core, though (R113,
`State.refresh`), so a thread of the parcel whose wait is over is made ready by the step that starts the TERM.
-/

namespace Sys2Proof.Claims
open Machine

/-- The start of the first request of an idle matrix context. -/
theorem Head.exec_start {s : State} {core : Nat} {r : MatrixReq} {rest : List MatrixReq} {p : Parcel} (h : Head s core r rest p)
    (hd : (s.core core).drainsFull r = false) :
    exec (.matrixRequestStart core) s = .next ((s.startMatrix core r).refresh core) := by
  obtain ⟨horder, hidle, hon, hmap, -, -⟩ := h
  have hready : ((s.core core).halting && !r.op.query) = false := by
    rcases hon with hon | hon <;> simp [hon]
  show execMatrixRequestStart core s = _
  simp [execMatrixRequestStart, horder, hidle, hready, hd, hmap]

/-- A TERM of the series in a4 into a6 by the epsilon method, to order 1. -/
def extrapolation : BitVec 256 := BitVec.ofNat 256 (4 + 6 * 2 ^ 6 + 1 * 2 ^ 14)

/-- A running parcel with a series of one checkpoint, at position 9, whose first element is the smallest subnormal number; its thread
waits for its stores to be performed, and has none. -/
def subnormalParcel : Parcel :=
  { loadedParcel ⟨0, 1, 0⟩ 0 with
    series := [(4, serOf true 3 2 1 0 false 0 8 1 2 1)], acc := Mem.setNat [] (65536 * 9) 4 1,
    threads := [{ Thread.initial with status := .engine .storesDone }] }

/-- That TERM as a request of the parcel's thread. -/
def extrapolating : MatrixReq := ⟨1, 1, false, subnormalParcel.key, 0, 0, .term extrapolation, some 0x40, 0, 0, []⟩

/-- The device with that parcel alone, the TERM at the head of matrix order. -/
def extrapolatingState : State :=
  { State.reset with parcels := [subnormalParcel] }.modCore 0 (fun c => { c with matrix := [extrapolating] })

theorem extrapolatingState_head : Head extrapolatingState 0 extrapolating [] subnormalParcel where
  order := rfl
  idle := rfl
  on := .inl rfl
  map := by decide +kernel
  parcel := by decide +kernel
  home := by decide +kernel

/-- The record of the series. -/
def oneCheckpoint : BitVec 64 := subnormalParcel.seriesAt (subnormalParcel.position (termSer extrapolation))

theorem subnormalParcel_runs : TermRuns subnormalParcel extrapolation where
  runs := by decide +kernel
  tile := by decide +kernel
  dst := by decide +kernel

/-- One checkpoint admits no order of extrapolation: each estimate is the checkpoint itself. -/
theorem subnormalParcel_estimates :
    Estimates subnormalParcel extrapolation oneCheckpoint (fun x => (chkAt subnormalParcel oneCheckpoint 0 x, 0)) := by
  have hmeth : termMeth extrapolation = 0 := by decide +kernel
  have horder : termH extrapolation oneCheckpoint = 0 := by decide +kernel
  simp only [Estimates, hmeth, horder, if_true]
  exact fun x _ => .inr ⟨fun q hq hq0 => absurd hq0 (by omega), rfl, rfl⟩

/-- The first element needs the signal box. -/
theorem subnormalParcel_assisted : ∃ x < serM oneCheckpoint * serN oneCheckpoint,
    (Fmt.f32.assisted (termFlush extrapolation) .rne (chkAt subnormalParcel oneCheckpoint 0 x)).2 = true :=
  ⟨0, by decide +kernel, by decide +kernel⟩

/-- The thread is ready once the TERM has started. -/
theorem extrapolatingState_started :
    (((extrapolatingState.startMatrix 0 extrapolating).refresh 0).thread? subnormalParcel.key 0).map (·.status) = some .ready := by
  decide +kernel

/-- Refutes O60: the thread of `subnormalParcel` is in a wait that is over, and the step that starts its TERM makes it ready, so the
parcel is not what it was. -/
theorem not_termRunsAtTheHead : ¬ Obligations.TermRunsAtTheHead := by
  unfold Obligations.TermRunsAtTheHead TermRunsAtTheHead
  rintro ⟨-, hruns, -⟩
  obtain ⟨u, p', hu, hp', -, -, hbox⟩ := hruns extrapolatingState 0 extrapolating [] subnormalParcel extrapolation _
    extrapolatingState_head rfl rfl subnormalParcel_runs subnormalParcel_estimates
  obtain ⟨hsame, -⟩ := hbox subnormalParcel_assisted
  subst hsame
  rw [extrapolatingState_head.exec_start (by decide +kernel)] at hu
  injection hu with hu
  have hready := extrapolatingState_started
  have hwaits : (u.thread? subnormalParcel.key 0).map (·.status) = some (.engine .storesDone) := by
    unfold State.thread?
    rw [show u.parcel? subnormalParcel.key = some subnormalParcel from hp']
    rfl
  rw [hu, hwaits] at hready
  cases hready

end Sys2Proof.Claims
end

section
/-!
# An element of a K-group step (R100 to R103)

The group sum is a fold of additions over the products. What it is for numbers follows from the rationals that `ratOf` gives; that it
is NaN, or infinite, is read off the products (`groupSum_eq_nan_iff`, `groupSum_eq_inf_iff`). Integers stay fractions over 1.
-/

namespace Sys2Proof.Claims
open Machine

variable {v w : Val} {ps : List Val}

/-! ### NaN and the infinities in sums and products (R86, R101, R167) -/

theorem add_eq_nan_iff (s : Bool) :
    v.add false w = .nan ↔ v = .nan ∨ w = .nan ∨ v = .inf s ∧ w = .inf (!s) ∨ v = .inf (!s) ∧ w = .inf s := by
  rcases v with _ | a | ⟨a, n, d⟩ <;> rcases w with _ | t | ⟨t, m, e⟩
  case fin.fin => simp only [add_fin]; split <;> simp
  case inf.inf => cases s <;> cases a <;> cases t <;> simp [Val.add]
  all_goals simp [Val.add]

theorem add_eq_inf_iff {s : Bool} : v.add false w = .inf s ↔
    (v = .inf s ∨ w = .inf s) ∧ (v ≠ .nan ∧ w ≠ .nan) ∧ v ≠ .inf (!s) ∧ w ≠ .inf (!s) := by
  rcases v with _ | a | ⟨a, n, d⟩ <;> rcases w with _ | t | ⟨t, m, e⟩
  case fin.fin => simp only [add_fin]; split <;> simp
  case inf.inf => cases s <;> cases a <;> cases t <;> simp [Val.add]
  all_goals cases s <;> simp [Val.add]

theorem mul_eq_nan_iff (e : Val × Val) : e.1.mul e.2 = .nan ↔ NanProduct e := by
  obtain ⟨v, w⟩ := e
  rcases v with _ | s | ⟨s, n, d⟩ <;> rcases w with _ | t | ⟨t, m, e⟩ <;> simp [Val.mul, NanProduct, Val.isZero]

theorem mul_eq_inf_iff (e : Val × Val) (neg : Bool) : e.1.mul e.2 = .inf neg ↔ InfProduct e neg := by
  obtain ⟨v, w⟩ := e
  rw [InfProduct, ← mul_eq_nan_iff]
  rcases v with _ | s | ⟨s, n, d⟩ <;> rcases w with _ | t | ⟨t, m, e⟩ <;>
    simp [Val.mul, Val.isZero, Val.isNeg] <;> split <;> simp_all

/-- NaN and the two infinities are three values. -/
theorem special_distinct (v : Val) (s : Bool) :
    ¬ (v = .nan ∧ v = .inf s) ∧ ¬ (v = .nan ∧ v = .inf (!s)) ∧ ¬ (v = .inf s ∧ v = .inf (!s)) := by
  refine ⟨?_, ?_, ?_⟩ <;> rintro ⟨rfl, h⟩ <;> simp at h

/-- A sum of values is NaN where one of them is, or where both infinities are among them. -/
theorem foldl_add_eq_nan_iff (s : Bool) : ps.foldl (Val.add false) v = .nan ↔
    .nan ∈ v :: ps ∨ .inf s ∈ v :: ps ∧ .inf (!s) ∈ v :: ps := by
  induction ps generalizing v with
  | nil =>
    have := special_distinct v s
    simp only [List.foldl_nil, List.mem_singleton, eq_comm (b := v)]
    tauto
  | cons w ps ih =>
    have := special_distinct v s
    have := special_distinct w s
    rw [List.foldl_cons, ih]
    simp only [List.mem_cons, eq_comm (b := v), eq_comm (b := w), eq_comm (b := v.add false w), add_eq_nan_iff s, add_eq_inf_iff,
      Bool.not_not]
    clear ih
    grind

/-- A sum of values is an infinity where that is among them, and neither NaN nor the other infinity is. -/
theorem foldl_add_eq_inf_iff {s : Bool} : ps.foldl (Val.add false) v = .inf s ↔
    .inf s ∈ v :: ps ∧ .nan ∉ v :: ps ∧ .inf (!s) ∉ v :: ps := by
  induction ps generalizing v with
  | nil =>
    have := special_distinct v s
    simp only [List.foldl_nil, List.mem_singleton, eq_comm (b := v)]
    tauto
  | cons w ps ih =>
    have := special_distinct v s
    have := special_distinct w s
    rw [List.foldl_cons, ih]
    simp only [List.mem_cons, eq_comm (b := v), eq_comm (b := w), eq_comm (b := v.add false w), add_eq_nan_iff s, add_eq_inf_iff,
      Bool.not_not]
    clear ih
    grind

/-! ### Group sums (R100, R101) -/

section GroupSum
variable {xs ys : List Val}

/-- The products of a group. -/
def products (xs ys : List Val) : List Val := (xs.zip ys).map (fun e => e.1.mul e.2)

theorem products_ne_nil (hlen : xs.length = ys.length) (hne : xs ≠ []) : products xs ys ≠ [] := by
  cases xs <;> cases ys <;> simp_all [products]

theorem mem_products : v ∈ products xs ys ↔ ∃ e ∈ xs.zip ys, e.1.mul e.2 = v := List.mem_map

theorem groupSum_eq_foldl (h : products xs ys = v :: ps) : groupSum xs ys = ps.foldl (Val.add false) v := by
  unfold products at h
  unfold groupSum
  rw [h]

theorem groupSum_eq_nan_iff (hne : products xs ys ≠ []) (s : Bool) : groupSum xs ys = .nan ↔
    (∃ e ∈ xs.zip ys, NanProduct e) ∨ (∃ e ∈ xs.zip ys, InfProduct e s) ∧ ∃ e ∈ xs.zip ys, InfProduct e (!s) := by
  obtain ⟨v, ps, h⟩ := List.exists_cons_of_ne_nil hne
  rw [groupSum_eq_foldl h, foldl_add_eq_nan_iff s, ← h]
  simp only [mem_products, mul_eq_nan_iff, mul_eq_inf_iff]

theorem groupSum_eq_inf_iff (hne : products xs ys ≠ []) (s : Bool) : groupSum xs ys = .inf s ↔
    (∃ e ∈ xs.zip ys, InfProduct e s) ∧ ∀ e ∈ xs.zip ys, ¬ NanProduct e ∧ ¬ InfProduct e (!s) := by
  obtain ⟨v, ps, h⟩ := List.exists_cons_of_ne_nil hne
  rw [groupSum_eq_foldl h, foldl_add_eq_inf_iff, ← h]
  simp only [mem_products, mul_eq_nan_iff, mul_eq_inf_iff, not_exists, not_and, forall_and]

/-- Numbers sum exactly, and to −0 where each of them is −0. -/
theorem foldl_add_numbers (h : ∀ w ∈ v :: ps, Number w) : Number (ps.foldl (Val.add false) v) ∧
    ratOf (ps.foldl (Val.add false) v) = ((v :: ps).map ratOf).sum ∧
    (NegZero (ps.foldl (Val.add false) v) ↔ ∀ w ∈ v :: ps, NegZero w) := by
  induction ps generalizing v with
  | nil => simpa using h
  | cons w ps ih =>
    obtain ⟨hv, hw, hps⟩ : Number v ∧ Number w ∧ ∀ x ∈ ps, Number x := by simpa using h
    obtain ⟨hnum, hrat, hneg⟩ := ih (v := v.add false w) (List.forall_mem_cons.mpr ⟨hv.add false hw, hps⟩)
    refine ⟨hnum, hrat.trans ?_, hneg.trans ?_⟩
    · simp only [List.map_cons, List.sum_cons, ratOf_add false hv hw, add_assoc]
    · simp only [List.forall_mem_cons, negZero_add_iff hv hw, and_assoc]

theorem groupSum_numbers (hne : products xs ys ≠ []) (h : ∀ e ∈ xs.zip ys, Number e.1 ∧ Number e.2) : Number (groupSum xs ys) ∧
    ratOf (groupSum xs ys) = ((xs.zip ys).map (fun e => ratOf e.1 * ratOf e.2)).sum ∧
    (NegZero (groupSum xs ys) ↔ ∀ e ∈ xs.zip ys, NegZero (e.1.mul e.2)) := by
  obtain ⟨v, ps, hps⟩ := List.exists_cons_of_ne_nil hne
  have hnumbers : ∀ w ∈ products xs ys, Number w := List.forall_mem_map.mpr fun e he => (h e he).1.mul (h e he).2
  have hrats : (products xs ys).map ratOf = (xs.zip ys).map (fun e => ratOf e.1 * ratOf e.2) := by
    rw [products, List.map_map]
    exact List.map_congr_left fun e he => ratOf_mul (h e he).1 (h e he).2
  rw [groupSum_eq_foldl hps]
  obtain ⟨hnum, hrat, hneg⟩ := foldl_add_numbers (hps ▸ hnumbers)
  rw [← hps, hrats] at hrat
  rw [← hps] at hneg
  exact ⟨hnum, hrat, hneg.trans List.forall_mem_map⟩

end GroupSum

/-! ### FP32 and FP64 (R102, R106) -/

theorem Number.ne_nan (h : Number v) : v ≠ .nan := by
  obtain ⟨s, n, d, rfl, -⟩ := h
  simp

theorem Number.ne_inf (h : Number v) (s : Bool) : v ≠ .inf s := by
  obtain ⟨t, n, d, rfl, -⟩ := h
  simp

/-- A step of an accumulator that rounds the sum of its old value and the group's into a format adds as `GroupSums` says. -/
theorem groupSums_of_rounded {acc : Accum} {f : Fmt} (hstep : ∀ sat flush old xs ys, stepElem acc sat flush old xs ys =
    f.assisted flush .rne ((f.value old).add false (groupSum xs ys))) : GroupSums acc f := by
  intro sat flush old xs ys hlen hne es v answers
  have hps := products_ne_nil hlen hne
  have special (w : Val) (hw : f.belowNormal w = false) (h : v.add false (groupSum xs ys) = w) : answers w := by
    show stepElem acc sat flush old xs ys = _
    rw [hstep, h, Fmt.assisted, hw]
    rfl
  have toNan := special .nan rfl
  have toInf (s : Bool) := special (.inf s) rfl
  refine ⟨?_, ?_, ?_, ?_, ?_⟩
  · rintro (hnan | hnan)
    · exact toNan ((add_eq_nan_iff false).mpr (.inr (.inl ((groupSum_eq_nan_iff hps false).mpr (.inl hnan)))))
    · exact toNan ((add_eq_nan_iff false).mpr (.inl hnan))
  · intro hneg hpos
    exact toNan ((add_eq_nan_iff false).mpr (.inr (.inl ((groupSum_eq_nan_iff hps true).mpr (.inr ⟨hneg, hpos⟩)))))
  · intro neg hinf hother
    have hsum : groupSum xs ys = .inf neg := (groupSum_eq_inf_iff hps neg).mpr ⟨hinf, hother⟩
    constructor
    · intro hv
      exact toNan ((add_eq_nan_iff neg).mpr (.inr (.inr (.inr ⟨hv, hsum⟩))))
    · rintro (hv | hv)
      · exact toInf neg (add_eq_inf_iff.mpr (by simp [hsum, hv]))
      · exact toInf neg (add_eq_inf_iff.mpr (by simp [hsum, hv.ne_nan, hv.ne_inf]))
  · intro hnumbers neg hv
    obtain ⟨hsum, -, -⟩ := groupSum_numbers hps hnumbers
    exact toInf neg (add_eq_inf_iff.mpr (by simp [hsum.ne_nan, hsum.ne_inf, hv]))
  · intro hnumbers hv
    obtain ⟨hsum, hrat, hneg⟩ := groupSum_numbers hps hnumbers
    refine ⟨v.add false (groupSum xs ys), hv.add false hsum, ?_, fun _ => ?_, hstep ..⟩
    · rw [ratOf_add false hv hsum, hrat]
    · rw [negZero_add_iff hv hsum, hneg]

/-! ### INT32 (R103) -/

/-- A value that stands for an integer, as a fraction over 1. -/
def Stands (v : Val) (a : Int) : Prop := ∃ s n, v = .fin s n 1 ∧ sgnNat s n = a

theorem Stands.ofInt (a : Int) : Stands (Val.ofInt a) a := ⟨_, _, rfl, sgnNat_natAbs a⟩

theorem Stands.mul {a b : Int} (hv : Stands v a) (hw : Stands w b) : Stands (v.mul w) (a * b) := by
  obtain ⟨s, n, rfl, rfl⟩ := hv
  obtain ⟨t, m, rfl, rfl⟩ := hw
  exact ⟨s != t, n * m, rfl, sgnNat_mul s t n m⟩

theorem Stands.add {a b : Int} (hv : Stands v a) (hw : Stands w b) : Stands (v.add false w) (a + b) := by
  obtain ⟨s, n, rfl, rfl⟩ := hv
  obtain ⟨t, m, rfl, rfl⟩ := hw
  rw [add_fin]
  simp only [Nat.cast_one, mul_one]
  split <;> rename_i h
  · exact ⟨_, 0, rfl, by rw [h]; simp [sgnNat]⟩
  · exact ⟨_, _, rfl, sgnNat_natAbs _⟩

theorem Stands.toInt {a : Int} (h : Stands v a) : v.toInt = a := by
  obtain ⟨s, n, rfl, rfl⟩ := h
  simp [Val.toInt]

theorem Stands.foldl_add {a : Int} {bs : List Int} (hv : Stands v a) (h : List.Forall₂ Stands ps bs) :
    Stands (ps.foldl (Val.add false) v) (a + bs.sum) := by
  induction h generalizing v a with
  | nil => simpa using hv
  | cons hw _ ih =>
    rw [List.foldl_cons, List.sum_cons, ← add_assoc]
    exact ih (hv.add hw)

/-- The products of integers stand for the products of the integers. -/
theorem products_ofInt (xs ys : List Int) :
    List.Forall₂ Stands (products (xs.map Val.ofInt) (ys.map Val.ofInt)) ((xs.zip ys).map (fun v => v.1 * v.2)) := by
  induction xs generalizing ys with
  | nil => exact .nil
  | cons x xs ih =>
    cases ys with
    | nil => exact .nil
    | cons y ys => exact .cons ((Stands.ofInt x).mul (.ofInt y)) (ih ys)

theorem groupSum_ofInt (xs ys : List Int) :
    (groupSum (xs.map Val.ofInt) (ys.map Val.ofInt)).toInt = ((xs.zip ys).map (fun v => v.1 * v.2)).sum := by
  have h := products_ofInt xs ys
  generalize hps : products (xs.map Val.ofInt) (ys.map Val.ofInt) = ps at h
  generalize (xs.zip ys).map (fun v => v.1 * v.2) = bs at h ⊢
  cases h with
  | nil =>
    unfold products at hps
    rw [groupSum, hps]
    rfl
  | cons hv hvs =>
    rw [groupSum_eq_foldl hps, List.sum_cons]
    exact (hv.foldl_add hvs).toInt

theorem signedOf_wrapInt (e : Int) : signedOf (wrapInt e 32) 32 = (e + 2 ^ 31) % 2 ^ 32 - 2 ^ 31 := by
  unfold signedOf wrapInt
  split <;> omega

theorem integer_steps : IntegerStepsAreExact := by
  intro sat flush old xs ys _ _ e
  refine ⟨rfl, ?_⟩
  show signedOf (if sat then wrapInt (max (-(2 ^ 31 : Nat)) (min (2 ^ 31 - 1 : Nat)
    (signedOf old 32 + (groupSum (xs.map Val.ofInt) (ys.map Val.ofInt)).toInt))) 32 else wrapInt _ 32) 32 = _
  rw [groupSum_ofInt]
  cases sat
  · exact signedOf_wrapInt e
  · refine (signedOf_wrapInt _).trans ?_
    simp only [if_true]
    omega

/-- Settles O19: INT32 by fractions over 1 (`groupSum_ofInt`), FP32 and FP64 by what the sum of the group is (`groupSums_of_rounded`). -/
theorem integerStepsAreExact : Obligations.IntegerStepsAreExact :=
  ⟨integer_steps, groupSums_of_rounded fun _ _ _ _ _ => rfl, groupSums_of_rounded fun _ _ _ _ _ => rfl⟩

end Sys2Proof.Claims
end

section
/-!
# A K-group step on a tile of the accumulator store (R100, R256, R268)

The elements of a tile lie apart in the store (`Parcel.Apart`), so a step that runs over them writes each from its own old value and
leaves the rest of the store alone, whatever their order (`stepped_foldl`).
-/

namespace Sys2Proof.Machine

variable {p q : Parcel} {slot size : Nat}

/-! ### Elements (R268) -/

theorem Mem.nat_congr {m m' : Mem} {a n : Nat} (h : ∀ x, a ≤ x → x < a + n → Mem.byte m x = Mem.byte m' x) :
    Mem.nat m a n = Mem.nat m' a n := by
  unfold Mem.nat Mem.read
  exact congrArg leNat (List.map_congr_left fun i hi => h _ (by omega) (by have := List.mem_range.mp hi; omega))

theorem Mem.byte_setNat_outside {m : Mem} {a n v x : Nat} (h : x < a ∨ a + n ≤ x) : Mem.byte (Mem.setNat m a n v) x = Mem.byte m x :=
  Mem.byte_write_outside _ (by rwa [leBytes_length])

/-- The first byte of an element in the accumulator store. -/
def Parcel.elemAt (p : Parcel) (slot size : Nat) (c : Nat × Nat) : Nat :=
  65536 * (p.elemPlace slot size c.1 c.2).1 + (p.elemPlace slot size c.1 c.2).2

theorem Parcel.elem_eq_nat (p : Parcel) (slot size : Nat) (c : Nat × Nat) :
    p.elem slot size c.1 c.2 = Mem.nat p.acc (p.elemAt slot size c) size := rfl

theorem Parcel.elemAt_congr (h : q.names = p.names) (c : Nat × Nat) : q.elemAt slot size c = p.elemAt slot size c := by
  simp only [Parcel.elemAt, Parcel.elemPlace, Parcel.position, h]

/-- The indices of an element of a tile of at most 128 × 128. -/
def InTile (c : Nat × Nat) : Prop := c.1 < 128 ∧ c.2 < 128

/-- A byte lies outside an element. -/
def Parcel.OutsideElem (p : Parcel) (slot size : Nat) (c : Nat × Nat) (a : Nat) : Prop :=
  a < p.elemAt slot size c ∨ p.elemAt slot size c + size ≤ a

/-- Different elements of a tile have no byte in common. -/
def Parcel.Apart (p : Parcel) (slot size : Nat) : Prop := ∀ c d, InTile c → InTile d → c ≠ d →
  ∀ a, p.elemAt slot size c ≤ a → a < p.elemAt slot size c + size → p.OutsideElem slot size d a

/-- The elements of a tile of one slot lie apart, and those of a pair of slots at different positions. -/
theorem Parcel.apart_of_size (h : size = 4 ∨ size = 8 ∧ p.position slot ≠ p.position (slot + 1)) : p.Apart slot size := by
  rintro ⟨i, j⟩ ⟨k, l⟩ ⟨hi, hj⟩ ⟨hk, hl⟩ hne a hlo hhi
  have hindex : 128 * i + j ≠ 128 * k + l := by
    intro e
    simp only at hi hj hk hl
    exact hne (Prod.ext (by omega) (by omega))
  simp only [Parcel.OutsideElem, Parcel.elemAt, Parcel.elemPlace] at hlo hhi hi hj hk hl ⊢
  have hx : 128 * i + j < 16384 := by omega
  have hy : 128 * k + l < 16384 := by omega
  generalize 128 * i + j = x at *
  generalize 128 * k + l = y at *
  rcases h with rfl | ⟨rfl, hpos⟩
  · rw [show 4 * x / 65536 = 0 by omega] at hlo hhi
    rw [show 4 * y / 65536 = 0 by omega]
    omega
  · obtain hx | hx : 8 * x / 65536 = 0 ∨ 8 * x / 65536 = 1 := by omega
    all_goals
      obtain hy | hy : 8 * y / 65536 = 0 ∨ 8 * y / 65536 = 1 := by omega
      all_goals
        rw [hx] at hlo hhi
        rw [hy]
        rw [Nat.add_zero] at *
        generalize p.position slot = P at *
        generalize p.position (slot + 1) = Q at *
        omega

/-! ### A run over elements -/

/-- One element of a step: its pattern becomes `(f c old).1`, and the step needs the signal box where `(f c old).2` says so. -/
def elementStep (slot size : Nat) (f : Nat × Nat → Nat → Nat × Bool) (r : Parcel × Bool) (c : Nat × Nat) : Parcel × Bool :=
  let e := f c (r.1.elem slot size c.1 c.2)
  (r.1.setElem slot size c.1 c.2 e.1, r.2 || e.2)

/-- What a run over the elements `cs` leaves of a parcel, and whether one of them needs the signal box. -/
structure Stepped (slot size : Nat) (f : Nat × Nat → Nat → Nat × Bool) (cs : List (Nat × Nat)) (p : Parcel) (r : Parcel × Bool) :
    Prop where
  frame : r.1 = { p with acc := r.1.acc }
  elems : ∀ c ∈ cs, r.1.elem slot size c.1 c.2 = (f c (p.elem slot size c.1 c.2)).1 % 256 ^ size
  outside : ∀ a, (∀ c ∈ cs, p.OutsideElem slot size c a) → Mem.byte r.1.acc a = Mem.byte p.acc a
  box : r.2 = true ↔ ∃ c ∈ cs, (f c (p.elem slot size c.1 c.2)).2 = true

/-- Writing an element leaves the others alone. -/
theorem Parcel.elem_setElem_other (h : p.Apart slot size) {c d : Nat × Nat} (hc : InTile c) (hd : InTile d) (hne : c ≠ d) (v : Nat) :
    (p.setElem slot size d.1 d.2 v).elem slot size c.1 c.2 = p.elem slot size c.1 c.2 :=
  Mem.nat_congr fun a hlo hhi => Mem.byte_setNat_outside (h c d hc hd hne a hlo hhi)

theorem Parcel.elem_setElem_same (c : Nat × Nat) (v : Nat) :
    (p.setElem slot size c.1 c.2 v).elem slot size c.1 c.2 = v % 256 ^ size := Mem.nat_setNat_same

/-- A run over different elements that lie apart writes each from its own old value. -/
theorem stepped_foldl {f : Nat × Nat → Nat → Nat × Bool} : ∀ {cs : List (Nat × Nat)} {p : Parcel}, p.Apart slot size → cs.Nodup →
    (∀ c ∈ cs, InTile c) → ∀ assist, ∃ r, cs.foldl (elementStep slot size f) (p, assist) = (r.1, assist || r.2) ∧
      Stepped slot size f cs p r := by
  intro cs
  induction cs with
  | nil => exact fun _ _ _ assist => ⟨(_, false), by simp, rfl, by simp, fun _ _ => rfl, by simp⟩
  | cons c cs ih =>
    intro p hp hnodup hin assist
    obtain ⟨hc, hcs⟩ := List.forall_mem_cons.mp hin
    obtain ⟨hnot, hnodup⟩ := List.nodup_cons.mp hnodup
    let e := f c (p.elem slot size c.1 c.2)
    let p1 := p.setElem slot size c.1 c.2 e.1
    obtain ⟨r, hr, hframe, helems, houtside, hbox⟩ := ih (p := p1) hp hnodup hcs (assist || e.2)
    have hother : ∀ d ∈ cs, p1.elem slot size d.1 d.2 = p.elem slot size d.1 d.2 := fun d hd =>
      Parcel.elem_setElem_other hp (hcs d hd) hc (fun hdc => hnot (hdc ▸ hd)) e.1
    have hnames : r.1.names = p.names := by rw [hframe]; rfl
    have hfirst : r.1.elem slot size c.1 c.2 = e.1 % 256 ^ size := by
      rw [← Parcel.elem_setElem_same (p := p) c e.1, Parcel.elem_eq_nat, Parcel.elem_eq_nat, Parcel.elemAt_congr hnames]
      exact Mem.nat_congr fun a hlo hhi => houtside a fun d hd => hp c d hc (hcs d hd) (fun hcd => hnot (hcd ▸ hd)) a hlo hhi
    refine ⟨(r.1, e.2 || r.2), ?_, ?_, ?_, ?_, ?_⟩
    · rw [List.foldl_cons, ← Bool.or_assoc]
      exact hr
    · rw [hframe]
      rfl
    · rintro d (_ | ⟨_, hd⟩)
      · exact hfirst
      · rw [← hother d hd]
        exact helems d hd
    · intro a ha
      obtain ⟨hac, hacs⟩ := List.forall_mem_cons.mp ha
      exact (houtside a hacs).trans (Mem.byte_setNat_outside hac)
    · rw [Bool.or_eq_true, hbox, List.exists_mem_cons_iff]
      exact or_congr_right (exists_congr fun d => and_congr_right fun hd => by rw [hother d hd])

/-! ### A step of a tile -/

theorem foldl_product {α β γ : Type} (g : γ → α × β → γ) (as : List α) (bs : List β) (r : γ) :
    (as ×ˢ bs).foldl g r = as.foldl (fun r a => bs.foldl (fun r b => g r (a, b)) r) r := by
  induction as generalizing r with
  | nil => rfl
  | cons a as ih => rw [List.product_cons, List.foldl_append, List.foldl_map, ih, List.foldl_cons]

/-- A step of a tile is a run over its elements, row by row. -/
theorem tileStep_eq_foldl (p : Parcel) (b : BitVec 512) (slot : Nat) (flush fresh : Bool) (rows cols : Nat → List Val) (m n : Nat) :
    tileStep p b slot flush fresh ((List.range m).map rows) ((List.range n).map cols) =
      (List.range m ×ˢ List.range n).foldl (elementStep slot (mmaSize b) fun c old =>
        stepElem (mmaAccum b) (mmaSat b) flush (if fresh then 0 else old) (rows c.1) (cols c.2)) (p, false) := by
  have pair (g : Nat → List Val) (k : Nat) : ((List.range k).map g).zip (List.range ((List.range k).map g).length) =
      (List.range k).map fun i => (g i, i) := by
    apply List.ext_getElem <;> simp
  unfold tileStep
  rw [pair, pair, foldl_product]
  simp only [List.foldl_map]
  rfl

end Sys2Proof.Machine

namespace Sys2Proof.Claims
open Machine

variable {p q : Parcel} {b : BitVec 512} {ca cb : QWord} {slot : Nat} {wa wb : BitVec 256} {r : MatrixReq}

/-- The tile of `p` after the next step of the request `r`, and whether the step needs the signal box. -/
def steppedTile (p : Parcel) (b : BitVec 512) (ca cb : QWord) (slot : Nat) (wa wb : BitVec 256) (r : MatrixReq) : Parcel × Bool :=
  tileStep p b slot (rsvFlush wa) (mmaOvw b && r.step == 0)
    ((List.range (mmaM b)).map (groupOf r 0 (mmaA b) ca wa (mmaG b))) ((List.range (mmaN b)).map (groupOf r 1 (mmaB b) cb wb (mmaG b)))

theorem stepResult_eq {s : State} {ka kb : PKey} {va vb : Reservation} (hop : r.op.mma? = some (b, ca, cb, slot))
    (ha : s.operandOf r.key (mmaA b) = some (ka, va)) (hb : s.operandOf r.key (mmaB b) = some (kb, vb)) :
    s.stepResult r = steppedTile (s.parcel r.key) b ca cb slot va.word vb.word r := by
  unfold State.stepResult
  simp only [hop, ha, hb]
  rfl

theorem apart_of_places (h : mmaPair b = true → p.position slot ≠ p.position (slot + 1)) : p.Apart slot (mmaSize b) := by
  apply Parcel.apart_of_size
  unfold mmaSize
  split <;> rename_i hpair
  · exact .inr ⟨rfl, h hpair⟩
  · exact .inl rfl

/-- What a step of a tile does, and when it needs the signal box. -/
structure StepsTile (p : Parcel) (b : BitVec 512) (ca cb : QWord) (slot : Nat) (wa wb : BitVec 256) (r : MatrixReq) (q : Parcel × Bool) :
    Prop where
  frame : q.1 = { p with acc := q.1.acc }
  tile : TileStepped p q.1 b ca cb slot wa wb r
  box : q.2 = true ↔ Assists p b ca cb slot wa wb r

theorem steppedTile_steps (hsizes : mmaM b ≤ 128 ∧ mmaN b ≤ 128) (hplaces : mmaPair b = true → p.position slot ≠ p.position (slot + 1)) :
    StepsTile p b ca cb slot wa wb r (steppedTile p b ca cb slot wa wb r) := by
  let element (c : Nat × Nat) (old : Nat) : Nat × Bool := stepElem (mmaAccum b) (mmaSat b) (rsvFlush wa)
    (if (mmaOvw b && r.step == 0) = true then 0 else old) (groupOf r 0 (mmaA b) ca wa (mmaG b) c.1) (groupOf r 1 (mmaB b) cb wb (mmaG b) c.2)
  have helement (c : Nat × Nat) : element c (p.elem slot (mmaSize b) c.1 c.2) = elementAfter p b ca cb slot wa wb r c.1 c.2 := by
    simp only [element, elementAfter, Bool.and_eq_true, beq_iff_eq]
  have hmem (c : Nat × Nat) : c ∈ List.range (mmaM b) ×ˢ List.range (mmaN b) ↔ c.1 < mmaM b ∧ c.2 < mmaN b := by
    rw [List.mem_product, List.mem_range, List.mem_range]
  obtain ⟨q, hq, hframe, helems, houtside, hbox⟩ := stepped_foldl (f := element) (apart_of_places hplaces)
    (List.nodup_range.product List.nodup_range) (fun c hc => by
      obtain ⟨hi, hj⟩ := (hmem c).mp hc
      exact ⟨by omega, by omega⟩) false
  have heq : steppedTile p b ca cb slot wa wb r = q := by
    unfold steppedTile
    rw [tileStep_eq_foldl]
    exact hq.trans (by rw [Bool.false_or])
  rw [heq]
  refine ⟨hframe, ⟨fun i hi j hj => ?_, fun a ha => ?_⟩, hbox.trans ?_⟩
  · rw [← helement (i, j)]
    exact helems (i, j) ((hmem _).mpr ⟨hi, hj⟩)
  · exact houtside a fun c hc => ha c.1 ((hmem c).mp hc).1 c.2 ((hmem c).mp hc).2
  · simp only [helement, hmem, Prod.exists, Assists, and_assoc, exists_and_left]

/-- What a step has done to a tile depends on the names and the accumulator store alone. -/
theorem TileStepped.congr {p' : Parcel} (h : TileStepped p q b ca cb slot wa wb r) (hnames : p'.names = q.names) (hacc : p'.acc = q.acc) :
    TileStepped p p' b ca cb slot wa wb r := by
  obtain ⟨helems, houtside⟩ := h
  refine ⟨fun i hi j hj => ?_, fun a ha => ?_⟩
  · rw [← helems i hi j hj]
    exact congrArg₂ (fun m x => Mem.nat m x (mmaSize b)) hacc (Parcel.elemAt_congr hnames (i, j))
  · rw [hacc]
    exact houtside a ha

end Sys2Proof.Claims
end

section
/-!
# Reading the chunks of a K-group step (R259, R264)

A step notes its reads of other cores' operands and reads what chunks it lacks, through the object table where the operand lies in an
object. Of the parcels, the clock and the cores only the notes of operand reads change (`State.KeepsWork`), and the request gains
chunks and nothing else.
-/

namespace Sys2Proof.Machine

variable {s u v : State} {core : Nat} {r : MatrixReq}

/-- What the cores work on is kept: the parcels, the clock and, but for the notes of operand reads, the cores. -/
structure State.KeepsWork (s u : State) : Prop where
  parcels : u.parcels = s.parcels
  clk : u.clk = s.clk
  cores : ∀ n, { u.core n with opdReads := [] } = { s.core n with opdReads := [] }

namespace State.KeepsWork

theorem refl (s : State) : s.KeepsWork s := ⟨rfl, rfl, fun _ => rfl⟩

theorem trans (h : s.KeepsWork u) (h' : u.KeepsWork v) : s.KeepsWork v :=
  ⟨h'.parcels.trans h.parcels, h'.clk.trans h.clk, fun n => (h'.cores n).trans (h.cores n)⟩

theorem of_cores_eq (hp : u.parcels = s.parcels) (hclk : u.clk = s.clk) (hc : u.cores = s.cores) : s.KeepsWork u :=
  ⟨hp, hclk, fun n => by rw [State.core_congr hc]⟩

theorem of_records (h : s.OnlyRecords u) : s.KeepsWork u := by
  rw [h]
  exact of_cores_eq rfl rfl rfl

theorem matrix (h : s.KeepsWork u) (n : Nat) : (u.core n).matrix = (s.core n).matrix := by
  have := congrArg Core.matrix (h.cores n)
  exact this

theorem fst_of_eq {β : Type} {x : State × β} {b : β} (h : s.KeepsWork x.1) (e : x = (u, b)) : s.KeepsWork u := by
  rw [e] at h
  exact h

/-! ### Reads of memory (R218, R424) -/

theorem charge {ctx a n : Nat} {t : Tier} : s.KeepsWork (s.charge ctx t a n) := by
  unfold State.charge
  split
  · split
    · exact refl s
    · unfold State.rolled
      split <;> exact of_cores_eq rfl rfl rfl
  · exact refl s

theorem touch {a n : Nat} {t : Tier} : s.KeepsWork (s.touch t a n) := by
  unfold State.touch
  split
  · split <;> exact of_cores_eq rfl rfl rfl
  · exact refl s

theorem readTier {ctx a n : Nat} {t : Tier} : s.KeepsWork (s.readTier ctx t a n).1 := by
  have h : s.KeepsWork (((s.verifyAll t a n).1.charge ctx t a n).touch t a n) :=
    ((of_records .verifyAll).trans charge).trans touch
  unfold State.readTier
  dsimp only
  split <;> exact h

theorem route {die unit : Nat} {o : OKey} : s.KeepsWork (s.route die o unit).1 := by
  unfold State.route
  split
  · exact refl s
  · split
    · exact refl s
    · split
      · exact refl s
      · exact of_cores_eq rfl rfl rfl

theorem readObject {die a n : Nat} {o : OKey} : s.KeepsWork (s.readObject die o a n).1 := by
  unfold State.readObject
  split
  · exact refl s
  · refine List.foldlRecOn (motive := fun x : State × Except Nat (List Byte) => s.KeepsWork x.1) _ _ (refl s) fun x hx piece _ => ?_
    obtain ⟨w, e | bs⟩ := x
    · exact hx
    · have hroute := hx.trans (route (s := w) (die := die) (o := o) (unit := piece.1 / 65536))
      dsimp only
      split
      · exact hroute
      · split
        · exact hroute
        · split <;> rename_i hread <;> exact hroute.trans (readTier.fst_of_eq hread)

theorem dataError {who : Issuer} {engine obj a n code : Nat} : s.KeepsWork (s.dataError who engine obj a n code) := by
  unfold State.dataError
  split
  · exact of_records .faultRecord
  · exact refl s

theorem readChunk {d : DWord} {cap : QWord} {c : Nat} : s.KeepsWork (s.readChunk r d cap c).1 := by
  unfold State.readChunk
  split
  · dsimp only
    split
    · rename_i hread
      exact (readObject.fst_of_eq hread).trans dataError
    · exact readObject
  · split <;> exact refl s

/-! ### Notes of reads (R259) -/

theorem modCore_opdReads {n : Nat} {f : List OpdRead → List OpdRead} :
    s.KeepsWork (s.modCore n fun c => { c with opdReads := f c.opdReads }) := by
  refine ⟨rfl, rfl, fun m => ?_⟩
  by_cases h : m = n
  · subst h
    rw [State.core_modCore_same]
  · rw [State.core_modCore_other h]

theorem count {ctx n k : Nat} : s.KeepsWork (s.count ctx n k) := by
  unfold State.count
  split
  · exact refl s
  · exact of_cores_eq rfl rfl rfl

theorem shareRead {e : OpdRead} : s.KeepsWork (s.shareRead core e).1 := by
  unfold State.shareRead
  extract_lets mates shared fresh mark w
  refine trans ?_ (modCore_opdReads (f := fun l => l ++ [{ e with sent := shared }]))
  show s.KeepsWork (if _ then _ else _)
  split
  · exact refl s
  · exact List.foldlRecOn (motive := fun x : State => s.KeepsWork x) _ _ (refl s) fun x hx n _ => hx.trans modCore_opdReads

theorem shareReads {k : Nat} : s.KeepsWork (s.shareReads core r k) := by
  unfold State.shareReads
  extract_lets w missing
  exact List.foldlRecOn (motive := fun x : State => s.KeepsWork x) _ _ modCore_opdReads fun x hx d _ =>
    hx.trans (shareRead.trans count)

/-! ### The operands of a request -/

theorem parcel?_eq (h : s.KeepsWork u) (k : PKey) : u.parcel? k = s.parcel? k := State.parcel?_congr h.parcels k

theorem operandOf_eq (h : s.KeepsWork u) (k : PKey) (d : DWord) : u.operandOf k d = s.operandOf k d := by
  simp only [State.operandOf, State.residents, State.coreOf, State.parcel, State.parcel?, h.parcels]

end State.KeepsWork

/-- A request has read chunks, and has not changed otherwise. -/
def MatrixReq.Gained (r q : MatrixReq) : Prop := q = { r with chunks := q.chunks }

/-- A step that reads its chunks gains them, and leaves the rest of the request alone. -/
theorem State.fetchChunks_reads (s : State) (r : MatrixReq) :
    s.KeepsWork (s.fetchChunks r).1 ∧ ∀ q, (s.fetchChunks r).2 = .ok q → r.Gained q := by
  unfold State.fetchChunks
  refine List.foldlRecOn (motive := fun x : State × Except Nat MatrixReq => s.KeepsWork x.1 ∧ ∀ q, x.2 = .ok q → r.Gained q) _ _
    ⟨.refl s, fun q hq => by cases hq; rfl⟩ fun x hx c _ => ?_
  obtain ⟨w, e | q⟩ := x
  · exact hx
  · obtain ⟨hreads, hgained⟩ := hx
    have hq : r.Gained q := hgained q rfl
    dsimp only
    split <;> rename_i hread
    · exact ⟨hreads.trans (State.KeepsWork.readChunk.fst_of_eq hread), fun _ h => by cases h⟩
    · refine ⟨hreads.trans (State.KeepsWork.readChunk.fst_of_eq hread), fun q' hq' => ?_⟩
      cases hq'
      rw [MatrixReq.Gained, hq]

end Sys2Proof.Machine
end

section
/-!
# Group steps and the signal box (R100, R106, R256)

A step that needs no signal box writes its tile and moves its request on (`State.applyStep`); one that does leaves the tile alone until
SUBNORMAL_ASSIST. Both are followed by the re-evaluation of the core's waits, which touches neither.
-/

namespace Sys2Proof.Machine

variable {s : State} {core : Nat} {k : PKey} {p q : Parcel} {r r' : MatrixReq} {rest : List MatrixReq}

/-! ### The head of matrix order -/

theorem Core.modHead_matrix {c : Core} (h : c.matrix = r :: rest) (f : MatrixReq → MatrixReq) : (c.modHead f).matrix = f r :: rest := by
  unfold Core.modHead
  rw [h]

/-- The parcel `q` in the place of `p`. -/
def Parcel.replaced (q p : Parcel) : Parcel := { q with key := p.key }

theorem Parcel.replaced_eq (h : q.key = p.key) : q.replaced p = q := by
  unfold Parcel.replaced
  rw [← h]

/-- A parcel that takes the place of another of its key. -/
theorem State.parcel?_modParcel_const (hp : s.parcel? k = some p) (hq : q.key = k) :
    (s.modParcel k fun _ => q).parcel? k = some q := by
  have same : s.modParcel k (fun _ => q) = s.modParcel k q.replaced := by
    unfold State.modParcel
    congr 2
    funext x
    split
    · rename_i h
      exact (Parcel.replaced_eq (hq.trans h.symm)).symm
    · rfl
  rw [same, State.parcel?_modParcel (f := q.replaced) fun _ => rfl, hp, Option.map_some,
    Parcel.replaced_eq (hq.trans (State.parcel?_key hp).symm)]

/-- Where the first request of a core stands, and how its run does. -/
def State.HeadIs (s : State) (core : Nat) (r : MatrixReq) (rest : List MatrixReq) (run : MatrixRun) : Prop :=
  (s.core core).matrix = r :: rest ∧ (s.core core).run = some run

theorem State.HeadIs.refresh {run : MatrixRun} (h : s.HeadIs core r rest run) : (s.refresh core).HeadIs core r rest run := by
  obtain ⟨es, he⟩ := State.refresh_core (s := s) (core := core) core
  obtain ⟨hmatrix, hrun⟩ := h
  exact ⟨by rw [he]; exact hmatrix, by rw [he]; exact hrun⟩

/-- What the re-evaluation of waits keeps of a parcel's stores and of the records of its slots. -/
theorem State.refresh_stores (h : s.parcel? k = some p) : ∃ p', (s.refresh core).parcel? k = some p' ∧ p'.acc = p.acc ∧
    p'.names = p.names ∧ p'.spad = p.spad ∧ p'.shadows = p.shadows := by
  obtain ⟨p', hp', hkept⟩ := State.refresh_parcel (core := core) h
  exact ⟨p', hp', by rw [← hkept], by rw [← hkept], by rw [← hkept], by rw [← hkept]⟩

/-! ### The effect of a step -/

theorem State.applyStep_parcel? (hp : s.parcel? r.key = some p) (hkey : (s.stepResult r).1.key = r.key) :
    (s.applyStep core r).parcel? r.key = some (s.stepResult r).1 := State.parcel?_modParcel_const hp hkey

theorem State.applyStep_head (hm : (s.core core).matrix = r :: rest) :
    (s.applyStep core r').HeadIs core { r with step := r'.step + 1, chunks := r'.chunks } rest ⟨false, s.clk⟩ := by
  unfold State.HeadIs State.applyStep
  rw [State.core_modCore_same]
  exact ⟨Core.modHead_matrix (c := s.core core) hm _, rfl⟩

/-- The state of a step that waits for the signal box: the assist is counted and the head keeps the chunks it has read. -/
def State.awaitBox (s : State) (core : Nat) (r : MatrixReq) : State :=
  (s.count r.key.ctx 0x014 1).modCore core (fun c =>
    { c.modHead (fun q => { q with chunks := r.chunks }) with run := some ⟨true, s.clk⟩ })

theorem State.awaitBox_head (hm : (s.core core).matrix = r :: rest) :
    (s.awaitBox core r').HeadIs core { r with chunks := r'.chunks } rest ⟨true, s.clk⟩ := by
  unfold State.HeadIs State.awaitBox
  rw [State.core_modCore_same]
  exact ⟨Core.modHead_matrix (c := (s.count r'.key.ctx 0x014 1).core core) ((State.KeepsWork.count.matrix core).trans hm) _, rfl⟩

end Sys2Proof.Machine

namespace Sys2Proof.Claims
open Machine

variable {s s1 : State} {core : Nat} {r r' : MatrixReq} {rest : List MatrixReq} {p : Parcel} {b : BitVec 512} {ca cb : QWord}
  {slot k : Nat} {wa wb : BitVec 256}

theorem StepsTile.key {q : Parcel × Bool} (h : StepsTile p b ca cb slot wa wb r q) : q.1.key = p.key := by
  rw [h.frame]

/-! ### MATRIX_GROUP_STEP -/

theorem StepReady.exec_eq (h : StepReady s core r r' rest p b ca cb slot wa wb k s1) : exec (.matrixGroupStep core) s =
    .next ((if (s1.stepResult r').2 then s1.awaitBox core r' else s1.applyStep core r').refresh core) := by
  have hsteps : r.step < r.op.steps := by
    rw [MatrixOp.steps, h.op]
    exact h.left
  have hstep : s.groupStep core r k = if (s1.stepResult r').2 then s1.awaitBox core r' else s1.applyStep core r' := by
    unfold State.groupStep
    simp only [h.fetched]
    rfl
  show execMatrixGroupStep core s = _
  simp [execMatrixGroupStep, h.run, h.order, h.on, h.op, hsteps, h.held, hstep]

/-- What a step that has read its chunks finds: the parcel, the head of matrix order and the step's result. -/
theorem StepReady.read (h : StepReady s core r r' rest p b ca cb slot wa wb k s1) :
    s.KeepsWork s1 ∧ r.Gained r' ∧ s1.stepResult r' = steppedTile p b ca cb slot wa wb r' := by
  obtain ⟨hfetch, hgained⟩ := State.fetchChunks_reads (s.shareReads core r k) r
  rw [h.fetched] at hfetch hgained
  have hreads : s.KeepsWork s1 := State.KeepsWork.shareReads.trans hfetch
  have hgain : r.Gained r' := hgained r' rfl
  have hop : r'.op.mma? = some (b, ca, cb, slot) := by rw [hgain]; exact h.op
  have hkey : r'.key = r.key := by rw [hgain]
  obtain ⟨ka, va, ha, rfl⟩ := h.opA
  obtain ⟨kb, vb, hb, rfl⟩ := h.opB
  have hp : s1.parcel r.key = p := State.parcel_eq ((hreads.parcel?_eq r.key).trans h.parcel)
  refine ⟨hreads, hgain, ?_⟩
  rw [← hp, ← hkey]
  exact stepResult_eq hop (by rw [hkey, hreads.operandOf_eq, ha]) (by rw [hkey, hreads.operandOf_eq, hb])

theorem groupStep_steps (h : StepReady s core r r' rest p b ca cb slot wa wb k s1) (hbox : ¬ Assists p b ca cb slot wa wb r') :
    ∃ u p', exec (.matrixGroupStep core) s = .next u ∧ u.parcel? r.key = some p' ∧
      TileStepped p p' b ca cb slot wa wb r' ∧ (u.core core).matrix = { r with step := r.step + 1, chunks := r'.chunks } :: rest ∧
      (u.core core).run = some ⟨false, s.clk⟩ ∧ p'.names = p.names ∧ p'.spad = p.spad ∧ p'.shadows = p.shadows := by
  obtain ⟨hreads, hgain, hresult⟩ := h.read
  have hsteps := steppedTile_steps (ca := ca) (cb := cb) (wa := wa) (wb := wb) (r := r') h.sizes h.places
  rw [← hresult] at hsteps
  have hpkey := hsteps.key
  obtain ⟨hframe, htile, hassist⟩ := hsteps
  have hkey : r'.key = r.key := by rw [hgain]
  have hstep : r'.step = r.step := by rw [hgain]
  have hp1 : s1.parcel? r'.key = some p := by rw [hkey, hreads.parcel?_eq, h.parcel]
  obtain ⟨p', hp', hacc, hnames, hspad, hshadows⟩ :=
    State.refresh_stores (core := core) (State.applyStep_parcel? (core := core) hp1 (hpkey.trans (State.parcel?_key hp1)))
  obtain ⟨hmatrix, hrun⟩ := (State.applyStep_head (r' := r') ((hreads.matrix core).trans h.order)).refresh
  have hnext := h.exec_eq
  rw [if_neg (by rw [hassist]; exact hbox)] at hnext
  rw [hstep] at hmatrix
  rw [hreads.clk] at hrun
  rw [hkey] at hp'
  exact ⟨_, p', hnext, hp', htile.congr hnames hacc, hmatrix, hrun, by rw [hnames, hframe], by rw [hspad, hframe],
    by rw [hshadows, hframe]⟩

theorem groupStep_waits (h : StepReady s core r r' rest p b ca cb slot wa wb k s1) (hbox : Assists p b ca cb slot wa wb r') :
    ∃ u, exec (.matrixGroupStep core) s = .next u ∧ (u.parcel? r.key).map (·.acc) = some p.acc ∧
      (u.core core).matrix = { r with chunks := r'.chunks } :: rest ∧ (u.core core).run = some ⟨true, s.clk⟩ := by
  obtain ⟨hreads, -, hresult⟩ := h.read
  have hassist : (s1.stepResult r').2 = true := by
    rw [hresult]
    exact (steppedTile_steps h.sizes h.places).box.mpr hbox
  have hp1 : (s1.awaitBox core r').parcel? r.key = some p :=
    (State.KeepsWork.count.parcel?_eq r.key).trans ((hreads.parcel?_eq r.key).trans h.parcel)
  obtain ⟨p', hp', hacc, -⟩ := State.refresh_stores (core := core) hp1
  obtain ⟨hmatrix, hrun⟩ := (State.awaitBox_head (r' := r') ((hreads.matrix core).trans h.order)).refresh
  have hnext := h.exec_eq
  rw [if_pos hassist] at hnext
  rw [hreads.clk] at hrun
  exact ⟨_, hnext, by rw [hp', Option.map_some, hacc], hmatrix, hrun⟩

/-! ### SUBNORMAL_ASSIST -/

theorem AwaitsBox.exec_assist (h : AwaitsBox s core r rest) (hop : r.op.mma? = some (b, ca, cb, slot)) :
    exec (.subnormalAssist core) s = .next ((s.applyStep core r).refresh core) := by
  obtain ⟨horder, ⟨k, hrun⟩, -⟩ := h
  show execSubnormalAssist core s = _
  unfold execSubnormalAssist
  simp only [horder, hrun]
  generalize hr : r.op = o at hop
  cases o <;> first | rfl | cases hop

theorem subnormalAssist_steps (h : AwaitsBox s core r rest) (hp : s.parcel? r.key = some p) (hop : r.op.mma? = some (b, ca, cb, slot))
    {ka kb : PKey} {va vb : Reservation} (ha : s.operandOf r.key (mmaA b) = some (ka, va)) (hb : s.operandOf r.key (mmaB b) = some (kb, vb))
    (hsizes : mmaM b ≤ 128 ∧ mmaN b ≤ 128) (hplaces : mmaPair b = true → p.position slot ≠ p.position (slot + 1)) :
    ∃ u p', exec (.subnormalAssist core) s = .next u ∧ u.parcel? r.key = some p' ∧
      TileStepped p p' b ca cb slot va.word vb.word r ∧ (u.core core).matrix = { r with step := r.step + 1 } :: rest ∧
      (u.core core).run = some ⟨false, s.clk⟩ := by
  have hresult := stepResult_eq hop ha hb
  rw [State.parcel_eq hp] at hresult
  have hsteps := steppedTile_steps (ca := ca) (cb := cb) (wa := va.word) (wb := vb.word) (r := r) hsizes hplaces
  rw [← hresult] at hsteps
  have hkey : (s.stepResult r).1.key = r.key := hsteps.key.trans (State.parcel?_key hp)
  obtain ⟨p', hp', hacc, hnames, -⟩ := State.refresh_stores (core := core) (State.applyStep_parcel? (core := core) hp hkey)
  obtain ⟨hmatrix, hrun⟩ := (State.applyStep_head (r' := r) h.order).refresh
  exact ⟨_, p', h.exec_assist hop, hp', hsteps.tile.congr hnames hacc, hmatrix, hrun⟩

end Sys2Proof.Claims
end

section
/-!
# Counts at a barrier (R199 to R201)

A barrier object is written as one number of 16 bytes and read back field by field (`Parcel.barrier_setBarrier`). A count of bytes
changes the barrier, the record of its granule and the sums of a phase that completes, and nothing else of the parcels and cores.
-/

namespace Sys2Proof.Machine

variable {s : State} {k : PKey} {p q : Parcel} {b : Barrier} {off n : Nat} {err : Word}

/-! ### The bytes of a barrier object (R199) -/

theorem shiftLeft_lor_of_lt {a x i : Nat} (h : x < 2 ^ i) : a <<< i ||| x = a * 2 ^ i + x := by
  rw [← Nat.shiftLeft_add_eq_or_of_lt h, Nat.shiftLeft_eq]

/-- The values that the fields of a barrier object hold. -/
structure Barrier.InRange (b : Barrier) : Prop where
  low : -2 ^ 31 ≤ b.bytes
  high : b.bytes < 2 ^ 31
  pend : b.pend < 2048
  init : b.init < 2048

theorem bitsOf_eq (x hi lo : Nat) : bitsOf x hi lo = x / 2 ^ lo % 2 ^ (hi + 1 - lo) := by
  rw [bitsOf, Nat.shiftRight_eq_div_pow]

theorem Parcel.barrier_inRange (p : Parcel) (off : Nat) : (p.barrier off).InRange := by
  have hbytes : bitsOf (Mem.nat p.spad off 16) 95 64 < 2 ^ 32 := Nat.mod_lt _ (by decide)
  constructor
  · show _ ≤ signedOf _ 32
    unfold signedOf
    split <;> omega
  · show signedOf _ 32 < _
    unfold signedOf
    split <;> omega
  · exact Nat.mod_lt _ (by decide)
  · exact Nat.mod_lt _ (by decide)

theorem Parcel.barrier_congr (h : q.spad = p.spad) (off : Nat) : q.barrier off = p.barrier off := by
  unfold Parcel.barrier
  rw [h]

/-- The number that the fields of a barrier object make, and each field of it. -/
theorem barrier_fields {e w f p i x : Nat} (he : e < 2 ^ 32) (hw : w < 2 ^ 32) (hf : f < 2 ^ 32) (hp : p < 2 ^ 11) (hi : i < 2 ^ 11)
    (hx : x < 2 ^ 10) :
    let v := e <<< 96 ||| w <<< 64 ||| f <<< 32 ||| p <<< 21 ||| i <<< 10 ||| x
    v < 2 ^ 128 ∧ bitsOf v 127 96 = e ∧ bitsOf v 95 64 = w ∧ bitsOf v 63 32 = f ∧ bitsOf v 31 21 = p ∧ bitsOf v 20 10 = i := by
  have h1 : i <<< 10 ||| x = i * 2 ^ 10 + x := shiftLeft_lor_of_lt hx
  have h2 : p <<< 21 ||| (i * 2 ^ 10 + x) = p * 2 ^ 21 + (i * 2 ^ 10 + x) := shiftLeft_lor_of_lt (by omega)
  have h3 : f <<< 32 ||| (p * 2 ^ 21 + (i * 2 ^ 10 + x)) = f * 2 ^ 32 + (p * 2 ^ 21 + (i * 2 ^ 10 + x)) := shiftLeft_lor_of_lt (by omega)
  have h4 : w <<< 64 ||| (f * 2 ^ 32 + (p * 2 ^ 21 + (i * 2 ^ 10 + x))) = w * 2 ^ 64 + (f * 2 ^ 32 + (p * 2 ^ 21 + (i * 2 ^ 10 + x))) :=
    shiftLeft_lor_of_lt (by omega)
  have h5 : e <<< 96 ||| (w * 2 ^ 64 + (f * 2 ^ 32 + (p * 2 ^ 21 + (i * 2 ^ 10 + x)))) =
      e * 2 ^ 96 + (w * 2 ^ 64 + (f * 2 ^ 32 + (p * 2 ^ 21 + (i * 2 ^ 10 + x)))) := shiftLeft_lor_of_lt (by omega)
  intro v
  have hv : v = e * 2 ^ 96 + (w * 2 ^ 64 + (f * 2 ^ 32 + (p * 2 ^ 21 + (i * 2 ^ 10 + x)))) := by
    simp only [v, Nat.lor_assoc, h1, h2, h3, h4, h5]
  rw [hv]
  simp only [bitsOf_eq]
  refine ⟨?_, ?_, ?_, ?_, ?_, ?_⟩ <;> omega

/-- A barrier object reads back as it was written. -/
theorem Parcel.barrier_setBarrier (h : b.InRange) : (p.setBarrier off b).barrier off = b := by
  obtain ⟨err, bytes, phase, pend, init⟩ := b
  obtain ⟨hlow, hhigh, hpend, hinit⟩ := h
  simp only at hlow hhigh hpend hinit
  have hwrap : wrapInt bytes 32 < 2 ^ 32 := wrapInt_lt bytes 32
  have hbytes : signedOf (wrapInt bytes 32) 32 = bytes := by
    unfold signedOf wrapInt
    split <;> omega
  obtain ⟨hlt, h1, h2, h3, h4, h5⟩ := barrier_fields (x := Mem.nat p.spad off 2 % 1024) err.isLt hwrap phase.isLt hpend
    hinit (Nat.mod_lt _ (by decide))
  unfold Parcel.barrier Parcel.setBarrier
  simp only [Mem.nat_setNat_same, Nat.mod_eq_of_lt hpend, Nat.mod_eq_of_lt hinit]
  rw [Nat.mod_eq_of_lt (a := _ ||| _) (b := 256 ^ 16) hlt, h1, h2, h3, h4, h5, hbytes]
  simp

theorem Parcel.byte_setBarrier_outside {a : Nat} (h : a < off ∨ off + 16 ≤ a) :
    Mem.byte (p.setBarrier off b).spad a = Mem.byte p.spad a := Mem.byte_setNat_outside h

/-! ### A count (R201) -/

/-- The barrier object after a count, before the test of its phase. -/
def Barrier.minus (b : Barrier) (n : Nat) (err : Word) : Barrier :=
  if err != 0 then { b with bytes := max (-(2 ^ 31 : Nat)) (b.bytes - n), err := if b.err = 0 then err else b.err }
  else if b.bytes - n < -(2 ^ 31 : Nat) then { b with bytes := -(2 ^ 31 : Nat), err := if b.err = 0 then 0x100 else b.err }
  else { b with bytes := b.bytes - n }

theorem Barrier.InRange.minus (h : b.InRange) (n : Nat) (err : Word) : (b.minus n err).InRange := by
  obtain ⟨hlow, hhigh, hpend, hinit⟩ := h
  unfold Barrier.minus
  split
  · exact ⟨by simp only; omega, by simp only; omega, hpend, hinit⟩
  · split <;> exact ⟨by simp only; omega, by simp only; omega, hpend, hinit⟩

theorem Barrier.InRange.test (h : b.InRange) : b.test.1.InRange := by
  obtain ⟨hlow, hhigh, hpend, hinit⟩ := h
  unfold Barrier.test
  split
  · exact ⟨hlow, hhigh, hinit, hinit⟩
  · exact ⟨hlow, hhigh, hpend, hinit⟩

theorem Barrier.minus_test (b : Barrier) (n : Nat) : (b.minus n 0).test.1 = Claims.counted b n 0 := by
  have tested (c : Barrier) : c.test.1 = Claims.tested c := by
    unfold Barrier.test Claims.tested
    simp only [Bool.and_eq_true, decide_eq_true_eq, beq_iff_eq, and_assoc]
    split <;> rfl
  rw [tested]
  unfold Claims.counted Barrier.minus
  dsimp only
  split
  · contradiction
  · split <;> rename_i hlow
    · rw [max_eq_left hlow.le]
      simp
    · rw [max_eq_right (not_lt.mp hlow), ite_self, show (if b.err = 0 then 0 else b.err) = b.err from ite_eq_right_iff.mpr Eq.symm]

/-- An engine store of a granule changes records alone. -/
theorem Parcel.noteEngine_eq (p : Parcel) (off n : Nat) : ∃ recs, p.noteEngine off n = { p with recs } := by
  unfold Parcel.noteEngine
  split
  · exact ⟨_, rfl⟩
  · refine List.foldlRecOn (motive := fun q : Parcel => ∃ recs, q = { p with recs }) _ _ ⟨_, rfl⟩ ?_
    rintro q ⟨recs, rfl⟩ i -
    exact ⟨_, rfl⟩

/-! ### Replay entries (R420, R421) -/

namespace State.KeepsWork

theorem plainError {ctx obj a n code : Nat} : s.KeepsWork (s.plainError ctx obj a n code k) := by
  unfold State.plainError
  split
  · exact (of_cores_eq rfl rfl rfl : s.KeepsWork s.fresh.2).trans (of_records .faultRecord)
  · exact refl s

theorem devCheck {a n : Nat} : s.KeepsWork (s.devCheck k a n).1 := (of_records .verifyAll).trans plainError

theorem debugRead {ctx : Nat} : s.KeepsWork (s.debugRead ctx).1 := by
  unfold State.debugRead
  split
  · exact refl s
  · split <;> rename_i hcheck <;> exact devCheck.fst_of_eq hcheck

theorem setDev {a n v : Nat} : s.KeepsWork (s.setDev a n v) := of_records .setDev

theorem replayLog {c : BitVec 512} {obj phase sum : Nat} {con : Bool} : s.KeepsWork (s.replayLog c k obj phase sum con) := by
  unfold State.replayLog
  extract_lets mode rbuf i v same hit good
  split
  · split
    · exact setDev.trans setDev
    · exact setDev
  · split
    · split
      · exact refl s
      · exact (of_cores_eq rfl rfl rfl : s.KeepsWork (s.modCtx k.ctx _)).trans (of_records .faultRecord)
    · exact refl s

theorem replayEntry {obj phase sum : Nat} {con : Bool} : s.KeepsWork (s.replayEntry k obj phase sum con) := by
  unfold State.replayEntry
  rcases hdebug : s.debugRead k.ctx with ⟨w, c⟩
  have hread : s.KeepsWork w := debugRead.fst_of_eq hdebug
  dsimp only
  generalize (if dbgOk c = true then dbgField c 341 340 else 0) = mode
  split
  · exact hread
  · split <;> rename_i hcheck
    · exact hread.trans ((devCheck.fst_of_eq hcheck).trans replayLog)
    · exact hread.trans (devCheck.fst_of_eq hcheck)

end State.KeepsWork

/-! ### The parcels after a count -/

/-- A parcel with a barrier object written and, where its phase has completed, the sum of that phase cleared. -/
def Parcel.withBarrier (p : Parcel) (off : Nat) (x : Barrier × Bool) : Parcel :=
  let q := p.setBarrier off x.1
  if x.2 then { q with phaseSums := Tbl.put 0 q.phaseSums off 0 } else q

theorem Parcel.withBarrier_eq (p : Parcel) (off : Nat) (x : Barrier × Bool) :
    ∃ phaseSums, p.withBarrier off x = { p with phaseSums, spad := (p.setBarrier off x.1).spad } := by
  unfold Parcel.withBarrier
  dsimp only
  split <;> exact ⟨_, rfl⟩

theorem State.putBarrier_keepsWork : (s.modParcel k (fun p => p.withBarrier off b.test)).KeepsWork (s.putBarrier k off b) := by
  unfold State.putBarrier
  rcases b.test with ⟨b', completed⟩
  cases completed
  · exact .refl _
  · exact .replayEntry

theorem State.countBytes_keepsWork (hp : s.parcel? k = some p) :
    ((s.modParcel k fun q => q.noteEngine off 16).modParcel k fun q => q.withBarrier off ((p.barrier off).minus n err).test).KeepsWork
      (s.countBytes k off n err) := by
  unfold State.countBytes
  rw [hp]
  exact State.putBarrier_keepsWork

/-- What a count has done to its parcel: the barrier, the record of its granule and the sums of its phases differ, no more. -/
theorem State.countBytes_parcel? (hp : s.parcel? k = some p) : ∃ recs phaseSums, (s.countBytes k off n err).parcel? k =
    some { p with recs, phaseSums, spad := (p.setBarrier off ((p.barrier off).minus n err).test.1).spad } := by
  have hnote (q : Parcel) : (q.noteEngine off 16).key = q.key := by
    obtain ⟨_, h⟩ := q.noteEngine_eq off 16
    rw [h]
  have hput (q : Parcel) : (q.withBarrier off ((p.barrier off).minus n err).test).key = q.key := by
    obtain ⟨_, h⟩ := q.withBarrier_eq off ((p.barrier off).minus n err).test
    rw [h]
  rw [(State.countBytes_keepsWork hp).parcel?_eq, State.parcel?_modParcel hput, State.parcel?_modParcel hnote, hp]
  obtain ⟨recs, hrecs⟩ := p.noteEngine_eq off 16
  obtain ⟨phaseSums, hsums⟩ := (p.noteEngine off 16).withBarrier_eq off ((p.barrier off).minus n err).test
  refine ⟨recs, phaseSums, congrArg some (hsums.trans ?_)⟩
  rw [hrecs]
  rfl

theorem State.countBytes_core (hp : s.parcel? k = some p) (m : Nat) :
    { (s.countBytes k off n err).core m with opdReads := [] } = { s.core m with opdReads := [] } :=
  (State.countBytes_keepsWork hp).cores m

end Sys2Proof.Machine
end

section
/-!
# A matrix request ends (R206, R227, R228, R232, R250, R256, R414)

A request that completes or fails leaves matrix order, its bytes are counted, its timeline has its number and its thread one operation
less outstanding (`State.finishMatrix`); the reservations it held up are freed, and the core's waits re-evaluated.
-/

namespace Sys2Proof.Machine

variable {s u : State} {core : Nat} {k : PKey} {p : Parcel} {r : MatrixReq} {rest : List MatrixReq} {t : Thread}

/-! ### Deferred frees (R250) -/

/-- Of a parcel only reservations go. -/
theorem State.reap_parcel? (h : s.parcel? k = some p) : ∃ resv, (s.reap core).parcel? k = some { p with resv } := by
  unfold State.reap State.parcel?
  dsimp only
  rw [find?_map_key (by exact fun _ => rfl)]
  exact ⟨_, congrArg (Option.map _) h⟩

theorem State.reap_thread? {x : Nat} (h : s.thread? k x = some t) : (s.reap core).thread? k x = some t := by
  obtain ⟨p, hp, ht⟩ := State.thread?_parcel h
  obtain ⟨resv, hr⟩ := State.reap_parcel? (core := core) hp
  exact (State.thread?_eq hr _).trans ht

/-- Of a core only the notes of what is freed change. -/
theorem State.reap_core (n : Nat) : ∃ freed, (s.reap core).core n = { s.core n with freed } := by
  unfold State.reap
  extract_lets gone t
  show ∃ freed, t.core n = _
  refine List.foldlRecOn (motive := fun x : State => ∃ freed, x.core n = { s.core n with freed }) _ _ ⟨_, rfl⟩ ?_
  rintro x ⟨freed, hx⟩ q -
  unfold State.noteFreed
  by_cases h : n = q.core
  · subst h
    rw [State.core_modCore_same, hx]
    exact ⟨_, rfl⟩
  · rw [State.core_modCore_other h]
    exact ⟨_, hx⟩

/-! ### What a core has left to do in matrix order -/

/-- No request runs, `rest` is the order that is left, and timeline 5 is `tl`. -/
structure State.OrderIs (s : State) (core : Nat) (rest : List MatrixReq) (tl : Timeline) : Prop where
  matrix : (s.core core).matrix = rest
  run : (s.core core).run = none
  timeline : (s.core core).timeline 5 = tl

namespace State.OrderIs
variable {tl : Timeline}

theorem of_core {n : Nat} {c : Core} (h : s.OrderIs n rest tl) (hc : u.core n = c) (hm : c.matrix = (s.core n).matrix)
    (hr : c.run = (s.core n).run) (ht : c.timelines = (s.core n).timelines) : u.OrderIs n rest tl where
  matrix := by rw [hc, hm, h.matrix]
  run := by rw [hc, hr, h.run]
  timeline := by rw [← h.timeline, hc, Core.timeline, ht, Core.timeline]

theorem reap (h : s.OrderIs core rest tl) : (s.reap core).OrderIs core rest tl := by
  obtain ⟨freed, hc⟩ := State.reap_core (s := s) (core := core) core
  exact h.of_core hc rfl rfl rfl

theorem refresh (h : s.OrderIs core rest tl) : (s.refresh core).OrderIs core rest tl := by
  obtain ⟨es, hc⟩ := State.refresh_core (s := s) (core := core) core
  exact h.of_core hc rfl rfl rfl

/-- The notes of operand reads have no part in it. -/
theorem of_reads (h : s.OrderIs core rest tl) (hc : { u.core core with opdReads := [] } = { s.core core with opdReads := [] }) :
    u.OrderIs core rest tl :=
  h.of_core rfl (by have := congrArg Core.matrix hc; exact this) (by have := congrArg Core.run hc; exact this)
    (by have := congrArg Core.timelines hc; exact this)

end State.OrderIs

/-! ### The end of a request -/

/-- A request ends on its timeline, as `f` says, and for its thread; frees that it held up take effect and waits are re-evaluated. -/
def State.finishMatrix (s : State) (core : Nat) (r : MatrixReq) (f : Timeline → Timeline) : State :=
  (((s.modCore core fun c => c.modTimeline 5 f).modThread r.key r.tix fun t => t.dec .matrix).reap core).refresh core

theorem State.finishMatrix_order {tl : Timeline} {f : Timeline → Timeline} (h : s.OrderIs core rest tl) :
    (s.finishMatrix core r f).OrderIs core rest (f tl) := by
  refine State.OrderIs.refresh (State.OrderIs.reap ?_)
  have hc : ((s.modCore core fun c => c.modTimeline 5 f).modThread r.key r.tix fun t => t.dec .matrix).core core =
      (s.core core).modTimeline 5 f := State.core_modCore_same (f := fun c => c.modTimeline 5 f)
  exact ⟨by rw [hc]; exact h.matrix, by rw [hc]; exact h.run, by rw [hc, Core.timeline_modTimeline_same, h.timeline]⟩

theorem State.finishMatrix_thread? {f : Timeline → Timeline} (h : s.thread? r.key r.tix = some t) :
    ∃ t', (s.finishMatrix core r f).thread? r.key r.tix = some t' ∧ t'.counts = t.counts.upd .matrix (· - 1) := by
  have hdec : ((s.modCore core fun c => c.modTimeline 5 f).modThread r.key r.tix fun t => t.dec .matrix).thread? r.key r.tix =
      some (t.dec .matrix) :=
    (State.thread?_modThread (f := fun t => t.dec .matrix) fun _ hu => hu).trans (congrArg (Option.map fun t => t.dec .matrix) h)
  obtain ⟨t', ht', hsame⟩ := State.refresh_sameData (core := core) (State.reap_thread? (core := core) hdec)
  exact ⟨t', ht', hsame.counts⟩

theorem State.finishMatrix_parcel? {f : Timeline → Timeline} (h : s.parcel? r.key = some p) :
    ∃ p', (s.finishMatrix core r f).parcel? r.key = some p' ∧ p'.spad = p.spad ∧ p'.acc = p.acc := by
  have hdec : ((s.modCore core fun c => c.modTimeline 5 f).modThread r.key r.tix fun t => t.dec .matrix).parcel? r.key =
      some (p.modThread r.tix fun t => t.dec .matrix) :=
    State.parcel?_modThread.trans (congrArg (Option.map _) h)
  obtain ⟨resv, hreap⟩ := State.reap_parcel? (core := core) hdec
  obtain ⟨p', hp', hacc, -, hspad, -⟩ := State.refresh_stores (core := core) hreap
  exact ⟨p', hp', hspad, hacc⟩

/-- The first request has left the order. -/
theorem State.popMatrix_order (h : (s.core core).matrix = r :: rest) :
    (s.popMatrix core).OrderIs core rest ((s.core core).timeline 5) := by
  have hc : (s.popMatrix core).core core = { s.core core with matrix := (s.core core).matrix.drop 1, run := none } :=
    State.core_modCore_same
  exact ⟨by rw [hc, h]; rfl, by rw [hc], by rw [hc]; rfl⟩

/-! ### Its bytes are counted -/

/-- Bytes counted at a barrier, if the request has one. -/
def State.countAt (s : State) (k : PKey) (bar : Option Nat) (n : Nat) (code : Word) : State :=
  match bar with
  | some b => s.countBytes k b n code
  | none => s

/-- A count leaves the threads alone, the core of its parcel, and what the cores have to do. -/
theorem State.countAt_kept {bar : Option Nat} {n : Nat} {code : Word} (hp : s.parcel? k = some p) :
    (∃ q, (s.countAt k bar n code).parcel? k = some q ∧ q.threads = p.threads ∧ q.core = p.core) ∧
      ∀ m, { (s.countAt k bar n code).core m with opdReads := [] } = { s.core m with opdReads := [] } := by
  cases bar with
  | none => exact ⟨⟨p, hp, rfl, rfl⟩, fun _ => rfl⟩
  | some b =>
    obtain ⟨recs, phaseSums, hq⟩ := State.countBytes_parcel? (off := b) (n := n) (err := code) hp
    exact ⟨⟨_, hq, rfl, rfl⟩, State.countBytes_core hp⟩

theorem State.countAt_thread? {bar : Option Nat} {n x : Nat} {code : Word} (ht : s.thread? k x = some t) :
    (s.countAt k bar n code).thread? k x = some t := by
  obtain ⟨p, hp, ht⟩ := State.thread?_parcel ht
  obtain ⟨⟨q, hq, hthreads, -⟩, -⟩ := State.countAt_kept (bar := bar) (n := n) (code := code) hp
  rw [State.thread?_eq hq, Parcel.thread?, hthreads]
  exact ht

theorem State.coreOf_eq (hp : s.parcel? k = some p) : s.coreOf k = p.core := by
  unfold State.coreOf
  rw [hp]

/-! ### Failure and completion (R228, R232, R257) -/

/-- The first request fails: its bytes are counted with the code once it has left the order. -/
theorem State.failMatrix_refresh (hcore : s.coreOf r.key = core) (code : Nat) : (s.failMatrix core r code).refresh core =
    ((s.popMatrix core).countAt r.key r.bar (s.matrixBytes r) (BitVec.ofNat 32 code)).finishMatrix core r
      (fun t => t.fail r.num r.restored (BitVec.ofNat 32 code)) := by
  unfold State.failMatrix State.fail State.failOn State.finishMatrix
  rw [show (s.popMatrix core).coreOf r.key = core from hcore]
  rfl

/-- The first request completes: its bytes are counted, and it leaves the order. -/
theorem State.endMatrix_refresh (hcore : s.coreOf r.key = core) (hp : s.parcel? r.key = some p) : (s.endMatrix core r).refresh core =
    ((s.countAt r.key r.bar (s.matrixBytes r) 0).popMatrix core).finishMatrix core r (fun t => t.complete r.num r.restored) := by
  obtain ⟨⟨q, hq, -, hqcore⟩, -⟩ := State.countAt_kept (bar := r.bar) (n := s.matrixBytes r) (code := 0) hp
  have hcounted : ((s.countAt r.key r.bar (s.matrixBytes r) 0).popMatrix core).coreOf r.key = core :=
    (State.coreOf_eq hq).trans (hqcore.trans ((State.coreOf_eq hp).symm.trans hcore))
  show ((((s.countAt r.key r.bar (s.matrixBytes r) 0).popMatrix core).complete r.key r.tix 5 .matrix r.num r.restored).reap core).refresh
    core = _
  unfold State.complete State.completeOn State.finishMatrix
  rw [hcounted]

theorem Timeline.complete_running (tl : Timeline) (n : Nat) : n ∉ (tl.complete n false).running := by
  simp [Timeline.complete]

end Sys2Proof.Machine

namespace Sys2Proof.Claims
open Machine

variable {s : State} {core : Nat} {r : MatrixReq} {rest : List MatrixReq} {p : Parcel} {b : BitVec 512} {ca cb : QWord} {slot : Nat}

/-! ### ASSIST_TIMEOUT (R414) -/

theorem AwaitsBox.exec_timeout (h : AwaitsBox s core r rest) :
    exec (.assistTimeout core) s = .next ((s.failMatrix core r 0x48).refresh core) := by
  obtain ⟨horder, ⟨k, hrun⟩, -⟩ := h
  show execAssistTimeout core s = _
  unfold execAssistTimeout
  simp only [horder, hrun]

theorem assistTimeout_fails (h : AwaitsBox s core r rest) : HeadFails (.assistTimeout core) s core r rest 0x48 := by
  intro t ht
  have hpop : (s.popMatrix core).thread? r.key r.tix = some t := ht
  obtain ⟨p, hp, -⟩ := State.thread?_parcel hpop
  obtain ⟨-, hcores⟩ := State.countAt_kept (bar := r.bar) (n := s.matrixBytes r) (code := 0x48) hp
  have horder : ((s.popMatrix core).countAt r.key r.bar (s.matrixBytes r) 0x48).OrderIs core rest ((s.core core).timeline 5) :=
    (State.popMatrix_order h.order).of_reads (hcores core)
  have hend := State.finishMatrix_order (r := r) (f := fun t => t.fail r.num r.restored 0x48) horder
  obtain ⟨t', ht', hcounts⟩ := State.finishMatrix_thread? (r := r) (core := core) (f := fun t => t.fail r.num r.restored 0x48)
    (State.countAt_thread? hpop)
  refine ⟨_, t', h.exec_timeout.trans (congrArg _ (State.failMatrix_refresh h.home 0x48)), hend.matrix, hend.run, ?_, ?_, ht', hcounts⟩
  · exact congrArg Timeline.failN hend.timeline
  · exact congrArg Timeline.failC hend.timeline

/-! ### MATRIX_REQUEST_COMPLETE (R256) -/

theorem mma_exec_complete (horder : (s.core core).matrix = r :: rest) (hrun : ∃ k, (s.core core).run = some ⟨false, k⟩)
    (hop : r.op.mma? = some (b, ca, cb, slot)) (hsteps : mmaSteps b ≤ r.step) :
    exec (.matrixRequestComplete core) s = .next ((s.endMatrix core r).refresh core) := by
  obtain ⟨k, hrun⟩ := hrun
  have hdone : r.op.steps ≤ r.step := by
    rw [MatrixOp.steps, hop]
    exact hsteps
  show execMatrixRequestComplete core s = _
  simp [execMatrixRequestComplete, horder, hrun, hdone]

theorem mma_matrixBytes (hop : r.op.mma? = some (b, ca, cb, slot)) : s.matrixBytes r = mmaM b * mmaN b * (if mmaPair b then 8 else 4) := by
  unfold State.matrixBytes
  generalize r.op = o at hop
  cases o <;> cases hop <;> rfl

theorem mma_completes {bar : Nat} (horder : (s.core core).matrix = r :: rest) (hrun : ∃ k, (s.core core).run = some ⟨false, k⟩)
    (hcore : s.coreOf r.key = core) (hop : r.op.mma? = some (b, ca, cb, slot)) (hsteps : mmaSteps b ≤ r.step)
    (hp : s.parcel? r.key = some p) (hbar : r.bar = some bar) {t : Thread} (ht : s.thread? r.key r.tix = some t) :
    ∃ u p' t', exec (.matrixRequestComplete core) s = .next u ∧ (u.core core).matrix = rest ∧ (u.core core).run = none ∧
      u.parcel? r.key = some p' ∧ p'.barrier bar = counted (p.barrier bar) (mmaM b * mmaN b * (if mmaPair b then 8 else 4)) 0 ∧
      BytesOutside p p' bar 16 ∧ p'.acc = p.acc ∧ u.thread? r.key r.tix = some t' ∧
      t'.counts = t.counts.upd .matrix (· - 1) ∧ (r.restored = false → r.num ∉ ((u.core core).timeline 5).running) := by
  have hnext := (mma_exec_complete horder hrun hop hsteps).trans (congrArg _ (State.endMatrix_refresh hcore hp))
  rw [hbar, mma_matrixBytes hop] at hnext
  generalize mmaM b * mmaN b * (if mmaPair b then 8 else 4) = n at hnext ⊢
  obtain ⟨-, hcores⟩ := State.countAt_kept (bar := some bar) (n := n) (code := 0) hp
  have hmatrix : ((s.countAt r.key (some bar) n 0).core core).matrix = r :: rest := by
    rw [← horder]
    have := congrArg Core.matrix (hcores core)
    exact this
  have hend := State.finishMatrix_order (r := r) (f := fun t => t.complete r.num r.restored) (State.popMatrix_order hmatrix)
  obtain ⟨t', ht', hcounts⟩ := State.finishMatrix_thread? (r := r) (core := core) (f := fun t => t.complete r.num r.restored)
    (s := (s.countAt r.key (some bar) n 0).popMatrix core) (State.countAt_thread? ht)
  obtain ⟨recs, phaseSums, hq⟩ := State.countBytes_parcel? (off := bar) (n := n) (err := 0) hp
  obtain ⟨p', hp', hspad, hacc⟩ := State.finishMatrix_parcel? (r := r) (core := core) (f := fun t => t.complete r.num r.restored)
    (s := (s.countAt r.key (some bar) n 0).popMatrix core) hq
  refine ⟨_, p', t', hnext, hend.matrix, hend.run, hp', ?_, fun a ha => ?_, hacc, ht', hcounts, fun hnew => ?_⟩
  · rw [Parcel.barrier_congr hspad, ← Barrier.minus_test]
    exact Parcel.barrier_setBarrier ((p.barrier_inRange bar).minus n 0).test
  · rw [hspad]
    exact Parcel.byte_setBarrier_outside ha
  · rw [hend.timeline, hnew]
    exact Timeline.complete_running _ _

/-- Settles O20: a step is a run over the elements of its tile (`steppedTile_steps`), with its operands read (`StepReady.read`); a request
ends by `State.finishMatrix`, whose count is read back from its barrier (`Parcel.barrier_setBarrier`). -/
theorem matrixStepsAccumulateAndComplete : Obligations.MatrixStepsAccumulateAndComplete := by
  refine ⟨fun s core r r' rest p b ca cb slot wa wb k s1 h => ⟨groupStep_steps h, groupStep_waits h⟩, ?_,
    fun _ _ _ _ h => assistTimeout_fails h, ?_⟩
  · intro s core r rest p b ca cb slot h hp hop ka va kb vb ha hb hm hn hplaces
    exact subnormalAssist_steps h hp hop ha hb ⟨hm, hn⟩ hplaces
  · intro s core r rest p b ca cb slot bar horder hrun hcore hop hsteps hp hbar t ht
    exact mma_completes horder hrun hcore hop hsteps hp hbar ht

end Sys2Proof.Claims
end
